-- ==== Sys2Proof/Word.lean ====
section
/-! DEFINITION. Words, bytes and lane masks (R2, R32, Table 7 of the execution model). -/

namespace Sys2Proof

/-- A 32-bit register value. -/
abbrev Word := BitVec 32

/-- One byte of any memory. -/
abbrev Byte := BitVec 8

/-- A 64-bit value: a register pair, a lane mask, a command word. -/
abbrev DWord := BitVec 64

/-- One bit per lane of a warp, bit `l` for lane `l` (R31). -/
abbrev LaneMask := BitVec 64

/-- The 64 lanes of one vector register, lane 0 first. -/
abbrev Lanes := List Word

end Sys2Proof
end

