-- ==== Sys2Proof/Syntax/Operand.lean ====
section
/-! DEFINITION. Operand forms and codes of the Askunak instruction set (R58 to R64), and the names
of agents that the internal events of the opcode table act on. -/

namespace Sys2Proof

/-- Type codes (R59, Table 6). Code 15 is reserved and has no constructor. -/
inductive Ty where
  | n8 | n16 | n32 | n64 | s8 | s16 | s32 | s64
  | f32 | bf16 | f16 | e5m2 | e4m3 | e3m4 | e2m1
deriving DecidableEq, Repr

/-- Rounding modes (R88). -/
inductive Rm where
  | rn | rz | rd | ru
deriving DecidableEq, Repr

/-- Scopes (R8, R20). -/
inductive Scope where
  | wp | wg | cg | dg | dv | dm
deriving DecidableEq, Repr

/-- Memory orders of strong accesses and fences (Table 7). -/
inductive Order where
  | rlx | acq | rel | ar | sc
deriving DecidableEq, Repr

/-- Cache hints (Table 7, R61). -/
inductive Hint where
  | normal | stream | keep | bypass
deriving DecidableEq, Repr

/-- Access sizes: 1, 2, 4, 8 and 16 bytes (Table 7). -/
inductive Size where
  | b1 | b2 | b4 | b8 | b16
deriving DecidableEq, Repr

/-- The bytes of a size. -/
def Size.bytes : Size → Nat
  | .b1 => 1 | .b2 => 2 | .b4 => 4 | .b8 => 8 | .b16 => 16

/-- The marker of a vector source: none, last-read or reuse. Both bits set is no encoding (R68). -/
inductive Marker where
  | none | last | reuse
deriving DecidableEq, Repr

/-- A source operand: a vector register with its marker, a uniform register, or an immediate. -/
inductive Src where
  | v (r : BitVec 8) (m : Marker)
  | s (r : BitVec 6)
  | imm (w : Word)
deriving DecidableEq, Repr

/-- A destination register. -/
inductive Dst where
  | v (r : BitVec 8)
  | s (r : BitVec 6)
deriving DecidableEq, Repr

/-- A predicate: p0-p7 per lane, or k0-k3 per warp (Table 9). -/
inductive PReg where
  | p (r : BitVec 3)
  | k (r : BitVec 2)
deriving DecidableEq, Repr

/-- Operands of opcodes 0x10-0x2F: switch marker, type, saturation, destination and three sources.
A source the instruction does not name is `.imm 0`. The uniform form (U = 1) is the one whose
destination is a uniform register. -/
structure Alu where
  sw  : Bool
  ty  : Ty
  sat : Bool
  d   : Dst
  a   : Src
  b   : Src
  c   : Src
deriving DecidableEq, Repr

/-- Operands of the floating-point instructions with source modifiers (R130). -/
structure FOp where
  sw : Bool
  ty : Ty
  rm : Rm
  na : Bool
  nb : Bool
  nc : Bool
  aa : Bool
  ab : Bool
  ac : Bool
  d  : Dst
  a  : Src
  b  : Src
  c  : Src
deriving DecidableEq, Repr

/-- Operands of the one-source floating-point instructions and conversions: destination type,
source type, rounding and saturation. -/
structure Cv where
  sw  : Bool
  td  : Ty
  ts  : Ty
  rm  : Rm
  sat : Bool
  d   : Dst
  a   : Src
  b   : Src
deriving DecidableEq, Repr

/-- Integer comparisons (R114, Table 3). -/
inductive Cmp where
  | eq | ne | lt | le | gt | ge
deriving DecidableEq, Repr

/-- Floating-point comparisons (R133, Table 2). -/
inductive FCmp where
  | eq | ne | lt | le | gt | ge | num | nan | equ | neu | ltu | leu | gtu | geu
deriving DecidableEq, Repr

/-- How a comparison combines with a second predicate (R114, R133). -/
inductive Comb where
  | none | and | or | xor
deriving DecidableEq, Repr

/-- Operations of REDUX and SCAN (R149). -/
inductive RedOp where
  | add | min | max | and | or | xor
deriving DecidableEq, Repr

/-- Lane patterns of SHFL (R147). -/
inductive ShflMode where
  | idx | up | down | xor
deriving DecidableEq, Repr

/-- Modes of VOTE (R148). -/
inductive VoteMode where
  | all | any | uni
deriving DecidableEq, Repr

/-- Operations of atomics (R220, Table 3 of the memory instructions). -/
inductive AtomOp where
  | add | min | max | and | or | xor | exch | inc | dec
deriving DecidableEq, Repr

/-- Order and scope of an access: weak, or strong with both (R60, R237). -/
inductive Strength where
  | weak
  | strong (o : Order) (sc : Scope)
deriving DecidableEq, Repr

/-- The address operand of an M-format access: a register with its offset (R211). -/
structure Addr where
  base : Src
  off  : Word
deriving DecidableEq, Repr

/-- The spaces of Table 7. -/
inductive Space where
  | gl | sp | pv
deriving DecidableEq, Repr

/-- Operands of loads and stores (R217). -/
structure MemOp where
  sw   : Bool
  sp   : Space
  size : Size
  sext : Bool
  str  : Strength
  hint : Hint
  d    : Dst
  adr  : Addr
deriving DecidableEq, Repr

/-- Operands of atomics, CAS and RED (R220): `ty` and `op` are unused by CAS and CASS, whose
canonical values are `.n32`/`.n64` and `.exch`. -/
structure AtomI where
  sw  : Bool
  ty  : Ty
  op  : AtomOp
  o   : Order
  sc  : Scope
  d   : BitVec 8
  adr : Addr
  b   : Src
  c   : Src
deriving DecidableEq, Repr

/-- Operations of CCTL (R230). -/
inductive CctlOp where
  | ib | wb | inv | wball | invall
deriving DecidableEq, Repr

/-- Residency classes (R231, R353). -/
inductive Resi where
  | pin | keep | normal | stream
deriving DecidableEq, Repr

/-- The three forms of VINV (R232). -/
inductive VinvArg where
  | reg (r : BitVec 6)
  | id (i : BitVec 16)
  | all
deriving DecidableEq, Repr

/-- Counter classes of WAITCNT (R294). -/
inductive CntClass where
  | load | store | mat | copy | chan | conv
deriving DecidableEq, Repr

/-- Modes of TMMA and TMMAS (R153). -/
inductive MmaMode where
  | acc | zero | scale
deriving DecidableEq, Repr

/-- Sparsity of WBLD (R153). -/
inductive Sparse where
  | dense | sp2 | sp4 | sp8
deriving DecidableEq, Repr

/-- A barrier operand: global or scratchpad space, address register, offset (R328). -/
structure BarAddr where
  gl  : Bool
  a   : BitVec 6
  off : Word
deriving DecidableEq, Repr

/-- A workgroup's name: device, admitted-launch entry, linear index (R26). -/
structure WgId where
  dev    : Nat
  launch : Nat
  index  : Nat
deriving DecidableEq, Repr

/-- A warp's name: its workgroup and its index in it (R28). -/
structure WarpId where
  wg   : WgId
  warp : Nat
deriving DecidableEq, Repr

/-- A management command (R391): the device whose mailbox it is written to, the tag, the reserved half
of word 0 and words 1 to 7; `fw` marks one that the firmware issues itself (R343), outside the mailbox. -/
structure Cmd where
  dev : Nat
  tag : BitVec 16
  hi  : BitVec 32
  w1  : DWord
  w2  : DWord
  w3  : DWord
  w4  : DWord
  w5  : DWord
  w6  : DWord
  w7  : DWord
  fw  : Bool := false
deriving DecidableEq, Repr

/-- The firmware's placement of one cluster group (R305): die, cluster, for each workgroup its core position and quadrant, and the
cluster group that a Restore record binds (R362), none for the next one to be placed. -/
structure Placing where
  die     : Nat
  cluster : Nat
  cores   : List (BitVec 2)
  quads   : List (BitVec 2)
  restore : Option Nat
deriving DecidableEq, Repr

/-- A cluster group under pre-emption: device, admitted-launch entry, cluster-group index (R358). -/
structure CgId where
  dev    : Nat
  launch : Nat
  cg     : Nat
deriving DecidableEq, Repr

/-- Link classes (R388, Table 9). -/
inductive LinkClass where
  | hbm | d2d | device
deriving DecidableEq, Repr

/-- The reservation queues of R337, Table 6. -/
inductive TicketRes where
  | monitor | posted | chain (slice : Nat)
deriving DecidableEq, Repr

end Sys2Proof
end

