-- ==== Sys2Proof/Syntax.lean ====
section
/-! DEFINITION. The instruction type: one constructor for each row of spec/opcode_table.json.
The first 133 are the Askunak instructions (R71, Table 13); the rest are the management commands, host accesses and
internal events of the device, and the row of the unlisted opcodes (R72). -/

namespace Sys2Proof

/-- One row of the opcode table. -/
inductive Instr where
  /-- NOP (R319). -/
  | nop (sw : Bool)
  /-- BRA (R316; `cond` is the k predicate of a conditional branch). -/
  | bra (sw : Bool) (cond : Option (BitVec 2)) (inv : Bool) (off : Word)
  /-- BRX (R316). -/
  | brx (sw : Bool) (a : BitVec 6)
  /-- BRD (R317). -/
  | brd (sw : Bool) (q : PReg) (inv : Bool) (rejoin : BitVec 14) (off : Word)
  /-- JOIN (R318). -/
  | join (sw : Bool)
  /-- CALL (R316). -/
  | call (sw : Bool) (d : BitVec 6) (off : Word)
  /-- RET (R316). -/
  | ret (sw : Bool) (a : BitVec 6)
  /-- EXIT (R318). -/
  | exit (sw : Bool)
  /-- PRED (R69). -/
  | pred (sw : Bool) (q : PReg) (inv : Bool) (m e : BitVec 4)
  /-- YIELD (R319). -/
  | yield (sw : Bool)
  /-- LAUNCH (R320; the record is s(16 grp) to s(16 grp + 15)). -/
  | launch (sw : Bool) (grp : BitVec 2)
  /-- IADD (R108). -/
  | iadd (o : Alu)
  /-- IADD3 (R108). -/
  | iadd3 (o : Alu) (negc : Bool)
  /-- IADDC (R109; `q` carry-out, `cin` carry-in). -/
  | iaddc (o : Alu) (sub : Bool) (q : PReg) (cin : Option PReg)
  /-- ISUB (R108). -/
  | isub (o : Alu)
  /-- INEG (R108). -/
  | ineg (o : Alu)
  /-- IABS (R108). -/
  | iabs (o : Alu)
  /-- IMUL (R110). -/
  | imul (o : Alu)
  /-- IMULHI (R110). -/
  | imulhi (o : Alu)
  /-- IMAD (R110). -/
  | imad (o : Alu)
  /-- IMAD64 (R110). -/
  | imad64 (o : Alu)
  /-- IMIN (R113). -/
  | imin (o : Alu)
  /-- IMAX (R113). -/
  | imax (o : Alu)
  /-- ISAD (R111). -/
  | isad (o : Alu)
  /-- ICMP (R114; `o.d` is the canonical destination of the pipe). -/
  | icmp (o : Alu) (cmp : Cmp) (comb : Comb) (inv : Bool) (q : PReg) (c : PReg)
  /-- PICK (R115). -/
  | pick (o : Alu) (inv : Bool) (c : PReg)
  /-- PLOG (R116). -/
  | plog (sw : Bool) (d a b c : PReg) (table : Byte)
  /-- SHL (R117). -/
  | shl (o : Alu)
  /-- SHR (R117). -/
  | shr (o : Alu)
  /-- SAR (R117). -/
  | sar (o : Alu)
  /-- SHF (R118). -/
  | shf (o : Alu) (right clamp : Bool)
  /-- LOGT (R119). -/
  | logt (o : Alu) (table : Byte)
  /-- POPC (R120). -/
  | popc (o : Alu)
  /-- CLZ (R120). -/
  | clz (o : Alu)
  /-- BREV (R120). -/
  | brev (o : Alu)
  /-- BFE (R121). -/
  | bfe (o : Alu)
  /-- BFI (R122). -/
  | bfi (o : Alu)
  /-- BSEL (R123). -/
  | bsel (o : Alu)
  /-- LEA (R124). -/
  | lea (o : Alu) (sh : BitVec 5)
  /-- LEA64 (R124). -/
  | lea64 (o : Alu) (sh : BitVec 5)
  /-- IDP4 (R112; `bs` reads b signed). -/
  | idp4 (o : Alu) (bs : Bool)
  /-- IDP2 (R112). -/
  | idp2 (o : Alu) (bs : Bool)
  /-- MOV (R125). -/
  | mov (o : Alu)
  /-- MOVI (R125). -/
  | movi (sw : Bool) (d : Dst) (w : Word)
  /-- P2V (R126). -/
  | p2v (sw : Bool) (d : BitVec 8)
  /-- V2P (R126). -/
  | v2p (sw : Bool) (a : BitVec 8) (m : Marker) (mask : Byte)
  /-- FADD (R131). -/
  | fadd (o : FOp)
  /-- FMUL (R131). -/
  | fmul (o : FOp)
  /-- FFMA (R131). -/
  | ffma (o : FOp)
  /-- FMIN (R132). -/
  | fmin (o : FOp) (nan : Bool)
  /-- FMAX (R132). -/
  | fmax (o : FOp) (nan : Bool)
  /-- FCMP (R133). -/
  | fcmp (o : FOp) (cmp : FCmp) (comb : Comb) (q : PReg) (c : PReg)
  /-- FRND (R134). -/
  | frnd (o : FOp)
  /-- FCLASS (R135). -/
  | fclass (o : FOp)
  /-- FDP2 (R136). -/
  | fdp2 (o : FOp)
  /-- HADD2 (R137). -/
  | hadd2 (o : FOp)
  /-- HMUL2 (R137). -/
  | hmul2 (o : FOp)
  /-- HFMA2 (R137). -/
  | hfma2 (o : FOp)
  /-- HMIN2 (R137). -/
  | hmin2 (o : FOp) (nan : Bool)
  /-- HMAX2 (R137). -/
  | hmax2 (o : FOp) (nan : Bool)
  /-- FRCP (R138). -/
  | frcp (o : FOp)
  /-- FRSQ (R138). -/
  | frsq (o : FOp)
  /-- FSQRT (R138). -/
  | fsqrt (o : FOp)
  /-- FEX2 (R138). -/
  | fex2 (o : FOp)
  /-- FLG2 (R138). -/
  | flg2 (o : FOp)
  /-- FSIN (R138). -/
  | fsin (o : FOp)
  /-- FCOS (R138). -/
  | fcos (o : FOp)
  /-- FTANH (R138). -/
  | ftanh (o : FOp)
  /-- CVT (R139). -/
  | cvt (o : Cv)
  /-- CVTP (R140). -/
  | cvtp (o : Cv)
  /-- CVT8 (R141). -/
  | cvt8 (o : Cv)
  /-- QBLK (R142, R143, R144; the target format is `o.td`). -/
  | qblk (o : Cv) (pow2 spc : Bool)
  /-- DQBLK (R145; the element format is `o.td`). -/
  | dqblk (o : Cv)
  /-- SHFL (R147). -/
  | shfl (sw : Bool) (w : BitVec 3) (mode : ShflMode) (d : BitVec 8) (a b : Src)
  /-- VOTE (R148). -/
  | vote (sw : Bool) (mode : VoteMode) (inv : Bool) (d a : PReg)
  /-- BALLOT (R148). -/
  | ballot (sw : Bool) (inv : Bool) (d : BitVec 8) (a : PReg)
  /-- REDUX (R149). -/
  | redux (sw : Bool) (ty : Ty) (op : RedOp) (rm : Rm) (sat : Bool) (d : BitVec 8) (a : Src)
  /-- SCAN (R150). -/
  | scan (sw : Bool) (ty : Ty) (op : RedOp) (rm : Rm) (sat excl : Bool) (d : BitVec 8) (a : Src)
  /-- MATCH (R151). -/
  | matchLanes (sw : Bool) (ty : Ty) (all : Bool) (d : BitVec 8) (a : Src)
  /-- LD (R217, R218). -/
  | ld (o : MemOp)
  /-- ST (R217, R218). -/
  | st (o : MemOp)
  /-- LDS (R217). -/
  | lds (o : MemOp)
  /-- STS (R217). -/
  | sts (o : MemOp)
  /-- LDHDR (R227). -/
  | ldhdr (o : MemOp)
  /-- STHDR (R228). -/
  | sthdr (o : MemOp)
  /-- ATOM (R221). -/
  | atom (o : AtomI)
  /-- ATOMS (R221). -/
  | atoms (o : AtomI)
  /-- CAS (R221). -/
  | cas (o : AtomI)
  /-- CASS (R221). -/
  | cass (o : AtomI)
  /-- RED (R223). -/
  | red (o : AtomI)
  /-- FENCE (R225). -/
  | fence (sw : Bool) (o : Order) (sc : Scope)
  /-- PREF (R229). -/
  | pref (sw : Bool) (hint : Hint) (l2 : Bool) (adr : Addr)
  /-- CCTL (R230). -/
  | cctl (sw : Bool) (op : CctlOp) (adr : Addr)
  /-- VINV (R232). -/
  | vinv (sw : Bool) (x : VinvArg)
  /-- RESID (R231). -/
  | resid (sw : Bool) (cls : Resi) (adr : Addr) (len : Src)
  /-- CHINIT (R272). -/
  | chinit (sw : Bool) (rel : Bool) (sc : Scope) (d a b c : BitVec 6) (off : Word)
  /-- PUSH (R273). -/
  | push (sw : Bool) (unord rel : Bool) (sc : Scope) (d a b : BitVec 6)
  /-- POP_TRY (R275). -/
  | popTry (sw : Bool) (anysrc anytag acq : Bool) (sc : Scope) (d a b c : BitVec 6)
  /-- POP_WAIT (R275). -/
  | popWait (sw : Bool) (anysrc anytag acq : Bool) (sc : Scope) (d a b c : BitVec 6)
  /-- CPY (R291). -/
  | cpy (sw : Bool) (grp : BitVec 2)
  /-- CPYX (R292). -/
  | cpyx (sw : Bool) (grp : BitVec 2) (d : BitVec 6) (row col wide : Bool)
  /-- WAITCNT (R294). -/
  | waitcnt (sw : Bool) (cls : CntClass) (n : BitVec 12)
  /-- BINIT (R330). -/
  | binit (sw : Bool) (adr : BarAddr) (d : BitVec 6)
  /-- ARRIVE (R330; `count` is the count less one). -/
  | arrive (sw : Bool) (withRet rel : Bool) (sc : Scope) (count : BitVec 5) (adr : BarAddr) (d : BitVec 6)
  /-- EXPECT (R330). -/
  | expect (sw : Bool) (arv rel : Bool) (sc : Option Scope) (adr : BarAddr) (d : BitVec 6)
  /-- WAIT (R331). -/
  | wait (sw : Bool) (acq : Bool) (sc : Scope) (a : BitVec 6) (off : Word) (d : BitVec 6)
  /-- TWAIT (R333). -/
  | twait (sw : Bool) (drained : Bool) (t : BitVec 6)
  /-- MON (R334). -/
  | mon (sw : Bool) (d a : BitVec 6) (bar : Word)
  /-- MONX (R336). -/
  | monx (sw : Bool) (d a : BitVec 6) (bar : Word)
  /-- TBIND (R333). -/
  | tbind (sw : Bool) (t d a : BitVec 6)
  /-- TREL (R333). -/
  | trel (sw : Bool) (rearm : Bool) (t : BitVec 6)
  /-- TSTAT (R333). -/
  | tstat (sw : Bool) (t d : BitVec 6)
  /-- MAPDEF (R162). -/
  | mapdef (sw : Bool) (bind : Option (BitVec 6)) (m : BitVec 4) (a : BitVec 6)
  /-- TMMA (R164; `d` the scale, `a` the panel offset). -/
  | tmma (sw : Bool) (mode : MmaMode) (wb : Bool) (t : BitVec 3) (ma mb : BitVec 4) (d a : BitVec 6)
  /-- TMMAS (R164). -/
  | tmmas (sw : Bool) (mode : MmaMode) (t : BitVec 3) (ma : BitVec 4) (d a : BitVec 6)
  /-- WBLD (R171). -/
  | wbld (sw : Bool) (sp : Sparse) (fmt : Byte) (m : BitVec 4) (d a : BitVec 6) (c : BitVec 13)
  /-- WBINV (R172). -/
  | wbinv (sw : Bool) (all : Bool) (d : BitVec 6)
  /-- ACCZ (R173). -/
  | accz (sw : Bool) (t : BitVec 3)
  /-- ACCLD (R174). -/
  | accld (sw : Bool) (rm : Rm) (sat : Bool) (t : BitVec 3) (m : BitVec 4)
  /-- ACCST (R174). -/
  | accst (sw : Bool) (rm : Rm) (sat scl : Bool) (t : BitVec 3) (m : BitVec 4) (d : BitVec 6)
  /-- ACCSC (R175). -/
  | accsc (sw : Bool) (rm : Rm) (t : BitVec 3) (a : BitVec 8) (k : Marker)
  /-- ACCADD (R175). -/
  | accadd (sw : Bool) (rm : Rm) (row : Bool) (t : BitVec 3) (a : BitVec 8) (k : Marker)
  /-- ACCRD (R176). -/
  | accrd (sw : Bool) (col : Bool) (t : BitVec 3) (d : BitVec 8) (a : BitVec 6) (n : Word)
  /-- ACCWR (R176). -/
  | accwr (sw : Bool) (col : Bool) (t : BitVec 3) (d : BitVec 6) (a : BitVec 8) (k : Marker) (n : Word)
  /-- CONVN (R182). -/
  | convn (sw : Bool) (a : BitVec 6)
  /-- TTEST (R179). -/
  | ttest (sw : Bool) (d : BitVec 6)
  /-- TRAP (R377). -/
  | trap (sw : Bool) (code : BitVec 16)
  /-- TRET (R378). -/
  | tret (sw : Bool)
  /-- SYSRD (R379). -/
  | sysrd (sw : Bool) (d : Dst) (reg : Byte) (idx : BitVec 10)
  /-- SYSWR (R379). -/
  | syswr (sw : Bool) (a : Src) (reg : Byte) (idx : BitVec 10)
  /-- BKPT (R377). -/
  | bkpt (sw : Bool) (code : BitVec 16)
  /-- EVT (R380). -/
  | evt (sw : Bool) (a : BitVec 6) (ty : BitVec 16)
  /-- SLEEP (R381). -/
  | sleep (sw : Bool) (n : BitVec 20)
  /-- CTX_WRITE (R343). -/
  | ctxWrite (c : Cmd)
  /-- CTX_DESTROY (R343, R368). -/
  | ctxDestroy (c : Cmd)
  /-- TLB_INVAL (R349). -/
  | tlbInval (c : Cmd)
  /-- IMPORT_WRITE (R348). -/
  | importWrite (c : Cmd)
  /-- PREEMPT (R357). -/
  | preempt (c : Cmd)
  /-- EVQ_WRITE (R390). -/
  | evqWrite (c : Cmd)
  /-- DBG_RESUME (R374). -/
  | dbgResume (c : Cmd)
  /-- FW_STAGE (R393). -/
  | fwStage (c : Cmd)
  /-- RESET (R367). -/
  | reset (c : Cmd)
  /-- ATTEST (R393). -/
  | attest (c : Cmd)
  /-- REGISTER_WRITE (R395). -/
  | registerWrite (dev off size : Nat) (v : DWord)
  /-- HOST_WRITE (R17). -/
  | hostWrite (dev bar off : Nat) (data : List Byte)
  /-- HOST_READ (R17). -/
  | hostRead (dev bar off n : Nat)
  /-- PUSH_WINDOW_WRITE (R297). -/
  | pushWindowWrite (dev ctx off : Nat) (data : List Byte)
  /-- PUSH_WINDOW_CONSUME (R297). -/
  | pushWindowConsume (dev ctx : Nat)
  /-- LAUNCH_ADMIT (R300, R301). -/
  | launchAdmit (dev : Nat)
  /-- LAUNCH_AGEING (R300). -/
  | launchAgeing (dev : Nat)
  /-- DEPENDENCY_CHECK (R302). -/
  | dependencyCheck (dev entry : Nat)
  /-- POINT_STABLE (R304). -/
  | pointStable (dev : Nat)
  /-- LAUNCH_PLACE (R305). -/
  | launchPlace (dev entry : Nat) (p : Placing)
  /-- BIND_STEP (R307). -/
  | bindStep (agent cluster : Nat)
  /-- WARP_RETIRE (R30). -/
  | warpRetire (w : WarpId)
  /-- LINE_FETCH (R54; the soft errors of the two copies). -/
  | lineFetch (w : WarpId) (err1 err2 : BitVec 512)
  /-- RESULT_WRITEBACK (R67). -/
  | resultWriteback (w : WarpId)
  /-- LOAD_COMPLETE (R213). -/
  | loadComplete (acc : Nat)
  /-- STORE_ACK (R213). -/
  | storeAck (acc : Nat)
  /-- WARP_WAKE (R327). -/
  | warpWake (w : WarpId)
  /-- SLEEP_EXPIRY (R381). -/
  | sleepExpiry (w : WarpId)
  /-- YIELD_EXPIRY (R319). -/
  | yieldExpiry (w : WarpId)
  /-- MATRIX_ENTRY_START (R158). -/
  | matrixEntryStart (core : Nat)
  /-- TMMA_STEP (R164). -/
  | tmmaStep (core : Nat)
  /-- WBLD_STEP (R171). -/
  | wbldStep (core : Nat)
  /-- MATRIX_ENTRY_COMPLETE (R154). -/
  | matrixEntryComplete (core : Nat)
  /-- TOUCHSTONE_RUN (R177, R178). -/
  | touchstoneRun (core : Nat) (failing : BitVec 4)
  /-- COPY_TAKE (R293). -/
  | copyTake (cluster engine : Nat)
  /-- COPY_COMPLETE (R289). -/
  | copyComplete (cluster engine : Nat)
  /-- COPY_ABORT (R290). -/
  | copyAbort (cluster engine : Nat)
  /-- CONVN_TAKE (R182). -/
  | convnTake (cluster : Nat)
  /-- CONVN_COMPLETE (R182). -/
  | convnComplete (cluster : Nat)
  /-- ROUTER_ARRIVAL (R280). -/
  | routerArrival (op : Nat)
  /-- PAIRING_EXPIRY (R280). -/
  | pairingExpiry (op : Nat)
  /-- CHINIT_HOME (R272). -/
  | chinitHome (op : Nat)
  /-- CHANNEL_PUSH_HOME (R282). -/
  | channelPushHome (op : Nat)
  /-- CHANNEL_POP_HOME (R282). -/
  | channelPopHome (op : Nat)
  /-- CHANNEL_ACK (R275). -/
  | channelAck (op : Nat)
  /-- CHANNEL_DELIVERY (R275). -/
  | channelDelivery (op : Nat)
  /-- BARRIER_INIT_UPDATE (R330). -/
  | barrierInitUpdate (upd : Nat)
  /-- BARRIER_ARRIVAL (R323). -/
  | barrierArrival (upd : Nat)
  /-- BARRIER_EXPECTATION (R323). -/
  | barrierExpectation (upd : Nat)
  /-- BARRIER_CREDIT (R323). -/
  | barrierCredit (upd : Nat)
  /-- MONITOR_ARM (R334). -/
  | monitorArm (upd : Nat)
  /-- MONX_HOME (R336). -/
  | monxHome (upd : Nat)
  /-- TICKET_CLAIM (R337). -/
  | ticketClaim (agent : Nat) (r : TicketRes)
  /-- TICKET_EXPIRY (R337). -/
  | ticketExpiry (agent : Nat) (r : TicketRes)
  /-- RDS (R261). -/
  | rds (agent block : Nat)
  /-- RDX (R261). -/
  | rdx (agent block : Nat)
  /-- UPG (R261). -/
  | upg (agent block : Nat)
  /-- WBK (R261). -/
  | wbk (agent block : Nat) (drop : Bool)
  /-- HRD (R261). -/
  | hrd (acc block : Nat)
  /-- HWR (R261). -/
  | hwr (acc block : Nat)
  /-- INVALIDATE (R260). -/
  | invalidate (agent block : Nat)
  /-- RECALL (R260). -/
  | recall (agent block : Nat)
  /-- FORWARD (R261). -/
  | forward (agent block : Nat)
  /-- DRAIN_REQUEST (R256). -/
  | drainRequest (drain : Nat)
  /-- DRAIN_ANSWER (R257). -/
  | drainAnswer (drain : Nat)
  /-- SERIALISATION_REQUEST (R258). -/
  | serialisationRequest (w : WarpId)
  /-- VIEW_LINE_REQUEST (R200). -/
  | viewLineRequest (acc line : Nat)
  /-- VD_DROP (R232). -/
  | vdDrop (acc agent : Nat)
  /-- PAGE_WALK (R345). -/
  | pageWalk (core ctx va : Nat)
  /-- LOST_AGENT_TIMEOUT (R265). -/
  | lostAgentTimeout (block agent : Nat)
  /-- DEFERRED_TRAP_REPORT (R209). -/
  | deferredTrapReport (report : Nat)
  /-- SIBLING_HALT (R370). -/
  | siblingHalt (w : WarpId)
  /-- DRAIN_DEADLINE (R358). -/
  | drainDeadline (g : CgId)
  /-- SWAP_DEADLINE (R358). -/
  | swapDeadline (g : CgId)
  /-- SAVE_START (R359). -/
  | saveStart (g : CgId)
  /-- SAVE_COMPLETE (R360; `bad`: an uncorrectable error while the image is written). -/
  | saveComplete (g : CgId) (bad : Bool)
  /-- RESTORE_COMPLETE (R362). -/
  | restoreComplete (g : CgId) (bad : Bool)
  /-- TOKEN_REFILL (R356). -/
  | tokenRefill (agent : Nat)
  /-- CAP_CHANGE (R24). -/
  | capChange (dev : Nat) (cap : BitVec 3)
  /-- THERMAL_SHUTDOWN (R25). -/
  | thermalShutdown (dev die : Nat)
  /-- WATCHDOG_EXPIRY (R367). -/
  | watchdogExpiry (dev : Nat)
  /-- START (R394; the reason of Table 12 the start ends with, 0 for a normal start). -/
  | start (dev : Nat) (reason : Byte)
  /-- START_TIMEOUT (R394). -/
  | startTimeout (dev : Nat)
  /-- PATROL_SCRUB (R382). -/
  | patrolScrub (block : Nat)
  /-- SPAD_BANK_FAILURE (R387). -/
  | spadBankFailure (core bank : Nat)
  /-- SPAD_REBUILD_COMPLETE (R387). -/
  | spadRebuildComplete (core bank : Nat)
  /-- LINK_TRANSFER_ERROR (R388). -/
  | linkTransferError (dev : Nat) (cls : LinkClass) (link : Nat)
  /-- LINK_REPLAY_EXHAUSTED (R388; on an HBM pseudo-channel its block and, of a read, the number of the access that it was for; no access has
  the number of an engine's, a barrier's, a walk's or the host's read; none for a write). -/
  | linkReplayExhausted (dev : Nat) (cls : LinkClass) (link : Nat) (rd : Option Nat) (block : Nat)
  /-- LINK_RETRAIN_END (R388). -/
  | linkRetrainEnd (dev : Nat) (cls : LinkClass) (link : Nat) (ok : Bool)
  /-- ILLEGAL_OPCODE (R72). -/
  | illegalOpcode (op : Byte)
  /-- MSI_X_SIGNAL (R390). -/
  | msixSignal (dev queue : Nat)
  /-- FREE_COUNT_UPDATE (R298). -/
  | freeCountUpdate (dev ctx : Nat)
deriving DecidableEq, Repr

end Sys2Proof
end

