-- ==== Sys2Proof/Machine/Formats.lean ====
section
/-! DEFINITION. Number formats, exact values and rounding (R79 to R101). -/

namespace Sys2Proof.Machine

/-- Element formats, by Table 10 of the formats chapter. -/
inductive Fmt where
  | fp32 | bf16 | fp16 | e5m2 | e4m3 | e3m4 | e2m1 | s8 | n8 | s4
deriving DecidableEq, Repr

/-- Header format code (Table 10). -/
def Fmt.code : Fmt → Nat
  | .fp32 => 1 | .bf16 => 2 | .fp16 => 3 | .e5m2 => 4 | .e4m3 => 5 | .e3m4 => 6 | .e2m1 => 7 | .s8 => 8 | .n8 => 9 | .s4 => 10

def Fmt.ofCode : Nat → Option Fmt
  | 1 => some .fp32 | 2 => some .bf16 | 3 => some .fp16 | 4 => some .e5m2 | 5 => some .e4m3 | 6 => some .e3m4 | 7 => some .e2m1
  | 8 => some .s8 | 9 => some .n8 | 10 => some .s4 | _ => none

/-- Element width in bits. -/
def Fmt.width : Fmt → Nat
  | .fp32 => 32 | .bf16 | .fp16 => 16 | .e5m2 | .e4m3 | .e3m4 | .s8 | .n8 => 8 | .e2m1 | .s4 => 4

def Fmt.isFloat : Fmt → Bool | .s8 | .n8 | .s4 => false | _ => true

/-- Exponent bits, mantissa bits and bias (Table 1); 0 for integer formats. -/
def Fmt.w : Fmt → Nat
  | .fp32 | .bf16 => 8 | .fp16 | .e5m2 => 5 | .e4m3 => 4 | .e3m4 => 3 | .e2m1 => 2 | _ => 0
def Fmt.m : Fmt → Nat
  | .fp32 => 23 | .bf16 => 7 | .fp16 => 10 | .e5m2 => 2 | .e4m3 => 3 | .e3m4 => 4 | .e2m1 => 1 | _ => 0
def Fmt.bias : Fmt → Int
  | .fp32 | .bf16 => 127 | .fp16 | .e5m2 => 15 | .e4m3 => 7 | .e3m4 => 3 | .e2m1 => 1 | _ => 0

/-- Largest finite magnitude code (Table 2). -/
def Fmt.maxCode : Fmt → Nat
  | .fp32 => 0x7F7FFFFF | .bf16 => 0x7F7F | .fp16 => 0x7BFF | .e5m2 => 0x7B | .e4m3 => 0x7E | .e3m4 => 0x6F | .e2m1 => 0x7 | _ => 0

/-- Whether the format has infinities (Table 1). -/
def Fmt.hasInf : Fmt → Bool | .fp32 | .bf16 | .fp16 | .e5m2 => true | _ => false

/-- Canonical NaN (Table 2), if the format has NaN. -/
def Fmt.nan : Fmt → Option Nat
  | .fp32 => some 0x7FC00000 | .bf16 => some 0x7FC0 | .fp16 => some 0x7E00 | .e5m2 => some 0x7E | .e4m3 => some 0x7F | _ => none

/-- The floating-point or integer format of a type suffix; `none` for 16-, 32- and 64-bit integers. -/
def tyFmt : Ty → Option Fmt
  | .f32 => some .fp32 | .bf16 => some .bf16 | .f16 => some .fp16 | .e5m2 => some .e5m2 | .e4m3 => some .e4m3 | .e3m4 => some .e3m4
  | .e2m1 => some .e2m1 | .s8 => some .s8 | .n8 => some .n8 | _ => none

/-- The floating-point format of a type; FP32 where the type is no float. -/
def fltFmt (t : Ty) : Fmt := match tyFmt t with | some f => f | none => .fp32

/-- An exact value: NaN, an infinity, or plus or minus `n / d * 2 ^ e` (`d` is not 0; a zero keeps its sign). -/
inductive Xreal where
  | nan
  | inf (neg : Bool)
  | fin (neg : Bool) (n d : Nat) (e : Int)
deriving DecidableEq, Repr

/-- Zero with a sign. -/
def xzero (neg : Bool) : Xreal := .fin neg 0 1 0

/-- The value of an integer. -/
def xint (i : Int) : Xreal := .fin (decide (i < 0)) i.natAbs 1 0

/-- The value `m * 2 ^ e`. -/
def xdyadic (neg : Bool) (m : Nat) (e : Int) : Xreal := .fin neg m 1 e

/-- Two's-complement reading of the low `n` bits. -/
def sextNat (x n : Nat) : Int :=
  let v := x % 2 ^ n
  if n ≠ 0 ∧ 2 ^ (n - 1) ≤ v then (v : Int) - (2 ^ n : Nat) else (v : Int)

/-- `decode(fmt, c)` (R79, R80). E2M1 code 0b1000 decodes to `special`, which the block's header supplies (R93). -/
def decodeElem (f : Fmt) (special : Xreal) (c : Nat) : Xreal :=
  match f with
  | .s8 => xint (sextNat c 8)
  | .n8 => xint ((c % 256 : Nat) : Int)
  | .s4 => xint (sextNat c 4)
  | _ =>
    let c := c % 2 ^ f.width
    let neg := decide (2 ^ (f.width - 1) ≤ c)
    let mag := c % 2 ^ (f.width - 1)
    let e := mag / 2 ^ f.m
    let mf := mag % 2 ^ f.m
    let ones := 2 ^ f.w - 1
    if f = .e2m1 ∧ c = 8 then special
    else if f.hasInf ∧ e = ones then (if mf = 0 then .inf neg else .nan)
    else if f = .e4m3 ∧ mag = 0x7F then .nan
    else if f = .e3m4 ∧ e = 7 then .fin neg 31 1 (-1)
    else if e = 0 then .fin neg mf 1 (1 - f.bias - f.m)
    else .fin neg (2 ^ f.m + mf) 1 ((e : Int) - f.bias - f.m)

/-- `decode` of an FP32 code. -/
def decodeFp32 (w : Word) : Xreal := decodeElem .fp32 .nan w.toNat

/-- floor of log2 of `n / d`, for n and d not 0. -/
def ratLog2 (n d : Nat) : Int :=
  let l : Int := (Nat.log2 n : Int) - (Nat.log2 d : Int)
  let ge : Bool := if 0 ≤ l then decide (d * 2 ^ l.toNat ≤ n) else decide (d ≤ n * 2 ^ (-l).toNat)
  if ge then l else l - 1

/-- `n / d * 2 ^ s` as a quotient and a remainder over a denominator. -/
def scaleRat (n d : Nat) (s : Int) : Nat × Nat :=
  if 0 ≤ s then (n * 2 ^ s.toNat, d) else (n, d * 2 ^ (-s).toNat)

/-- Rounding of `n / d` to an integer for a value of sign `neg` (R88, R89). -/
def roundQuot (n d : Nat) (neg : Bool) (rm : Rm) : Nat :=
  let k := n / d
  let r := n % d
  if r = 0 then k
  else match rm with
    | .rz => k
    | .rd => if neg then k + 1 else k
    | .ru => if neg then k else k + 1
    | .rn => if 2 * r < d then k else if d < 2 * r then k + 1 else k + k % 2

/-- `overflow()` of R90, Table 6: `always` for an infinite input. -/
def overflowCode (f : Fmt) (neg : Bool) (rm : Rm) (sat always : Bool) : Nat :=
  let s := if neg then 2 ^ (f.width - 1) else 0
  let away : Bool := always || (match rm with | .rn => true | .ru => !neg | .rd => neg | .rz => false)
  if sat || !away then s + f.maxCode
  else if f.hasInf then s + (2 ^ f.w - 1) * 2 ^ f.m
  else match f.nan with
    | some c => c
    | none => s + f.maxCode

/-- The zero code of a sign; E2M1 has no negative zero (R86). -/
def zeroCode (f : Fmt) (neg : Bool) : Nat := if neg && f != .e2m1 then 2 ^ (f.width - 1) else 0

/-- `round_to(fmt, x, rm, ovf)` (R89). -/
def roundTo (f : Fmt) (x : Xreal) (rm : Rm) (sat : Bool) : Nat :=
  match x with
  | .nan => (match f.nan with | some c => c | none => 0)
  | .inf neg => overflowCode f neg rm sat true
  | .fin neg n d e =>
    if n = 0 then zeroCode f neg
    else
      let emin : Int := 1 - f.bias
      let ex : Int := max (ratLog2 n d + e) emin
      let q := scaleRat n d (e - ex + f.m)
      let k := roundQuot q.1 q.2 neg rm
      let code := (ex - emin).toNat * 2 ^ f.m + k
      if f.maxCode < code then overflowCode f neg rm sat false
      else if code = 0 then zeroCode f neg
      else code + (if neg then 2 ^ (f.width - 1) else 0)

/-- `round_to(FP32, x, rm, IEEE)`. -/
def roundFp32 (x : Xreal) (rm : Rm) : Word := BitVec.ofNat 32 (roundTo .fp32 x rm false)

/-- Canonical FP32 NaN. -/
def nan32 : Word := 0x7FC00000

/-- An exact value rounded to an integer in mode `rm` (R92, before the clamp); NaN gives none, infinities give `none` with their sign. -/
def roundInt (x : Xreal) (rm : Rm) : Option Int :=
  match x with
  | .fin neg n d e =>
    let q := scaleRat n d e
    let k := roundQuot q.1 q.2 neg rm
    some (if neg then -(k : Int) else (k : Int))
  | _ => none

/-- Clamp an integer into a range. -/
def clampInt (x lo hi : Int) : Int := if x < lo then lo else if hi < x then hi else x

/-- Conversion to an integer format of range `lo` to `hi` (R92): always clamps; NaN gives 0. -/
def toIntClamped (x : Xreal) (rm : Rm) (lo hi : Int) : Int :=
  match x with
  | .nan => 0
  | .inf neg => if neg then lo else hi
  | _ => (match roundInt x rm with | some k => clampInt k lo hi | none => 0)

/-! ### Exact arithmetic -/

def Xreal.neg : Xreal → Xreal
  | .nan => .nan
  | .inf s => .inf (!s)
  | .fin s n d e => .fin (!s) n d e

def Xreal.abs : Xreal → Xreal
  | .nan => .nan
  | .inf _ => .inf false
  | .fin _ n d e => .fin false n d e

def Xreal.isNan : Xreal → Bool | .nan => true | _ => false
def Xreal.isZero : Xreal → Bool | .fin _ n _ _ => n == 0 | _ => false
def Xreal.isFin : Xreal → Bool | .fin _ _ _ _ => true | _ => false
def Xreal.isNeg : Xreal → Bool | .nan => false | .inf s => s | .fin s _ _ _ => s

/-- Exact product (R85, R86). -/
def Xreal.mul (x y : Xreal) : Xreal :=
  match x, y with
  | .nan, _ => .nan
  | _, .nan => .nan
  | .inf s, .inf t => .inf (s != t)
  | .inf s, .fin t n _ _ => if n = 0 then .nan else .inf (s != t)
  | .fin s n _ _, .inf t => if n = 0 then .nan else .inf (s != t)
  | .fin s n d e, .fin t n' d' e' => .fin (s != t) (n * n') (d * d') (e + e')

/-- Exact quotient by a positive finite value `y` (a scale). -/
def Xreal.div (x y : Xreal) : Xreal :=
  match x, y with
  | .fin s n d e, .fin t n' d' e' => if n' = 0 then .nan else .fin (s != t) (n * d') (d * n') (e - e')
  | .inf s, .fin t _ _ _ => .inf (s != t)
  | .fin s _ _ _, .inf t => xzero (s != t)
  | _, _ => .nan

/-- Signed exact value as numerator, denominator and exponent; 0 for what is not finite. -/
def Xreal.parts : Xreal → Int × Nat × Int
  | .fin s n d e => (if s then -(n : Int) else (n : Int), d, e)
  | _ => (0, 1, 0)

/-- Sum of two signed exact values. -/
def addParts (a b : Int × Nat × Int) : Int × Nat × Int :=
  if a.1 = 0 then b
  else if b.1 = 0 then a
  else
    let e := min a.2.2 b.2.2
    let x := a.1 * ((2 ^ (a.2.2 - e).toNat * b.2.1 : Nat) : Int)
    let y := b.1 * ((2 ^ (b.2.2 - e).toNat * a.2.1 : Nat) : Int)
    (x + y, a.2.1 * b.2.1, e)

/-- The exact sum of a list of terms, with the sign of a zero sum by R86. -/
def sumX (rm : Rm) (l : List Xreal) : Xreal :=
  if l.any Xreal.isNan then .nan
  else
    let pinf := l.any (· == .inf false)
    let ninf := l.any (· == .inf true)
    if pinf && ninf then .nan
    else if pinf then .inf false
    else if ninf then .inf true
    else
      let s := l.foldl (fun acc x => addParts acc x.parts) (0, 1, 0)
      if s.1 = 0 then
        if l.all (fun x => x.isZero && !x.isNeg) then xzero false
        else if l.all (fun x => x.isZero && x.isNeg) then xzero true
        else xzero (rm == .rd)
      else .fin (decide (s.1 < 0)) s.1.natAbs s.2.1 s.2.2

/-- Order of two values that are not NaN; zeros of either sign are equal. -/
def cmpX (x y : Xreal) : Ordering :=
  match x, y with
  | .inf s, .inf t => if s = t then .eq else if s then .lt else .gt
  | .inf s, _ => if s then .lt else .gt
  | _, .inf t => if t then .gt else .lt
  | _, _ =>
    let a := x.parts
    let b := y.parts
    let e := min a.2.2 b.2.2
    compare (a.1 * ((2 ^ (a.2.2 - e).toNat * b.2.1 : Nat) : Int)) (b.1 * ((2 ^ (b.2.2 - e).toNat * a.2.1 : Nat) : Int))

/-- x < y for values that are not NaN. -/
def ltX (x y : Xreal) : Bool := cmpX x y == .lt

/-! ### Scales, headers and block values (R93 to R96) -/

/-- `sc16_value` (R93): none for a NaN scale. -/
def sc16Value (c : Nat) : Option Xreal :=
  let e := c / 256 % 256
  let f := c % 256
  if c % 65536 = 0 then some (xzero false)
  else if e = 0 ∨ c % 65536 = 65535 then none
  else some (.fin false (256 + f) 1 ((e : Int) - 135))

def hdrScale (h : Word) : Nat := (h.extractLsb' 16 16).toNat
def hdrSpecial (h : Word) : Nat := (h.extractLsb' 8 8).toNat
def hdrFmt (h : Word) : Nat := (h.extractLsb' 0 8).toNat

/-- A header word from scale, special byte and format code. -/
def mkHdr (scale special fmt : Nat) : Word := BitVec.ofNat 32 (scale % 65536 * 65536 + special % 256 * 256 + fmt % 256)

/-- The sideband of a header written: an untyped block has a zero sideband, and the special byte is kept for E2M1 only (R94, R95, R228). -/
def normHdr (h : Word) : Word :=
  if hdrFmt h = 0 then 0 else if hdrFmt h = 7 then h else mkHdr (hdrScale h) 0 (hdrFmt h)

/-- `block_value(h, fmt, c)` (R96) with the sideband `h` of the block; the second part says that a scale error is noted. -/
def blockValue (h : Word) (f : Fmt) (c : Nat) : Xreal × Bool :=
  let h' : Word := if hdrFmt h = 0 then mkHdr 0x7F00 0 f.code else h
  match if hdrFmt h' = f.code then sc16Value (hdrScale h') else none with
  | none => if f.isFloat then (.nan, false) else (xzero false, true)
  | some sc => ((decodeElem f (decodeElem .e4m3 .nan (hdrSpecial h')) c).mul sc, false)

/-! ### Chunk sums (R101) -/

/-- The truncation of a term at `2 ^ u`, signed. -/
def truncAt (u : Int) (x : Xreal) : Int :=
  match x with
  | .fin s n d e =>
    let q := scaleRat n d (e - u)
    if s then -((q.1 / q.2 : Nat) : Int) else ((q.1 / q.2 : Nat) : Int)
  | _ => 0

/-- floor of log2 of the magnitude of a nonzero finite value. -/
def Xreal.log2 : Xreal → Int
  | .fin _ n d e => ratLog2 n d + e
  | _ => 0

/-- `chunk_sum(c, p)`: the FP32 code (R101). -/
def chunkSum (c : Xreal) (ps : List Xreal) : Word :=
  let terms := c :: ps
  if terms.any Xreal.isNan then nan32
  else
    let pinf := terms.any (· == .inf false)
    let ninf := terms.any (· == .inf true)
    if pinf && ninf then nan32
    else if pinf then 0x7F800000
    else if ninf then 0xFF800000
    else
      match terms.filter (fun t => !t.isZero) with
      | [] => if terms.all Xreal.isNeg then 0x80000000 else 0
      | t :: ts =>
        let emax := ts.foldl (fun m x => max m x.log2) t.log2
        let u := emax - 40
        let s := (t :: ts).foldl (fun acc x => acc + truncAt u x) 0
        if s = 0 then 0 else roundFp32 (.fin (decide (s < 0)) s.natAbs 1 u) .rn

/-! ### FP32 comparison rules shared by FMIN, FMAX, REDUX, SCAN and the atomics (R132) -/

/-- Minimum (or maximum) of two codes of format `f` by R132; `nan` selects the `.nan` variant. -/
def minMaxCode (f : Fmt) (mx nan : Bool) (a b : Nat) : Nat :=
  let x := decodeElem f (xzero false) a
  let y := decodeElem f (xzero false) b
  let cnan := match f.nan with | some c => c | none => 0
  if x.isNan && y.isNan then cnan
  else if nan && (x.isNan || y.isNan) then cnan
  else if x.isNan then b
  else if y.isNan then a
  else
    let lt : Bool := match cmpX x y with
      | .lt => true
      | .eq => x.isNeg && !y.isNeg
      | .gt => false
    let gt : Bool := match cmpX x y with
      | .gt => true
      | .eq => !x.isNeg && y.isNeg
      | .lt => false
    if mx then (if gt then a else b) else (if lt then a else b)

end Sys2Proof.Machine
end

