-- ==== Sys2Proof/Machine/Elementary.lean ====
section
/-! DEFINITION. Roots and elementary functions (R138). FRCP, FRSQ and FSQRT are exact; FEX2, FLG2, FSIN, FCOS and FTANH are
evaluated in fixed point with 400 fraction bits and rounded once (DESIGN CHOICE, log 12). -/

namespace Sys2Proof.Machine

/-- Integer square root, bit by bit: `k` bits of result. -/
def isqrtBits (n : Nat) : Nat → Nat → Nat
  | 0, r => r
  | k + 1, r =>
    let t := r + 2 ^ k
    isqrtBits n k (if t * t ≤ n then t else r)

def isqrt (n : Nat) : Nat := isqrtBits n (Nat.log2 n / 2 + 1) 0

/-- The square root of `n / d * 2 ^ e` as a value that rounds as the exact root does: exact when the root is a multiple of
2^-320 below its own scale, otherwise half a unit above the truncated root. -/
def sqrtX (n d : Nat) (e : Int) : Xreal :=
  if n = 0 then xzero false
  else
    let e' : Int := if e % 2 = 0 then e else e - 1
    let n' : Nat := if e % 2 = 0 then n else 2 * n
    -- the scale makes the quotient at least 2^256
    let k : Nat := 320 + Nat.log2 d
    let v := n' * 2 ^ (2 * k) / d
    let s := isqrt v
    let exact : Bool := decide (s * s * d = n' * 2 ^ (2 * k))
    if exact then .fin false s 1 (e' / 2 - k) else .fin false (2 * s + 1) 1 (e' / 2 - k - 1)

/-! ### Fixed point with 400 fraction bits -/

def fxBits : Nat := 400

/-- floor(pi * 2^640) and floor(ln 2 * 2^500). -/
def piBits : Nat :=
  0x3243f6a8885a308d313198a2e03707344a4093822299f31d0082efa98ec4e6c89452821e638d01377be5466cf34e90c6cc0ac29b7c97c50dd3f84d5b5b54709179216d5d98979fb1bd1310ba698dfb5ac
def ln2Bits : Nat :=
  0xb17217f7d1cf79abc9e3b39803f2f6af40f343267298b62d8a0d175b8baafa2be7b876206debac98559552fb4afa1b10ed2eae35c138214427573b291169b

/-- Product of two fixed-point numbers, floored. -/
def fxMul (a b : Int) : Int := a * b / ((2 ^ fxBits : Nat) : Int)

/-- A value in fixed point, floored. -/
def toFx (x : Xreal) : Int :=
  match x with
  | .fin s n d e =>
    let q := scaleRat n d (e + fxBits)
    if s then -((q.1 / q.2 : Nat) : Int) else ((q.1 / q.2 : Nat) : Int)
  | _ => 0

/-- A fixed-point number as an exact value. -/
def ofFx (v : Int) : Xreal := .fin (decide (v < 0)) v.natAbs 1 (-(fxBits : Int))

/-- Taylor sum: from `term` (the k-th), each next term is `term * y / ((k+1)...)` with the divisor of `div`. -/
def taylor (y : Int) (dv : Nat → Nat) : Nat → Nat → Int → Int → Int
  | 0, _, _, acc => acc
  | fuel + 1, k, term, acc =>
    let t := fxMul term y / ((dv k : Nat) : Int)
    taylor y dv fuel (k + 1) t (acc + t)

/-- exp(y) for fixed-point `y`. -/
def fxExp (y : Int) : Int :=
  let one : Int := ((2 ^ fxBits : Nat) : Int)
  taylor y (fun k => k + 1) 260 0 one one

/-- exp(y) - 1 for fixed-point `y`, without cancellation. -/
def fxExpm1 (y : Int) : Int := taylor y (fun k => k + 2) 260 0 y y

/-- ln 2 in fixed point. -/
def fxLn2 : Int := ((ln2Bits / 2 ^ (500 - fxBits) : Nat) : Int)

/-- sin and cos of a fixed-point `y`, |y| at most 1. -/
def fxSin (y : Int) : Int := taylor (-(fxMul y y)) (fun k => (2 * k + 2) * (2 * k + 3)) 60 0 y y
def fxCos (y : Int) : Int :=
  let one : Int := ((2 ^ fxBits : Nat) : Int)
  taylor (-(fxMul y y)) (fun k => (2 * k + 1) * (2 * k + 2)) 60 0 one one

/-- atanh series: z + z^3/3 + z^5/5 + ... -/
def fxAtanhSum (z2 : Int) : Nat → Nat → Int → Int → Int
  | 0, _, _, acc => acc
  | fuel + 1, k, pw, acc =>
    let p := fxMul pw z2
    fxAtanhSum z2 fuel (k + 2) p (acc + p / ((k : Nat) : Int))

/-- ln of n / 2^b for 1 <= n / 2^b < 2. -/
def fxLn (n b : Nat) : Int :=
  let z : Int := ((((n : Int) - (2 ^ b : Nat)) * ((2 ^ fxBits : Nat) : Int)) / ((n : Int) + (2 ^ b : Nat)))
  2 * fxAtanhSum (fxMul z z) 140 3 z z

/-- 2^x for a finite x. -/
def exp2X (neg : Bool) (n d : Nat) (e : Int) : Xreal :=
  let l : Int := ratLog2 n d + e
  if n = 0 then xint 1
  else if 9 ≤ l then (if neg then .fin false 1 1 (-1000) else .fin false 1 1 1000)
  else
    let q := scaleRat n d e
    let ip : Int := if neg then -(((q.1 + q.2 - 1) / q.2 : Nat) : Int) else ((q.1 / q.2 : Nat) : Int)
    -- fraction x - ip, in 0..1
    let fr : Nat × Nat := if neg then ((-ip).toNat * q.2 - q.1, q.2) else (q.1 - ip.toNat * q.2, q.2)
    if fr.1 = 0 then .fin false 1 1 ip
    else
      let f : Int := ((fr.1 * 2 ^ fxBits / fr.2 : Nat) : Int)
      let v := fxExp (fxMul f fxLn2)
      .fin false v.natAbs 1 (ip - fxBits)

/-- log2 of a finite positive x. -/
def log2X (n d : Nat) (e : Int) : Xreal :=
  let l : Int := ratLog2 n d
  -- n / d = 2^l * m
  if d = 1 ∧ n = 2 ^ l.toNat then xint (l + e)
  else
    let b := Nat.log2 n
    let m := fxLn n b
    ofFx ((((b : Int) + e) * ((2 ^ fxBits : Nat) : Int)) + m * ((2 ^ fxBits : Nat) : Int) / fxLn2)

/-- Quadrant and remainder of |x| modulo pi/2: x = k * pi/2 + r with |r| at most pi/4 (Payne-Hanek with 640 bits of pi). -/
def trigReduce (n d : Nat) (e : Int) : Nat × Int :=
  -- |x| and pi/2 over 2^639
  let x : Nat := (let q := scaleRat n d (e + 639); q.1 / q.2)
  let half : Nat := piBits / 4
  let k := (2 * x + half) / (2 * half)
  let r : Int := (x : Int) - (k * half : Nat)
  (k % 4, r / ((2 ^ (639 - fxBits) : Nat) : Int))

/-- sin x and cos x of a finite x. -/
def sinX (neg : Bool) (n d : Nat) (e : Int) : Xreal :=
  if n = 0 then xzero neg
  else if ratLog2 n d + e < -60 then .fin neg n d e
  else
    let kr := trigReduce n d e
    let v : Int := match kr.1 with
      | 0 => fxSin kr.2
      | 1 => fxCos kr.2
      | 2 => -(fxSin kr.2)
      | _ => -(fxCos kr.2)
    ofFx (if neg then -v else v)

def cosX (n d : Nat) (e : Int) : Xreal :=
  if n = 0 then xint 1
  else if ratLog2 n d + e < -60 then xint 1
  else
    let kr := trigReduce n d e
    let v : Int := match kr.1 with
      | 0 => fxCos kr.2
      | 1 => -(fxSin kr.2)
      | 2 => -(fxCos kr.2)
      | _ => fxSin kr.2
    ofFx v

/-- tanh x of a finite x; beyond 16 it rounds to 1 and below 2^-60 to x. -/
def tanhX (neg : Bool) (n d : Nat) (e : Int) : Xreal :=
  if n = 0 then xzero neg
  else if ratLog2 n d + e < -60 then .fin neg n d e
  else if 4 ≤ ratLog2 n d + e then .fin neg 1 1 0
  else
    let y := toFx (.fin false n d (e + 1))
    let m := fxExpm1 y
    let v : Int := m * ((2 ^ fxBits : Nat) : Int) / (m + 2 * ((2 ^ fxBits : Nat) : Int))
    ofFx (if neg then -v else v)

/-- The elementary functions. -/
inductive ElemFn where
  | rcp | rsq | sqrt | ex2 | lg2 | sin | cos | tanh
deriving DecidableEq, Repr

/-- The exact value (or a value that rounds as it does) of an elementary function, special inputs by Table 3 of chapter 6. -/
def elemX (fn : ElemFn) (x : Xreal) : Xreal :=
  match x with
  | .nan => .nan
  | .inf s =>
    (match fn with
      | .rcp => xzero s
      | .rsq => if s then .nan else xzero false
      | .sqrt => if s then .nan else .inf false
      | .ex2 => if s then xzero false else .inf false
      | .lg2 => if s then .nan else .inf false
      | .sin => .nan
      | .cos => .nan
      | .tanh => .fin s 1 1 0)
  | .fin s n d e =>
    if n = 0 then
      (match fn with
        | .rcp => .inf s
        | .rsq => .inf s
        | .sqrt => xzero s
        | .ex2 => xint 1
        | .lg2 => .inf true
        | .sin => xzero s
        | .cos => xint 1
        | .tanh => xzero s)
    else
      (match fn with
        | .rcp => .fin s d n (-e)
        | .rsq => if s then .nan else sqrtX d n (-e)
        | .sqrt => if s then .nan else sqrtX n d e
        | .ex2 => exp2X s n d e
        | .lg2 => if s then .nan else log2X n d e
        | .sin => sinX s n d e
        | .cos => cosX n d e
        | .tanh => tanhX s n d e)

/-- The FP32 code of an elementary function (R138). -/
def elemCode (fn : ElemFn) (rm : Rm) (a : Word) : Word := roundFp32 (elemX fn (decodeFp32 a)) rm

end Sys2Proof.Machine
end

