-- ==== Sys2Proof/Decode.lean ====
section
/-! DEFINITION. Decoding and encoding of 96-bit slots (R51, R58 to R72 and the encoding rule of each
instruction). A slot is split into the fields of R58; `parse` reads the instruction those fields name;
the slot is accepted only if the instruction keeps its encoding rules (`accepts`) and `encode` gives back
exactly the same fields, so that every bit the format does not assign must be 0. -/

namespace Sys2Proof

/-! ### The common slot layout (R58, Table 3) -/

/-- The fields of a slot. `fn` is slot bits [63:48] and `imm` is [95:64]. -/
structure Fields where
  op  : BitVec 8
  sw  : Bool
  u   : Bool
  la  : Bool
  lb  : Bool
  lc  : Bool
  ra  : Bool
  rb  : Bool
  rc  : Bool
  d   : BitVec 8
  a   : BitVec 8
  b   : BitVec 8
  c   : BitVec 8
  fn  : BitVec 16
  imm : BitVec 32
deriving DecidableEq, Repr

/-- The fields of a 96-bit slot. -/
def Fields.ofBits (w : BitVec 96) : Fields :=
  { op := w.extractLsb' 0 8, sw := w.getLsbD 8, u := w.getLsbD 9,
    la := w.getLsbD 10, lb := w.getLsbD 11, lc := w.getLsbD 12,
    ra := w.getLsbD 13, rb := w.getLsbD 14, rc := w.getLsbD 15,
    d := w.extractLsb' 16 8, a := w.extractLsb' 24 8, b := w.extractLsb' 32 8, c := w.extractLsb' 40 8,
    fn := w.extractLsb' 48 16, imm := w.extractLsb' 64 32 }

/-- The slot that holds the given fields. -/
def Fields.toBits (f : Fields) : BitVec 96 :=
  (f.imm ++ f.fn ++ f.c ++ f.b ++ f.a ++ f.d ++ BitVec.ofBool f.rc ++ BitVec.ofBool f.rb ++ BitVec.ofBool f.ra
    ++ BitVec.ofBool f.lc ++ BitVec.ofBool f.lb ++ BitVec.ofBool f.la ++ BitVec.ofBool f.u ++ BitVec.ofBool f.sw ++ f.op : BitVec 96)

/-- A slot of opcode `op` with switch marker `sw` and every other bit 0. -/
def Fields.zero (op : BitVec 8) (sw : Bool) : Fields :=
  { op := op, sw := sw, u := false, la := false, lb := false, lc := false, ra := false, rb := false, rc := false,
    d := 0, a := 0, b := 0, c := 0, fn := 0, imm := 0 }

/-! ### Codes (Tables 5 to 7) -/

/-- Type code (Table 6). -/
def Ty.code : Ty → BitVec 4
  | .n8 => 0 | .n16 => 1 | .n32 => 2 | .n64 => 3 | .s8 => 4 | .s16 => 5 | .s32 => 6 | .s64 => 7
  | .f32 => 8 | .bf16 => 9 | .f16 => 10 | .e5m2 => 11 | .e4m3 => 12 | .e3m4 => 13 | .e2m1 => 14

/-- The type of a code; the reserved code 15 reads as `.n8`, which `encode` does not give back. -/
def Ty.ofCode (c : BitVec 4) : Ty :=
  match c.toNat with
  | 0 => .n8 | 1 => .n16 | 2 => .n32 | 3 => .n64 | 4 => .s8 | 5 => .s16 | 6 => .s32 | 7 => .s64
  | 8 => .f32 | 9 => .bf16 | 10 => .f16 | 11 => .e5m2 | 12 => .e4m3 | 13 => .e3m4 | 14 => .e2m1 | _ => .n8

/-- Rounding code (R88). -/
def Rm.code : Rm → BitVec 2 | .rn => 0 | .rz => 1 | .rd => 2 | .ru => 3
def Rm.ofCode (c : BitVec 2) : Rm :=
  match c.toNat with | 0 => .rn | 1 => .rz | 2 => .rd | _ => .ru

/-- Scope code (Table 7). -/
def Scope.code : Scope → BitVec 3 | .wp => 1 | .wg => 2 | .cg => 3 | .dg => 4 | .dv => 5 | .dm => 6
def Scope.ofCode (c : BitVec 3) : Scope :=
  match c.toNat with | 1 => .wp | 2 => .wg | 3 => .cg | 4 => .dg | 5 => .dv | _ => .dm

/-- Order code (Table 7). -/
def Order.code : Order → BitVec 3 | .rlx => 1 | .acq => 2 | .rel => 3 | .ar => 4 | .sc => 5
def Order.ofCode (c : BitVec 3) : Order :=
  match c.toNat with | 1 => .rlx | 2 => .acq | 3 => .rel | 4 => .ar | _ => .sc

def Hint.code : Hint → BitVec 3 | .normal => 0 | .stream => 1 | .keep => 2 | .bypass => 3
def Hint.ofCode (c : BitVec 3) : Hint :=
  match c.toNat with | 0 => .normal | 1 => .stream | 2 => .keep | _ => .bypass

def Size.code : Size → BitVec 3 | .b1 => 0 | .b2 => 1 | .b4 => 2 | .b8 => 3 | .b16 => 4
def Size.ofCode (c : BitVec 3) : Size :=
  match c.toNat with | 0 => .b1 | 1 => .b2 | 2 => .b4 | 3 => .b8 | _ => .b16

def Space.code : Space → BitVec 3 | .gl => 0 | .sp => 1 | .pv => 2
def Space.ofCode (c : BitVec 3) : Space :=
  match c.toNat with | 0 => .gl | 1 => .sp | _ => .pv

def Cmp.code : Cmp → BitVec 3 | .eq => 0 | .ne => 1 | .lt => 2 | .le => 3 | .gt => 4 | .ge => 5
def Cmp.ofCode (c : BitVec 3) : Cmp :=
  match c.toNat with | 0 => .eq | 1 => .ne | 2 => .lt | 3 => .le | 4 => .gt | _ => .ge

def FCmp.code : FCmp → BitVec 4
  | .eq => 0 | .ne => 1 | .lt => 2 | .le => 3 | .gt => 4 | .ge => 5 | .num => 6 | .nan => 7
  | .equ => 8 | .neu => 9 | .ltu => 10 | .leu => 11 | .gtu => 12 | .geu => 13
def FCmp.ofCode (c : BitVec 4) : FCmp :=
  match c.toNat with
  | 0 => .eq | 1 => .ne | 2 => .lt | 3 => .le | 4 => .gt | 5 => .ge | 6 => .num | 7 => .nan
  | 8 => .equ | 9 => .neu | 10 => .ltu | 11 => .leu | 12 => .gtu | _ => .geu

def Comb.code : Comb → BitVec 2 | .none => 0 | .and => 1 | .or => 2 | .xor => 3
def Comb.ofCode (c : BitVec 2) : Comb :=
  match c.toNat with | 0 => .none | 1 => .and | 2 => .or | _ => .xor

def RedOp.code : RedOp → BitVec 3 | .add => 0 | .min => 1 | .max => 2 | .and => 3 | .or => 4 | .xor => 5
def RedOp.ofCode (c : BitVec 3) : RedOp :=
  match c.toNat with | 0 => .add | 1 => .min | 2 => .max | 3 => .and | 4 => .or | _ => .xor

def ShflMode.code : ShflMode → BitVec 2 | .idx => 0 | .up => 1 | .down => 2 | .xor => 3
def ShflMode.ofCode (c : BitVec 2) : ShflMode :=
  match c.toNat with | 0 => .idx | 1 => .up | 2 => .down | _ => .xor

def VoteMode.code : VoteMode → BitVec 2 | .all => 0 | .any => 1 | .uni => 2
def VoteMode.ofCode (c : BitVec 2) : VoteMode :=
  match c.toNat with | 0 => .all | 1 => .any | _ => .uni

def AtomOp.code : AtomOp → BitVec 4
  | .add => 0 | .min => 1 | .max => 2 | .and => 3 | .or => 4 | .xor => 5 | .exch => 6 | .inc => 7 | .dec => 8
def AtomOp.ofCode (c : BitVec 4) : AtomOp :=
  match c.toNat with
  | 0 => .add | 1 => .min | 2 => .max | 3 => .and | 4 => .or | 5 => .xor | 6 => .exch | 7 => .inc | _ => .dec

def CctlOp.code : CctlOp → BitVec 3 | .ib => 0 | .wb => 1 | .inv => 2 | .wball => 3 | .invall => 4
def CctlOp.ofCode (c : BitVec 3) : CctlOp :=
  match c.toNat with | 0 => .ib | 1 => .wb | 2 => .inv | 3 => .wball | _ => .invall

def Resi.code : Resi → BitVec 2 | .pin => 0 | .keep => 1 | .normal => 2 | .stream => 3
def Resi.ofCode (c : BitVec 2) : Resi :=
  match c.toNat with | 0 => .pin | 1 => .keep | 2 => .normal | _ => .stream

def CntClass.code : CntClass → BitVec 3 | .load => 0 | .store => 1 | .mat => 2 | .copy => 3 | .chan => 4 | .conv => 5
def CntClass.ofCode (c : BitVec 3) : CntClass :=
  match c.toNat with | 0 => .load | 1 => .store | 2 => .mat | 3 => .copy | 4 => .chan | _ => .conv

def MmaMode.code : MmaMode → BitVec 2 | .acc => 0 | .zero => 1 | .scale => 2
def MmaMode.ofCode (c : BitVec 2) : MmaMode :=
  match c.toNat with | 0 => .acc | 1 => .zero | _ => .scale

def Sparse.code : Sparse → BitVec 2 | .dense => 0 | .sp2 => 1 | .sp4 => 2 | .sp8 => 3
def Sparse.ofCode (c : BitVec 2) : Sparse :=
  match c.toNat with | 0 => .dense | 1 => .sp2 | 2 => .sp4 | _ => .sp8

/-- Predicate field (Table 9): p0-p7 are 0-7, k0-k3 are 8-11. -/
def PReg.code : PReg → BitVec 8
  | .p r => r.setWidth 8
  | .k r => 8 + r.setWidth 8
def PReg.ofCode (c : BitVec 8) : PReg :=
  if c.getLsbD 3 then .k (c.setWidth 2) else .p (c.setWidth 3)

def PReg.isK : PReg → Bool | .k _ => true | .p _ => false

/-! ### Operand fields -/

def Dst.isS : Dst → Bool | .s _ => true | .v _ => false
def Src.isS : Src → Bool | .s _ => true | _ => false
def Src.isV : Src → Bool | .v _ _ => true | _ => false
def Src.isImm : Src → Bool | .imm _ => true | _ => false

/-- The 8-bit field of a register operand; 0 for an immediate. -/
def Src.field : Src → BitVec 8 | .v r _ => r | .s r => r.setWidth 8 | .imm _ => 0
def Dst.field : Dst → BitVec 8 | .v r => r | .s r => r.setWidth 8
def Src.last : Src → Bool | .v _ m => m == .last | _ => false
def Src.reuse : Src → Bool | .v _ m => m == .reuse | _ => false
/-- The imm32 an operand puts into the slot. -/
def Src.immOf : Src → Word | .imm w => w | _ => 0

/-- The marker of a field from its last-read and reuse bits; both set reads as `.last`, which `encode` does
not give back. -/
def markerOf (l r : Bool) : Marker := if l then .last else if r then .reuse else .none

def srcV (f : BitVec 8) (l r : Bool) : Src := .v f (markerOf l r)
def srcS (f : BitVec 8) : Src := .s (f.setWidth 6)
def dstOf (u : Bool) (f : BitVec 8) : Dst := if u then .s (f.setWidth 6) else .v f

def Fields.dst (f : Fields) : Dst := dstOf f.u f.d
/-- The a operand: uniform exactly under U (R64). -/
def Fields.srcA (f : Fields) : Src := if f.u then srcS f.a else srcV f.a f.la f.ra
/-- The b operand: imm32 in I format, else uniform under U or class bit [48] (R58, R64). -/
def Fields.srcB (f : Fields) : Src :=
  if f.fn.getLsbD 15 then .imm f.imm else if f.u || f.fn.getLsbD 0 then srcS f.b else srcV f.b f.lb f.rb
def Fields.srcC (f : Fields) : Src :=
  if f.u || f.fn.getLsbD 1 then srcS f.c else srcV f.c f.lc f.rc

/-- Function field of Table 5. -/
def fnAlu (i : Bool) (sub : BitVec 6) (sat : Bool) (rm : Rm) (ty : BitVec 4) (cu bu : Bool) : BitVec 16 :=
  BitVec.ofBool i ++ sub ++ BitVec.ofBool sat ++ rm.code ++ ty ++ BitVec.ofBool cu ++ BitVec.ofBool bu

def Fields.ty (f : Fields) : Ty := Ty.ofCode (f.fn.extractLsb' 2 4)
def Fields.rm (f : Fields) : Rm := Rm.ofCode (f.fn.extractLsb' 6 2)
def Fields.sat (f : Fields) : Bool := f.fn.getLsbD 8
/-- Slot bits [62:57]. -/
def Fields.sub (f : Fields) : BitVec 6 := f.fn.extractLsb' 9 6

/-- The fields of an instruction of opcodes 0x10-0x5F with register operands. -/
def aluFields (op : BitVec 8) (sw : Bool) (d : Dst) (a b c : Src) (sub : BitVec 6) (sat : Bool) (rm : Rm)
    (ty : BitVec 4) : Fields :=
  { Fields.zero op sw with
    u := d.isS, la := a.last, lb := b.last, lc := c.last, ra := a.reuse, rb := b.reuse, rc := c.reuse
    d := d.field, a := a.field, b := b.field, c := c.field
    fn := fnAlu b.isImm sub sat rm ty (!d.isS && c.isS) (!d.isS && b.isS), imm := b.immOf }

/-- The fields of an instruction whose only source is a; its b and c fields and I bit are 0. -/
def unFields (op : BitVec 8) (sw : Bool) (d : Dst) (a : Src) (sub : BitVec 6) (sat : Bool) (rm : Rm) (ty : BitVec 4) : Fields :=
  { Fields.zero op sw with
    u := d.isS, la := a.last, ra := a.reuse, d := d.field, a := a.field, fn := fnAlu false sub sat rm ty false false }

/-- `aluFields` for an `Alu`. -/
def Alu.enc (op : BitVec 8) (o : Alu) (sub : BitVec 6 := 0) : Fields :=
  aluFields op o.sw o.d o.a o.b o.c sub o.sat .rn o.ty.code

/-- `unFields` for an `Alu`. -/
def Alu.un (op : BitVec 8) (o : Alu) : Fields := unFields op o.sw o.d o.a 0 o.sat .rn o.ty.code

/-- The source-modifier bits of R130. -/
def FOp.sub (o : FOp) : BitVec 6 :=
  BitVec.ofBool o.ac ++ BitVec.ofBool o.ab ++ BitVec.ofBool o.aa ++ BitVec.ofBool o.nc ++ BitVec.ofBool o.nb ++ BitVec.ofBool o.na

def FOp.enc (op : BitVec 8) (o : FOp) (sub : BitVec 6) : Fields :=
  aluFields op o.sw o.d o.a o.b o.c sub false o.rm o.ty.code

def FOp.un (op : BitVec 8) (o : FOp) : Fields := unFields op o.sw o.d o.a 0 false o.rm o.ty.code

def Cv.enc (op : BitVec 8) (o : Cv) (sub : BitVec 6) : Fields :=
  aluFields op o.sw o.d o.a o.b (.imm 0) sub o.sat o.rm o.td.code

def Cv.un (op : BitVec 8) (o : Cv) (sub : BitVec 6) : Fields := unFields op o.sw o.d o.a sub o.sat o.rm o.td.code

/-- The 16-bit floats. -/
def Ty.isHalf (t : Ty) : Bool := t == .bf16 || t == .f16

/-- The 8-bit floats. -/
def Ty.isF8 (t : Ty) : Bool := t == .e5m2 || t == .e4m3 || t == .e3m4

/-- The pack form of CVTP (Table 4 of chapter 6). -/
def Cv.packs (o : Cv) : Bool := o.td.isHalf && o.ts == .f32

/-- The `Alu` of a slot, whose unused sources are cleared by the number of sources `n`. -/
def Fields.alu (f : Fields) (n : Nat) : Alu :=
  { sw := f.sw, ty := f.ty, sat := f.sat, d := f.dst, a := f.srcA,
    b := if 2 ≤ n then f.srcB else .imm 0, c := if 3 ≤ n then f.srcC else .imm 0 }

/-- The `FOp` of a slot with `n` sources, with source modifiers if `mods`. -/
def Fields.fop (f : Fields) (n : Nat) (mods : Bool) : FOp :=
  { sw := f.sw, ty := f.ty, rm := f.rm,
    na := mods && f.sub.getLsbD 0, nb := mods && f.sub.getLsbD 1, nc := mods && f.sub.getLsbD 2,
    aa := mods && f.sub.getLsbD 3, ab := mods && f.sub.getLsbD 4, ac := mods && f.sub.getLsbD 5,
    d := f.dst, a := f.srcA, b := if 2 ≤ n then f.srcB else .imm 0, c := if 3 ≤ n then f.srcC else .imm 0 }

def Alu.withDst (o : Alu) (d : Dst) : Alu := { o with d := d }
def Alu.withA (o : Alu) (a : Src) : Alu := { o with a := a }
def FOp.withDst (o : FOp) (d : Dst) : FOp := { o with d := d }

def Fields.cv (f : Fields) (src b : Bool) : Cv :=
  { sw := f.sw, td := f.ty, ts := if src then Ty.ofCode (f.sub.extractLsb' 2 4) else .f32, rm := f.rm, sat := f.sat,
    d := f.dst, a := f.srcA, b := if b then f.srcB else .imm 0 }

/-- The canonical destination of an instruction that writes a predicate: it carries only U. -/
def predDst (u : Bool) : Dst := if u then .s 0 else .v 0

/-! ### Memory format (R60, Table 7) -/

def Strength.scopeCode : Strength → BitVec 3 | .weak => 0 | .strong _ s => s.code
def Strength.orderCode : Strength → BitVec 3 | .weak => 0 | .strong o _ => o.code

def fnMem (x : Bool) (h z s o p : BitVec 3) : BitVec 16 := BitVec.ofBool x ++ h ++ z ++ s ++ o ++ p

def Fields.strength (f : Fields) : Strength :=
  if f.fn.extractLsb' 3 3 = 0 then .weak
  else .strong (Order.ofCode (f.fn.extractLsb' 3 3)) (Scope.ofCode (f.fn.extractLsb' 6 3))

def MemOp.enc (op : BitVec 8) (o : MemOp) : Fields :=
  { Fields.zero op o.sw with
    u := o.d.isS, la := o.adr.base.last, ra := o.adr.base.reuse, d := o.d.field, a := o.adr.base.field
    fn := fnMem o.sext o.hint.code o.size.code o.str.scopeCode o.str.orderCode o.sp.code, imm := o.adr.off }

def Fields.mem (f : Fields) : MemOp :=
  { sw := f.sw, sp := Space.ofCode (f.fn.extractLsb' 0 3), size := Size.ofCode (f.fn.extractLsb' 9 3),
    sext := f.fn.getLsbD 15, str := f.strength, hint := Hint.ofCode (f.fn.extractLsb' 12 3), d := f.dst,
    adr := ⟨f.srcA, f.imm⟩ }

/-- The bits of an integer or floating-point type. -/
def Ty.width : Ty → Nat
  | .n8 | .s8 | .e5m2 | .e4m3 | .e3m4 => 8
  | .n16 | .s16 | .bf16 | .f16 => 16
  | .n32 | .s32 | .f32 => 32
  | .n64 | .s64 => 64
  | .e2m1 => 4

def Ty.is64 (t : Ty) : Bool := t.width == 64

/-- Fields of the atomics: the size follows the type (R220); `cfield` is the c field. -/
def AtomI.enc (op : BitVec 8) (space : Space) (o : AtomI) (regC : Bool) : Fields :=
  { Fields.zero op o.sw with
    la := o.adr.base.last, ra := o.adr.base.reuse, lb := o.b.last, rb := o.b.reuse
    lc := regC && o.c.last, rc := regC && o.c.reuse
    d := o.d, a := o.adr.base.field, b := o.b.field, c := if regC then o.c.field else o.ty.code ++ o.op.code
    fn := fnMem false 0 (if o.ty.is64 then 3 else 2) o.sc.code o.o.code space.code, imm := o.adr.off }

def Fields.atom (f : Fields) (regC : Bool) : AtomI :=
  { sw := f.sw
    ty := if regC then (if f.fn.extractLsb' 9 3 = 3 then .n64 else .n32) else Ty.ofCode (f.c.extractLsb' 4 4)
    op := if regC then .exch else AtomOp.ofCode (f.c.extractLsb' 0 4)
    o := Order.ofCode (f.fn.extractLsb' 3 3), sc := Scope.ofCode (f.fn.extractLsb' 6 3)
    d := f.d, adr := ⟨srcV f.a f.la f.ra, f.imm⟩, b := srcV f.b f.lb f.rb
    c := if regC then srcV f.c f.lc f.rc else .imm 0 }

/-! ### Barrier format (R328) -/

def fnBar (sc : BitVec 3) (o gl x : Bool) (t : BitVec 6) : BitVec 16 :=
  sc ++ BitVec.ofBool o ++ BitVec.ofBool gl ++ (0 : BitVec 4) ++ BitVec.ofBool x ++ t

def barFields (op : BitVec 8) (sw : Bool) (fn : BitVec 16) (d a : BitVec 6) (imm : Word) : Fields :=
  { Fields.zero op sw with d := d.setWidth 8, a := a.setWidth 8, fn := fn, imm := imm }

/-- Scope 0 as none. -/
def scopeOpt : Option Scope → BitVec 3 | none => 0 | some s => s.code

/-! ### Encoding -/

/-- The fields of the slot of an instruction. Rows that are no slot (commands, host accesses, internal events) and an
unlisted opcode's row give the fields of that opcode, or of opcode 0. -/
def encodeFields : Instr → Fields
  | .nop sw => Fields.zero 0x01 sw
  | .bra sw cond inv off =>
    { Fields.zero 0x02 sw with
      a := (match cond with | none => 0 | some k => (PReg.k k).code)
      fn := (0 : BitVec 14) ++ BitVec.ofBool cond.isSome ++ BitVec.ofBool inv, imm := off }
  | .brx sw a => { Fields.zero 0x03 sw with a := a.setWidth 8 }
  | .brd sw q inv rj off =>
    { Fields.zero 0x04 sw with a := q.code, fn := rj ++ (0 : BitVec 1) ++ BitVec.ofBool inv, imm := off }
  | .join sw => Fields.zero 0x05 sw
  | .call sw d off => { Fields.zero 0x06 sw with d := d.setWidth 8, imm := off }
  | .ret sw a => { Fields.zero 0x07 sw with a := a.setWidth 8 }
  | .exit sw => Fields.zero 0x08 sw
  | .pred sw q inv m e =>
    { Fields.zero 0x09 sw with d := e ++ m, a := q.code, fn := (0 : BitVec 15) ++ BitVec.ofBool inv }
  | .yield sw => Fields.zero 0x0A sw
  | .launch sw g => { Fields.zero 0x0B sw with a := g.setWidth 8 <<< 4 }
  | .iadd o => o.enc 0x10
  | .iadd3 o n => o.enc 0x11 ((0 : BitVec 5) ++ BitVec.ofBool n)
  | .iaddc o s q ci =>
    { o.enc 0x12 (q.code.setWidth 4 ++ BitVec.ofBool ci.isSome ++ BitVec.ofBool s) with
      c := (match ci with | none => 0 | some p => p.code) }
  | .isub o => o.enc 0x13
  | .ineg o => o.un 0x14
  | .iabs o => o.un 0x15
  | .imul o => o.enc 0x16
  | .imulhi o => o.enc 0x17
  | .imad o => o.enc 0x18
  | .imad64 o => o.enc 0x19
  | .imin o => o.enc 0x1A
  | .imax o => o.enc 0x1B
  | .isad o => o.enc 0x1C
  | .icmp o cmp cb inv q c => { o.enc 0x1D (cmp.code ++ cb.code ++ BitVec.ofBool inv) with d := q.code, c := c.code }
  | .pick o inv c => { o.enc 0x1E ((0 : BitVec 5) ++ BitVec.ofBool inv) with c := c.code }
  | .plog sw d a b c t =>
    { Fields.zero 0x1F sw with u := d.isK, d := d.code, a := a.code, b := b.code, c := c.code, imm := t.setWidth 32 }
  | .shl o => o.enc 0x20
  | .shr o => o.enc 0x21
  | .sar o => o.enc 0x22
  | .shf o r cl => o.enc 0x23 ((0 : BitVec 4) ++ BitVec.ofBool cl ++ BitVec.ofBool r)
  | .logt o t =>
    if o.b.isImm then { o.enc 0x24 with c := t } else { o.enc 0x24 with imm := t.setWidth 32 }
  | .popc o => o.un 0x25
  | .clz o => o.un 0x26
  | .brev o => o.un 0x27
  | .bfe o => o.enc 0x28
  | .bfi o => o.enc 0x29
  | .bsel o => o.enc 0x2A
  | .lea o sh => o.enc 0x2B (sh ++ (0 : BitVec 1))
  | .lea64 o sh => o.enc 0x2B (sh ++ (1 : BitVec 1))
  | .idp4 o bs => o.enc 0x2C ((0 : BitVec 4) ++ BitVec.ofBool bs ++ (0 : BitVec 1))
  | .idp2 o bs => o.enc 0x2C ((0 : BitVec 4) ++ BitVec.ofBool bs ++ (1 : BitVec 1))
  | .mov o => o.enc 0x2D
  | .movi sw d w =>
    { Fields.zero 0x2D sw with u := d.isS, d := d.field, fn := fnAlu true 0 false .rn Ty.n32.code false false, imm := w }
  | .p2v sw d => { Fields.zero 0x2E sw with d := d }
  | .v2p sw a m k =>
    { Fields.zero 0x2F sw with
      a := a, la := m == .last, ra := m == .reuse, fn := fnAlu true 0 false .rn 0 false false, imm := k.setWidth 32 }
  | .fadd o => o.enc 0x30 o.sub
  | .fmul o => o.enc 0x31 o.sub
  | .ffma o => o.enc 0x32 o.sub
  | .fmin o n => o.enc 0x33 ((0 : BitVec 5) ++ BitVec.ofBool n)
  | .fmax o n => o.enc 0x34 ((0 : BitVec 5) ++ BitVec.ofBool n)
  | .fcmp o cmp cb q c => { o.enc 0x35 (cmp.code ++ cb.code) with d := q.code, c := c.code }
  | .frnd o => o.un 0x36
  | .fclass o => o.un 0x37
  | .fdp2 o => o.enc 0x38 o.sub
  | .hadd2 o => o.enc 0x40 o.sub
  | .hmul2 o => o.enc 0x41 o.sub
  | .hfma2 o => o.enc 0x42 o.sub
  | .hmin2 o n => o.enc 0x43 ((0 : BitVec 5) ++ BitVec.ofBool n)
  | .hmax2 o n => o.enc 0x44 ((0 : BitVec 5) ++ BitVec.ofBool n)
  | .frcp o => o.un 0x48
  | .frsq o => o.un 0x49
  | .fsqrt o => o.un 0x4A
  | .fex2 o => o.un 0x4B
  | .flg2 o => o.un 0x4C
  | .fsin o => o.un 0x4D
  | .fcos o => o.un 0x4E
  | .ftanh o => o.un 0x4F
  | .cvt o => o.un 0x50 (o.ts.code ++ (0 : BitVec 2))
  | .cvtp o =>
    if o.packs then o.enc 0x51 (o.ts.code ++ (0 : BitVec 2)) else o.un 0x51 (o.ts.code ++ (0 : BitVec 2))
  | .cvt8 o => o.un 0x52 (o.ts.code ++ (0 : BitVec 2))
  | .qblk o p s => o.un 0x53 ((0 : BitVec 4) ++ BitVec.ofBool s ++ BitVec.ofBool p)
  | .dqblk o => o.enc 0x54 0
  | .shfl sw w m d a b => aluFields 0x58 sw (.v d) a b (.imm 0) (w ++ m.code ++ (0 : BitVec 1)) false .rn Ty.n32.code
  | .vote sw m inv d a =>
    { Fields.zero 0x59 sw with
      d := d.code, a := a.code, fn := fnAlu false (m.code ++ (0 : BitVec 3) ++ BitVec.ofBool inv) false .rn 0 false false }
  | .ballot sw inv d a =>
    { Fields.zero 0x5A sw with
      d := d, a := a.code, fn := fnAlu false ((0 : BitVec 5) ++ BitVec.ofBool inv) false .rn 0 false false }
  | .redux sw ty op rm sat d a =>
    { Fields.zero 0x5B sw with
      d := d, a := a.field, la := a.last, ra := a.reuse
      fn := fnAlu false (op.code ++ (0 : BitVec 3)) sat rm ty.code false false }
  | .scan sw ty op rm sat ex d a =>
    { Fields.zero 0x5C sw with
      d := d, a := a.field, la := a.last, ra := a.reuse
      fn := fnAlu false (op.code ++ (0 : BitVec 2) ++ BitVec.ofBool ex) sat rm ty.code false false }
  | .matchLanes sw ty all d a =>
    { Fields.zero 0x5D sw with
      d := d, a := a.field, la := a.last, ra := a.reuse
      fn := fnAlu false ((0 : BitVec 5) ++ BitVec.ofBool all) false .rn ty.code false false }
  | .ld o => o.enc 0x60
  | .st o => o.enc 0x61
  | .lds o => o.enc 0x62
  | .sts o => o.enc 0x63
  | .ldhdr o => o.enc 0x64
  | .sthdr o => o.enc 0x65
  | .atom o => o.enc 0x70 .gl false
  | .atoms o => o.enc 0x71 .sp false
  | .cas o => o.enc 0x72 .gl true
  | .cass o => o.enc 0x73 .sp true
  | .red o => o.enc 0x74 .gl false
  | .fence sw o sc => { Fields.zero 0x75 sw with fn := fnMem false 0 0 sc.code o.code 0 }
  | .pref sw h l2 adr =>
    { Fields.zero 0x76 sw with
      a := adr.base.field, la := adr.base.last, ra := adr.base.reuse, fn := fnMem l2 h.code 0 0 0 0, imm := adr.off }
  | .cctl sw op adr =>
    { Fields.zero 0x77 sw with
      a := adr.base.field, la := adr.base.last, ra := adr.base.reuse, c := op.code.setWidth 8, imm := adr.off }
  | .vinv sw x =>
    (match x with
      | .reg r => { Fields.zero 0x78 sw with a := r.setWidth 8 }
      | .id i => { Fields.zero 0x78 sw with fn := 0x8000, imm := i.setWidth 32 }
      | .all => { Fields.zero 0x78 sw with fn := 0x0001 })
  | .resid sw cls adr len =>
    { Fields.zero 0x79 sw with
      a := adr.base.field, la := adr.base.last, ra := adr.base.reuse, b := len.field, lb := len.last, rb := len.reuse
      c := cls.code.setWidth 8, imm := adr.off }
  | .chinit sw rel sc d a b c off =>
    { Fields.zero 0x80 sw with
      d := d.setWidth 8, a := a.setWidth 8, b := b.setWidth 8, c := c.setWidth 8
      fn := fnMem false 0 0 sc.code (if rel then 3 else 1) 0, imm := off }
  | .push sw un rel sc d a b =>
    { Fields.zero 0x81 sw with
      d := d.setWidth 8, a := a.setWidth 8, b := b.setWidth 8
      fn := fnMem false 0 0 sc.code (if rel then 3 else 1) 0, imm := (BitVec.ofBool un).setWidth 32 }
  | .popTry sw asrc atag acq sc d a b c =>
    { Fields.zero 0x82 sw with
      d := d.setWidth 8, a := a.setWidth 8, b := b.setWidth 8, c := c.setWidth 8
      fn := fnMem false 0 0 sc.code (if acq then 2 else 1) 0
      imm := (BitVec.ofBool atag ++ BitVec.ofBool asrc ++ (0 : BitVec 1)).setWidth 32 }
  | .popWait sw asrc atag acq sc d a b c =>
    { Fields.zero 0x82 sw with
      d := d.setWidth 8, a := a.setWidth 8, b := b.setWidth 8, c := c.setWidth 8
      fn := fnMem true 0 0 sc.code (if acq then 2 else 1) 0
      imm := (BitVec.ofBool atag ++ BitVec.ofBool asrc ++ (0 : BitVec 1)).setWidth 32 }
  | .cpy sw g => { Fields.zero 0x83 sw with a := g.setWidth 8 <<< 4 }
  | .cpyx sw g d row col wide =>
    { Fields.zero 0x84 sw with
      a := g.setWidth 8 <<< 4, d := d.setWidth 8
      imm := (BitVec.ofBool wide ++ BitVec.ofBool col ++ BitVec.ofBool row).setWidth 32 }
  | .waitcnt sw cls n =>
    { Fields.zero 0x85 sw with fn := (cls.code.setWidth 16) <<< 6, imm := n.setWidth 32 }
  | .binit sw adr d => barFields 0x90 sw (fnBar 0 false adr.gl false 0) d adr.a adr.off
  | .arrive sw r rel sc n adr d =>
    { barFields 0x91 sw (fnBar sc.code rel adr.gl r 0) d adr.a adr.off with c := n ++ (0 : BitVec 3) }
  | .expect sw arv rel sc adr d => barFields 0x92 sw (fnBar (scopeOpt sc) rel adr.gl arv 0) d adr.a adr.off
  | .wait sw acq sc a off d => barFields 0x93 sw (fnBar sc.code acq false false 0) d a off
  | .twait sw dr t => barFields 0x94 sw (fnBar 0 false false dr t) 0 0 0
  | .mon sw d a bar => barFields 0x95 sw 0 d a bar
  | .monx sw d a bar => barFields 0x96 sw 0 d a bar
  | .tbind sw t d a => barFields 0x97 sw (fnBar 0 false false false t) d a 0
  | .trel sw re t => barFields 0x98 sw (fnBar 0 false false re t) 0 0 0
  | .tstat sw t d => barFields 0x99 sw (fnBar 0 false false false t) d 0 0
  | .mapdef sw bd m a =>
    { Fields.zero 0xA0 sw with
      a := a.setWidth 8, b := m.setWidth 8
      fn := BitVec.ofBool bd.isSome ++ (0 : BitVec 9) ++ bd.getD 0 }
  | .tmma sw mode wb t ma mb d a =>
    { Fields.zero 0xA1 sw with
      d := d.setWidth 8, a := a.setWidth 8, b := mb ++ ma, c := t.setWidth 8
      fn := mode.code ++ BitVec.ofBool wb ++ (0 : BitVec 13) }
  | .tmmas sw mode t ma d a =>
    { Fields.zero 0xA2 sw with
      d := d.setWidth 8, a := a.setWidth 8, b := ma.setWidth 8, c := t.setWidth 8, fn := mode.code ++ (0 : BitVec 14) }
  | .wbld sw sp fmt m d a c =>
    { Fields.zero 0xA3 sw with
      d := d.setWidth 8, a := a.setWidth 8, b := m.setWidth 8, fn := sp.code ++ fmt ++ (0 : BitVec 6), imm := c.setWidth 32 }
  | .wbinv sw all d => { Fields.zero 0xA4 sw with d := d.setWidth 8, fn := BitVec.ofBool all ++ (0 : BitVec 15) }
  | .accz sw t => { Fields.zero 0xA5 sw with c := t.setWidth 8 }
  | .accld sw rm sat t m =>
    { Fields.zero 0xA6 sw with
      b := m.setWidth 8, c := t.setWidth 8, fn := rm.code ++ BitVec.ofBool sat ++ (0 : BitVec 13) }
  | .accst sw rm sat scl t m d =>
    { Fields.zero 0xA7 sw with
      d := d.setWidth 8, b := m.setWidth 8, c := t.setWidth 8
      fn := rm.code ++ BitVec.ofBool sat ++ BitVec.ofBool scl ++ (0 : BitVec 12) }
  | .accsc sw rm t a k =>
    { Fields.zero 0xA8 sw with
      a := a, la := k == .last, ra := k == .reuse, c := t.setWidth 8, fn := rm.code ++ (0 : BitVec 14) }
  | .accadd sw rm row t a k =>
    { Fields.zero 0xA9 sw with
      a := a, la := k == .last, ra := k == .reuse, c := t.setWidth 8
      fn := rm.code ++ BitVec.ofBool row ++ (0 : BitVec 13) }
  | .accrd sw col t d a n =>
    { Fields.zero 0xAA sw with
      d := d, a := a.setWidth 8, c := t.setWidth 8, fn := (0 : BitVec 2) ++ BitVec.ofBool col ++ (0 : BitVec 13), imm := n }
  | .accwr sw col t d a k n =>
    { Fields.zero 0xAB sw with
      d := d.setWidth 8, a := a, la := k == .last, ra := k == .reuse, c := t.setWidth 8
      fn := (0 : BitVec 2) ++ BitVec.ofBool col ++ (0 : BitVec 13), imm := n }
  | .convn sw a => { Fields.zero 0xAC sw with a := a.setWidth 8 }
  | .ttest sw d => { Fields.zero 0xAD sw with d := d.setWidth 8 }
  | .trap sw n => { Fields.zero 0xB0 sw with imm := n.setWidth 32 }
  | .tret sw => Fields.zero 0xB1 sw
  | .sysrd sw d r i =>
    { Fields.zero 0xB2 sw with d := d.field, fn := (BitVec.ofBool d.isS).setWidth 16, imm := (i ++ r).setWidth 32 }
  | .syswr sw a r i =>
    { Fields.zero 0xB3 sw with a := a.field, fn := (BitVec.ofBool a.isS).setWidth 16, imm := (i ++ r).setWidth 32 }
  | .bkpt sw n => { Fields.zero 0xB4 sw with imm := n.setWidth 32 }
  | .evt sw a ty => { Fields.zero 0xB5 sw with a := a.setWidth 8, imm := ty.setWidth 32 }
  | .sleep sw n => { Fields.zero 0xB6 sw with imm := n.setWidth 32 }
  | .illegalOpcode op => Fields.zero op false
  | .ctxWrite _ | .ctxDestroy _ | .tlbInval _ | .importWrite _ | .preempt _ | .evqWrite _ | .dbgResume _ | .fwStage _
  | .reset _ | .attest _ | .registerWrite _ _ _ _ | .hostWrite _ _ _ _ | .hostRead _ _ _ _ | .pushWindowWrite _ _ _ _
  | .pushWindowConsume _ _ | .launchAdmit _ | .launchAgeing _ | .dependencyCheck _ _ | .pointStable _ | .launchPlace _ _ _
  | .bindStep _ _ | .warpRetire _ | .lineFetch _ _ _ | .resultWriteback _ | .loadComplete _ | .storeAck _ | .warpWake _
  | .sleepExpiry _ | .yieldExpiry _ | .matrixEntryStart _ | .tmmaStep _ | .wbldStep _ | .matrixEntryComplete _
  | .touchstoneRun _ _ | .copyTake _ _ | .copyComplete _ _ | .copyAbort _ _ | .convnTake _ | .convnComplete _
  | .routerArrival _ | .pairingExpiry _ | .chinitHome _ | .channelPushHome _ | .channelPopHome _ | .channelAck _
  | .channelDelivery _ | .barrierInitUpdate _ | .barrierArrival _ | .barrierExpectation _ | .barrierCredit _
  | .monitorArm _ | .monxHome _ | .ticketClaim _ _ | .ticketExpiry _ _ | .rds _ _ | .rdx _ _ | .upg _ _ | .wbk _ _ _
  | .hrd _ _ | .hwr _ _ | .invalidate _ _ | .recall _ _ | .forward _ _ | .drainRequest _ | .drainAnswer _
  | .serialisationRequest _ | .viewLineRequest _ _ | .vdDrop _ _ | .pageWalk _ _ _ | .lostAgentTimeout _ _
  | .deferredTrapReport _ | .siblingHalt _ | .drainDeadline _ | .swapDeadline _ | .saveStart _ | .saveComplete _ _
  | .restoreComplete _ _ | .tokenRefill _ | .capChange _ _ | .thermalShutdown _ _ | .watchdogExpiry _ | .start _ _
  | .startTimeout _ | .patrolScrub _ | .spadBankFailure _ _ | .spadRebuildComplete _ _ | .linkTransferError _ _ _
  | .linkReplayExhausted _ _ _ _ _ | .linkRetrainEnd _ _ _ _ | .msixSignal _ _ | .freeCountUpdate _ _ => Fields.zero 0 false

/-- The slot of an instruction. -/
def encode (i : Instr) : BitVec 96 := (encodeFields i).toBits

/-! ### Parsing: the instruction that the fields name -/

/-- Opcodes 0x00-0x0F (Table 3 of chapter 12). -/
def parseControl (f : Fields) (lo : Nat) : Instr :=
  match lo with
  | 1 => .nop f.sw
  | 2 => .bra f.sw (if f.fn.getLsbD 1 then some (f.a.setWidth 2) else none) (f.fn.getLsbD 0) f.imm
  | 3 => .brx f.sw (f.a.setWidth 6)
  | 4 => .brd f.sw (PReg.ofCode f.a) (f.fn.getLsbD 0) (f.fn.extractLsb' 2 14) f.imm
  | 5 => .join f.sw
  | 6 => .call f.sw (f.d.setWidth 6) f.imm
  | 7 => .ret f.sw (f.a.setWidth 6)
  | 8 => .exit f.sw
  | 9 => .pred f.sw (PReg.ofCode f.a) (f.fn.getLsbD 0) (f.d.extractLsb' 0 4) (f.d.extractLsb' 4 4)
  | 10 => .yield f.sw
  | 11 => .launch f.sw (f.a.extractLsb' 4 2)
  | _ => .illegalOpcode f.op

/-- Opcodes 0x10-0x1F (Table 1 of chapter 5). -/
def parseInt1 (f : Fields) (lo : Nat) : Instr :=
  match lo with
  | 0 => .iadd (f.alu 2)
  | 1 => .iadd3 (f.alu 3) (f.sub.getLsbD 0)
  | 2 => .iaddc (f.alu 2) (f.sub.getLsbD 0) (PReg.ofCode ((f.sub.extractLsb' 2 4).setWidth 8))
      (if f.sub.getLsbD 1 then some (PReg.ofCode f.c) else none)
  | 3 => .isub (f.alu 2)
  | 4 => .ineg (f.alu 1)
  | 5 => .iabs (f.alu 1)
  | 6 => .imul (f.alu 2)
  | 7 => .imulhi (f.alu 2)
  | 8 => .imad (f.alu 3)
  | 9 => .imad64 (f.alu 3)
  | 10 => .imin (f.alu 2)
  | 11 => .imax (f.alu 2)
  | 12 => .isad (f.alu 3)
  | 13 => .icmp (( f.alu 2).withDst (predDst f.u)) (Cmp.ofCode (f.sub.extractLsb' 3 3)) (Comb.ofCode (f.sub.extractLsb' 1 2)) (f.sub.getLsbD 0)
      (PReg.ofCode f.d) (PReg.ofCode f.c)
  | 14 => .pick (f.alu 2) (f.sub.getLsbD 0) (PReg.ofCode f.c)
  | _ => .plog f.sw (PReg.ofCode f.d) (PReg.ofCode f.a) (PReg.ofCode f.b) (PReg.ofCode f.c) (f.imm.setWidth 8)

/-- Opcodes 0x20-0x2F (Table 1 of chapter 5). -/
def parseInt2 (f : Fields) (lo : Nat) : Instr :=
  match lo with
  | 0 => .shl (f.alu 2)
  | 1 => .shr (f.alu 2)
  | 2 => .sar (f.alu 2)
  | 3 => .shf (f.alu 3) (f.sub.getLsbD 0) (f.sub.getLsbD 1)
  | 4 => if f.fn.getLsbD 15 then .logt (f.alu 2) f.c else .logt (f.alu 3) (f.imm.setWidth 8)
  | 5 => .popc (f.alu 1)
  | 6 => .clz (f.alu 1)
  | 7 => .brev (f.alu 1)
  | 8 => .bfe (f.alu 2)
  | 9 => .bfi (f.alu 3)
  | 10 => .bsel (f.alu 3)
  | 11 => if f.sub.getLsbD 0 then .lea64 (f.alu 2) (f.sub.extractLsb' 1 5) else .lea (f.alu 2) (f.sub.extractLsb' 1 5)
  | 12 => if f.sub.getLsbD 0 then .idp2 (f.alu 3) (f.sub.getLsbD 1) else .idp4 (f.alu 3) (f.sub.getLsbD 1)
  | 13 => if f.fn.getLsbD 15 then .movi f.sw f.dst f.imm else .mov ((f.alu 2).withA (.imm 0))
  | 14 => .p2v f.sw f.d
  | _ => .v2p f.sw f.a (markerOf f.la f.ra) (f.imm.setWidth 8)

/-- Opcodes 0x30-0x3F (Table 1 of chapter 6). -/
def parseFloat (f : Fields) (lo : Nat) : Instr :=
  match lo with
  | 0 => .fadd (f.fop 2 true)
  | 1 => .fmul (f.fop 2 true)
  | 2 => .ffma (f.fop 3 true)
  | 3 => .fmin (f.fop 2 false) (f.sub.getLsbD 0)
  | 4 => .fmax (f.fop 2 false) (f.sub.getLsbD 0)
  | 5 => .fcmp ((f.fop 2 false).withDst (predDst f.u)) (FCmp.ofCode (f.sub.extractLsb' 2 4)) (Comb.ofCode (f.sub.extractLsb' 0 2))
      (PReg.ofCode f.d) (PReg.ofCode f.c)
  | 6 => .frnd (f.fop 1 false)
  | 7 => .fclass (f.fop 1 false)
  | 8 => .fdp2 (f.fop 3 true)
  | _ => .illegalOpcode f.op

/-- Opcodes 0x40-0x4F (Table 1 of chapter 6). -/
def parseHalf (f : Fields) (lo : Nat) : Instr :=
  match lo with
  | 0 => .hadd2 (f.fop 2 true)
  | 1 => .hmul2 (f.fop 2 true)
  | 2 => .hfma2 (f.fop 3 true)
  | 3 => .hmin2 (f.fop 2 false) (f.sub.getLsbD 0)
  | 4 => .hmax2 (f.fop 2 false) (f.sub.getLsbD 0)
  | 8 => .frcp (f.fop 1 false)
  | 9 => .frsq (f.fop 1 false)
  | 10 => .fsqrt (f.fop 1 false)
  | 11 => .fex2 (f.fop 1 false)
  | 12 => .flg2 (f.fop 1 false)
  | 13 => .fsin (f.fop 1 false)
  | 14 => .fcos (f.fop 1 false)
  | 15 => .ftanh (f.fop 1 false)
  | _ => .illegalOpcode f.op

/-- The a operand as a vector register with its marker. -/
def Fields.vecA (f : Fields) : Src := srcV f.a f.la f.ra

/-- Opcodes 0x50-0x5F (Table 1 of chapter 6). -/
def parseConv (f : Fields) (lo : Nat) : Instr :=
  match lo with
  | 0 => .cvt (f.cv true false)
  | 1 => .cvtp (f.cv true (f.cv true false).packs)
  | 2 => .cvt8 (f.cv true false)
  | 3 => .qblk (f.cv false false) (f.sub.getLsbD 0) (f.sub.getLsbD 1)
  | 4 => .dqblk (f.cv false true)
  | 8 => .shfl f.sw (f.sub.extractLsb' 3 3) (ShflMode.ofCode (f.sub.extractLsb' 1 2)) f.d f.srcA f.srcB
  | 9 => .vote f.sw (VoteMode.ofCode (f.sub.extractLsb' 4 2)) (f.sub.getLsbD 0) (PReg.ofCode f.d) (PReg.ofCode f.a)
  | 10 => .ballot f.sw (f.sub.getLsbD 0) f.d (PReg.ofCode f.a)
  | 11 => .redux f.sw f.ty (RedOp.ofCode (f.sub.extractLsb' 3 3)) f.rm f.sat f.d f.vecA
  | 12 => .scan f.sw f.ty (RedOp.ofCode (f.sub.extractLsb' 3 3)) f.rm f.sat (f.sub.getLsbD 0) f.d f.vecA
  | 13 => .matchLanes f.sw f.ty (f.sub.getLsbD 0) f.d f.vecA
  | _ => .illegalOpcode f.op

/-- Opcodes 0x60-0x6F (Table 1 of chapter 9). -/
def parseMem (f : Fields) (lo : Nat) : Instr :=
  match lo with
  | 0 => .ld f.mem
  | 1 => .st f.mem
  | 2 => .lds f.mem
  | 3 => .sts f.mem
  | 4 => .ldhdr f.mem
  | 5 => .sthdr f.mem
  | _ => .illegalOpcode f.op

/-- The address operand in a with imm32 as its offset. -/
def Fields.adr (f : Fields) : Addr := ⟨f.vecA, f.imm⟩

def Fields.order (f : Fields) : Order := Order.ofCode (f.fn.extractLsb' 3 3)
def Fields.scope (f : Fields) : Scope := Scope.ofCode (f.fn.extractLsb' 6 3)

/-- Opcodes 0x70-0x7F (Table 1 of chapter 9). -/
def parseAtom (f : Fields) (lo : Nat) : Instr :=
  match lo with
  | 0 => .atom (f.atom false)
  | 1 => .atoms (f.atom false)
  | 2 => .cas (f.atom true)
  | 3 => .cass (f.atom true)
  | 4 => .red (f.atom false)
  | 5 => .fence f.sw f.order f.scope
  | 6 => .pref f.sw (Hint.ofCode (f.fn.extractLsb' 12 3)) (f.fn.getLsbD 15) f.adr
  | 7 => .cctl f.sw (CctlOp.ofCode (f.c.extractLsb' 0 3)) f.adr
  | 8 => .vinv f.sw (if f.fn.getLsbD 15 then .id (f.imm.setWidth 16) else if f.fn.getLsbD 0 then .all else .reg (f.a.setWidth 6))
  | 9 => .resid f.sw (Resi.ofCode (f.c.extractLsb' 0 2)) f.adr (srcV f.b f.lb f.rb)
  | _ => .illegalOpcode f.op

/-- Opcodes 0x80-0x8F (R272, R273, R291, R294). -/
def parseChan (f : Fields) (lo : Nat) : Instr :=
  match lo with
  | 0 => .chinit f.sw (f.fn.getLsbD 4) f.scope (f.d.setWidth 6) (f.a.setWidth 6) (f.b.setWidth 6) (f.c.setWidth 6) f.imm
  | 1 => .push f.sw (f.imm.getLsbD 0) (f.fn.getLsbD 4) f.scope (f.d.setWidth 6) (f.a.setWidth 6) (f.b.setWidth 6)
  | 2 =>
    if f.fn.getLsbD 15 then
      .popWait f.sw (f.imm.getLsbD 1) (f.imm.getLsbD 2) (f.fn.getLsbD 4) f.scope (f.d.setWidth 6) (f.a.setWidth 6) (f.b.setWidth 6) (f.c.setWidth 6)
    else
      .popTry f.sw (f.imm.getLsbD 1) (f.imm.getLsbD 2) (f.fn.getLsbD 4) f.scope (f.d.setWidth 6) (f.a.setWidth 6) (f.b.setWidth 6) (f.c.setWidth 6)
  | 3 => .cpy f.sw (f.a.extractLsb' 4 2)
  | 4 => .cpyx f.sw (f.a.extractLsb' 4 2) (f.d.setWidth 6) (f.imm.getLsbD 0) (f.imm.getLsbD 1) (f.imm.getLsbD 2)
  | 5 => .waitcnt f.sw (CntClass.ofCode (f.fn.extractLsb' 6 3)) (f.imm.setWidth 12)
  | _ => .illegalOpcode f.op

/-- The barrier address of a slot. -/
def Fields.bar (f : Fields) : BarAddr := ⟨f.fn.getLsbD 11, f.a.setWidth 6, f.imm⟩
def Fields.barScope (f : Fields) : Scope := Scope.ofCode (f.fn.extractLsb' 13 3)
def Fields.tile (f : Fields) : BitVec 6 := f.fn.extractLsb' 0 6

/-- Opcodes 0x90-0x9F (Table 2 of chapter 13). -/
def parseBar (f : Fields) (lo : Nat) : Instr :=
  match lo with
  | 0 => .binit f.sw f.bar (f.d.setWidth 6)
  | 1 => .arrive f.sw (f.fn.getLsbD 6) (f.fn.getLsbD 12) f.barScope (f.c.extractLsb' 3 5) f.bar (f.d.setWidth 6)
  | 2 => .expect f.sw (f.fn.getLsbD 6) (f.fn.getLsbD 12) (if f.fn.extractLsb' 13 3 = 0 then none else some f.barScope) f.bar (f.d.setWidth 6)
  | 3 => .wait f.sw (f.fn.getLsbD 12) f.barScope (f.a.setWidth 6) f.imm (f.d.setWidth 6)
  | 4 => .twait f.sw (f.fn.getLsbD 6) f.tile
  | 5 => .mon f.sw (f.d.setWidth 6) (f.a.setWidth 6) f.imm
  | 6 => .monx f.sw (f.d.setWidth 6) (f.a.setWidth 6) f.imm
  | 7 => .tbind f.sw f.tile (f.d.setWidth 6) (f.a.setWidth 6)
  | 8 => .trel f.sw (f.fn.getLsbD 6) f.tile
  | 9 => .tstat f.sw f.tile (f.d.setWidth 6)
  | _ => .illegalOpcode f.op

/-- Rounding of the matrix group, slot bits [63:62]. -/
def Fields.rm2 (f : Fields) : Rm := Rm.ofCode (f.fn.extractLsb' 14 2)

/-- Opcodes 0xA0-0xAF (Table 2 of chapter 7). -/
def parseMatrix (f : Fields) (lo : Nat) : Instr :=
  let t := f.c.setWidth 3
  let m := f.b.extractLsb' 0 4
  let mk := markerOf f.la f.ra
  match lo with
  | 0 => .mapdef f.sw (if f.fn.getLsbD 15 then some f.tile else none) m (f.a.setWidth 6)
  | 1 => .tmma f.sw (MmaMode.ofCode (f.fn.extractLsb' 14 2)) (f.fn.getLsbD 13) t m (f.b.extractLsb' 4 4) (f.d.setWidth 6) (f.a.setWidth 6)
  | 2 => .tmmas f.sw (MmaMode.ofCode (f.fn.extractLsb' 14 2)) t m (f.d.setWidth 6) (f.a.setWidth 6)
  | 3 => .wbld f.sw (Sparse.ofCode (f.fn.extractLsb' 14 2)) (f.fn.extractLsb' 6 8) m (f.d.setWidth 6) (f.a.setWidth 6) (f.imm.setWidth 13)
  | 4 => .wbinv f.sw (f.fn.getLsbD 15) (f.d.setWidth 6)
  | 5 => .accz f.sw t
  | 6 => .accld f.sw f.rm2 (f.fn.getLsbD 13) t m
  | 7 => .accst f.sw f.rm2 (f.fn.getLsbD 13) (f.fn.getLsbD 12) t m (f.d.setWidth 6)
  | 8 => .accsc f.sw f.rm2 t f.a mk
  | 9 => .accadd f.sw f.rm2 (f.fn.getLsbD 13) t f.a mk
  | 10 => .accrd f.sw (f.fn.getLsbD 13) t f.d (f.a.setWidth 6) f.imm
  | 11 => .accwr f.sw (f.fn.getLsbD 13) t (f.d.setWidth 6) f.a mk f.imm
  | 12 => .convn f.sw (f.a.setWidth 6)
  | 13 => .ttest f.sw (f.d.setWidth 6)
  | _ => .illegalOpcode f.op

/-- Opcodes 0xB0-0xBF (Table 3 of chapter 15). -/
def parseSys (f : Fields) (lo : Nat) : Instr :=
  match lo with
  | 0 => .trap f.sw (f.imm.setWidth 16)
  | 1 => .tret f.sw
  | 2 => .sysrd f.sw (dstOf (f.fn.getLsbD 0) f.d) (f.imm.setWidth 8) (f.imm.extractLsb' 8 10)
  | 3 => .syswr f.sw (if f.fn.getLsbD 0 then srcS f.a else .v f.a .none) (f.imm.setWidth 8) (f.imm.extractLsb' 8 10)
  | 4 => .bkpt f.sw (f.imm.setWidth 16)
  | 5 => .evt f.sw (f.a.setWidth 6) (f.imm.setWidth 16)
  | 6 => .sleep f.sw (f.imm.setWidth 20)
  | _ => .illegalOpcode f.op

/-- The instruction the fields name (Table 13); `illegalOpcode` for an opcode Table 13 does not list (R72). -/
def parse (f : Fields) : Instr :=
  let lo := (f.op.extractLsb' 0 4).toNat
  match (f.op.extractLsb' 4 4).toNat with
  | 0 => parseControl f lo
  | 1 => parseInt1 f lo
  | 2 => parseInt2 f lo
  | 3 => parseFloat f lo
  | 4 => parseHalf f lo
  | 5 => parseConv f lo
  | 6 => parseMem f lo
  | 7 => parseAtom f lo
  | 8 => parseChan f lo
  | 9 => parseBar f lo
  | 10 => parseMatrix f lo
  | 11 => parseSys f lo
  | _ => .illegalOpcode f.op

/-! ### Encoding rules -/

def Src.isNone (s : Src) : Bool := s == .imm 0
def even8 (r : BitVec 8) : Bool := !r.getLsbD 0
def quad8 (r : BitVec 8) : Bool := !r.getLsbD 0 && !r.getLsbD 1
def even6 (r : BitVec 6) : Bool := !r.getLsbD 0
def quad6 (r : BitVec 6) : Bool := !r.getLsbD 0 && !r.getLsbD 1

/-- A vector source whose field has neither marker: one that is not read must have none (R68). -/
def Src.unmarked : Src → Bool | .v _ m => m == .none | _ => true
/-- A register operand is the first of an aligned pair (R33); an immediate has no alignment. -/
def Src.even : Src → Bool | .v r _ => even8 r | .s r => even6 r | .imm _ => true
def Src.quad : Src → Bool | .v r _ => quad8 r | .s r => quad6 r | .imm _ => true
def Dst.even : Dst → Bool | .v r => even8 r | .s r => even6 r
def Dst.quad : Dst → Bool | .v r => quad8 r | .s r => quad6 r

/-- The classes the U bit gives the a, b and c operands (R64). -/
def Src.okA (u : Bool) (s : Src) : Bool := if u then s.isS else s.isV
def Src.okB (u i : Bool) (s : Src) : Bool := s.isS || (!u && s.isV) || (i && s.isImm)
def Src.okC (u : Bool) (s : Src) : Bool := s.isS || (!u && s.isV)

/-- A predicate destination (R107). -/
def PReg.okDst (u : Bool) (q : PReg) : Bool := q.isK == u
/-- A predicate source (R107). -/
def PReg.okSrc (u : Bool) (q : PReg) : Bool := q.isK || !u

/-- The operand rules of Table 1 of chapter 5 for `n` sources: I form allowed, types, `.sat` allowed. A shift count, position or selector in b may be
a uniform register under U = 0, as R64 and R117 allow; only the LOGT table counts as R107's table, whose class bit is 0 (DESIGN CHOICE, log 130:
"a count table" names no field of Table 1). -/
def Alu.ok (o : Alu) (n : Nat) (i : Bool) (tys : List Ty) (sat : Bool) : Bool :=
  let u := o.d.isS
  tys.contains o.ty && (sat || !o.sat) && (if 1 ≤ n then o.a.okA u else o.a.isNone)
    && (if 2 ≤ n then o.b.okB u i else o.b.isNone) && (if 3 ≤ n then o.c.okC u else o.c.isNone)

/-- Pairs for 64-bit types in d, a and b (R106). -/
def Alu.pairs (o : Alu) (d a b : Bool) : Bool :=
  !o.ty.is64 || ((!d || o.d.even) && (!a || o.a.even) && (!b || o.b.even))

def tysAll : List Ty := [.s32, .n32, .s64, .n64, .s16, .n16, .s8, .n8]

def FOp.noMods (o : FOp) : Bool := !(o.na || o.nb || o.nc || o.aa || o.ab || o.ac)

/-- The operand rules of Table 1 of chapter 6. -/
def FOp.ok (o : FOp) (n : Nat) (i : Bool) (tys : List Ty) (mods anyRm : Bool) : Bool :=
  let u := o.d.isS
  tys.contains o.ty && (anyRm || o.rm == .rn) && (mods || o.noMods) && (3 ≤ n || !(o.nc || o.ac))
    && (!o.b.isImm || !(o.nb || o.ab)) && o.a.okA u && (if 2 ≤ n then o.b.okB u i else o.b.isNone)
    && (if 3 ≤ n then o.c.okC u else o.c.isNone)

/-- A comparison's predicates (R114, R133). -/
def predsOk (d : Dst) (comb : Comb) (inv : Bool) (q c : PReg) : Bool :=
  d == predDst d.isS && q.okDst d.isS && (if comb == .none then !inv && c == .p 0 else c.okSrc d.isS)

def Ty.isInt (t : Ty) : Bool := match t with | .n8 | .n16 | .n32 | .n64 | .s8 | .s16 | .s32 | .s64 => true | _ => false
def Ty.isWideFloat (t : Ty) : Bool := t == .f32 || t.isHalf

/-- R139. -/
def Cv.okCvt (o : Cv) : Bool :=
  (o.td.isInt || o.td.isWideFloat) && (o.ts.isInt || o.ts.isWideFloat) && o.td != o.ts && o.a.okA o.d.isS && o.b.isNone
    && (!o.td.is64 || o.d.even) && (!o.ts.is64 || o.a.even)
    && (!(o.td.isInt && !o.ts.isInt) || !o.sat) && (!(o.td.isInt && o.ts.isInt) || o.rm == .rn)

/-- R140, Table 4. -/
def Cv.okCvtp (o : Cv) : Bool :=
  o.a.okA o.d.isS &&
  (if o.packs then o.b.okB o.d.isS true
   else o.b.isNone && ((o.td == .f32 && o.ts.isHalf && o.d.even && !o.sat && o.rm == .rn) || (o.td.isHalf && o.ts.isHalf && o.td != o.ts)))

/-- R141, Table 5. -/
def Cv.okCvt8 (o : Cv) : Bool :=
  o.a.okA o.d.isS && o.b.isNone &&
  ((o.td.isF8 && o.ts == .f32 && o.a.quad) || (o.td.isF8 && o.ts.isHalf && o.a.even) || (o.td == .e2m1 && o.ts.isHalf && o.a.quad)
   || (!o.sat && o.rm == .rn && ((o.td == .f32 && o.ts.isF8 && o.d.quad) || (o.td.isHalf && o.ts.isF8 && o.d.even) || (o.td.isHalf && o.ts == .e2m1 && o.d.quad))))

def Ty.isBlockFloat (t : Ty) : Bool := t.isF8 || t.isHalf || t == .e2m1

/-- REDUX and SCAN (R149). -/
def reduxOk (ty : Ty) (op : RedOp) (rm : Rm) (sat : Bool) (a : Src) : Bool :=
  a.isV && (ty == .s32 || ty == .n32 || ty == .f32)
    && (ty != .f32 || op == .add || op == .min || op == .max)
    && (!sat || (ty != .f32 && op == .add)) && (rm == .rn || (ty == .f32 && op == .add))

/-- Scopes up to `.cg`. -/
def Scope.upToCg (s : Scope) : Bool := s == .wp || s == .wg || s == .cg

/-- Order and scope of a load (or a store): weak, or strong with `.rlx` or `x` (Table 1 of chapter 9). -/
def Strength.ok (st : Strength) (x : Order) (narrow : Bool) : Bool :=
  match st with
  | .weak => true
  | .strong o sc => (o == .rlx || o == x) && (!narrow || sc.upToCg)

/-- Rules common to LD, ST, LDS and STS (R210). -/
def MemOp.ok (o : MemOp) (load shared : Bool) : Bool :=
  (if shared then o.sp == .sp else o.sp == .gl || o.sp == .pv)
    && o.str.ok (if load then .acq else .rel) shared
    && (!o.sext || (load && (o.size == .b1 || o.size == .b2)))
    && (o.size != .b16 || o.str == .weak)
    && (o.size != .b8 || o.d.even) && (o.size != .b16 || o.d.quad)
    && o.adr.base.okA o.d.isS
    && (if shared then !o.d.isS && o.hint == .normal else o.adr.base.even)
    && (o.sp != .pv || (o.str == .weak && o.hint == .normal && !o.d.isS))

/-- LDHDR and STHDR. -/
def MemOp.okHdr (o : MemOp) (load : Bool) : Bool :=
  (o.sp == .gl || o.sp == .sp) && o.size == .b4 && !o.sext && o.hint == .normal && !o.d.isS && o.adr.base.isV
    && (o.sp != .gl || o.adr.base.even) && o.str.ok (if load then .acq else .rel) (o.sp == .sp)

/-- R220, Table 3: the types of each operation. -/
def AtomOp.okTy (op : AtomOp) (t : Ty) : Bool :=
  match op with
  | .add | .min | .max => t == .n32 || t == .s32 || t == .n64 || t == .s64 || t == .f32
  | .and | .or | .xor | .exch => t == .n32 || t == .n64
  | .inc | .dec => t == .n32

/-- ATOM, ATOMS, CAS, CASS and RED (R210, R220). -/
def AtomI.ok (o : AtomI) (gl cas red : Bool) : Bool :=
  (if cas then o.op == .exch && (o.ty == .n32 || o.ty == .n64) && o.c.isV && (!o.ty.is64 || o.c.even) else o.op.okTy o.ty && o.c.isNone)
    && (if red then o.d == 0 && o.op != .exch && (o.o == .rlx || o.o == .rel) else o.o != .sc && (!o.ty.is64 || even8 o.d))
    && (gl || o.sc.upToCg) && o.adr.base.isV && (!gl || o.adr.base.even) && o.b.isV && (!o.ty.is64 || o.b.even)

/-- A barrier operand: space 0 takes scopes up to `.cg` and one register, space 1 an aligned pair (R328). -/
def BarAddr.ok (a : BarAddr) : Bool := !a.gl || even6 a.a

/-- Special registers that are 64 bits wide (Table 4 of chapter 15, Table 10 of chapter 3). -/
def sysWide (r : Nat) : Bool := r == 10 || r == 12 || (17 ≤ r && r ≤ 23) || r == 28
/-- Per-lane special registers. -/
def sysPerLane (r : Nat) : Bool := r == 0 || r == 1 || r == 26
/-- How many indexes a special register has; 0 for a number outside the tables. -/
def sysIndexes (r : Nat) : Nat :=
  if r ≤ 12 then 1 else if r == 24 || r == 26 then 4 else if r == 25 || r == 27 then 16 else if r == 28 then 64
  else if r == 29 then 1024 else if 16 ≤ r && r ≤ 23 then 1 else 0
/-- Special registers SYSWR may write. -/
def sysWritable (r : Nat) : Bool := r == 16 || r == 17 || r == 18 || r == 23 || r == 26 || r == 27 || r == 29

/-- The encoding rules of an instruction, beyond the fields it does not use (which `decodeFields` compares with
`encodeFields`). Rows that are no slot never decode. -/
def Instr.accepts : Instr → Bool
  | .nop _ | .bra _ _ _ _ | .brx _ _ | .brd _ _ _ _ _ | .join _ | .call _ _ _ | .ret _ _ | .exit _ | .yield _ | .launch _ _ => true
  | .pred _ _ _ m e => 1 ≤ m.toNat + e.toNat && m.toNat + e.toNat ≤ 8
  | .iadd o | .isub o => o.ok 2 true tysAll true && o.pairs true true true
  | .iadd3 o _ => o.ok 3 true [.s32, .n32] true
  | .iaddc o _ q ci =>
    o.ok 2 true [.n32] false && q.okDst o.d.isS && (match ci with | none => true | some p => p.okSrc o.d.isS)
  | .ineg o | .iabs o => o.ok 1 false [.s32, .s64, .s16, .s8] true && o.pairs true true false
  | .imul o => o.ok 2 true [.s32, .n32, .s16, .n16, .s8, .n8] true
  | .imulhi o => o.ok 2 true [.s32, .n32] false
  | .imad o => o.ok 3 true [.s32, .n32] true
  | .imad64 o => o.ok 3 true [.s32, .n32] false && o.d.even && o.c.even
  | .imin o | .imax o => o.ok 2 true tysAll false && o.pairs true true true
  | .isad o => o.ok 3 true [.n32, .s32, .n16, .s16, .n8, .s8] true
  | .icmp o _ comb inv q c => o.ok 2 true tysAll false && o.pairs false true true && predsOk o.d comb inv q c
  | .pick o _ c => o.ok 2 true [.n32, .n64] false && o.pairs true true true && c.okSrc o.d.isS
  | .plog _ d a b c _ => a.okSrc d.isK && b.okSrc d.isK && c.okSrc d.isK
  | .shl o | .shr o => o.ok 2 true [.n32, .n64] false && o.pairs true true false
  | .sar o => o.ok 2 true [.s32, .s64] false && o.pairs true true false
  | .shf o _ _ => o.ok 3 true [.n32] false
  | .logt o _ => if o.b.isImm then o.ok 2 true [.n32] false else o.ok 3 false [.n32] false
  | .popc o | .clz o => o.ok 1 false [.n32, .n64] false && o.pairs false true false
  | .brev o => o.ok 1 false [.n32, .n64] false && o.pairs true true false
  | .bfe o => o.ok 2 true [.n32, .s32] false
  | .bfi o | .bsel o => o.ok 3 true [.n32] false
  | .lea o _ => o.ok 2 true [.n32] false
  | .lea64 o _ => o.ok 2 true [.s32, .n32] false && o.d.even && o.a.even
  | .idp4 o _ => o.ok 3 true [.s8, .n8] true
  | .idp2 o _ => o.ok 3 true [.s16, .n16] true
  | .mov o =>
    (o.ty == .n32 || o.ty == .n64) && !o.sat && o.a.isNone && o.b.okB o.d.isS false && o.c.isNone && o.pairs true false true
  | .movi _ _ _ | .p2v _ _ | .v2p _ _ _ _ => true
  | .fadd o | .fmul o => o.ok 2 true [.f32] true true
  | .ffma o => o.ok 3 true [.f32] true true
  | .fmin o _ | .fmax o _ => o.ok 2 true [.f32] false false
  | .fcmp o _ comb q c => o.ok 2 true [.f32] false false && predsOk o.d comb false q c
  | .frnd o => o.ok 1 false [.f32] false true
  | .fclass o => o.ok 1 false [.f32] false false
  | .fdp2 o | .hfma2 o => o.ok 3 true [.bf16, .f16] true true
  | .hadd2 o | .hmul2 o => o.ok 2 true [.bf16, .f16] true true
  | .hmin2 o _ | .hmax2 o _ => o.ok 2 true [.bf16, .f16] false false
  | .frcp o | .frsq o | .fsqrt o => o.ok 1 false [.f32] false true
  | .fex2 o | .flg2 o | .fsin o | .fcos o | .ftanh o => o.ok 1 false [.f32] false false
  | .cvt o => o.okCvt
  | .cvtp o => o.okCvtp
  | .cvt8 o => o.okCvt8
  | .qblk o _ spc =>
    o.td.isBlockFloat && o.ts == .f32 && !o.d.isS && o.d.even && o.a.isV && o.b.isNone && (o.td != .e2m1 || o.a.even)
      && (!spc || (o.td == .e2m1 && o.rm == .rn))
  | .dqblk o => o.td.isBlockFloat && o.ts == .f32 && !o.d.isS && (o.td != .e2m1 || o.d.even) && o.a.isV && o.b.okC false
  | .shfl _ w _ _ a b => w.toNat ≤ 6 && a.isV && b.okB false true
  | .vote _ _ _ _ _ => true
  | .ballot _ _ d _ => even8 d
  | .redux _ ty op rm sat _ a => reduxOk ty op rm sat a
  | .scan _ ty op rm sat _ _ a => reduxOk ty op rm sat a
  | .matchLanes _ ty _ d a => (ty == .n32 || ty == .n64) && a.isV && even8 d && (!ty.is64 || a.even)
  | .ld o => o.ok true false
  | .st o => o.ok false false
  | .lds o => o.ok true true
  | .sts o => o.ok false true
  | .ldhdr o => o.okHdr true
  | .sthdr o => o.okHdr false
  | .atom o => o.ok true false false
  | .atoms o => o.ok false false false
  | .cas o => o.ok true true false
  | .cass o => o.ok false true false
  | .red o => o.ok true false true
  | .fence _ o _ => o != .rlx
  | .pref _ h _ adr => h != .bypass && adr.base.isV && adr.base.even
  | .cctl _ op adr => adr.base.isV && adr.base.even && (op == .wb || op == .inv || adr.base.unmarked)
  | .vinv _ _ => true
  | .resid _ _ adr len => adr.base.isV && adr.base.even && len.isV
  | .chinit _ _ _ d a _ c _ => even6 d && even6 a && even6 c
  | .push _ _ _ _ _ a _ => even6 a
  | .popTry _ _ _ _ _ _ a _ c => even6 a && even6 c
  | .popWait _ _ _ _ _ _ a _ _ => even6 a
  | .cpy _ _ => true
  | .cpyx _ _ d row col _ => even6 d && (row || col)
  | .waitcnt _ _ _ => true
  | .binit _ adr d => adr.ok && even6 d
  | .arrive _ r _ sc _ adr d => adr.ok && (adr.gl || sc.upToCg) && (r || d == 0)
  | .expect _ arv rel sc adr _ =>
    adr.ok && (match sc with | none => !arv | some s => adr.gl || s.upToCg) && (arv || !rel)
  | .wait _ _ sc _ _ _ => sc.upToCg
  | .twait _ _ _ => true
  | .mon _ d a _ => even6 d && even6 a
  | .monx _ _ a _ => even6 a
  | .tbind _ _ d a => even6 d && even6 a
  | .trel _ _ _ | .tstat _ _ _ => true
  | .mapdef _ _ _ a => quad6 a
  | .tmma _ mode wb _ _ mb d a => (mode == .scale || d == 0) && (if wb then mb == 0 else a == 0)
  | .tmmas _ mode _ _ d _ => mode == .scale || d == 0
  | .wbld _ sp fmt m _ a c =>
    if sp == .dense then fmt == 0 && a == 0 && c == 0 else 2 ≤ fmt.toNat && fmt.toNat ≤ 10 && m == 0
  | .wbinv _ all d => !all || d == 0
  | .accz _ _ | .accld _ _ _ _ _ => true
  | .accst _ _ _ scl _ _ d => scl || d == 0
  | .accsc _ _ _ _ _ | .accadd _ _ _ _ _ _ | .accrd _ _ _ _ _ _ | .accwr _ _ _ _ _ _ _ | .convn _ _ | .ttest _ _ => true
  | .trap _ _ | .tret _ | .bkpt _ _ => true
  | .sysrd _ d r i =>
    i.toNat < sysIndexes r.toNat && (!sysWide r.toNat || d.even) && (!sysPerLane r.toNat || !d.isS)
  | .syswr _ a r i =>
    sysWritable r.toNat && i.toNat < sysIndexes r.toNat && (!sysWide r.toNat || a.even)
      && (a.isS || (sysPerLane r.toNat && a.isV && !a.last && !a.reuse))
  | .evt _ a _ => even6 a
  | .sleep _ n => n != 0
  | .illegalOpcode op => parse (Fields.zero op false) == .illegalOpcode op
  | .ctxWrite _ | .ctxDestroy _ | .tlbInval _ | .importWrite _ | .preempt _ | .evqWrite _ | .dbgResume _ | .fwStage _
  | .reset _ | .attest _ | .registerWrite _ _ _ _ | .hostWrite _ _ _ _ | .hostRead _ _ _ _ | .pushWindowWrite _ _ _ _
  | .pushWindowConsume _ _ | .launchAdmit _ | .launchAgeing _ | .dependencyCheck _ _ | .pointStable _ | .launchPlace _ _ _
  | .bindStep _ _ | .warpRetire _ | .lineFetch _ _ _ | .resultWriteback _ | .loadComplete _ | .storeAck _ | .warpWake _
  | .sleepExpiry _ | .yieldExpiry _ | .matrixEntryStart _ | .tmmaStep _ | .wbldStep _ | .matrixEntryComplete _
  | .touchstoneRun _ _ | .copyTake _ _ | .copyComplete _ _ | .copyAbort _ _ | .convnTake _ | .convnComplete _
  | .routerArrival _ | .pairingExpiry _ | .chinitHome _ | .channelPushHome _ | .channelPopHome _ | .channelAck _
  | .channelDelivery _ | .barrierInitUpdate _ | .barrierArrival _ | .barrierExpectation _ | .barrierCredit _
  | .monitorArm _ | .monxHome _ | .ticketClaim _ _ | .ticketExpiry _ _ | .rds _ _ | .rdx _ _ | .upg _ _ | .wbk _ _ _
  | .hrd _ _ | .hwr _ _ | .invalidate _ _ | .recall _ _ | .forward _ _ | .drainRequest _ | .drainAnswer _
  | .serialisationRequest _ | .viewLineRequest _ _ | .vdDrop _ _ | .pageWalk _ _ _ | .lostAgentTimeout _ _
  | .deferredTrapReport _ | .siblingHalt _ | .drainDeadline _ | .swapDeadline _ | .saveStart _ | .saveComplete _ _
  | .restoreComplete _ _ | .tokenRefill _ | .capChange _ _ | .thermalShutdown _ _ | .watchdogExpiry _ | .start _ _
  | .startTimeout _ | .patrolScrub _ | .spadBankFailure _ _ | .spadRebuildComplete _ _ | .linkTransferError _ _ _
  | .linkReplayExhausted _ _ _ _ _ | .linkRetrainEnd _ _ _ _ | .msixSignal _ _ | .freeCountUpdate _ _ => false

/-! ### Decoding -/

/-- Why a slot is no instruction (R72; the ILLEGAL_OPCODE case is the instruction `illegalOpcode`). -/
inductive DecodeError where
  /-- A field the format and opcode do not assign is set, or an encoding rule is broken: ILLEGAL_ENCODING. -/
  | illegalEncoding
deriving DecidableEq, Repr

/-- The instruction of the given fields. An unlisted opcode decodes to `illegalOpcode` whatever its other bits hold (R72: it is
checked before the encoding). -/
def decodeFields (f : Fields) : Except DecodeError Instr :=
  let i := parse f
  match i with
  | .illegalOpcode op => .ok (.illegalOpcode op)
  | _ => if i.accepts && encodeFields i == f then .ok i else .error .illegalEncoding

/-- The instruction of a 96-bit slot. -/
def decodeSlot (w : BitVec 96) : Except DecodeError Instr := decodeFields (Fields.ofBits w)

/-- The instruction read from a slot whose low `nbits` bits are `w` and whose other bits are 0. -/
def decodeTableWord (nbits w : Nat) : Option Instr :=
  (decodeSlot (BitVec.ofNat 96 (w % 2 ^ nbits))).toOption

end Sys2Proof
end

