-- ==== Sys2Proof/Machine/IntLanes.lean ====
section
/-! DEFINITION. One lane of each integer, bit and address instruction (R104 to R124). An operand is a 64-bit value: a pair, low
word first, or a register in its low 32 bits. -/

namespace Sys2Proof.Machine

/-- Signed integer types. -/
def tySigned : Ty → Bool | .s8 | .s16 | .s32 | .s64 => true | _ => false

/-- `opnd(T, x)` (R104). -/
def opnd (t : Ty) (x : DWord) : Int :=
  if tySigned t then sextNat x.toNat t.width else ((x.toNat % 2 ^ t.width : Nat) : Int)

/-- Largest and smallest values of an integer type (R82). -/
def tyMax (t : Ty) : Int := if tySigned t then (2 ^ (t.width - 1) : Nat) - 1 else (2 ^ t.width : Nat) - 1
def tyMin (t : Ty) : Int := if tySigned t then -((2 ^ (t.width - 1) : Nat) : Int) else 0

/-- `fit(T, y, sat)` (R104): the value of the destination register, or pair for a 64-bit type. -/
def fit (t : Ty) (y : Int) (sat : Bool) : DWord :=
  let z := if sat then clampInt y (tyMin t) (tyMax t) else y
  if t.width = 64 then BitVec.ofInt 64 z
  else
    let bits := (BitVec.ofInt 64 z).toNat % 2 ^ t.width
    if tySigned t then (BitVec.ofInt 32 (sextNat bits t.width)).setWidth 64 else BitVec.ofNat 64 bits

/-- Unsigned saturation to 32 bits, or the wrap. -/
def fitN32 (y : Int) (sat : Bool) : DWord := fit .n32 y sat

/-- The low and high words of an operand. -/
def lo32 (x : DWord) : Word := x.setWidth 32
def hi32 (x : DWord) : Word := x.extractLsb' 32 32
def pair64 (lo hi : Word) : DWord := hi ++ lo

/-- Element `i` of width `n` of a word, read under signedness `sg` (R84). -/
def elemInt (x : Word) (n i : Nat) (sg : Bool) : Int :=
  let v := x.toNat / 2 ^ (n * i) % 2 ^ n
  if sg then sextNat v n else (v : Int)

/-- Integer comparison (Table 3 of chapter 5). -/
def cmpInt (c : Cmp) (x y : Int) : Bool :=
  match c with
  | .eq => decide (x = y) | .ne => decide (x ≠ y) | .lt => decide (x < y)
  | .le => decide (x ≤ y) | .gt => decide (y < x) | .ge => decide (y ≤ x)

/-- Combination with a second predicate (R114). -/
def combine (c : Comb) (t w : Bool) : Bool :=
  match c with | .none => t | .and => t && w | .or => t || w | .xor => t != w

/-- R109: the sum and the carry-out. -/
def laneAddc (sub : Bool) (x y : Word) (cin : Option Bool) : DWord × Bool :=
  let y' := if sub then 0xFFFFFFFF - y.toNat else y.toNat
  let c := match cin with | some b => b | none => sub
  let r := x.toNat + y' + (if c then 1 else 0)
  (BitVec.ofNat 64 (r % 2 ^ 32), decide (2 ^ 32 ≤ r))

/-- R111. -/
def laneSad (t : Ty) (sat : Bool) (a b c : Word) : DWord :=
  let n := t.width
  let s := (List.range (32 / n)).foldl
    (fun (acc : Int) i => acc + ((elemInt a n i (tySigned t) - elemInt b n i (tySigned t)).natAbs : Int)) (c.toNat : Int)
  fit .n32 s sat

/-- R112. -/
def laneDot (n : Nat) (as bs sat : Bool) (a b c : Word) : DWord :=
  let s := (List.range (32 / n)).foldl (fun (acc : Int) i => acc + elemInt a n i as * elemInt b n i bs) (sextNat c.toNat 32)
  fit .s32 s sat

/-- R117; the count is a 32-bit natural. -/
def laneShl (t : Ty) (x : DWord) (n : Nat) : DWord := fit t (opnd t x * ((2 ^ min n t.width : Nat) : Int)) false
def laneShr (t : Ty) (x : DWord) (n : Nat) : DWord := fit t (opnd t x / ((2 ^ min n t.width : Nat) : Int)) false
def laneSar (t : Ty) (x : DWord) (n : Nat) : DWord := fit t (opnd t x / ((2 ^ min n (t.width - 1) : Nat) : Int)) false

/-- R118: the funnel shift of {c, a}. -/
def laneShf (right clamp : Bool) (a c : Word) (b : Nat) : Word :=
  let n := if clamp then min b 32 else b % 32
  let x : Nat := c.toNat * 2 ^ 32 + a.toNat
  if right then BitVec.ofNat 32 (x / 2 ^ n) else BitVec.ofNat 32 (x * 2 ^ n % 2 ^ 64 / 2 ^ 32)

/-- R119: bit `j` of the result is the table bit selected by the three source bits. -/
def laneLogt (table : Byte) (a b c : Word) : Word :=
  let m (i : Nat) : Word := if table.getLsbD i then 0xFFFFFFFF else 0
  (m 0 &&& ~~~a &&& ~~~b &&& ~~~c) ||| (m 1 &&& a &&& ~~~b &&& ~~~c) ||| (m 2 &&& ~~~a &&& b &&& ~~~c)
    ||| (m 3 &&& a &&& b &&& ~~~c) ||| (m 4 &&& ~~~a &&& ~~~b &&& c) ||| (m 5 &&& a &&& ~~~b &&& c)
    ||| (m 6 &&& ~~~a &&& b &&& c) ||| (m 7 &&& a &&& b &&& c)

/-- Number of 1 bits among the low `n`. -/
def popBits (x : DWord) (n : Nat) : Nat := (List.range n).countP (fun i => x.getLsbD i)

/-- Number of 0 bits above the highest 1 bit of the low `n` (R120). -/
def clzBits (x : DWord) (n : Nat) : Nat :=
  let v := x.toNat % 2 ^ n
  if v = 0 then n else n - 1 - Nat.log2 v

/-- Bit reversal of the low `n` bits (R120). -/
def revBits (x : DWord) (n : Nat) : DWord :=
  BitVec.ofNat 64 ((List.range n).foldl (fun acc i => acc + (if x.getLsbD i then 2 ^ (n - 1 - i) else 0)) 0)

def fieldPos (b : Word) : Nat := min (b.toNat % 256) 32
def fieldLen (b : Word) : Nat := min (b.toNat / 256 % 256) 32

/-- R121. -/
def laneBfe (sg : Bool) (a b : Word) : Word :=
  let x : Int := if sg then sextNat a.toNat 32 else (a.toNat : Int)
  let f := (x / ((2 ^ fieldPos b : Nat) : Int)) % ((2 ^ fieldLen b : Nat) : Int)
  if fieldLen b = 0 then 0
  else if sg then BitVec.ofInt 32 (sextNat f.toNat (fieldLen b)) else BitVec.ofInt 32 f

/-- R122. -/
def laneBfi (a b c : Word) : Word :=
  let mask : Word := BitVec.ofNat 32 ((2 ^ fieldLen b - 1) * 2 ^ fieldPos b)
  (c &&& ~~~mask) ||| (BitVec.ofNat 32 (a.toNat * 2 ^ fieldPos b) &&& mask)

/-- R123. -/
def laneBsel (a b c : Word) : Word :=
  let x : DWord := c ++ a
  let byte (i : Nat) : Nat :=
    let s := b.toNat / 2 ^ (3 * i) % 8
    let m := b.toNat / 2 ^ (2 * i + 12) % 4
    let v := x.toNat / 2 ^ (8 * s) % 256
    if m = 0 then v else if m = 1 then (if 128 ≤ v then 255 else 0) else if m = 2 then 0 else 255
  BitVec.ofNat 32 (byte 0 + byte 1 * 256 + byte 2 * 65536 + byte 3 * 16777216)

/-- R124. -/
def laneLea (a b : Word) (sh : Nat) : Word := BitVec.ofNat 32 (a.toNat + b.toNat * 2 ^ sh)
def laneLea64 (t : Ty) (a b : DWord) (sh : Nat) : DWord := BitVec.ofInt 64 ((a.toNat : Int) + opnd t b * ((2 ^ sh : Nat) : Int))

/-- A bit of a PLOG table (R116). -/
def plogBit (table : Byte) (a b c : Bool) : Bool :=
  table.getLsbD ((if a then 1 else 0) + (if b then 2 else 0) + (if c then 4 else 0))

end Sys2Proof.Machine
end

