-- ==== Sys2Proof/Machine/FloatLanes.lean ====
section
/-! DEFINITION. One lane of each floating-point instruction and conversion (R128 to R145). -/

namespace Sys2Proof.Machine

/-- `fsrc(x, neg, abs)` of a code of format `f` (R130). -/
def fsrc (f : Fmt) (neg abs : Bool) (c : Nat) : Xreal :=
  let x := decodeElem f (xzero false) c
  let y := if abs then x.abs else x
  if neg then y.neg else y

/-- FADD, FMUL and FFMA on exact values, rounded once into `f` (R131, R137). -/
def fAdd (f : Fmt) (rm : Rm) (x y : Xreal) : Nat := roundTo f (sumX rm [x, y]) rm false
def fMul (f : Fmt) (rm : Rm) (x y : Xreal) : Nat := roundTo f (x.mul y) rm false
def fFma (f : Fmt) (rm : Rm) (x y z : Xreal) : Nat := roundTo f (sumX rm [x.mul y, z]) rm false

/-- A two-source operation on both halves of packed operands (R137). -/
def packed2 (op : Nat → Nat → Nat) (a b : Word) : Word :=
  BitVec.ofNat 32 (op (a.toNat % 65536) (b.toNat % 65536) % 65536 + op (a.toNat / 65536) (b.toNat / 65536) % 65536 * 65536)

/-- A three-source operation on both halves of packed operands (R137). -/
def packed3 (op : Nat → Nat → Nat → Nat) (a b c : Word) : Word :=
  BitVec.ofNat 32 (op (a.toNat % 65536) (b.toNat % 65536) (c.toNat % 65536) % 65536
    + op (a.toNat / 65536) (b.toNat / 65536) (c.toNat / 65536) % 65536 * 65536)

/-- R133, Table 2. -/
def cmpFlt (c : FCmp) (a b : Word) : Bool :=
  let x := decodeFp32 a
  let y := decodeFp32 b
  let un := x.isNan || y.isNan
  let o := cmpX x y
  match c with
  | .eq => !un && o == .eq
  | .ne => !un && o != .eq
  | .lt => !un && o == .lt
  | .le => !un && o != .gt
  | .gt => !un && o == .gt
  | .ge => !un && o != .lt
  | .num => !un
  | .nan => un
  | .equ => un || o == .eq
  | .neu => un || o != .eq
  | .ltu => un || o == .lt
  | .leu => un || o != .gt
  | .gtu => un || o == .gt
  | .geu => un || o != .lt

/-- R134. -/
def laneFrnd (rm : Rm) (a : Word) : Word :=
  match decodeFp32 a with
  | .fin s n d e =>
    let q := scaleRat n d e
    roundFp32 (.fin s (roundQuot q.1 q.2 s rm) 1 0) rm
  | x => roundFp32 x rm

/-- R135. -/
def laneFclass (a : Word) : Word :=
  let s := a.getLsbD 31
  let e := (a.extractLsb' 23 8).toNat
  let mz : Bool := a.extractLsb' 0 23 = 0
  let bit : Nat :=
    if e = 255 then (if mz then (if s then 0 else 7) else if a.getLsbD 22 then 9 else 8)
    else if e = 0 then (if mz then (if s then 3 else 4) else if s then 2 else 5)
    else if s then 1 else 6
  BitVec.ofNat 32 (2 ^ bit)

/-- R136: the exact sum of two products and an addend. -/
def laneFdp2 (o : FOp) (a b c : Word) : Word :=
  let f := fltFmt o.ty
  let p (i : Nat) : Xreal := (fsrc f o.na o.aa (a.toNat / 65536 ^ i)).mul (fsrc f o.nb o.ab (b.toNat / 65536 ^ i))
  roundFp32 (sumX o.rm [p 0, p 1, fsrc .fp32 o.nc o.ac c.toNat]) o.rm

/-- R139: one element. -/
def laneCvt (o : Cv) (a : DWord) : DWord :=
  if o.ts.isInt then
    if o.td.isInt then fit o.td (opnd o.ts a) o.sat
    else BitVec.ofNat 64 (roundTo (fltFmt o.td) (xint (opnd o.ts a)) o.rm o.sat)
  else
    let x := decodeElem (fltFmt o.ts) (xzero false) a.toNat
    if o.td.isInt then fit o.td (toIntClamped x o.rm (tyMin o.td) (tyMax o.td)) false
    -- `.sat` has no effect when widening
    else BitVec.ofNat 64 (roundTo (fltFmt o.td) x o.rm (o.sat && o.td != .f32))

/-- R140: the low and (for the unpack form) high registers of the result. -/
def laneCvtp (o : Cv) (a b : Word) : DWord :=
  let r (x : Xreal) : Nat := roundTo (fltFmt o.td) x o.rm o.sat
  if o.packs then BitVec.ofNat 64 (r (decodeFp32 a) + r (decodeFp32 b) * 65536)
  else
    let el (i : Nat) : Xreal := decodeElem (fltFmt o.ts) (xzero false) (a.toNat / 65536 ^ i)
    if o.td = .f32 then BitVec.ofNat 64 (r (el 0) + r (el 1) * 2 ^ 32)
    else BitVec.ofNat 64 (r (el 0) + r (el 1) * 65536)

/-- Element `i` of width `n` of a group of registers (R84). -/
def groupElem (ws : List Word) (n i : Nat) : Nat :=
  let per := 32 / n
  (ws.getD (i / per) 0).toNat / 2 ^ (n * (i % per)) % 2 ^ n

/-- A group of registers from elements of width `n`. -/
def packElems (n : Nat) : List Nat → Nat
  | [] => 0
  | e :: es => e % 2 ^ n + packElems n es * 2 ^ n

/-- The registers of a 128-bit group. -/
def groupRegs (v count : Nat) : List Word := (List.range count).map (fun i => BitVec.ofNat 32 (v / 2 ^ (32 * i)))

/-- The registers a CVT8 reads and writes (Table 5 of chapter 6). -/
def cvt8In (o : Cv) : Nat :=
  if o.ts = .f32 then 4 else if o.ts.isHalf then (if o.td = .e2m1 then 4 else 2) else 1
def cvt8Out (o : Cv) : Nat :=
  if o.td = .f32 then 4 else if o.td.isHalf then (if o.ts = .e2m1 then 4 else 2) else 1

/-- R141: element i of the wide group is element i of the narrow register. -/
def laneCvt8 (o : Cv) (a : List Word) : List Word :=
  let fs := fltFmt o.ts
  let fd := fltFmt o.td
  let n := 32 * cvt8In o / fs.width
  let els := (List.range n).map (fun i => roundTo fd (decodeElem fs (xzero false) (groupElem a fs.width i)) o.rm o.sat)
  groupRegs (packElems fd.width els) (cvt8Out o)

/-! ### Block quantisation (R142 to R145) -/

/-- Largest finite value of a format. -/
def maxFinite (f : Fmt) : Xreal := decodeElem f (xzero false) f.maxCode

/-- The larger of two non-negative values. -/
def maxX (x y : Xreal) : Xreal := if ltX x y then y else x

/-- The scale of R143 for `need`, a positive value. -/
def quantScale (need : Xreal) (pow2 : Bool) : Nat :=
  match need with
  | .fin _ n d e =>
    let l := ratLog2 n d
    let q := scaleRat n d (8 - l)
    let up := (q.1 + q.2 - 1) / q.2          -- ceil(need * 256 / 2^l), from 256 to 512
    let k : Int := (l + e + 127) * 256 + ((up : Int) - 256)
    let k' : Int := if pow2 then (k + 255) / 256 * 256 else k
    let lim : Int := if pow2 then 0xFF00 else 0xFFFE
    if k' < 0x0100 then 0x0100 else if lim < k' then lim.toNat else k'.toNat
  | _ => 0x7F00

/-- |x - y|. -/
def distX (x y : Xreal) : Xreal := (sumX .rn [x, y.neg]).abs

/-- The largest residual and its quotient, the lowest element on ties (R144). -/
def worst : List (Xreal × Xreal) → Option (Xreal × Xreal) → Option (Xreal × Xreal)
  | [], acc => acc
  | (x, r) :: es, none => worst es (some (x, r))
  | (x, r) :: es, some (bx, br) => worst es (if ltX br r then some (x, r) else some (bx, br))

/-- One block of QBLK (R143, R144): codes of the active elements and the header. -/
def qblkBlock (f : Fmt) (rm : Rm) (sat pow2 spc : Bool) (els : List (Option Word)) : List (Option Nat) × Word :=
  let xs : List (Option Xreal) := els.map (fun o => o.map decodeFp32)
  let fins : List Xreal := xs.filterMap (fun o => match o with | some x => if x.isFin then some x else none | none => none)
  let amax := fins.foldl (fun m x => maxX m x.abs) (xzero false)
  let sc := if amax.isZero then 0x7F00 else quantScale (amax.div (maxFinite f)) pow2
  let s := match sc16Value sc with | some v => v | none => xint 1
  let codes : List (Option Nat) := xs.map (fun o => o.map (fun x => roundTo f (x.div s) rm sat))
  if spc then
    let quots : List (Option (Xreal × Xreal)) := (xs.zip codes).map (fun p => match p with
      | (some x, some c) => if x.isFin then some (x.div s, distX (x.div s) (decodeElem f (xzero false) c)) else none
      | _ => none)
    match worst (quots.filterMap id) none with
    | none => (codes, mkHdr sc 0 f.code)
    | some (w, r) =>
      if r.isZero then (codes, mkHdr sc 0 f.code)
      else
        let special := roundTo .e4m3 w .rn true
        let v := decodeElem .e4m3 .nan special
        let codes' := (codes.zip quots).map (fun p => match p with
          | (some c, some (x, r)) => some (if ltX (distX x v) r then 8 else c)
          | (c, _) => c)
        (codes', mkHdr sc special f.code)
  else (codes, mkHdr sc 0 f.code)

/-- One element of DQBLK (R145). -/
def dqElem (f : Fmt) (rm : Rm) (sat : Bool) (h : Word) (c : Nat) : Word :=
  BitVec.ofNat 32 (roundTo .fp32 (blockValue h f c).1 rm sat)

end Sys2Proof.Machine
end

