-- ==== Sys2Proof/Machine/CrossLane.lean ====
section
/-! DEFINITION. The cross-lane functions (R146 to R151). A warp's value is the list of its 64 lanes; `m` is the active mask. -/

namespace Sys2Proof.Machine

/-- The lanes of a mask, lowest first. -/
def lanesOf (m : LaneMask) : List Nat := (List.range 64).filter (fun l => m.getLsbD l)

/-- R147: the source lane of lane `l`. -/
def shflSrc (mode : ShflMode) (k : Nat) (n l : Nat) : Nat :=
  let w := 2 ^ k
  let base := l - l % w
  let i := l % w
  match mode with
  | .idx => base + n % w
  | .up => if n ≤ i then l - n else l
  | .down => if i + n < w then l + n else l
  | .xor => base + (i ^^^ (n % w))

/-- R148: the value of a vote over the active lanes. -/
def voteBits (mode : VoteMode) (bits : List Bool) : Bool :=
  match mode with
  | .all => bits.all id
  | .any => bits.any id
  | .uni => bits.all id || bits.all not

/-- A mask from a predicate on lanes. -/
def maskOf (p : Nat → Bool) : LaneMask :=
  BitVec.ofNat 64 ((List.range 64).foldl (fun acc l => acc + (if p l then 2 ^ l else 0)) 0)

/-- Identity of a reduction (R150). -/
def redIdentity (ty : Ty) (op : RedOp) : Word :=
  match op with
  | .add => 0
  | .min => if ty = .f32 then 0x7F800000 else BitVec.ofInt 32 (tyMax ty)
  | .max => if ty = .f32 then 0xFF800000 else BitVec.ofInt 32 (tyMin ty)
  | .and => 0xFFFFFFFF
  | .or => 0
  | .xor => 0

/-- Lesser or greater under an integer type. -/
def minMaxInt (t : Ty) (mx : Bool) (a b : DWord) : DWord :=
  if mx then (if opnd t a < opnd t b then b else a) else (if opnd t b < opnd t a then b else a)

/-- Minimum or maximum of two words under a type of REDUX or an atomic. -/
def minMaxWord (ty : Ty) (mx : Bool) (a b : Word) : Word :=
  if ty = .f32 then BitVec.ofNat 32 (minMaxCode .fp32 mx false a.toNat b.toNat)
  else lo32 (minMaxInt ty mx (a.setWidth 64) (b.setWidth 64))

/-- The reduction of a list of lane values, which is not empty (R149); an empty list gives the identity (R150). -/
def reduceWords (ty : Ty) (op : RedOp) (rm : Rm) (sat : Bool) (vs : List Word) : Word :=
  match vs with
  | [] => redIdentity ty op
  | x :: xs =>
    match op with
    | .add =>
      if ty = .f32 then roundFp32 (sumX rm (vs.map decodeFp32)) rm
      else lo32 (fit ty (vs.foldl (fun (acc : Int) v => acc + opnd ty (v.setWidth 64)) 0) sat)
    | .min => xs.foldl (minMaxWord ty false) x
    | .max => xs.foldl (minMaxWord ty true) x
    | .and => xs.foldl (· &&& ·) x
    | .or => xs.foldl (· ||| ·) x
    | .xor => xs.foldl (· ^^^ ·) x

end Sys2Proof.Machine
end

