-- ==== Sys2Proof/Config.lean ====
section
/-! DEFINITION. What the manual leaves to the part: values no proof can see (each named in the assumption log). -/

namespace Sys2Proof.Config

/-- Whether the boot ROM's ECDSA check accepts a firmware image (R393; log 10). -/
opaque imageValid : List Byte → Bool

/-- The version an image carries (R393; log 10). -/
opaque imageVersion : List Byte → Nat

/-- The SHA-512 digest of an image (R393; log 10). -/
opaque imageDigest : List Byte → Nat

/-- The fused minimum version (R393; log 10). -/
opaque fusedMinimum : Nat

/-- The 256-byte answer of ATTEST: device, nonce, digest of the running image, mode, reason (R393; log 10). -/
opaque attestation : Nat → List Byte → Nat → Bool → Nat → Nat → Byte

/-- Digest and version of the built-in recovery firmware (R394; log 10). -/
opaque recoveryDigest : Nat
opaque recoveryVersion : Nat

/-- Values that the manual does not state, numbered by a counter of the state (log 3). -/
opaque freeWord : Nat → BitVec 64

/-- The set of an L2 slice in which a home line lies, modulo its 8,192 sets (R351; log 103). -/
opaque l2Set : Nat → Nat

end Sys2Proof.Config
end

