-- ==== Sys2Proof/Machine/State.lean ====
section
/-! DEFINITION. The state of a coherence domain of Skaica P2 devices, and of the devices that share the non-coherent fabric with it
(R18, log 37): plain data. Sparse tables are lists with rising keys, whose unlisted keys stand for the default of their type. A device's
index is its number on the fabric, and for a device of the domain its number there too. Agents are numbered 4 * device + die (R11); cluster
`36 * agent + c`, core `144 * agent + 4 * c + k`. A home key is `agent * 2 ^ 59 + H` (R189, R389). -/

namespace Sys2Proof.Machine

/-- Memory: rising addresses, no byte equal to what an unlisted address reads as (0). -/
abbrev Mem := List Host.Cell

/-- A sparse table with rising keys. -/
abbrev Tab (α : Type) := List (Nat × α)

/-! ### Scheduling: the model's own input -/

/-- Soft errors of the arrays, one input of the outside world each (R382, R385, R386). A correctable error of an on-chip array has no
effect and is not listed. -/
inductive Upset where
  /-- Bits of a stored HBM block, of its data and of its side bits, are flipped. -/
  | hbm (block : Nat) (data : BitVec 512) (side : BitVec 64)
  /-- An uncorrectable error in a block of a core's L1. -/
  | l1 (core block : Nat)
  /-- An uncorrectable error in a block of a home line in L2. -/
  | l2 (block : Nat)
  /-- An uncorrectable error in an agent's replica of a block. -/
  | replica (agent block : Nat)
  /-- An uncorrectable error in an L2 tag, with the hallmark it caches. -/
  | tag (block : Nat)
  /-- An uncorrectable error in a panel of the weight buffer. -/
  | panel (wg : WgId) (off : Nat)
  /-- An uncorrectable error in a panel's backing copy in the swap ways. -/
  | backing (wg : WgId) (off : Nat)
  /-- An uncorrectable error in a register, accumulator, map, tile table, divergence stack or queue entry of a warp. -/
  | warp (w : WarpId)
  /-- An uncorrectable error in a saved image. -/
  | image (wg : WgId)
  /-- Byte lanes of a scratchpad word fail detection. -/
  | spad (wg : WgId) (word : Nat) (lanes : BitVec 4)
  /-- Byte lanes of the word of a check bank (0 to 31, two for each group) in a row fail detection. -/
  | check (wg : WgId) (row bank : Nat) (lanes : BitVec 4)
  /-- An error of a scratchpad bank has survived a rewrite (R387). -/
  | stuck (core bank : Nat)
  /-- An uncorrectable error in state internal to a device, found by a die. -/
  | device (agent : Nat)
deriving DecidableEq, Repr

/-- One move of the machine. The agenda lists which agent moves next (log 2). -/
inductive Move where
  /-- One cycle of a device passes. -/
  | tick (dev : Nat)
  /-- The issue stage of a quadrant issues one group (R311). -/
  | issue (core q : Nat)
  /-- The second slot of an honoured template pair, from the line that held the first (R57). -/
  | second (w : WarpId) (line : BitVec 512)
  /-- An internal event, a host access or a management command of the opcode table. -/
  | act (i : Instr)
  /-- A part of an access is performed in the core's L1, at a scratchpad bank or at the PCIe controller (R214, R215). -/
  | perform (acc part : Nat)
  /-- A core fills a block of its L1 from its agent's replica. -/
  | fillL1 (core block : Nat)
  /-- The release or acquire work of an operation goes on (R225, R253, R257, R276). -/
  | advance (op : Nat)
  /-- The parked fence of a warp goes on to its next stage (R225, R258). -/
  | fenceStep (w : WarpId)
  /-- An L1 block is evicted (R256). -/
  | evictL1 (core block : Nat)
  /-- A soft error strikes an array (R382, R385, R386). -/
  | upset (u : Upset)
  /-- A copy engine reads a source element, or with a typed source the elements of its block (R97, R287). -/
  | copyRead (op elem : Nat)
  /-- A copy engine writes what a destination row has in one 64-byte block (R287, R288). -/
  | copyWrite (op unit : Nat)
  /-- A convolution engine writes one output element (R181). -/
  | convElem (op : Nat)
  /-- The management core takes a complete mailbox command (R391). -/
  | mailbox (dev : Nat)
  /-- The next queued trap of a workgroup is entered (R373). -/
  | takeQueued (wg : WgId)
deriving DecidableEq, Repr

/-! ### Memory side state -/

/-- What is stored beside a 64-byte block: the tag word's hallmark, typed bit and tolerant bit, and the header of a typed block (R98). The
check bits are computed from these and the data (R383). -/
structure Block where
  hall  : Byte := 0
  hdr   : Word := 0
  typed : Bool := false
  tol   : Bool := false
deriving DecidableEq, Repr

/-- Soft errors of a block in HBM: the bits of its data and of its 64 side bits that differ from the code word written (R382). -/
structure ErrMask where
  data : BitVec 512 := 0
  side : BitVec 64 := 0
deriving DecidableEq, Repr

/-- A replica of a foreign block in an agent's L2 (R259): `owned` while the agent is the named owner, `dirty` while HBM is stale,
`shr` once the owner has forwarded its data (OWNED). `ctx` is the context that made it dirty, `evict` the one whose fill has evicted its
line since (R355). -/
structure Replica where
  bytes : BitVec 512 := 0
  hdr   : Word := 0
  owned : Bool := false
  dirty : Bool := false
  shr   : Bool := false
  ctx   : Nat := 0
  evict : Option Nat := none
deriving DecidableEq, Repr

/-- A line of an L2 slice: its residency class and the context that set it (R353), its way (R351), the number of its last use, which of
its two blocks hold merged writes, and which it holds (R233); `by_` gives for each block the device and event queue of the context that last
made it dirty (R385). -/
structure L2Line where
  cls : Resi := .normal
  ctx : Nat := 0
  way : Nat := 0
  used : Nat := 0
  dirty : BitVec 2 := 0
  held : BitVec 2 := 0
  by_ : Tab (Nat × Nat) := []
deriving DecidableEq, Repr

/-- Requests that change a hallmark (R260). -/
inductive ReqKind where
  | rds | rdx | upg | wbkKeep | wbkDrop | hrd | hwr
deriving DecidableEq, Repr

/-- What a home waits for from an agent (R260). -/
inductive WaitKind where
  | inv | recallKeep | recallDrop | forward (dest : Nat)
deriving DecidableEq, Repr

/-- A home transaction: the first of its block is in progress, the others stand in the conflict chain (R262). `acc` is the access
or write-back it serves, `arrived` the home's cycle when it came, `since` the home's clock when it last asked, and `fwd` the data that an
owner has forwarded for it, which reaches the requester when it ends (R261). `again` is the move whose access it is, where the access takes
place within one move: it is performed when that move is made in its turn (log 20). -/
structure Txn where
  block   : Nat
  kind    : ReqKind
  req     : Nat
  acc     : Nat
  started : Bool
  bcast   : Bool
  waits   : List (Nat × WaitKind)
  arrived : Nat
  since   : Nat := 0
  fwd     : Option (BitVec 512 × Word) := none
  again   : Option Move := none
deriving DecidableEq, Repr

/-- Why a move must wait, so that it does nothing yet (log 20, 101): nothing does; a context out of tokens or a lost agent holds one of its
accesses (R265, R356); or the access found the block with a request in progress, and joins the block's conflict chain for the move that is
to be made again (R262). -/
inductive Hold where
  | none
  | off
  | chain (block req : Nat) (kind : ReqKind) (again : Option Move)
deriving DecidableEq, Repr

/-- A lazy-release record beside a line (R255): releasing core, epoch and signature. -/
structure RelRec where
  line  : Nat
  core  : Nat
  epoch : Nat
  sig   : BitVec 512
deriving DecidableEq, Repr

/-- An arrival at a serialisation point (R258): the fence's warp and its scope. -/
structure ScEntry where
  w  : WarpId
  sc : Scope
deriving DecidableEq, Repr

/-! ### Accesses in flight -/

/-- Where one part of an access is performed. -/
inductive Loc where
  /-- A byte of a workgroup's partition, `own` for the issuer's own. -/
  | spad (wg : WgId) (off : Nat) (own : Bool)
  /-- A home key, in the L1 of a core. -/
  | l1 (core : Nat) (key : Nat)
  /-- A home key, at the home. -/
  | home (key : Nat)
  /-- Host memory of a device. -/
  | host (dev : Nat) (addr : Nat)
  /-- A shadow byte of a view, not composed yet. -/
  | view (vid : Nat) (off : Nat) (va : Nat)
  /-- A position of a view with no base element: reads as the value, discards stores (R196). -/
  | pad (v : Nat)
  /-- A base element of a view whose codes are decoded to BF16 (R197): home key of the block, format code, element index, first byte
  of the BF16 code, and the shadow line (VA divided by 128). -/
  | decoded (key fmt idx sh line : Nat)
deriving DecidableEq, Repr

/-- A part of at most 8 bytes of one lane's access. `idx` is the byte within the lane's access; `val` the data to store, or the data
read once done; `sh` marks a part that a view has mapped (R200), `keep` one mapped by a view that is not block-preserving, which
brings no POISON block back (R204, R235), `sent` one whose request has been sent to its home (R251). -/
structure Part where
  lane : Nat
  idx  : Nat
  n    : Nat
  loc  : Loc
  val  : Nat
  done : Bool
  sh   : Bool
  keep : Bool := false
  sent : Bool := false
deriving DecidableEq, Repr

/-- The release that an operation carries out before it is sent (R253, R255): accesses and write-backs still awaited. -/
inductive Rel where
  /-- Not started: the scope, and whether the path is lazy. -/
  | todo (sc : Scope) (lazy : Bool)
  /-- Waits for accesses (eager: loads and stores; lazy: also accesses at homes and banks). -/
  | accs (sc : Scope) (lazy : Bool) (ids : List Nat)
  /-- Waits for write-backs and, at `.dv` or wider, for replicas to be written back. -/
  | wbs (sc : Scope) (ids : List Nat) (blocks : List Nat)
  | done
deriving DecidableEq, Repr

/-- The acquire that follows an operation (R225, R257). -/
inductive Acq where
  | none
  /-- Records whose epochs are to be drained. -/
  | todo (sc : Scope) (recs : List RelRec)
  | drains (sc : Scope) (recs : List RelRec) (ids : List Nat)
  | wbs (sc : Scope) (recs : List RelRec) (ids : List Nat)
deriving DecidableEq, Repr

/-- What an access does. -/
inductive AccKind where
  | load (sext : Bool)
  | store
  | hdrLoad
  | hdrStore
  /-- `cas` compares with b and writes c; otherwise `op` under `ty`; `ret` when the old value is returned. -/
  | atom (cas : Bool) (ty : Ty) (op : AtomOp) (ret : Bool)
  /-- CCTL: the 128-byte home lines (none: every line of the core), and whether they are dropped (R230). -/
  | cctl (lines : Option (List Nat)) (drop : Bool)
  /-- VINV: view ID or all, agents still to drop. -/
  | vinv (id : Option Nat) (agents : List Nat)
  /-- An access that only translates. -/
  | probe
  /-- RESID: the class, the lines still to be applied, and whether RESID_LIMIT has been raised (R231). -/
  | resid (cls : Resi) (lines : List Nat) (limit : Bool)
  /-- EVT: the user type, payload and PC of the event (R380). -/
  | evt (ty : Nat) (payload : DWord)
deriving DecidableEq, Repr

/-- Why an access could not deliver some lanes (R375): source, poison reason and lanes. -/
structure Lost where
  source : Nat
  reason : Nat
  lanes  : LaneMask
deriving DecidableEq, Repr

/-- The fields a trap puts into the fault frame (R371, Table 5). -/
structure TrapInfo where
  code  : Nat
  deferred : Bool
  addr  : Nat := 0
  base  : Nat := 0
  lanes : LaneMask := 0
  info  : List Word := []
  cmd   : List Word := []
  apc   : Option Nat := none
  /-- The access that MEM_UNCORRECTABLE leaves pending (R375). -/
  acc   : Option Nat := none
  /-- Instructions the warp has issued since the report arrived (R372). -/
  skid  : Nat := 0
deriving DecidableEq, Repr

/-- An outstanding access (R213). `b` and `c` hold the lanes' operands of an atomic; `fault` is the deferred
trap of lanes that have been taken out (R209); `held` marks a load whose lost lanes TRET is to complete (R375); `noted` lists the shadow
lines that have raised their SCALE_ERROR (R96); `addrs` the address of each lane, which a frame reports. -/
structure Acc where
  id    : Nat
  w     : WarpId
  kind  : AccKind
  cls   : CntClass
  dst   : Option Dst
  lanes : LaneMask
  size  : Nat
  str   : Strength
  hint  : Resi
  pc    : Nat
  parts : List Part
  b     : List DWord
  c     : List DWord
  rel   : Rel
  rcd   : Option RelRec
  got   : List RelRec
  acq   : Acq
  lost  : Option Lost
  fault : Option TrapInfo
  held  : Bool
  noted : List Nat := []
  addrs : List Nat := []
deriving DecidableEq, Repr

/-- An L1 write-back under way (R260): the dirty bytes taken from the block, and the epoch that made it dirty (R256). -/
structure Wb where
  id    : Nat
  core  : Nat
  block : Nat
  bytes : BitVec 512
  mask  : BitVec 64
  hdr   : Option Word
  ctx   : Nat
  epoch : Nat := 0
deriving DecidableEq, Repr

/-- A drain request (R256): the core drains every epoch up to `epoch`; `wbs` is none until it has started. -/
structure Drain where
  id    : Nat
  core  : Nat
  epoch : Nat
  wbs   : Option (List Nat)
deriving DecidableEq, Repr

/-! ### Channel operations, copies, updates -/

/-- Where a barrier object lies. -/
inductive BarLoc where
  | spad (wg : WgId) (off : Nat)
  | home (key : Nat)
  /-- The partition of a cluster group that has retired: nothing backs it (R339). -/
  | gone
deriving DecidableEq, Repr

/-- Kinds of channel operation. -/
inductive ChKind where
  | push (unord : Bool)
  | popTry (anysrc anytag : Bool) (d c : Nat)
  /-- POP.wait: the landing place, the barrier and its address. -/
  | popWait (anysrc anytag : Bool) (land : WgId) (off : Nat) (bar : BarLoc) (va : Nat)
  /-- CHINIT: parameters, storage VA, destination pair. -/
  | chinit (params storage d : Nat)
deriving DecidableEq, Repr

/-- Where a channel operation is. `key` is the home key of its descriptor. -/
inductive ChLoc where
  /-- Issued; its release may still be to do. -/
  | issued
  /-- Held in a pairing table until the cycle, with its arrival number (R280). -/
  | held (key expiry arr : Nat)
  /-- On its way to the home. -/
  | forwarded (key : Nat)
  /-- A posted receive of the home die, with its arrival number (R283). -/
  | posted (key arr : Nat)
  /-- NACKed with a ticket (R337). -/
  | ticket (key : Nat)
  /-- Performed, or landed: an acknowledgement or a credit is awaited. -/
  | acked
  /-- A record, or EMPTY, is on its way to the popper. -/
  | delivered (rcd : Option (List Byte)) (srctag : Nat)
deriving DecidableEq, Repr

/-- A channel operation in flight (R275). -/
structure ChOp where
  id     : Nat
  w      : WarpId
  ctx    : Nat
  dev    : Nat
  kind   : ChKind
  handle : DWord
  rcd    : List Byte
  srctag : Nat
  sc     : Scope
  rel    : Rel
  acq    : Bool
  acqSt  : Acq
  loc    : ChLoc
  pc     : Nat
  launch : Bool
deriving DecidableEq, Repr

/-- A send in an overflow queue (R283), with the warp and agent that pushed it (R234). -/
structure Send where
  w      : WarpId
  agent  : Nat
  dev    : Nat
  ctx    : Nat
  desc   : Nat
  srctag : Nat
  unord  : Bool
  rcd    : List Byte
  /-- Its place in the context's overflow-queue area of the die (R342). -/
  slot   : Nat := 0
deriving DecidableEq, Repr

/-- The lists of a CPYX: scratchpad addresses of rows and columns, and 32-bit indexes (R292). -/
structure CopyLists where
  row  : Option Nat
  col  : Option Nat
  wide : Bool
deriving DecidableEq, Repr

/-- A copy command in a pool or on an engine (R285, R293). `before` names the accesses and updates it waits for, `got` lists the elements
formed and not yet written, with their destination codes, `wrote` has a bit for each unit written and `next` counts the elements written;
`fault` is the trap that ends it. -/
structure CopyOp where
  id      : Nat
  w       : WarpId
  cluster : Nat
  pc      : Nat
  words   : List DWord
  lists   : Option CopyLists
  before  : List Nat
  engine  : Option Nat
  next    : Nat
  done    : Bool
  fault   : Option TrapInfo
  scaleErr : Bool
  got     : Tab Nat := []
  wrote   : Nat := 0
deriving DecidableEq, Repr

/-- A CONVN task (R180); `scaleErr` notes a scale error met by its reads (R96). -/
structure ConvOp where
  id      : Nat
  w       : WarpId
  cluster : Nat
  pc      : Nat
  words   : List Word
  before  : List Nat
  engine  : Option Nat
  next    : Nat
  done    : Bool
  fault   : Option TrapInfo
  scaleErr : Bool := false
deriving DecidableEq, Repr

/-- Updates of a barrier and requests to a monitor table (R323, R334). -/
inductive UpdKind where
  | init (arrivals : Nat) (keep : Bool) (bytes : Nat)
  | arrive (n : Nat) (ret : Option Nat)
  | expect (bytes : Nat) (arv : Bool)
  | credit (bytes : Nat)
  /-- The arrival of a monitor on a word key (R335). -/
  | fired (word : Nat)
  /-- MON and MONX: word key, destination register and the barrier's location. -/
  | mon (word d : Nat)
  | monx (word d : Nat)
  /-- TSTAT's status word on its way to s[d]. -/
  | tstat (d : Nat)
deriving DecidableEq, Repr

/-- What waits for a credit: the operation that completes after it. -/
inductive CreditFor where
  | copy (id : Nat) | conv (id : Nat) | pop (id : Nat) | none
deriving DecidableEq, Repr

/-- An update under way. `cls` is the counter it holds; `done` when performed and only its acknowledgement is awaited. -/
structure Upd where
  id   : Nat
  w    : WarpId
  kind : UpdKind
  bar  : BarLoc
  va   : Nat
  cls  : Option CntClass
  rel  : Rel
  pc   : Nat
  res  : Option DWord
  ticket : Bool
  done : Bool
  for_ : CreditFor
deriving DecidableEq, Repr

/-- An armed monitor (R334), with the PC of its MON or MONX (R209). -/
structure Mon where
  word : Nat
  ctx  : Nat
  w    : WarpId
  bar  : BarLoc
  va   : Nat
  pc   : Nat
deriving DecidableEq, Repr

/-- A reservation ticket, the cycle its slot was offered, the home transaction it is for, on a conflict chain, and the device and launch
whose phase word `op` the management core watches (R302, R337). -/
structure Ticket where
  op      : Nat
  offered : Option Nat
  txn     : Option Txn := none
  launch  : Option (Nat × Nat) := none
deriving DecidableEq, Repr

/-! ### Traps -/

/-- A deferred trap on its way to its warp (R209); `act` is the access whose count goes with it. -/
structure Report where
  id : Nat
  w  : WarpId
  t  : TrapInfo
deriving DecidableEq, Repr

/-! ### Warps -/

/-- A register in the pending table. -/
inductive PendReg where
  | v (r : Nat) | s (r : Nat) | p (r : Nat) | k (r : Nat)
deriving DecidableEq, Repr

/-- A pending result (R65): written when the cycle reaches `due`, or, with none, when operation `op` completes. `ovw` marks an
overwrite, which holds the old physical register; `old` a vector register that a later write has remapped; `lanes` the lanes that the
operation has still to deliver (a later write takes lanes away). -/
structure Pend where
  reg   : PendReg
  due   : Option Nat
  op    : Nat
  ovw   : Bool
  old   : Bool
  lanes : LaneMask
deriving DecidableEq, Repr

/-- An operation that one of the six outstanding counters holds (R30, R294), in issue order: a counter is the number of entries of its
class; an operation that has completed behind an older one is `ended`. -/
structure WOp where
  cls   : CntClass
  id    : Nat
  ended : Bool
deriving DecidableEq, Repr

/-- An entry of the divergence stack (R317). -/
structure DivEntry where
  rpc   : Nat
  rmask : LaneMask
  pmask : LaneMask
  ppc   : Nat
deriving DecidableEq, Repr

/-- The predicate prefix (R69). -/
structure Prefix where
  remaining : Nat
  thenLeft  : Nat
  base      : LaneMask
  cond      : LaneMask
deriving DecidableEq, Repr

/-- A stage of a parked fence (R225, R258). -/
inductive FenceSt where
  | accs (ids : List Nat)
  | wbs (ids blocks : List Nat)
  | acq (a : Acq)
  | serial
  /-- The serialisation point has answered: clean copies are dropped (R258). -/
  | drop
  | ready
deriving DecidableEq, Repr

/-- Why a warp is parked (R327). A condition that has come true stays met, whatever happens to the barrier or the tile afterwards: `met` of
a TWAIT; of a WAIT, none while the barrier is still to be read, then whether the required phase is met (R331). -/
inductive Park where
  | sw
  | cnt (cls : CntClass) (n : Nat)
  | fence (o : Order) (sc : Scope) (st : FenceSt)
  | bar (b : BarLoc) (rho : Nat) (acq : Option Scope) (met : Option Bool)
  | tile (t : Nat) (drained : Bool) (met : Bool)
  | sleep (until_ : Nat)
  /-- A SLEEP whose time stands still while its workgroup is halted or swapped: the cycles left (R381). -/
  | slept (left : Nat)
deriving DecidableEq, Repr

/-- The YIELD rule (R319): the other warps that have still to issue, and the last cycle. -/
structure Yield where
  others : List WarpId
  until_ : Nat
deriving DecidableEq, Repr

/-- The fault frame of a warp (R371, R379). -/
structure Frame where
  code   : Nat := 0
  stat   : DWord := 0
  pc     : DWord := 0
  apc    : Option DWord := none
  addr   : DWord := 0
  base   : DWord := 0
  lanes  : DWord := 0
  mask   : DWord := 0
  info   : List Word := []
  cmd    : List Word := []
  pfx    : Option Prefix := none
  stack  : List DivEntry := []
  park   : List Park := []
  acc    : Option Nat := none
deriving DecidableEq, Repr

/-- A halt in progress (R370): instructions issued since, and whether the warp has stopped. -/
structure Halt where
  skid    : Nat
  stopped : Bool
deriving DecidableEq, Repr

/-- One warp (R28, R32, R35, Table 7 of the execution model). `v` lists the mapped vector registers; the other registers read 0 where unlisted; predicates p0-p7 are lane masks. -/
structure Warp where
  pc     : Nat := 0
  mask   : LaneMask := BitVec.allOnes 64
  exited : LaneMask := 0
  v      : Tab Lanes := []
  s      : Tab Word := []
  p      : Tab LaneMask := []
  k      : BitVec 4 := 0
  stack  : List DivEntry := []
  pfx    : Option Prefix := none
  pend   : List Pend := []
  ops    : List WOp := []
  park   : List Park := []
  yield  : Option Yield := none
  recs   : List RelRec := []
  hstat  : Word := 0
  frame  : Frame := {}
  frep   : Tab Lanes := []
  fscr   : Tab Word := []
  dq     : List TrapInfo := []
  dqOver : Bool := false
  ptrap  : Option TrapInfo := none
  halt   : Option Halt := none
  checked : Bool := false
  done   : Bool := false
  /-- In an image: `pc` is at the WAITCNT that has parked the warp (R400). -/
  behind : Bool := false
deriving DecidableEq, Repr

/-! ### Matrix queue -/

/-- A matrix entry with the register values it read at issue (R154, R155). -/
inductive MOp where
  | mapdef (m : Nat) (words : List Word) (bind : Option Nat)
  | tmma (mode : MmaMode) (src : Nat ⊕ Nat) (sparse : Bool) (t ma : Nat) (alpha : Word)
  | wbld (sp : Sparse) (fmt m off src c : Nat)
  | wbinv (off : Option Nat)
  | accz (t : Nat)
  | accld (rm : Rm) (sat : Bool) (t m : Nat)
  | accst (rm : Rm) (sat : Bool) (scale : Option Nat) (t m : Nat)
  | accsc (rm : Rm) (t : Nat) (lanes : LaneMask) (v : Lanes)
  | accadd (rm : Rm) (row : Bool) (t : Nat) (lanes : LaneMask) (v : Lanes)
  | accrd (col : Bool) (t e d : Nat) (lanes : LaneMask)
  | accwr (col : Bool) (t e : Nat) (lanes : LaneMask) (v : Lanes)
  | ttest (d : Nat)
deriving DecidableEq, Repr

/-- An entry of a core's matrix queue: its next step (chunk), whether it runs, the accesses and updates it waits for, and the cycle and
quadrant of its issue (R154). -/
structure MEntry where
  id      : Nat
  w       : WarpId
  op      : MOp
  pc      : Nat
  before  : List Nat
  running : Bool
  next    : Nat
  resumed : Bool
  scaleErr : Bool
  badWord : Bool
  test    : Option Nat
  came    : Option (Nat × Nat) := none
deriving DecidableEq, Repr

/-! ### Workgroups -/

/-- States of a workgroup (R30, R358, R374). -/
inductive WgSt where
  | running | draining | stopping | saving | swapped | restoring | killed | retired
deriving DecidableEq, Repr

/-- States of a tile-table entry (R332). -/
inductive TileSt where
  | empty | filling | ready | draining
deriving DecidableEq, Repr

structure Tile where
  st    : TileSt := .empty
  base  : Word := 0
  len   : Word := 0
  bar   : Nat := 0
  rho   : Nat := 0
  rearm : Bool := false
deriving DecidableEq, Repr

/-- An operand map: its four words, and the tile entry it is bound to (R159, R162). -/
structure MapRec where
  words : List Word
  tile  : Option Nat
deriving DecidableEq, Repr

/-- A weight-buffer panel (R168): format code, sparsity, chunk count, its records' bytes after the panel header, the expanded elements
(numbered (64 * chunk + column) * Kc + position) that depend on words WBLD could not read (R386), whether it stands in the
core's physical weight buffer (R354), the cluster whose slice or HBM swap area holds its backing copy, whether the copy lies in the HBM swap
area (R352), and whether it can no longer be read (R385). -/
structure Panel where
  fmt   : Nat
  sp    : Sparse
  c     : Nat
  bytes : List Byte
  lost  : List Nat := []
  here  : Bool := true
  slice : Nat := 0
  area  : Bool := false
  bad   : Bool := false
deriving DecidableEq, Repr

/-- The place of a swap image (R352, R360): the cluster whose slice or HBM swap area holds it, its bytes, whether it lies in the HBM swap
area, and whether it can no longer be read (R385). -/
structure Image where
  slice : Nat
  bytes : Nat
  area  : Bool := false
  bad   : Bool := false
deriving DecidableEq, Repr

/-- One workgroup with everything it owns (R26, R28, R39, R42, R167). `spadErr` lists the failing words of its partition, `checkErr` those
of the check banks of its rows, keyed row * 32 + bank (R386). While it is swapped this record is its image (R360): `mq` holds its
matrix entries then, `seqw` its sequencer state word, `img` its place, and `redir` is the redirect tag: the core that last held the group
and forwards its updates (R361). -/
structure Wg where
  id     : WgId
  ctx    : Nat
  seq    : Nat
  x      : Nat
  y      : Nat
  z      : Nat
  cg     : Nat
  core   : Nat
  q0     : Nat
  regs   : Nat
  spadN  : Nat
  priv   : Nat
  accN   : Nat
  mapN   : Nat
  tileN  : Nat
  code   : Nat
  data   : Nat
  st     : WgSt
  halted : Bool
  owner  : Option Nat
  left   : Nat
  warps  : List Warp
  spad   : Mem
  hdrs   : Tab Word
  spadErr : Tab (BitVec 4)
  checkErr : Tab (BitVec 4) := []
  acc    : List (Tab Word)
  maps   : Tab MapRec
  tiles  : Tab Tile
  panels : Tab Panel
  mq     : List MEntry
  img    : Option Image
  seqw   : DWord := 0
  redir  : Option Nat := none
deriving DecidableEq, Repr

/-! ### Cores, clusters, dies -/

/-- A block in a core's L1: bytes, which are valid, which are dirty, the epoch that made it dirty, its header once the block has been filled, the context. -/
structure L1Block where
  bytes : BitVec 512 := 0
  valid : BitVec 64 := 0
  dirty : BitVec 64 := 0
  epoch : Nat := 0
  hdr   : Option Word := none
  ctx   : Nat := 0
deriving DecidableEq, Repr

/-- A TLB entry (R349): context, size code, VA page and leaf. -/
structure TlbEntry where
  ctx  : Nat
  size : Nat
  page : Nat
  leaf : DWord
deriving DecidableEq, Repr

/-- A line of an instruction buffer: context, line number (VA / 64), its 512 bits (R54). -/
structure IbLine where
  ctx  : Nat
  line : Nat
  bits : BitVec 512
deriving DecidableEq, Repr

/-- A quadrant: instruction buffer, issue pointers, cycle at which the vector pipe is free, cycle of the last issue (R311). -/
structure Quad where
  ibuf  : List IbLine := []
  vptr  : Nat := 15
  nptr  : Nat := 15
  vfree : Nat := 0
  last  : Option Nat := none
  slots : Tab WarpId := []
deriving DecidableEq, Repr

/-- States of a scratchpad bank (R387). -/
inductive BankSt where
  | rebuilding | rebuilt | retired
deriving DecidableEq, Repr

/-- A core: L1, epochs and signatures (R254 to R256), matrix queue, fencing (R178), TLB and filter, quadrants, scratchpad banks with the
cycles of their corrected errors and the banks with an error that survived a rewrite (R387). -/
structure Core where
  l1     : Tab L1Block := []
  epoch  : Nat := 0
  sig    : BitVec 512 := 0
  closed : List (Nat × BitVec 512) := []
  mq     : List MEntry := []
  fenced : BitVec 4 := 0
  steps  : Nat := 0
  total  : Nat := 0
  lastCtx : Nat := 0
  tlb    : List TlbEntry := []
  bloom  : BitVec 1024 := 0
  quads  : List Quad := []
  banks  : Tab BankSt := []
  ceBank : Tab (List Nat) := []
  stuck  : List Nat := []
deriving DecidableEq, Repr

/-- A bind record: its two words (R306). -/
structure Bind where
  w0 : DWord
  w1 : DWord
deriving DecidableEq, Repr

/-- A cluster: its slot table (R306), the pool it last stole from (R293), its L2 TLB (R349), swap ways in use by context (R352). -/
structure Cluster where
  slots  : List Bind := []
  steal  : Nat := 0
  tlb    : List TlbEntry := []
  swapUse : Tab Nat := []
deriving DecidableEq, Repr

/-- A die: overflow queues, monitors, tickets, bucket levels, descriptor caches of its view units, and the push times of the records
of the channels whose descriptors it homes (R300). -/
structure Die where
  ovf    : List Send := []
  mons   : List Mon := []
  monQ   : List Ticket := []
  postQ  : List Ticket := []
  chainQ : Tab (List Ticket) := []
  level  : Tab Int := []
  refill : Nat := 0
  vds    : List ((Nat × Nat) × List DWord) := []
  evSeq  : Nat := 0
  age    : Tab (List Nat) := []
deriving DecidableEq, Repr

/-! ### Devices -/

/-- States of an admitted launch (R301). -/
inductive LaunchSt where
  | waiting | voting | placing
deriving DecidableEq, Repr

/-- An admitted launch: record, chosen kernel descriptor, completion counters (R46), time and mark of ageing (R300), phase words with
an armed monitor (R302), withdrawn cluster groups (R357), the die of each die group (R27). -/
structure Launch where
  seq    : Nat
  ctx    : Nat
  prio   : Nat
  lr     : List DWord
  kd     : List DWord
  lrVa   : Nat
  st     : LaunchSt
  metAt  : Option Nat
  nextCg : Nat
  ended  : Bool
  cgLeft : Tab Nat
  dgLeft : Tab Nat
  grid   : Nat
  vote   : Option Nat
  watch  : List Nat
  again  : List Nat
  dgDie  : Tab Nat
  aged   : Bool
deriving DecidableEq, Repr

/-- An event queue (R390). -/
structure Evq where
  ring     : Nat := 0
  k        : Nat := 0
  vec      : Nat := 0
  mirror   : Nat := 0
  written  : Nat := 0
  consumed : Nat := 0
  dropped  : Nat := 0
  signal   : Bool := false
deriving DecidableEq, Repr

/-- An import-table entry (R348). -/
structure Import where
  fabric   : Bool
  device   : Nat
  srcCtx   : Nat
  acctCtx  : Nat
  writable : Bool
  base     : Nat
  len      : Nat
deriving DecidableEq, Repr

/-- One cluster group under pre-emption and its deadline in ns (R358). -/
inductive PgSt where
  | draining | stopping | saving | swapped | killed | done
deriving DecidableEq, Repr

structure PGroup where
  cg    : CgId
  st    : PgSt
  since : Nat
deriving DecidableEq, Repr

/-- A pre-emption under way (R357). -/
structure Preempt where
  ctx     : Nat
  mode    : Nat
  clusters : List Nat
  drainNs : Nat
  swapNs  : Nat
  groups  : List PGroup
deriving DecidableEq, Repr

/-- A TLB_INVAL waiting for its answers (R349): the operations it waits for, and the word of its mailbox response, if it came that way. -/
structure Inval where
  ctx   : Nat
  accs  : List Nat
  resp  : Option DWord
deriving DecidableEq, Repr

/-- The bring-up registers of Table 14 and the mode of the last start. -/
structure Regs where
  point     : Nat := 7
  cap       : Nat := 7
  force     : Nat := 7
  want      : Option (Nat × Nat) := none
  interval  : Nat := 4096
  scrub     : Nat := 24
  swapMask  : BitVec 16 := 0xFC00
  wayMask   : List (BitVec 16) := List.replicate 16 0xFFFF
  ceLimit   : Nat := 1024
  linkLimit : Nat := 4096
  fatal     : Nat := 0
  fatalDie  : Nat := 0
  minimal   : Bool := false
  reason    : Nat := 0
  failed    : Nat := 0
  ready     : Bool := true
  rsvBase   : Nat := 0x2FFFE00000
  rsvSize   : Nat := 0x200000
  hbmLinks  : Tab (Nat × Nat) := []
  d2dLinks  : Tab (Nat × Nat) := []
  devLinks  : Tab (Nat × Nat) := []
  ceCount   : Tab Nat := []
  linksDown : List Nat := []
  retrain   : List (LinkClass × Nat) := []
deriving DecidableEq, Repr

/-- A push window (R297): consume count, bytes staged and written in each slot. -/
structure Window where
  n     : Nat := 0
  bytes : Tab Byte := []
  mirror : Bool := false
deriving DecidableEq, Repr

/-- Firmware images (R393): digest and version of the running image, and of the image in flash that the next start is to run. -/
structure Firmware where
  running : Nat := 0
  version : Nat := 0
  staged  : Option (Nat × Nat) := none
  /-- The image in flash carries a signature that the boot ROM accepts. -/
  signed  : Bool := true
deriving DecidableEq, Repr

/-- A device: clocks, context and import tables, push windows, event queues, mailboxes, launches, and what its host link last returned
(`hread`, with the poisoned-data indication `hpoison`). -/
structure Dev where
  cycle   : Nat := 0
  ns      : Nat := 0
  frac    : Nat := 0
  seqNext : Nat := 1
  fused   : List Nat := []
  regs    : Regs := {}
  ctxs    : Tab (List DWord) := []
  imports : Tab Import := []
  wins    : Tab Window := []
  evqs    : Tab Evq := []
  mbox    : Tab Byte := []
  mboxIn  : List Nat := []
  inval   : Option Inval := none
  dbg     : Mem := []
  dbgOwner : Option Nat := none
  msix    : List Nat := []
  launches : Tab Launch := []
  agedCh  : List Nat := []
  rr      : List Nat := []
  hread   : List Byte := []
  hpoison : Bool := false
  preempts : List Preempt := []
  fw      : Firmware := {}
  up      : Bool := true
deriving DecidableEq, Repr

/-! ### The whole machine -/

/-- The machine. `scrubbed` lists the blocks that a scrub has poisoned and that nothing has touched since (R382), `cut` those
whose read from HBM under way has exhausted its replays (R388). `agenda`, `cur`, `nextId`, `free`, `uses` (the number of the last use of an L2 line), `hold` (why the move
under way must wait), `mover` (that move) and `heldNow` (the warps that something holds at issue while a YIELD issues,
R310) are the model's own (log 2, 3, 36, 101). -/
structure State where
  agenda   : List Move
  cur      : Option WarpId
  nextId   : Nat
  free     : Nat
  uses     : Nat
  hold     : Hold
  mover    : Option Move
  heldNow  : List WarpId
  domain   : List Nat
  hbm      : Mem
  host     : Mem
  blocks   : Tab Block
  errs     : Tab ErrMask
  scrubbed : List Nat
  cut      : List Nat
  replicas : Tab Replica
  l2       : Tab L2Line
  txns     : List Txn
  records  : List RelRec
  lost     : List Nat
  scOrder  : List ScEntry
  devs     : Tab Dev
  dies     : Tab Die
  clusters : Tab Cluster
  cores    : Tab Core
  wgs      : List Wg
  accs     : List Acc
  wbs      : List Wb
  drains   : List Drain
  chops    : List ChOp
  copies   : List CopyOp
  convs    : List ConvOp
  upds     : List Upd
  reports  : List Report
deriving DecidableEq, Repr

/-- The move under way must wait. -/
def Hold.waits : Hold → Bool | .none => false | _ => true
def State.stall (s : State) : Bool := s.hold.waits

/-! ### Stops -/

/-- Why the machine stops with a fault. -/
inductive Fault where
  /-- A warp instruction is executed while no live warp is selected (`cur`): raised by every meaning of the 133 warp instructions.
  Safe: the issue stage never reaches it. -/
  | noWarp
deriving DecidableEq, Repr

/-- Why an instruction has no meaning. -/
inductive Refusal where
  /-- The instruction of this mnemonic is not modelled. Safe. -/
  | notModelled (mnemonic : String)
deriving DecidableEq, Repr

/-- The machine right after reset: one device in its normal mode, nothing resident, memory with nothing listed; die 0 has raised
START_REPORT (R394). -/
def State.reset : State :=
  { agenda := [], cur := none, nextId := 0, free := 0, uses := 0, hold := .none, mover := none, heldNow := [], domain := [0], hbm := [], host := [], blocks := [], errs := [], scrubbed := [], cut := [], replicas := [],
    l2 := [], txns := [], records := [], lost := [], scOrder := [], devs := [], dies := [(0, { evSeq := 1 })], clusters := [], cores := [], wgs := [],
    accs := [], wbs := [], drains := [], chops := [], copies := [], convs := [], upds := [], reports := [] }

end Sys2Proof.Machine
end

