-- ==== Sys2Proof/Machine/Base.lean ====
section
/-! DEFINITION. The plainest named operations: tables, memory, the parts of the state, event records. -/

namespace Sys2Proof.Machine

/-! ### Tables -/

/-- The entry of a key, if listed. -/
def tabGet {α : Type} : Tab α → Nat → Option α
  | [], _ => none
  | (k, v) :: t, i => if k = i then some v else tabGet t i

/-- Write an entry, keeping the keys rising. -/
def tabSet {α : Type} : Tab α → Nat → α → Tab α
  | [], i, v => [(i, v)]
  | (k, w) :: t, i, v => if i < k then (i, v) :: (k, w) :: t else if k = i then (i, v) :: t else (k, w) :: tabSet t i v

/-- Remove an entry. -/
def tabErase {α : Type} : Tab α → Nat → Tab α
  | [], _ => []
  | (k, w) :: t, i => if k = i then tabErase t i else (k, w) :: tabErase t i

/-- The entry of a key, or a default. -/
def tabGetD {α : Type} (t : Tab α) (i : Nat) (d : α) : α := match tabGet t i with | some v => v | none => d

/-- Put an element into a list before the first of larger rank. -/
def insertBy {α : Type} (rank : α → Nat) (x : α) : List α → List α
  | [] => [x]
  | y :: ys => if rank x < rank y then x :: y :: ys else y :: insertBy rank x ys

/-- A list in order of rank; equal ranks keep their order. -/
def sortBy {α : Type} (rank : α → Nat) (l : List α) : List α := l.foldl (fun a x => insertBy rank x a) []

/-! ### Memory: unlisted addresses read as 0 (R2, log 4) -/

/-- One byte of memory. -/
def memGet : Mem → Nat → Byte
  | [], _ => 0
  | (k, v) :: t, a => if k = a then v else memGet t a

/-- Write one byte, keeping the canonical form: addresses rising, no byte 0 listed. -/
def memSet : Mem → Nat → Byte → Mem
  | [], a, b => if b = 0 then [] else [(a, b)]
  | (k, v) :: t, a, b =>
    if a < k then (if b = 0 then (k, v) :: t else (a, b) :: (k, v) :: t)
    else if k = a then (if b = 0 then t else (a, b) :: t)
    else (k, v) :: memSet t a b

/-- The canonical form. -/
def Memory.wf : Mem → Bool
  | [] => true
  | [(_, v)] => v != 0
  | (k, v) :: (k', v') :: t => v != 0 && decide (k < k') && Memory.wf ((k', v') :: t)

/-- `n` bytes from `a`, little-endian (R2). -/
def memRead (m : Mem) (a : Nat) : Nat → Nat
  | 0 => 0
  | n + 1 => (memGet m a).toNat + 256 * memRead m (a + 1) n

/-- Store the low `n` bytes of `v` from `a`, little-endian. -/
def memWrite (m : Mem) (a : Nat) : Nat → Nat → Mem
  | 0, _ => m
  | n + 1, v => memWrite (memSet m a (BitVec.ofNat 8 v)) (a + 1) n (v / 256)

/-- Bytes of a number, lowest first. -/
def bytesOf : Nat → Nat → List Byte
  | 0, _ => []
  | n + 1, v => BitVec.ofNat 8 v :: bytesOf n (v / 256)

/-- The number whose bytes are listed, lowest first. -/
def ofBytes : List Byte → Nat
  | [] => 0
  | b :: bs => b.toNat + 256 * ofBytes bs

/-- Store a list of bytes. -/
def memWriteBytes (m : Mem) (a : Nat) : List Byte → Mem
  | [] => m
  | b :: bs => memWriteBytes (memSet m a b) (a + 1) bs

/-- Byte `i` of a 512-bit block. -/
def blockByte (x : BitVec 512) (i : Nat) : Byte := x.extractLsb' (8 * i) 8

/-- The bit mask of a byte mask. -/
def byteMask (m : BitVec 64) : BitVec 512 :=
  BitVec.ofNat 512 ((List.range 64).foldl (fun acc i => acc + (if m.getLsbD i then 255 * 256 ^ i else 0)) 0)

/-- The bytes of `new` where the mask is set, else those of `old`. -/
def mergeBytes (old new : BitVec 512) (m : BitVec 64) : BitVec 512 :=
  (old &&& ~~~(byteMask m)) ||| (new &&& byteMask m)

/-- The mask of `n` bytes from byte `o` of a block. -/
def maskAt (o n : Nat) : BitVec 64 := BitVec.ofNat 64 ((2 ^ n - 1) * 2 ^ o)

/-! ### Numbers of agents, clusters and cores (R11, R12) -/

def agentOfKey (key : Nat) : Nat := key / 2 ^ 59
/-- H of a home key: stack * 2^36 + offset. -/
def hOfKey (key : Nat) : Nat := key % 2 ^ 59
def mkKey (agent h : Nat) : Nat := agent * 2 ^ 59 + h
def blockOf (key : Nat) : Nat := key / 64
def keyOfBlock (b : Nat) : Nat := b * 64
def agentOfBlock (b : Nat) : Nat := agentOfKey (b * 64)
def devOfAgent (a : Nat) : Nat := a / 4
def agentOfCore (c : Nat) : Nat := c / 144
def agentOfCluster (c : Nat) : Nat := c / 36
def clusterOfCore (c : Nat) : Nat := c / 4
def devOfCore (c : Nat) : Nat := c / 576
/-- A device's number in its own coherence domain (R11, log 37). -/
def domainNumber (d : Nat) : Nat := d % 8
/-- The die-local core number 4 * cluster + position (R255). -/
def dieLocalCore (c : Nat) : Nat := c % 144

/-! ### Access to the parts of the state -/

/-- The coherence domain of a device: a device outside the domain of the state is alone in its own (R18, log 37). -/
def State.domainOf (s : State) (d : Nat) : List Nat := if s.domain.contains d then s.domain else [d]

def State.dev (s : State) (d : Nat) : Dev := tabGetD s.devs d {}
def State.setDev (s : State) (d : Nat) (v : Dev) : State := { s with devs := tabSet s.devs d v }
def State.modDev (s : State) (d : Nat) (f : Dev → Dev) : State := s.setDev d (f (s.dev d))
def State.die (s : State) (a : Nat) : Die := tabGetD s.dies a {}
def State.modDie (s : State) (a : Nat) (f : Die → Die) : State := { s with dies := tabSet s.dies a (f (s.die a)) }
def State.cluster (s : State) (c : Nat) : Cluster := tabGetD s.clusters c {}
def State.modCluster (s : State) (c : Nat) (f : Cluster → Cluster) : State := { s with clusters := tabSet s.clusters c (f (s.cluster c)) }
def State.coreAt (s : State) (c : Nat) : Core := tabGetD s.cores c {}
def State.modCore (s : State) (c : Nat) (f : Core → Core) : State := { s with cores := tabSet s.cores c (f (s.coreAt c)) }
def Core.quad (c : Core) (q : Nat) : Quad := c.quads.getD q {}
/-- A core fused off at manufacture: it holds no state and answers nothing (R22). -/
def State.fusedCore (s : State) (c : Nat) : Bool := (s.dev (devOfCore c)).fused.contains (c % 576)
/-- Change quadrant `q`; the list holds four quadrants. -/
def Core.modQuad (c : Core) (q : Nat) (f : Quad → Quad) : Core :=
  { c with quads := (List.range 4).map (fun i => if i = q then f (c.quad i) else c.quad i) }

/-- Number for a new operation (numbers start at 1), and the state that has used it. -/
def State.fresh (s : State) : Nat × State := (s.nextId + 1, { s with nextId := s.nextId + 1 })

/-- The move under way must wait; what it first had to wait for stands. -/
def State.await (s : State) (h : Hold) : State := if s.stall then s else { s with hold := h }

/-- Put a move at the head of the agenda. -/
def State.soon (s : State) (m : Move) : State := { s with agenda := m :: s.agenda }

def State.cycle (s : State) (d : Nat) : Nat := (s.dev d).cycle
def State.clock (s : State) (d : Nat) : Nat := (s.dev d).ns

/-- The workgroup of a name, if it is still known. -/
def State.wg (s : State) (id : WgId) : Option Wg := s.wgs.find? (fun g => g.id = id)
def State.modWg (s : State) (id : WgId) (f : Wg → Wg) : State :=
  { s with wgs := s.wgs.map (fun g => if g.id = id then f g else g) }
def State.warp (s : State) (w : WarpId) : Option Warp := (s.wg w.wg).bind (fun g => g.warps[w.warp]?)
def State.modWarp (s : State) (w : WarpId) (f : Warp → Warp) : State :=
  s.modWg w.wg (fun g => { g with warps := g.warps.modify w.warp f })

/-- A workgroup that holds its place on a core (not swapped, killed or retired). -/
def Wg.resident (g : Wg) : Bool :=
  match g.st with | .swapped | .killed | .restoring => false | _ => true

/-- Core position within the cluster. -/
def Wg.pos (g : Wg) : Nat := g.core % 4

def modAcc (s : State) (id : Nat) (f : Acc → Acc) : State :=
  { s with accs := s.accs.map (fun a => if a.id = id then f a else a) }
def State.acc? (s : State) (id : Nat) : Option Acc := s.accs.find? (fun a => a.id = id)
def State.dropAcc (s : State) (id : Nat) : State := { s with accs := s.accs.filter (fun a => a.id != id) }
def modChop (s : State) (id : Nat) (f : ChOp → ChOp) : State :=
  { s with chops := s.chops.map (fun a => if a.id = id then f a else a) }
def State.chop? (s : State) (id : Nat) : Option ChOp := s.chops.find? (fun a => a.id = id)
def State.dropChop (s : State) (id : Nat) : State := { s with chops := s.chops.filter (fun a => a.id != id) }
def modUpd (s : State) (id : Nat) (f : Upd → Upd) : State :=
  { s with upds := s.upds.map (fun a => if a.id = id then f a else a) }
def State.upd? (s : State) (id : Nat) : Option Upd := s.upds.find? (fun a => a.id = id)
def State.dropUpd (s : State) (id : Nat) : State := { s with upds := s.upds.filter (fun a => a.id != id) }
def modCopy (s : State) (id : Nat) (f : CopyOp → CopyOp) : State :=
  { s with copies := s.copies.map (fun a => if a.id = id then f a else a) }
def State.copy? (s : State) (id : Nat) : Option CopyOp := s.copies.find? (fun a => a.id = id)
def State.dropCopy (s : State) (id : Nat) : State := { s with copies := s.copies.filter (fun a => a.id != id) }
def modConv (s : State) (id : Nat) (f : ConvOp → ConvOp) : State :=
  { s with convs := s.convs.map (fun a => if a.id = id then f a else a) }
def State.conv? (s : State) (id : Nat) : Option ConvOp := s.convs.find? (fun a => a.id = id)
def State.dropConv (s : State) (id : Nat) : State := { s with convs := s.convs.filter (fun a => a.id != id) }

/-! ### Outstanding counters (R30, R294) -/

/-- The value of a warp's outstanding counter. -/
def Warp.cnt (x : Warp) (k : CntClass) : Nat := (x.ops.filter (fun o => o.cls == k)).length

/-- Drop the completed operations at the front of a class: a counter falls in issue order. -/
def settleOps (k : CntClass) : List WOp → List WOp
  | [] => []
  | o :: os => if o.cls == k then (if o.ended then settleOps k os else o :: os) else o :: settleOps k os

/-- Count an operation at issue. -/
def State.opBegin (s : State) (w : WarpId) (k : CntClass) (id : Nat) : State :=
  s.modWarp w (fun (x : Warp) => { x with ops := x.ops ++ [{ cls := k, id := id, ended := false }] })
/-- An operation has completed. -/
def State.opEnd (s : State) (w : WarpId) (k : CntClass) (id : Nat) : State :=
  s.modWarp w (fun (x : Warp) => { x with ops := settleOps k (x.ops.map (fun o => if o.cls == k && o.id = id then { o with ended := true } else o)) })
/-- The counter of a class holds its most (R294). -/
def Warp.full (x : Warp) (k : CntClass) : Bool := decide (4095 ≤ x.cnt k)

/-! ### Context records (R342) -/

def State.ctxWord (s : State) (dev ctx i : Nat) : Nat := ((tabGetD (s.dev dev).ctxs ctx []).getD i 0).toNat
def State.ctxValid (s : State) (dev ctx : Nat) : Bool := s.ctxWord dev ctx 0 % 2 = 1
def bits (v lo n : Nat) : Nat := v / 2 ^ lo % 2 ^ n

/-! ### Program counters (R53) -/

/-- The linear slot number of a line VA and slot, and back. -/
def linearSlot (va slot : Nat) : Nat := 5 * (va / 64) + slot
def lineVa (pc : Nat) : Nat := 64 * (pc / 5)
def slotOf (pc : Nat) : Nat := pc % 5
/-- A PC in a 64-bit system register: [48:6] line VA, [2:0] slot (Table 4 of chapter 15). -/
def pcWord (pc : Nat) : Nat := lineVa pc + slotOf pc
/-- The largest linear slot R53 allows. -/
def maxPc : Nat := 5 * (0x1FFFFFFFFFFC0 / 64) + 4

/-! ### Events (R389, R390) -/

/-- Push one MSI-X signal (newest first). -/
def State.msi (s : State) (d v : Nat) : State := s.modDev d (fun x => { x with msix := v :: x.msix })

/-- Write host memory of a device, whose addresses are keyed `dev * 2 ^ 64 + address`. -/
def hostKey (d a : Nat) : Nat := d * 2 ^ 64 + a % 2 ^ 64
def State.hostStore (s : State) (d a n v : Nat) : State := { s with host := memWrite s.host (hostKey d a) n v }
def State.hostLoad (s : State) (d a n : Nat) : Nat := memRead s.host (hostKey d a) n

/-- Write one event record to a queue (R390): to the ring if there is room, otherwise it is dropped and counted. `q` is the context
number, or 64 for the device queue; `die` raises it and `named` is the die the record names. -/
def State.raiseEvent (s : State) (d q die named ty : Nat) (pay : List Nat) : State :=
  let agent := 4 * d + die
  let seq := (s.die agent).evSeq
  let s1 := s.modDie agent (fun x => { x with evSeq := x.evSeq + 1 })
  let e := tabGetD (s1.dev d).evqs q {}
  if e.k = 0 then s1
  else if 2 ^ e.k ≤ e.written - e.consumed then
    s1.modDev d (fun x => { x with evqs := tabSet x.evqs q { e with dropped := min (e.dropped + 1) 0xFFFF } })
  else
    let devEv : Bool := q = 64
    let w0 := ty + (if devEv then 2 ^ 22 else q * 2 ^ 16) + named * 2 ^ 24 + e.dropped * 2 ^ 32
    let at_ := e.ring + 64 * (e.written % 2 ^ e.k)
    let rec_ := [w0, seq, s1.clock d] ++ pay ++ List.replicate (5 - pay.length) 0
    let s2 := (List.range 8).foldl (fun (t : State) i => t.hostStore d (at_ + 8 * i) 8 (rec_.getD i 0)) s1
    let s3 := s2.hostStore d e.mirror 8 (e.written + 1)
    s3.modDev d (fun x => { x with evqs := tabSet x.evqs q { e with written := e.written + 1, dropped := 0, signal := true } })

end Sys2Proof.Machine
end

