-- ==== Sys2Proof/Machine/Ecc.lean ====
section
/-! DEFINITION. The check codes of the side bits (R98, R99, R382, R383): the code words stored beside a block, and what a block with soft
errors reads as. -/

namespace Sys2Proof.Machine

/-! ### Hamming positions -/

/-- The (k + 1)th integer of 3 or more that is not a power of two (R383). -/
def hamPos (k : Nat) : Nat :=
  match (List.range 12).find? (fun c => let p := k + 1 + c; Nat.log2 p + 1 = c && 2 ^ Nat.log2 p != p) with
  | some c => k + 1 + c
  | none => 0

/-- XOR of the positions of the bits set in a list of flags: bit `j` is the check bit of position bit `j`. -/
def hamSyndrome : List Bool → Nat → Nat
  | [], _ => 0
  | b :: bs, k => (if b then hamPos k else 0) ^^^ hamSyndrome bs (k + 1)

def parity (l : List Bool) : Bool := l.foldl Bool.xor false

/-- The low `n` bits of a number, lowest first. -/
def lowBits (n v : Nat) : List Bool := (List.range n).map (fun i => v.testBit i)

/-! ### The tag word (R266, R383) -/

/-- Tag bits [10:0] of a block: hallmark, typed, tolerant, and a reserved 0 (Table 11 of the formats chapter). -/
def Block.tag (b : Block) : Nat := b.hall.toNat + (if b.typed then 256 else 0) + (if b.tol then 512 else 0)

/-- The 16-bit tag word of 11 tag bits. -/
def tagCode (t : Nat) : Nat :=
  let h := hamSyndrome (lowBits 11 t) 0
  t + h * 2 ^ 11 + (if parity (lowBits 11 t ++ lowBits 4 h) then 2 ^ 15 else 0)

/-- A tag word as stored: the tag bits after correction and whether a bit was corrected, or none when it is uncorrectable. -/
def tagDecode (w : Nat) : Option (Nat × Bool) :=
  let t := w % 2 ^ 11
  let s := hamSyndrome (lowBits 11 t) 0 ^^^ bits w 11 4
  if parity (lowBits 16 w) then
    match (List.range 11).find? (fun k => hamPos k = s) with
    | some k => some (t ^^^ 2 ^ k, true)
    | none => if s = 0 || (List.range 4).any (fun j => s = 2 ^ j) then some (t, true) else none
  else if s = 0 then some (t, false) else none

/-- A block with the tag bits `t`. -/
def Block.withTag (b : Block) (t : Nat) : Block :=
  { b with hall := BitVec.ofNat 8 t, typed := t.testBit 8, tol := t.testBit 9 }

/-! ### The untyped payload: Reed-Solomon over GF(2^8) (R383) -/

/-- Multiplication by x modulo 0x11D. -/
def gfDouble (a : Nat) : Nat := if 128 ≤ a then (2 * a) ^^^ 0x11D else 2 * a
def gfMul (a b : Nat) : Nat := (List.range 8).foldl (fun r i => gfDouble r ^^^ (if b.testBit (7 - i) then a else 0)) 0
/-- The power of the primitive element. -/
def gfExp (i : Nat) : Nat := (List.range i).foldl (fun r _ => gfDouble r) 1
/-- Coefficients of the generator g(x), lowest first. -/
def rsGenerator : List Nat :=
  (List.range 6).foldl (fun g i => List.zipWith Nat.xor (0 :: g) (g.map (gfMul (gfExp i)) ++ [0])) [1]
/-- Check bytes r0 to r5 of the 64 data bytes: the remainder of the division by g(x). -/
def rsCheckBytes (x : BitVec 512) : List Nat :=
  let g := rsGenerator.take 6
  (List.range 64).foldl (fun r i =>
    let fb := (blockByte x i).toNat ^^^ r.getD 5 0
    List.zipWith (fun o c => Nat.xor o (gfMul fb c)) (0 :: r.take 5) g) [0, 0, 0, 0, 0, 0]

/-! ### The typed payload: extended Hamming and CRC-5 (R99, R383) -/

/-- CRC-5 of the covered bits, generator x^5 + x^2 + 1. -/
def crc5 (l : List Bool) : Nat :=
  l.foldl (fun reg b =>
    let fb := Bool.xor (reg / 16 % 2 = 1) b
    let r := reg * 2 % 32
    if fb then r ^^^ 5 else r) 31

/-- The covered bits of one element of a tolerant block, from the least significant (R99, Table 12): first bit and count. -/
def coveredOf (f : Fmt) : Nat × Nat := if f.isFloat then (f.m, f.width - f.m) else (0, f.width)

/-- Positions of the covered data bits of a typed block in order (R383). -/
def coveredBits (hdr : Word) (tol : Bool) : List Nat :=
  match (if tol then Fmt.ofCode (hdrFmt hdr) else none) with
  | none => List.range 512
  | some f =>
    if f.isFloat then
      (List.range (512 / f.width)).flatMap (fun e => (List.range (f.width - f.m)).map (fun i => e * f.width + f.m + i))
    else List.range 512

/-- Check bits c0 to c15 of the covered bits. -/
def typedChecks (cov : List Bool) : Nat :=
  let h := hamSyndrome cov 0
  h + (if parity (cov ++ lowBits 10 h) then 2 ^ 10 else 0) + crc5 cov * 2 ^ 11

/-! ### Side bits and their decoding -/

/-- The 48 payload bits of a block that holds `x` (R98). -/
def Block.payload (b : Block) (x : BitVec 512) : Nat :=
  if b.typed then
    b.hdr.toNat + 2 ^ 32 * typedChecks ((coveredBits b.hdr b.tol).map (fun i => x.getLsbD i) ++ lowBits 32 b.hdr.toNat)
  else (rsCheckBytes x).foldr (fun r v => r + 256 * v) 0

/-- The 64 side bits written beside a block that holds `x` (Table 11 of the formats chapter). -/
def Block.side (b : Block) (x : BitVec 512) : BitVec 64 := BitVec.ofNat 64 (tagCode b.tag + 2 ^ 16 * b.payload x)

/-- What a decoder makes of a block: the data and header it delivers and whether it corrected a bit, or that it cannot. -/
inductive EccResult where
  | ok (data : BitVec 512) (hdr : Word) (corrected : Bool)
  | bad
deriving DecidableEq, Repr

/-- The untyped payload: the word written is restored while at most three of the 70 symbols are bad (R382). -/
def rsCheck (x : BitVec 512) (e : ErrMask) : EccResult :=
  let n := ((List.range 64).filter (fun i => blockByte e.data i != 0)).length
    + ((List.range 6).filter (fun i => e.side.extractLsb' (16 + 8 * i) 8 != 0)).length
  if n = 0 then .ok x 0 false else if n ≤ 3 then .ok x 0 true else .bad

/-- The typed payload as stored, data `x` and the 48 payload bits `pay`: extended Hamming, then CRC-5 over the corrected bits (R382,
R383). `pos` lists the covered data bits. -/
def typedCheck (pos : List Nat) (x : BitVec 512) (pay : Nat) : EccResult :=
  let h := BitVec.ofNat 32 pay
  let chk := pay / 2 ^ 32
  let cov := pos.map (fun i => x.getLsbD i) ++ lowBits 32 h.toNat
  let s := hamSyndrome cov 0 ^^^ chk % 2 ^ 10
  let good := fun (l : List Bool) => crc5 l = bits chk 11 5
  if parity (cov ++ lowBits 11 chk) then
    match (List.range cov.length).find? (fun k => hamPos k = s) with
    | some k =>
      if good (cov.modify k (fun b => !b)) then
        if k < pos.length then .ok (x ^^^ (1#512 <<< (pos.getD k 0))) h true else .ok x (h ^^^ (1#32 <<< (k - pos.length))) true
      else .bad
    | none => if (s = 0 || (List.range 10).any (fun j => s = 2 ^ j)) && good cov then .ok x h true else .bad
  else if s = 0 && good cov then .ok x h false else .bad

/-- What HBM's copy of a block that was written as `x` reads as under its soft errors. -/
def payloadCheck (blk : Block) (x : BitVec 512) (e : ErrMask) : EccResult :=
  if blk.typed then typedCheck (coveredBits blk.hdr blk.tol) (x ^^^ e.data) (blk.payload x ^^^ (e.side.toNat / 2 ^ 16)) else rsCheck x e

/-! ### The header sideband of a cache (R95) -/

/-- The sideband of a block: 0 when it is untyped, otherwise its header. A typed block whose header holds code 0x00 is malformed, which a
sideband cannot say with that code: it carries the reserved code 0xFF in its place (log 102). -/
def Block.sideband (b : Block) : Word :=
  if !b.typed then 0 else if hdrFmt b.hdr = 0 then b.hdr ||| 0xFF else b.hdr

/-- A block written with a sideband: a format code of 0x00 makes it untyped. -/
def Block.withSideband (b : Block) (h : Word) : Block :=
  if hdrFmt h = 0 then { b with hdr := 0, typed := false } else { b with hdr := h, typed := true }

end Sys2Proof.Machine
end

