-- ==== Sys2Proof/Machine/Home.lean ====
section
/-! DEFINITION. Placement and homes (R188, R189), hallmarks (R259 to R263), the read and the merge of a block at its home (R233 to
R235, R266), and the transactions of a home slice (R261, R262). -/

namespace Sys2Proof.Machine

/-! ### Placement (R188, R189) -/

/-- Home key of a device PA under a placement class; none beyond R189's ranges. -/
def homeOfPa (dev pa : Nat) (viewHomed : Bool) : Option Nat :=
  let d := bits pa 38 2
  let dd := bits pa 0 38
  if viewHomed then
    let j := dd / 2 ^ 36
    if j = 3 then none else some (mkKey (4 * dev + d) ((3 * d + j) * 2 ^ 36 + dd % 2 ^ 36))
  else if 192 * 2 ^ 30 ≤ dd then none
  else
    let n := dd / 128
    let t := n / 3
    let rho := (t + t / 3 + t / 9) % 3
    let j := (n % 3 + rho) % 3
    some (mkKey (4 * dev + d) ((3 * d + j) * 2 ^ 36 + 128 * t + dd % 128))

/-- Stack, home line index and slice of a key (R189). -/
def stackOfKey (key : Nat) : Nat := hOfKey key / 2 ^ 36
def lineIndex (key : Nat) : Nat := stackOfKey key * 2 ^ 29 + hOfKey key % 2 ^ 36 / 128
def sliceOfKey (key : Nat) : Nat :=
  let x := lineIndex key
  (x + x / 64 + x / 4096) % 36
/-- Pseudo-channel of the burst that holds a byte (R189). -/
def pchOfKey (key : Nat) : Nat :=
  let o := hOfKey key % 2 ^ 36
  (o / 32 ^^^ o / 2048) % 64

/-! ### Hallmarks (R259) -/

inductive Hall where
  | home
  | shared1 (a : Nat)
  | sharedN (set : Nat)
  | excl (o : Nat)
  | mod (o : Nat)
  | owned (o : Nat)
  | poison (reason : Nat)
deriving DecidableEq, Repr

/-- The hallmark of a byte; the reserved state 111 reads as POISON, reason unspecified (R259, R384). -/
def hallOf (b : Byte) : Hall :=
  let f := b.toNat % 32
  match b.toNat / 32 with
  | 0 => .home
  | 1 => .shared1 f
  | 2 => .sharedN f
  | 3 => .excl f
  | 4 => .mod f
  | 5 => .owned f
  | 6 => .poison f
  | _ => .poison 0

/-- The byte of a hallmark: agents by their number in the home's domain. -/
def hallByte : Hall → Byte
  | .home => 0
  | .shared1 a => BitVec.ofNat 8 (32 + a % 32)
  | .sharedN m => BitVec.ofNat 8 (64 + m)
  | .excl a => BitVec.ofNat 8 (96 + a % 32)
  | .mod a => BitVec.ofNat 8 (128 + a % 32)
  | .owned a => BitVec.ofNat 8 (160 + a % 32)
  | .poison r => BitVec.ofNat 8 (192 + r)

/-- A hallmark with its agents numbered as the state numbers them: the domain of a home has 32 agents, from `base` on. -/
def Hall.shift (base : Nat) : Hall → Hall
  | .shared1 a => .shared1 (base + a)
  | .excl a => .excl (base + a)
  | .mod a => .mod (base + a)
  | .owned a => .owned (base + a)
  | h => h

def Hall.isPoison : Hall → Bool | .poison _ => true | _ => false

def State.block (s : State) (b : Nat) : Block := tabGetD s.blocks b {}
def State.setBlock (s : State) (b : Nat) (v : Block) : State := { s with blocks := tabSet s.blocks b v }
/-- The first agent number of a block's domain. -/
def domainBase (b : Nat) : Nat := agentOfBlock b / 32 * 32
def State.hall (s : State) (b : Nat) : Hall := (hallOf (s.block b).hall).shift (domainBase b)
/-- Soft errors of a block in HBM. -/
def State.err (s : State) (b : Nat) : ErrMask := tabGetD s.errs b {}
def State.setErr (s : State) (b : Nat) (e : ErrMask) : State := { s with errs := if e = {} then tabErase s.errs b else tabSet s.errs b e }
/-- A whole rewrite of a block leaves no soft error. -/
def State.clearErr (s : State) (b : Nat) : State := { s with errs := tabErase s.errs b }
/-- An error mask with a sound tag word. -/
def ErrMask.tagSound (e : ErrMask) : ErrMask := { e with side := e.side >>> 16 <<< 16 }
/-- A tag-only rewrite (R266): new tag bits and their check, nothing else. The slice writes a hallmark to HBM at once, which R259 allows. -/
def State.setHall (s : State) (b : Nat) (h : Hall) : State :=
  (match tabGet s.errs b with | none => s | some e => s.setErr b e.tagSound).setBlock b { s.block b with hall := hallByte h }
/-- HBM's bytes of a block. -/
def State.blockBytes (s : State) (b : Nat) : BitVec 512 := BitVec.ofNat 512 (memRead s.hbm (keyOfBlock b) 64)
def storeMasked (m : Mem) (base : Nat) (x : BitVec 512) (mask : BitVec 64) : Mem :=
  (List.range 64).foldl (fun m i => if mask.getLsbD i then memSet m (base + i) (blockByte x i) else m) m
def State.setBytes (s : State) (b : Nat) (x : BitVec 512) (mask : BitVec 64) : State :=
  { s with hbm := storeMasked s.hbm (keyOfBlock b) x mask }

/-- Replicas are keyed `agent * 2 ^ 80 + block`, lines of L2 slices `agent * 2 ^ 80 + line`. -/
def repKey (agent b : Nat) : Nat := agent * 2 ^ 80 + b
/-- The agent of such a key, and its block or line. -/
def repAgent (key : Nat) : Nat := key / 2 ^ 80
def repBlock (key : Nat) : Nat := key % 2 ^ 80
def lineOfBlock (b : Nat) : Nat := b / 2
/-- The bit of a block in a line's masks. -/
def halfBit (b : Nat) : BitVec 2 := BitVec.ofNat 2 (2 ^ (b % 2))
/-- The line of an agent's L2 slices that a block lies in. -/
def State.l2At (s : State) (agent b : Nat) : Option L2Line := tabGet s.l2 (repKey agent (lineOfBlock b))
/-- A block of a line of L2 becomes invalid; a line with none left is invalid. -/
def State.l2Drop (s : State) (agent b : Nat) : State :=
  match s.l2At agent b with
  | none => s
  | some e =>
    let h := e.held &&& ~~~halfBit b
    { s with l2 := if h = 0 then tabErase s.l2 (repKey agent (lineOfBlock b))
        else tabSet s.l2 (repKey agent (lineOfBlock b)) { e with held := h, dirty := e.dirty &&& h } }
def State.rep? (s : State) (agent b : Nat) : Option Replica := tabGet s.replicas (repKey agent b)
def State.setRep (s : State) (agent b : Nat) (r : Replica) : State := { s with replicas := tabSet s.replicas (repKey agent b) r }
def State.dropRep (s : State) (agent b : Nat) : State := ({ s with replicas := tabErase s.replicas (repKey agent b) }).l2Drop agent b

/-- The agents of a device's domain. -/
def State.agentsOf (s : State) (d : Nat) : List Nat := (s.domainOf d).flatMap (fun v => [4 * v, 4 * v + 1, 4 * v + 2, 4 * v + 3])

/-- Agents that SHAREDN's bits stand for, without the home (R259, R260). -/
def State.sharers (s : State) (home set : Nat) : List Nat :=
  (s.agentsOf (devOfAgent home)).filter (fun a => a != home &&
    ((devOfAgent a = devOfAgent home && set / 16 % 2 = 1) || set / 2 ^ (domainNumber (devOfAgent a) / 2) % 2 = 1))

/-- The SHAREDN bit of a sharer (R259). -/
def sharerBit (home a : Nat) : Nat := if devOfAgent a = devOfAgent home then 16 else 2 ^ (domainNumber (devOfAgent a) / 2)

/-- Repair of a block that names a lost agent, when it is touched at its home (R265). -/
def State.touch (s : State) (b : Nat) : State :=
  match s.hall b with
  | .shared1 a => if s.lost.contains a then s.setHall b .home else s
  | .excl a => if s.lost.contains a then s.setHall b .home else s
  | .mod a => if s.lost.contains a then s.setHall b (.poison 2) else s
  | .owned a => if s.lost.contains a then s.setHall b (.poison 2) else s
  | _ => s

/-! ### HBM accesses and L2 lines (R233, R351, R353, R355) -/

/-- Debit `n` tokens of a context's bucket on an agent (R355). -/
def State.debit (s : State) (agent ctx : Nat) (n : Nat) : State :=
  s.modDie agent (fun d => { d with level := tabSet d.level ctx (tabGetD d.level ctx 0 - n) })

/-- The ways a context's fills may use (R351). -/
def State.usableWays (s : State) (dev ctx : Nat) : BitVec 16 :=
  let k := bits (s.ctxWord dev ctx 0) 2 4
  ((s.dev dev).regs.wayMask.getD k 0) &&& ~~~(s.dev dev).regs.swapMask

/-- The home slice holds a block (R233). -/
def State.l2Holds (s : State) (b : Nat) : Bool := (s.l2At (agentOfBlock b) b).any (fun e => e.held.getLsbD (b % 2))

/-- The slice of an agent in which a line lies: its home slice, or for a replica the slice x mod 36 of the home line index x (R189,
R259). -/
def sliceIn (agent line : Nat) : Nat :=
  if agentOfKey (line * 128) = agent then sliceOfKey (line * 128) else lineIndex (line * 128) % 36
/-- The set of a line: a slice has 16 ways of 8,192 lines (R351). -/
def l2SetOf (line : Nat) : Nat := Config.l2Set (lineIndex (line * 128)) % 8192
/-- Lines of the set of an agent's slice in which a line lies. -/
def State.setLines (s : State) (agent line : Nat) : List (Nat × L2Line) :=
  s.l2.filter (fun e => repAgent e.1 = agent && sliceIn agent (repBlock e.1) = sliceIn agent line && l2SetOf (repBlock e.1) = l2SetOf line)

/-- Order in which classes are chosen as victims (R353). -/
def victimRank : Resi → Nat | .stream => 0 | .normal => 1 | .keep => 2 | .pin => 3

/-- The way of a fill and the line it evicts: an invalid line, else the least recently used line of the lowest class; never PIN (R353).
None when no way is usable. -/
def State.wayFor (s : State) (agent line : Nat) (ways : BitVec 16) : Option (Nat × Option Nat) :=
  let ls := s.setLines agent line
  match (List.range 16).find? (fun w => ways.getLsbD w && !ls.any (fun e => e.2.way = w)) with
  | some w => some (w, none)
  | none =>
    let cand := ls.filter (fun e => ways.getLsbD e.2.way && e.2.cls != .pin)
    (sortBy (fun e => victimRank e.2.cls) (sortBy (fun e => e.2.used) cand)).head?.map (fun e => (e.2.way, some e.1))

/-- A fill of context `ctx` evicts a line: merged writes go to HBM, charged to that context (R355); clean replicas are dropped silently
(R261), dirty ones leave the slice and wait for their WBK, which that context pays for. -/
def State.evictLine (s : State) (key ctx : Nat) : State :=
  match tabGet s.l2 key with
  | none => s
  | some e =>
    let agent := repAgent key
    let line := repBlock key
    [2 * line, 2 * line + 1].foldl (fun (t : State) b =>
      if agentOfBlock b = agent then (if e.dirty.getLsbD (b % 2) then (t.clearErr b).debit agent ctx 1 else t)
      else match t.rep? agent b with
        | some r => if r.dirty then t.setRep agent b { r with evict := some ctx } else t.dropRep agent b
        | none => t) { s with l2 := tabErase s.l2 key }

/-- A block is filled into an agent's slice, as a home block or as a replica; the flag says whether a way was found. Without one the fill
bypasses L2 (R351, R353). -/
def State.fillSlice (s : State) (agent b ctx : Nat) (cls : Resi) : State × Bool :=
  let key := repKey agent (lineOfBlock b)
  let n := s.uses + 1
  match tabGet s.l2 key with
  | some e => ({ s with l2 := tabSet s.l2 key { e with held := e.held ||| halfBit b, used := n }, uses := n }, true)
  | none =>
    match s.wayFor agent (lineOfBlock b) (s.usableWays (devOfAgent agent) ctx) with
    | none => (s, false)
    | some (w, v) =>
      let t := match v with | some k => s.evictLine k ctx | none => s
      ({ t with l2 := tabSet t.l2 key { cls := cls, ctx := ctx, way := w, used := n, held := halfBit b }, uses := n }, true)

/-- Fill a block of a home line. -/
def State.fillL2 (s : State) (b ctx : Nat) (cls : Resi) : State := (s.fillSlice (agentOfBlock b) b ctx cls).1

/-- A hit in an agent's slice is a use of the line; a write merged there, for the device and event queue given, makes the block dirty. A block
that is dirty already stays with the one that made it so (R385). -/
def State.useL2 (s : State) (agent b : Nat) (write : Option (Nat × Nat)) : State :=
  match s.l2At agent b with
  | none => s
  | some e =>
    let e := { e with used := s.uses + 1 }
    { s with uses := s.uses + 1
             l2 := tabSet s.l2 (repKey agent (lineOfBlock b)) (match write with
               | some q => { e with dirty := e.dirty ||| halfBit b, by_ := if e.dirty.getLsbD (b % 2) then e.by_ else tabSet e.by_ (b % 2) q }
               | none => e) }

/-- Who an access is made for: device, context (none for a host write), the agent a MEM_ERROR names, and the context of the home
device that is charged (R348, R355). -/
structure Who where
  dev   : Nat
  ctx   : Option Nat
  agent : Nat
  pay   : Nat := ctx.getD 0
deriving DecidableEq, Repr

def Who.queue (w : Who) : Nat := w.ctx.getD 64

/-- Agent numbers of accesses that no agent makes: the host's, and a home's own bookkeeping. -/
def hostAgent : Nat := 2 ^ 16 + 0xFE
def homeAgent : Nat := 2 ^ 16 + 0xFF
/-- The number by which an event names an agent: its own in its domain (R11), 0xFE for the host and 0xFF for none (Table 10). -/
def agentField (a : Nat) : Nat := if a < 2 ^ 16 then a % 32 else a - 2 ^ 16

/-- One MEM_ERROR event (R234, R389). -/
def State.memError (s : State) (b : Nat) (w : Who) (reason : Nat) : State :=
  let a := agentOfBlock b
  s.raiseEvent w.dev w.queue (a % 4) (a % 4) 0x04 [keyOfBlock b, agentField w.agent, reason]

/-- A block that a scrub has poisoned is touched: its event is raised, to the queue of whoever touches it (R382; log 104). -/
def State.touched (s : State) (b : Nat) (w : Who) : State :=
  if s.scrubbed.contains b then
    let a := agentOfBlock b
    State.raiseEvent { s with scrubbed := s.scrubbed.filter (· != b) } w.dev w.queue (a % 4) (a % 4) 0x04 [keyOfBlock b, 0xFF, 4]
  else s

/-- Count a corrected error of a stack; the count that reaches the limit raises CE_THRESHOLD (R382, R395). -/
def State.corrected (s : State) (b : Nat) : State :=
  let d := devOfAgent (agentOfBlock b)
  let g := stackOfKey (keyOfBlock b)
  let n := tabGetD (s.dev d).regs.ceCount g 0 + 1
  let s1 := s.modDev d (fun x => { x with regs := { x.regs with ceCount := tabSet x.regs.ceCount g n } })
  if n = (s.dev d).regs.ceLimit then s1.raiseEvent d 64 0 0 0x23 [g, n] else s1

/-- Contexts that hold a TLB entry of the home device translating to a block, in increasing number (R266). -/
def State.tlbHolders (s : State) (d b : Nat) : List Nat :=
  let hit := fun (e : TlbEntry) =>
    let leaf := e.leaf.toNat
    let span := if e.size = 0 then 2 ^ 16 else if e.size = 1 then 2 ^ 21 else 2 ^ 30
    let base := bits leaf 28 24 * 2 ^ 16
    bits leaf 2 2 = 0 && bits leaf 15 1 = 0 &&
      (let v := devOfAgent (agentOfBlock b)
       let h := hOfKey (keyOfBlock b)
       let stack := h / 2 ^ 36
       let o := h % 2 ^ 36
       bits leaf 16 12 = domainNumber v && (s.domainOf d).contains v &&
       (if bits leaf 6 1 = 1 then
          let pa := (stack / 3) * 2 ^ 38 + (stack % 3) * 2 ^ 36 + o
          decide (base ≤ pa) && decide (pa < base + span)
        else (List.range 3).any (fun r =>
          let pa := (stack / 3) * 2 ^ 38 + 128 * (3 * (o / 128) + r) + o % 128
          decide (base ≤ pa) && decide (pa < base + span) && homeOfPa v pa false = some (keyOfBlock b))))
  let ents := (s.cores.filter (fun c => devOfCore c.1 = d)).flatMap (fun c => c.2.tlb)
    ++ (s.clusters.filter (fun c => c.1 / 144 = d)).flatMap (fun c => c.2.tlb)
  (List.range 64).filter (fun c => ents.any (fun e => e.ctx = c && hit e))

/-- Set POISON on an uncorrectable tag and report it (R266): every replica is invalidated. -/
def State.tagLost (s : State) (b : Nat) : State :=
  let home := agentOfBlock b
  let d := devOfAgent home
  let s1 := ((s.replicas.filter (fun r => repBlock r.1 = b)).foldl (fun (t : State) r => t.dropRep (repAgent r.1) b) s).setHall b (.poison 3)
  match s.tlbHolders d b with
  | [] => s1.raiseEvent d 64 (home % 4) (home % 4) 0x04 [keyOfBlock b, 0xFF, 3]
  | cs => cs.foldl (fun t c => t.raiseEvent d c (home % 4) (home % 4) 0x04 [keyOfBlock b, 0xFF, 3]) s1

/-- The tag check that comes before every use of a hallmark that L2 does not cache (R259, R266): a corrected tag is rewritten. -/
def State.tagRead (s : State) (b : Nat) : State :=
  match tabGet s.errs b with
  | none => s
  | some e =>
    if (s.l2At (agentOfBlock b) b).isSome then s
    else
      let blk := s.block b
      match tagDecode (tagCode blk.tag ^^^ e.side.toNat % 2 ^ 16) with
      | none => s.tagLost b
      | some (t, c) =>
        if !c && t = blk.tag then s
        else
          let new := blk.withTag t
          let x := s.blockBytes b
          let side := if new.typed = blk.typed && new.tol = blk.tol then e.side else e.side ^^^ blk.side x ^^^ new.side x
          let u := (s.setBlock b new).setErr b { e with side := side }.tagSound
          if c then u.corrected b else u

/-- The content of a block at its home: bytes and sideband, or source and poison reason of R375. -/
abbrev HomeData := Except (Nat × Nat) (BitVec 512 × Word)

/-- HBM's copy of a block as its payload code delivers it. -/
def State.decoded (s : State) (b : Nat) : EccResult :=
  match tabGet s.errs b with
  | none => .ok (s.blockBytes b) (s.block b).hdr false
  | some e => payloadCheck (s.block b) (s.blockBytes b) e

/-- The content of a block is taken as its code delivered it: uncovered errors (R99) become its content, and the bits stored in HBM stay
as they are. -/
def State.relabel (s : State) (b : Nat) (x : BitVec 512) (h : Word) : State :=
  let blk := s.block b
  let old := s.blockBytes b
  let new := if blk.typed then { blk with hdr := h } else blk
  if x = old && new = blk then s
  else
    let e := s.err b
    ((s.setBytes b x (BitVec.allOnes 64)).setBlock b new).setErr b
      { data := e.data ^^^ old ^^^ x, side := e.side ^^^ blk.side old ^^^ new.side x }

/-- Whether a home key's stack has power: in minimal mode only stack 0 of die 0 does (R394). -/
def State.powered (s : State) (key : Nat) : Bool :=
  !(s.dev (devOfAgent (agentOfKey key))).regs.minimal || (agentOfKey key % 4 = 0 && stackOfKey key = 0)

/-- Read a block at its home once no owner holds newer data. A block that L2 does not hold is read from HBM, charged and filled; where the
read has exhausted its replays on the link, it has no data (R388). -/
def State.readHome (s : State) (b : Nat) (w : Who) (cls : Resi) : State × HomeData :=
  let s := s.tagRead b
  match s.hall b with
  | .poison r => (s.touched b w, .error (2, r))
  | _ =>
    if s.l2Holds b then (s.useL2 (agentOfBlock b) b none, .ok (s.blockBytes b, (s.block b).sideband))
    else
      let s1 := s.debit (agentOfBlock b) w.pay 1
      if s.cut.contains b then ({ s1 with cut := s1.cut.filter (· != b) }, .error (4, 0))
      else match s1.decoded b with
      | .bad => (s1.setHall b (.poison 4), .error (1, 0))
      | .ok x h c =>
        let s2 := (if c then s1.corrected b else s1).relabel b x h
        (s2.fillL2 b w.pay cls, .ok (x, (s2.block b).sideband))

/-- The data a reader finds with no change of state: the dirty owner's, else the home's. -/
def State.peekHome (s : State) (b : Nat) : HomeData :=
  match s.hall b with
  | .poison r => .error (2, r)
  | h =>
    let owner := match h with | .mod o | .owned o => s.rep? o b | _ => none
    match owner with
    | some r => .ok (r.bytes, r.hdr)
    | none =>
      if s.l2Holds b then .ok (s.blockBytes b, (s.block b).sideband)
      else
        let t := s.tagRead b
        match t.hall b, t.decoded b with
        | .poison r, _ => .error (2, r)
        | _, .bad => .error (1, 0)
        | _, .ok x h _ => .ok (x, (if (t.block b).typed then { t.block b with hdr := h } else t.block b).sideband)

/-- Up to 8 bytes inside one block by `peekHome`. -/
def State.peekBytes (s : State) (key n : Nat) : Except (Nat × Nat) Nat :=
  match s.peekHome (blockOf key) with
  | .error e => .error e
  | .ok (x, _) => .ok (x.toNat / 256 ^ (key % 64) % 256 ^ n)

/-! ### Monitors (R335) -/

/-- A monitor's arrival on its barrier. -/
def Upd.ofMon (id : Nat) (m : Mon) : Upd :=
  { id := id, w := m.w, kind := .fired m.word, bar := m.bar, va := m.va, cls := none, rel := .done, pc := m.pc, res := none, ticket := false,
    done := false, for_ := .none }

/-- Fire the monitors of the words of a block that a write or RMW reaches: each is removed and makes one arrival; the management core's
own monitors on phase words are removed too (R302). -/
def State.fire (s : State) (b : Nat) (mask : BitVec 64) : State :=
  let a := agentOfBlock b
  let reach := fun (w : Nat) => w / 8 = b && (mask &&& maskAt (8 * (w % 8)) 8) != 0
  let hit := fun (m : Mon) => reach m.word
  let s := if (s.dev (devOfAgent a)).launches.any (fun e => e.2.watch.any reach) then
      s.modDev (devOfAgent a) (fun d => { d with launches := d.launches.map (fun (e : Nat × Launch) =>
        (e.1, { e.2 with watch := e.2.watch.filter (fun w => !reach w) })) })
    else s
  (((s.die a).mons.filter hit).foldl (fun (t : State) m =>
    let (id, t) := t.fresh
    { t with upds := t.upds ++ [Upd.ofMon id m] }) s).modDie a (fun d => { d with mons := d.mons.filter (fun m => !hit m) })

/-! ### Merge of a write at its home (R233 to R235) -/

/-- Perform a byte-masked write, with a sideband or without, at a home whose hallmark work is done; the hallmark becomes HOME. In L2 the
merge reads nothing; otherwise the controller writes a whole block, or reads and rewrites it. `restore` is false for element writes, which
are never taken for a whole-block write and bring no POISON block back (R204, R235). DESIGN CHOICE (log 141): the kept header of a typed block
that is written whole is read with the code over the old data and header. -/
def State.mergeHome (s : State) (b : Nat) (x : BitVec 512) (mask : BitVec 64) (hdr : Option Word) (w : Who) (restore : Bool := true) : State :=
  let s := s.tagRead b
  let a := agentOfBlock b
  let blk := s.block b
  let whole : Bool := restore && mask = BitVec.allOnes 64
  let put := fun (s : State) (h : Word) => ((s.clearErr b).setBytes b x mask).setBlock b ({ blk with hall := 0 }.withSideband h) |>.fire b mask
  let place := fun (s : State) => if s.l2Holds b then s.useL2 a b (some (w.dev, w.queue)) else s.debit a w.pay 1
  match s.hall b with
  | .poison _ => let s := s.touched b w; if whole then put (place s) (hdr.getD 0) else s
  | _ =>
    if s.l2Holds b || (whole && (hdr.isSome || !blk.typed)) then put (place s) (hdr.getD blk.sideband)
    else
      let s1 := s.debit a w.pay 2
      match s1.decoded b with
      | .bad => (s1.setHall b (.poison 1)).memError b w 1
      | .ok d h c =>
        let s2 := ((if c then s1.corrected b else s1).setBytes b d (BitVec.allOnes 64))
        put s2 (hdr.getD (if blk.typed then { blk with hdr := h } else blk).sideband)

/-! ### Transitions of the hallmark (R260, R261) -/

/-- Invalidations and recalls a request asks for first: agent and what is asked; the flag says that a broadcast follows. -/
def State.asks (s : State) (b : Nat) (k : ReqKind) (r : Nat) : List (Nat × WaitKind) × Bool :=
  let home := agentOfBlock b
  let out := fun (l : List Nat) => (l.filter (fun a => !s.lost.contains a)).map (fun a => (a, WaitKind.inv))
  match k, s.hall b with
  | .rds, .mod o => if o = r then ([], false) else ([(o, .forward r)], false)
  | .rds, .owned o => if o = r then ([], false) else ([(o, .forward r)], false)
  | .rdx, .shared1 a | .upg, .shared1 a => (out ([a].filter (· != r)), false)
  | .rdx, .sharedN m | .upg, .sharedN m => (out ((s.sharers home m).filter (· != r)), false)
  | .rdx, .excl o | .upg, .excl o => if o = r then ([], false) else (out [o], false)
  | .rdx, .mod o | .upg, .mod o => if o = r then ([], false) else ([(o, .recallDrop)], false)
  | .rdx, .owned o | .upg, .owned o => if o = r then (out ((s.agentsOf (devOfAgent home)).filter (fun a => a != home && a != r)), false) else ([(o, .recallDrop)], true)
  | .hrd, .mod o => ([(o, .recallKeep)], false)
  | .hrd, .owned o => ([(o, .recallKeep)], false)
  | .hwr, .shared1 a => (out [a], false)
  | .hwr, .sharedN m => (out (s.sharers home m), false)
  | .hwr, .excl o => (out [o], false)
  | .hwr, .mod o => ([(o, .recallDrop)], false)
  | .hwr, .owned o => ([(o, .recallDrop)], true)
  | _, _ => ([], false)

/-- The broadcast that follows a recall with drop (R260). -/
def State.broadcast (s : State) (b : Nat) (k : ReqKind) (r owner : Nat) : List (Nat × WaitKind) :=
  let home := agentOfBlock b
  let leaveOut := match k with | .rdx | .upg => r | _ => home
  ((s.agentsOf (devOfAgent home)).filter (fun a => a != home && a != leaveOut && a != owner && !s.lost.contains a)).map (fun a => (a, .inv))

/-- The hallmark once a request's actions are complete (Table 8). -/
def hallAfter (home : Nat) (k : ReqKind) (r : Nat) : Hall → Hall
  | .poison x => .poison x
  | h =>
    match k, h with
    | .rds, .home => .shared1 r
    | .rds, .shared1 a => if a = r then h else .sharedN (sharerBit home a ||| sharerBit home r)
    | .rds, .sharedN m => .sharedN (m ||| sharerBit home r)
    | .rds, .excl o => if o = r then h else .sharedN (sharerBit home o ||| sharerBit home r)
    | .rds, .mod o => if o = r then h else .owned o
    | .rds, _ => h
    | .rdx, _ | .upg, _ => .mod r
    | .wbkKeep, .mod o => if o = r then .excl o else h
    | .wbkDrop, .mod o => if o = r then .home else h
    | .wbkKeep, .owned o | .wbkDrop, .owned o => if o = r then .sharedN 31 else h
    | .wbkKeep, _ | .wbkDrop, _ => h
    | .hrd, .mod o => .excl o
    | .hrd, .owned _ => .sharedN 31
    | .hrd, _ => h
    | .hwr, _ => .home

/-- The owner sends its dirty data to the home: it is written there whole, with its header, on behalf of context `pay` of the home's
device (R260, R355). It is a write performed at the home, so it fires the block's monitors (R335). -/
def State.takeDirty (s : State) (o b pay : Nat) : State :=
  match s.rep? o b with
  | some r =>
    if r.dirty then
      let t := if s.l2Holds b then s.useL2 (agentOfBlock b) b (some (devOfAgent o, r.ctx)) else s.debit (agentOfBlock b) pay 1
      ((((t.clearErr b).setBytes b r.bytes (BitVec.allOnes 64)).setBlock b ((s.block b).withSideband r.hdr))).fire b (BitVec.allOnes 64)
    else s
  | none => s

/-- An agent's answer to what the home asked (R260, R261). Forwarded data goes to the transaction, which is done by the caller. -/
def State.answer (s : State) (b a pay : Nat) : WaitKind → State
  | .inv => s.dropRep a b
  | .recallDrop => (s.takeDirty a b pay).dropRep a b
  | .recallKeep =>
    let t := s.takeDirty a b pay
    match t.rep? a b with
    | some r => t.setRep a b { r with dirty := false, shr := false, owned := match s.hall b with | .mod _ => true | _ => false }
    | none => t
  | .forward _ =>
    match s.rep? a b with
    | some r => s.setRep a b { r with shr := true }
    | none => s

/-- Requests for ownership, of which a home serves those of one cycle in its rotation's order (R262). -/
def ReqKind.owns : ReqKind → Bool | .rdx | .upg | .hwr => true | _ => false

/-- The move under way may be given a block: no request of the block is before it. Its own, which waits in the block's chain, is the first;
one for ownership came in an earlier cycle (R262). -/
def State.turn (s : State) (b : Nat) (k : ReqKind) : Bool :=
  match s.txns.find? (fun t => t.block = b) with
  | none => true
  | some t => t.again.isSome && t.again == s.mover && (!k.owns || decide (t.arrived < s.cycle (devOfAgent (agentOfBlock b))))

/-- A lost agent (R265). The host and a home itself are no agents, and are never lost. -/
def State.isLost (s : State) (a : Nat) : Bool := decide (a < hostAgent) && s.lost.contains a

/-- An access within one move finds its block not free for it: the move joins the block's chain, or waits for nothing it could join, where
its agent is lost and its requests are discarded (R262, R265). -/
def State.awaitTurn (s : State) (b : Nat) (k : ReqKind) (agent : Nat) : State :=
  s.await (if s.isLost agent then .off else .chain b agent k s.mover)

/-- All a home access of a move needs at one instant: engines, barriers, monitors, channels, walks, the host and the management core are given
whole transactions, each in its turn of the block's requests (R262; log 20). A lost agent's request is not performed (R265). -/
def State.clearFor (s : State) (b : Nat) (k : ReqKind) (w : Who) : State :=
  if s.isLost w.agent || !s.turn b k then s.awaitTurn b k w.agent
  else
    let s0 := (s.tagRead b).touch b
    let (ws, bc) := s0.asks b k w.agent
    let s1 := ws.foldl (fun (t : State) (x : Nat × WaitKind) => t.answer b x.1 w.pay x.2) s0
    let s2 := if bc then (s1.broadcast b k w.agent (ws.headD (0, .inv)).1).foldl (fun (t : State) x => t.answer b x.1 w.pay x.2) s1 else s1
    s2.setHall b (hallAfter (agentOfBlock b) k w.agent (s0.hall b))

/-- A read of a block at its home in one instant. -/
def State.hrdNow (s : State) (b : Nat) (w : Who) : State × HomeData := (s.clearFor b .hrd w).readHome b w .normal

/-- A write of a block at its home in one instant. -/
def State.hwrNow (s : State) (b : Nat) (x : BitVec 512) (mask : BitVec 64) (hdr : Option Word) (w : Who) (restore : Bool := true) : State :=
  (s.clearFor b .hwr w).mergeHome b x mask hdr w restore

/-- What an event has made of the state, or the state before it when one of its accesses must wait: nothing but why. -/
def State.orWait (s t : State) : State := if t.stall then { s with hold := t.hold } else t

/-- Write `bytes` at a home key, block by block, in one instant each. -/
def State.writeHome (s : State) (key : Nat) (bytes : List Byte) (w : Who) : State :=
  let n := bytes.length
  let first := blockOf key
  let last := blockOf (key + n - 1)
  if n = 0 then s else
  (List.range (last - first + 1)).foldl (fun (t : State) i =>
    let b := first + i
    let lo := max key (keyOfBlock b)
    let hi := min (key + n) (keyOfBlock b + 64)
    let part := (bytes.drop (lo - key)).take (hi - lo)
    t.hwrNow b (BitVec.ofNat 512 (ofBytes part * 256 ^ (lo - keyOfBlock b))) (maskAt (lo - keyOfBlock b) (hi - lo)) none w) s

/-- Read `n` bytes at a home key, block by block. -/
def State.readHomeBytes (s : State) (key n : Nat) (w : Who) : State × Except (Nat × Nat) (List Byte) :=
  if n = 0 then (s, .ok []) else
  let first := blockOf key
  let last := blockOf (key + n - 1)
  (List.range (last - first + 1)).foldl (fun (acc : State × Except (Nat × Nat) (List Byte)) i =>
    match acc with
    | (t, .error e) => (t, .error e)
    | (t, .ok l) =>
      let b := first + i
      let lo := max key (keyOfBlock b)
      let hi := min (key + n) (keyOfBlock b + 64)
      match t.hrdNow b w with
      | (t', .error e) => (t', .error e)
      | (t', .ok (x, _)) => (t', .ok (l ++ (bytesOf (hi - lo) (x.toNat / 256 ^ (lo - keyOfBlock b)))))) (s, .ok [])

/-! ### Transactions of a home slice (R261, R262) -/

def Txn.isOwnership (t : Txn) : Bool := t.kind.owns

/-- Place of an agent in the rotation of cycle n (R262). -/
def rotation (n a : Nat) : Nat := (a + 32 - n % 32) % 32

/-- Join a block's transactions in arrival order; among waiting requests of one cycle in the rotation's order (R262). -/
def joinChain (l : List Txn) (t : Txn) : List Txn :=
  let after := fun (x : Txn) => x.block = t.block && !x.started && x.arrived = t.arrived
    && decide (rotation t.arrived t.req < rotation t.arrived x.req)
  l.takeWhile (fun x => !after x) ++ t :: l.dropWhile (fun x => !after x)

/-- Whether a new request for a block finds room: its chain holds fewer than 4 waiting, and the slice fewer than 64 chains (R262). -/
def State.chainRoom (s : State) (b : Nat) : Bool :=
  let mine := s.txns.filter (fun t => t.block = b)
  let slice := fun (x : Nat) => (agentOfBlock x, sliceOfKey (keyOfBlock x))
  let busy := (s.txns.filter (fun t => slice t.block = slice b)).map (·.block)
  let chains := (busy.dedup.filter (fun x => decide (2 ≤ busy.count x))).length
  decide (mine.length ≤ 1 → chains < 64) && decide (mine.length < 5)

/-- A slice of a block's home. -/
def sliceOf (b : Nat) : Nat := sliceOfKey (keyOfBlock b)

/-- A request reaches a block with a transaction in progress: it joins the conflict chain, or is NACKed with a ticket (R262, R337). -/
def State.chain (s : State) (t : Txn) : State :=
  let q := tabGetD (s.die (agentOfBlock t.block)).chainQ (sliceOf t.block) []
  if q.isEmpty && s.chainRoom t.block then { s with txns := joinChain s.txns t }
  else if q.any (fun k => k.txn.any (fun x => x.block = t.block && x.kind == t.kind && x.req = t.req && x.acc = t.acc)) then s
  else s.modDie (agentOfBlock t.block) (fun d => { d with chainQ := tabSet d.chainQ (sliceOf t.block) (q ++ [{ op := t.acc, offered := none, txn := some t }]) })

/-- A request of a move: those of one move wait in no two chains. -/
def Txn.isOf (t : Txn) (m : Move) : Bool := t.again == some m

/-- A move waits no longer: its requests and their tickets are gone. -/
def State.forget (s : State) (m : Move) : State :=
  let keep := fun (k : Ticket) => !k.txn.any (·.isOf m)
  { s with
    txns := if s.txns.any (·.isOf m) then s.txns.filter (fun t => !t.isOf m) else s.txns
    dies := if s.dies.any (fun e => e.2.chainQ.any (fun q => !q.2.all keep)) then
        s.dies.map (fun (e : Nat × Die) => (e.1, { e.2 with chainQ := e.2.chainQ.map (fun q => (q.1, q.2.filter keep)) }))
      else s.dies }

/-- The request of a move comes to a block that is not free for it: it stands in the block's chain, or holds a ticket, and in no other
(R262, R337). -/
def State.queueMove (s : State) (b req : Nat) (k : ReqKind) (m : Move) : State :=
  let here := fun (t : Txn) => t.isOf m && t.block = b
  if s.txns.any here || (tabGetD (s.die (agentOfBlock b)).chainQ (sliceOf b) []).any (fun x => x.txn.any here) then s
  else
    let (id, t) := (s.forget m).fresh
    t.chain { block := b, kind := k, req := req, acc := id, started := false, bcast := false, waits := [],
              arrived := t.cycle (devOfAgent (agentOfBlock b)), again := some m }

/-- One step of a request at its home: it joins the block's transactions, starts when it is the first, or ends once everything it
asked for is answered. An ownership request starts in a later cycle than the one it came in, so that those of one cycle are served in the
rotation's order (R262). The flag says that its actions are complete and the hallmark has changed; what the request reads or writes is
then performed by the caller. -/
def State.homeStep (s : State) (b : Nat) (k : ReqKind) (r acc : Nat) : State × Bool :=
  let home := agentOfBlock b
  let same := fun (t : Txn) => t.block = b && t.kind == k && t.req = r && t.acc = acc
  let cyc := s.cycle (devOfAgent home)
  let fresh : Txn := { block := b, kind := k, req := r, acc := acc, started := false, bcast := false, waits := [], arrived := cyc }
  let s :=
    if s.txns.any same then s
    else if s.txns.any (fun t => t.block = b) then s.chain fresh
    else (({ s with txns := s.txns ++ [fresh] }).modDie home (fun d => { d with chainQ := d.chainQ.map (fun (e : Nat × List Ticket) =>
      (e.1, e.2.filter (fun k => !k.txn.any same))) }))
  match s.txns.find? (fun t => t.block = b) with
  | none => (s, false)
  | some t =>
    if !same t || (!t.started && t.isOwnership && decide (cyc ≤ t.arrived)) then (s, false)
    else
      let upd := fun (s : State) (f : Txn → Txn) => { s with txns := s.txns.map (fun x => if same x then f x else x) }
      let now := s.clock (devOfAgent home)
      let s := (if t.started then s else s.tagRead b).touch b
      let (ws, bc) := if t.started then (t.waits, t.bcast) else s.asks b k r
      match ws with
      | _ :: _ => (if t.started then s else upd s (fun x => { x with started := true, waits := ws, bcast := bc, since := now }), false)
      | [] =>
        let rest := if bc then (match s.hall b with | .owned o => s.broadcast b k r o | _ => []) else []
        match rest with
        | _ :: _ => (upd s (fun x => { x with started := true, waits := rest, bcast := false, since := now }), false)
        | [] =>
          ({ s with txns := s.txns.filter (fun x => !same x) }.setHall b (hallAfter home k r (s.hall b)), true)

/-- The data that an owner has forwarded for a request (R261). -/
def State.forwarded (s : State) (b : Nat) (k : ReqKind) (r acc : Nat) : Option (BitVec 512 × Word) :=
  (s.txns.find? (fun t => t.block = b && t.kind == k && t.req = r && t.acc = acc)).bind (·.fwd)

/-- A context out of tokens on a die: its new requests to that die are held (R356). Requests of a lost agent are not performed at all
(R265). -/
def State.throttled (s : State) (b : Nat) (w : Who) : Bool :=
  decide (tabGetD (s.die (agentOfBlock b)).level w.pay 0 ≤ 0) || s.isLost w.agent

/-- A request that has not started leaves its home: it will come again. -/
def State.leaveHome (s : State) (b : Nat) (k : ReqKind) (r acc : Nat) : State :=
  { s with txns := s.txns.filter (fun t => t.started || !(t.block = b && t.kind == k && t.req = r && t.acc = acc)) }

/-- Requests that waited for a move to be made again are the move's own; the others are a request of an access or write-back that is no more. -/
def Txn.orphan (t : Txn) (b : Nat) (k : ReqKind) (acc : Nat) : Bool := t.block = b && t.kind == k && t.acc = acc && t.again.isNone

/-- Whether a request stands at its home. -/
def State.atHome (s : State) (b : Nat) (k : ReqKind) (r acc : Nat) : Bool :=
  s.txns.any (fun t => t.block = b && t.kind == k && t.req = r && t.acc = acc)

end Sys2Proof.Machine
end

