-- ==== Sys2Proof/Machine/Translate.lean ====
section
/-! DEFINITION. Address translation: walks and leaves (R345 to R347), TLBs and the Bloom filter (R349, R350), import checks (R348). -/

namespace Sys2Proof.Machine

/-- What a page makes of an address: a device PA with its placement, in the domain or over the non-coherent fabric, a shadow byte offset, or a
host PA. -/
inductive Place where
  | memory (viewHomed : Bool) (dev pa : Nat)
  | fabric (viewHomed : Bool) (dev pa : Nat)
  | view (id off : Nat)
  | host (pa : Nat)
deriving DecidableEq, Repr

/-- A translated address: its place, whether the page is writable, and the walk level of its leaf. -/
structure Page where
  place : Place
  writable : Bool
  lvl : Nat
deriving DecidableEq, Repr

/-- PAGE_FAULT's reason and walk level (Table 5 of the recovery chapter). -/
abbrev PFault := Nat × Nat

/-- Bytes of a page of a size code (R350). -/
def pageBytes (size : Nat) : Nat := if size = 0 then 2 ^ 16 else if size = 1 then 2 ^ 21 else 2 ^ 30
/-- Level at which a leaf of a size code stands (Table 3). -/
def levelOf (size : Nat) : Nat := 4 - size

/-- A leaf read for a VA (R346, R347). `peer` gives the device of each number of the domain. -/
def leafPage (peer : Nat → Option Nat) (e size va : Nat) : Except PFault Page :=
  let lvl := levelOf size
  let off := va % pageBytes size
  let w : Bool := bits e 5 1 = 1
  let mal : Except PFault Page := .error (2, lvl)
  if bits e 7 8 != 0 || bits e 4 1 != 0 then mal
  else match bits e 2 2 with
  | 0 =>
    let frame := bits e 28 24 * 2 ^ 16
    if bits e 52 12 != 0 || frame % pageBytes size != 0 then mal
    else
      let v := bits e 16 12
      let pa := frame + off
      let vh : Bool := bits e 6 1 = 1
      if (homeOfPa 0 pa vh).isNone then .error (4, lvl)
      else if bits e 15 1 = 1 then .ok { place := .fabric vh v pa, writable := w, lvl := lvl }
      else match peer v with
        | none => .error (4, lvl)
        | some d => .ok { place := .memory vh d pa, writable := w, lvl := lvl }
  | 1 =>
    if bits e 16 12 != 0 || bits e 15 1 != 0 || bits e 6 1 != 0 then mal
    else .ok { place := .view (bits e 28 16) (bits e 44 20 * pageBytes size + off), writable := w, lvl := lvl }
  | 2 =>
    let frame := bits e 28 36 * 2 ^ 16
    if bits e 16 12 != 0 || bits e 15 1 != 0 || bits e 6 1 != 0 || frame % pageBytes size != 0 then mal
    else .ok { place := .host (frame + off), writable := w, lvl := lvl }
  | _ => mal

/-- The levels of a walk: level, lowest VA bit, index bits, bytes of the table (Table 3). -/
def walkLevels : List (Nat × Nat × Nat × Nat) :=
  [(1, 39, 10, 8192), (2, 30, 9, 4096), (3, 21, 9, 4096), (4, 16, 5, 256)]

/-- A read of a table entry: the state after it, and the entry. -/
abbrev EntryRead := State → Nat → State × Except (Nat × Nat) Nat

/-- Walk from a table: answers the leaf and its size code (R345, R347). -/
def walkFrom (read : EntryRead) (dev va : Nat) : List (Nat × Nat × Nat × Nat) → Nat → State → State × Except PFault (Nat × Nat)
  | [], _, s => (s, .error (2, 4))
  | (lvl, lo, n, _) :: rest, table, s =>
    match homeOfPa dev (table + 8 * bits va lo n) false with
    | none => (s, .error (4, lvl))
    | some key =>
      match read s key with
      | (t, .error _) => (t, .error (6, lvl))
      | (t, .ok e) =>
        if e % 2 = 0 then (t, .error (1, lvl))
        else if bits e 1 1 = 1 then (t, if lvl = 1 then .error (2, lvl) else .ok (e, 4 - lvl))
        else
          let next := bits e 28 32 * 2 ^ 8
          match rest with
          | [] => (t, .error (2, lvl))
          | (_, _, _, bytes) :: _ =>
            if bits e 60 4 != 0 || bits e 1 27 != 0 || next % bytes != 0 then (t, .error (2, lvl))
            else if (homeOfPa dev next false).isNone then (t, .error (4, lvl))
            else walkFrom read dev va rest next t

/-- The read of an entry as a walker makes it: a weak load at the home (R345). A stack without power gives nothing (R394; log 118). -/
def State.entryRead (w : Who) : EntryRead := fun s key =>
  if !s.powered key then (s, .error (1, 0)) else
  match s.hrdNow (blockOf key) w with
  | (t, .error e) => (t, .error e)
  | (t, .ok (x, _)) => (t, .ok (x.toNat / 256 ^ (key % 64) % 256 ^ 8))

/-- The device of a number in a device's domain (R18, R346). -/
def State.peerOf (s : State) (dev v : Nat) : Option Nat := (s.domainOf dev).find? (fun d => domainNumber d = v)

/-- Home key of a MEMORY page of the domain; `leafPage` has checked the range. -/
def Page.key (p : Page) : Option Nat :=
  match p.place with
  | .memory vh v pa => homeOfPa v pa vh
  | _ => none

/-- Home key of a MEMORY page, also over the fabric, as channel operations and copy commands reach it (R271, R347). -/
def Page.farKey (p : Page) : Option Nat :=
  match p.place with
  | .fabric vh v pa => homeOfPa v pa vh
  | _ => p.key

/-- The device of a MEMORY page. -/
def Place.device : Place → Option Nat | .memory _ v _ | .fabric _ v _ => some v | _ => none

/-- A leaf read by a device: in minimal mode a device has one stack and no device links (R394), and an address beyond them is a fault of the
device named (log 118). -/
def State.pageOf (s : State) (dev leaf size va : Nat) : Except PFault Page :=
  match leafPage (s.peerOf dev) leaf size va with
  | .error e => .error e
  | .ok p =>
    match p.place.device, p.farKey with
    | some v, some key =>
      if s.powered key && (v = dev || !((s.dev dev).regs.minimal || (s.dev v).regs.minimal)) then .ok p else .error (4, p.lvl)
    | _, _ => .ok p

/-- A fresh walk by a context's own tables: the leaf and its size code. A VA of 2^49 or more, which only a view's map can give, lies in no
entry of the first table (R209, log 119). -/
def State.walk (s : State) (dev ctx va : Nat) : Except PFault (Nat × Nat) :=
  if 2 ^ 49 ≤ va then .error (1, 1) else
  (walkFrom (fun t key => (t, if t.powered key then t.peekBytes key 8 else .error (1, 0))) dev va walkLevels (s.ctxWord dev ctx 1 % 2 ^ 40) s).2

/-- A walk for an agent, with what its reads do: recalls, fills, tokens, and POISON on uncorrectable data (R260, R266, R355). -/
def State.walkNow (s : State) (agent dev ctx va : Nat) : State × Except PFault (Nat × Nat) :=
  if 2 ^ 49 ≤ va then (s, .error (1, 1)) else
  walkFrom (State.entryRead { dev := dev, ctx := some ctx, agent := agent }) dev va walkLevels (s.ctxWord dev ctx 1 % 2 ^ 40) s

/-- What a walk of an agent with no TLB of its own does to the state. -/
def State.walked (s : State) (agent dev ctx va : Nat) : State := (s.walkNow agent dev ctx va).1

/-- `translate()` of R189 for an agent with no TLB of its own: a walk, then the leaf. -/
def State.translate (s : State) (dev ctx va : Nat) : Except PFault Page :=
  match s.walk dev ctx va with
  | .error e => .error e
  | .ok (leaf, size) => s.pageOf dev leaf size va

/-! ### TLBs and the filter (R349, R350) -/

def TlbEntry.hits (e : TlbEntry) (ctx va : Nat) : Bool := e.ctx = ctx && e.page = va / pageBytes e.size

/-- The key of a filter entry (R350). -/
def bloomKey (ctx size page : Nat) : Nat := page % 2 ^ 40 + size * 2 ^ 40 + ctx * 2 ^ 42

/-- The three bits of a key (R350). -/
def bloomBits (k : Nat) : List Nat :=
  let f := fun lo => bits k lo 10
  let top := bits k 40 8
  [f 0 ^^^ f 10 ^^^ f 20 ^^^ f 30, f 10 ^^^ f 30 ^^^ top, f 0 ^^^ f 20 ^^^ (top * 4)]

def bloomHit (b : BitVec 1024) (k : Nat) : Bool := (bloomBits k).all (fun i => b.getLsbD i)
def bloomSet (b : BitVec 1024) (k : Nat) : BitVec 1024 := (bloomBits k).foldl (fun b i => b ||| (1#1024 <<< i)) b
def bloomCount (b : BitVec 1024) : Nat := ((List.range 1024).filter (fun i => b.getLsbD i)).length

/-- A fill of a core's L1 TLB: a fill that would leave more than 384 filter bits set first drops the whole TLB (R350). -/
def Core.fillTlb (c : Core) (e : TlbEntry) : Core :=
  let k := bloomKey e.ctx e.size e.page
  let others := c.tlb.filter (fun x => !(x.ctx = e.ctx && x.size = e.size && x.page = e.page))
  let b := bloomSet c.bloom k
  if 384 < bloomCount b then { c with tlb := [e], bloom := bloomSet 0 k }
  else { c with tlb := (e :: others).take 64, bloom := b }

/-- Translation at a core: through its L1 TLB or its cluster's L2 TLB where an entry stands, otherwise by a walk. -/
def State.translateAt (s : State) (core ctx va : Nat) : Except PFault Page :=
  match (s.coreAt core).tlb.find? (fun e => e.hits ctx va) with
  | some e => s.pageOf (devOfCore core) e.leaf.toNat e.size va
  | none =>
    match (s.cluster (clusterOfCore core)).tlb.find? (fun e => e.hits ctx va) with
    | some e => s.pageOf (devOfCore core) e.leaf.toNat e.size va
    | none => s.translate (devOfCore core) ctx va

/-- A walk is an event of its own: its reads wait in the chains of their blocks for it, also where it takes place within another move
(R262, R345). -/
def State.asWalk (s : State) (core ctx va : Nat) (f : State → State × α) : State × α :=
  let m : Move := .act (.pageWalk core ctx va)
  let (t, x) := f { s with mover := some m }
  (if t.stall then { t with mover := s.mover } else State.forget { t with mover := s.mover } m, x)

/-- A walk completes and fills the L2 TLB of the cluster and the L1 TLB of the core; a fused core holds none (R22, R345, R349). -/
def State.pageWalk (s : State) (core ctx va : Nat) : State :=
  if s.fusedCore core then s
  else match s.asWalk core ctx va (fun t => t.walkNow (agentOfCore core) (devOfCore core) ctx va) with
    | (t, .error _) => t
    | (t, .ok (leaf, size)) =>
      let e : TlbEntry := { ctx := ctx, size := size, page := va / pageBytes size, leaf := BitVec.ofNat 64 leaf }
      (t.modCluster (clusterOfCore core) (fun c => { c with tlb := (e :: c.tlb.filter (· != e)).take 2048 })).modCore core (fun c => c.fillTlb e)

/-- A core's translation of an address goes through its L1 TLB: a miss is filled from the L2 TLB, or by a walk (R349). -/
def State.warmOne (s : State) (core ctx va : Nat) : State :=
  if (s.coreAt core).tlb.any (fun e => e.hits ctx va) then s
  else match (s.cluster (clusterOfCore core)).tlb.find? (fun e => e.hits ctx va) with
    | some e => if s.fusedCore core then s else s.modCore core (fun c => c.fillTlb e)
    | none => s.pageWalk core ctx va

/-- The translations that an instruction's addresses need. -/
def State.warm (s : State) (core ctx : Nat) (vas : List Nat) : State :=
  (vas.map (fun va => va / 2 ^ 16)).dedup.foldl (fun t p => t.warmOne core ctx (p * 2 ^ 16)) s

/-! ### Imports (R348) -/

/-- Whether an import entry of device `dst` admits `n` bytes at a PA for a request of a device and context. -/
def State.admits (s : State) (dst src ctx : Nat) (fabric : Bool) (pa n : Nat) (write : Bool) : Bool :=
  (s.dev dst).imports.any (fun e =>
    e.2.fabric = fabric && e.2.device = src && e.2.srcCtx = ctx && (!write || e.2.writable) &&
    decide (e.2.base * 65536 ≤ pa) && decide (pa + n ≤ (e.2.base + e.2.len) * 65536))

/-- Requests between two devices of no common domain come over the non-coherent fabric (R18). -/
def State.overFabric (s : State) (dst src : Nat) : Bool := !(s.domainOf src).contains dst

/-- The context charged on device `dst` for a request of another device (R348, R355). -/
def State.account (s : State) (dst src ctx pa : Nat) : Nat :=
  match (s.dev dst).imports.find? (fun e => e.2.fabric = s.overFabric dst src && e.2.device = src && e.2.srcCtx = ctx &&
      decide (e.2.base * 65536 ≤ pa) && decide (pa < (e.2.base + e.2.len) * 65536)) with
  | some e => e.2.acctCtx
  | none => ctx

/-- Device PAs that name a home key: view-homed, then interleaved (R189). -/
def pasOfKey (key : Nat) : List Nat :=
  let h := hOfKey key
  let g := h / 2 ^ 36
  let o := h % 2 ^ 36
  let vh := (g / 3) * 2 ^ 38 + (g % 3) * 2 ^ 36 + o
  vh :: ((List.range 3).map (fun r => (g / 3) * 2 ^ 38 + 128 * (3 * (o / 128) + r) + o % 128)).filter
    (fun pa => homeOfPa (devOfAgent (agentOfKey key)) pa false = some key)

/-- Who an access of a context's warp is made for: a request of another device is charged to the import entry's account context. -/
def State.whoFor (s : State) (dev ctx agent b : Nat) : Who :=
  let home := devOfAgent (agentOfBlock b)
  { dev := dev, ctx := some ctx, agent := agent,
    pay := if home = dev then ctx
      else match (pasOfKey (keyOfBlock b)).find? (fun pa => s.admits home dev ctx (s.overFabric home dev) pa 64 false) with
        | some pa => s.account home dev ctx pa
        | none => ctx }

/-- The importing device's check of a request for a page of its memory; a page of the own device needs no entry (R348). -/
def State.admitted (s : State) (src ctx : Nat) (p : Page) (n : Nat) (write : Bool) : Bool :=
  match p.place with
  | .memory _ v pa | .fabric _ v pa => v = src || s.admits v src ctx (s.overFabric v src) pa n write
  | _ => true

end Sys2Proof.Machine
end

