-- ==== Sys2Proof/Machine/L1.lean ====
section
/-! DEFINITION. A core's L1: blocks, write signature and epochs (R254 to R256), write-backs (R214, R260), and the replicas of an agent. -/

namespace Sys2Proof.Machine

/-- Home block number beta = g * 2^30 + O / 64 (R254). -/
def betaOf (b : Nat) : Nat := hOfKey (keyOfBlock b) / 64

/-- The three signature bits of a block (R254). -/
def sigBits (b : Nat) : List Nat :=
  let x := betaOf b
  [bits x 0 9 ^^^ bits x 9 9, bits x 0 9 ^^^ bits x 18 9, bits x 9 9 ^^^ bits x 27 9]

def sigAdd (s : BitVec 512) (b : Nat) : BitVec 512 := (sigBits b).foldl (fun s i => s ||| (1#512 <<< i)) s
def sigHit (s : BitVec 512) (b : Nat) : Bool := (sigBits b).all (fun i => s.getLsbD i)

def State.l1Block (s : State) (core b : Nat) : Option L1Block := tabGet (s.coreAt core).l1 b
def State.setL1 (s : State) (core b : Nat) (x : L1Block) : State := s.modCore core (fun c => { c with l1 := tabSet c.l1 b x })
def State.dropL1 (s : State) (core b : Nat) : State := s.modCore core (fun c => { c with l1 := tabErase c.l1 b })

/-- 128-byte lines of a core's L1: at most 1,024 (R19). -/
def Core.l1Lines (c : Core) : List Nat := (c.l1.map (fun e => lineOfBlock e.1)).dedup
/-- A block's line stands in the L1, or has room there; otherwise a line must be evicted first. -/
def State.l1Room (s : State) (core b : Nat) : Bool :=
  let c := s.coreAt core
  decide (c.l1.length < 1024) || c.l1Lines.contains (lineOfBlock b) || decide (c.l1Lines.length < 1024)

/-- Write bytes into a core's L1 block: they become valid and dirty, and the block enters the open epoch's signature. A block that is
dirty already keeps the epoch that made it dirty, so that a drain of that epoch still finds it (R254, R256), and the context that did
(R234). -/
def State.writeL1 (s : State) (core b : Nat) (x : BitVec 512) (mask : BitVec 64) (ctx : Nat) : State :=
  s.modCore core (fun c =>
    let o := tabGetD c.l1 b {}
    { c with l1 := tabSet c.l1 b { o with bytes := mergeBytes o.bytes x mask, valid := o.valid ||| mask, dirty := o.dirty ||| mask,
                                          epoch := if o.dirty = 0 then c.epoch else o.epoch,
                                          ctx := if o.dirty = 0 then ctx else o.ctx },
             sig := sigAdd c.sig b })

/-- Start the write-back of a block's dirty bytes (R260); the block stays, clean. -/
def State.startWb (s : State) (core b : Nat) : State :=
  match s.l1Block core b with
  | none => s
  | some x =>
    if x.dirty = 0 then s
    else
      let (id, s) := s.fresh
      let s := s.setL1 core b { x with dirty := 0 }
      { s with wbs := s.wbs ++ [{ id := id, core := core, block := b, bytes := x.bytes, mask := x.dirty, hdr := none, ctx := x.ctx,
                                  epoch := x.epoch }] }

/-- Dirty blocks of a core. -/
def State.dirtyBlocks (s : State) (core : Nat) : List Nat := ((s.coreAt core).l1.filter (fun e => e.2.dirty != 0)).map (·.1)

/-- Start the write-back of every dirty block that meets a test. -/
def State.startWbs (s : State) (core : Nat) (sel : Nat → Bool) : State :=
  ((s.dirtyBlocks core).filter sel).foldl (fun t b => t.startWb core b) s

/-- Write-backs of a core still to be acknowledged. -/
def State.wbIds (s : State) (core : Nat) : List Nat := (s.wbs.filter (fun w => w.core = core)).map (·.id)
def State.wbOn (s : State) (core : Nat) (sel : Nat → Bool) : Bool := s.wbs.any (fun w => w.core = core && sel w.block)

/-- Drop the clean bytes of a core's blocks that meet a test; dirty bytes stay. -/
def State.dropClean (s : State) (core : Nat) (sel : Nat → Bool) : State :=
  s.modCore core (fun c => { c with l1 := c.l1.filterMap (fun (e : Nat × L1Block) =>
    if !sel e.1 then some e else if e.2.dirty = 0 then none else some (e.1, { e.2 with valid := e.2.dirty, hdr := none })) })

/-- Fill a core's block: bytes that it does not hold, and the header. -/
def State.fillBlock (s : State) (core b : Nat) (x : BitVec 512) (h : Word) : State :=
  s.modCore core (fun c =>
    let o := tabGetD c.l1 b {}
    { c with l1 := tabSet c.l1 b { o with bytes := mergeBytes o.bytes x (~~~o.valid), valid := BitVec.allOnes 64, hdr := some h } })

/-- An epoch of a core still has a dirty block, or a write-back that no home has acknowledged. -/
def State.epochLive (s : State) (core e : Nat) : Bool :=
  (s.coreAt core).l1.any (fun x => x.2.dirty != 0 && x.2.epoch = e) || s.wbs.any (fun w => w.core = core && w.epoch = e)

/-- Closed epochs, oldest first, are drained once they and every older one are live no more (R256). -/
def State.settleEpochs (s : State) (core : Nat) : State :=
  s.modCore core (fun c => { c with closed := c.closed.dropWhile (fun e => !s.epochLive core e.1) })

/-- Replicas of an agent whose dirty data its owner has still to write back. -/
def State.dirtyReps (s : State) (agent : Nat) : List Nat :=
  (s.replicas.filter (fun r => repAgent r.1 = agent && r.2.dirty)).map (fun r => repBlock r.1)

/-- Merge an L1 write-back into the replica of a foreign block that the agent owns. A dirty replica stays with the context that made it so
(R385). -/
def State.mergeRep (s : State) (agent : Nat) (w : Wb) : State :=
  match s.rep? agent w.block with
  | some r => s.setRep agent w.block { r with bytes := mergeBytes r.bytes w.bytes w.mask, dirty := true, owned := true,
                                                  ctx := if r.dirty then r.ctx else w.ctx }
  | none => s

/-- The home could not deliver a block to a write-back that is to be merged. A write-back of a whole untyped block needs none of its
data; a typed block's header cannot be read (R233). Data found uncorrectable has made the block POISON with the data reason (R266), and
the lost write is reported (R234, log 80). A block that is POISON already discards the write-back, but for one of the whole block
(R235). -/
def State.mergeLost (s : State) (w : Wb) (who : Who) (src : Nat) : State :=
  if w.mask = BitVec.allOnes 64 && (src = 2 || !(s.block w.block).typed) then s.mergeHome w.block w.bytes w.mask w.hdr who
  else if src = 1 then s.memError w.block who 4
  else s.touched w.block who

/-- An agent's replica of a block: it takes a way of the slice for its context, or, with none, passes through and is written back or
dropped (R351). -/
def State.fillReplica (s : State) (agent b : Nat) (r : Replica) (cls : Resi) : State :=
  if (s.rep? agent b).isSome then (s.useL2 agent b none).setRep agent b r
  else ((s.fillSlice agent b r.ctx cls).1).setRep agent b r

/-- Whether a replica stands in its agent's slice. -/
def State.repPlaced (s : State) (agent b : Nat) : Bool := (s.l2At agent b).any (fun e => e.held.getLsbD (b % 2))

/-- A replica that stands in no way is dropped once it is clean. -/
def State.settleRep (s : State) (agent b : Nat) : State :=
  match s.rep? agent b with
  | some r => if !r.dirty && !s.repPlaced agent b then s.dropRep agent b else s
  | none => s

/-- Obtain ownership of a foreign block for an agent in one instant and merge a write-back into its replica (RDX, UPG of Table 8). -/
def State.ownNow (s : State) (agent : Nat) (w : Wb) : State :=
  let who := s.whoFor (devOfCore w.core) w.ctx agent w.block
  match s.rep? agent w.block with
  | some r =>
    if r.owned && r.dirty && !r.shr then s.mergeRep agent w
    else
      let s1 := s.clearFor w.block .upg who
      if (s1.hall w.block).isPoison then (s1.dropRep agent w.block).mergeLost w who 2 else
      match s1.rep? agent w.block with
      | some x => (s1.setRep agent w.block { x with shr := false }).mergeRep agent w
      | none => s1
  | none =>
    let s1 := s.clearFor w.block .rdx who
    match s1.readHome w.block who .normal with
    | (s2, .error e) => s2.mergeLost w who e.1
    | (s2, .ok (x, h)) => (s2.fillReplica agent w.block { bytes := x, hdr := h, owned := true, ctx := w.ctx } .normal).mergeRep agent w

/-- The context of a block's home device that pays for an agent's dirty data: the account of the one whose fill has evicted it, or of the
one that made it dirty (R348, R355). -/
def State.repPay (s : State) (agent b : Nat) : Nat :=
  match s.rep? agent b with
  | some r => (s.whoFor (devOfAgent agent) (r.evict.getD r.ctx) agent b).pay
  | none => 0

/-- The hallmark names an agent as owner of dirty data. -/
def State.ownedBy (s : State) (agent b : Nat) : Bool := match s.hall b with | .mod o | .owned o => o = agent | _ => false

/-- A WBK is performed, `t` being the state once the hallmark has changed: the data of the named owner is written, that of any other agent
is discarded (R261). -/
def State.wbkDone (s t : State) (agent b : Nat) (drop : Bool) : State :=
  let owner := s.ownedBy agent b
  let u := if owner then t.takeDirty agent b (t.repPay agent b) else t
  if drop || !owner then u.dropRep agent b
  else match u.rep? agent b with
    | some r =>
      (u.setRep agent b { r with dirty := false, shr := false, owned := match s.hall b with | .mod _ => true | _ => false }).settleRep agent b
    | none => u

/-- The owner writes a block back and keeps it (WBK keep), in one instant. -/
def State.wbkNow (s : State) (agent b : Nat) : State :=
  if s.isLost agent || !s.turn b .wbkKeep then s.awaitTurn b .wbkKeep agent
  else
    let s := (s.tagRead b).touch b
    s.wbkDone (s.setHall b (hallAfter (agentOfBlock b) .wbkKeep agent (s.hall b))) agent b false

/-- Write a core's dirty data to its homes in one instant: the release on behalf of retired threads (R47) and of the management core.
It waits while a context whose bytes are written is held for tokens at one of their homes, or the agent is lost (R265, R356). -/
def State.flushNow (s : State) (core : Nat) : State :=
  let agent := agentOfCore core
  let s1 := s.startWbs core (fun _ => true)
  let mine := s1.wbs.filter (fun w => w.core = core)
  if mine.any (fun w => s1.throttled w.block (s1.whoFor (devOfCore core) w.ctx agent w.block)) then s.await .off else
  let s2 := { s1 with wbs := s1.wbs.filter (fun w => w.core != core), txns := s1.txns.filter (fun t => !mine.any (fun w => w.id = t.acc)) }
  let s3 := mine.foldl (fun (t : State) w =>
    if agentOfBlock w.block = agent then t.hwrNow w.block w.bytes w.mask w.hdr (t.whoFor (devOfCore core) w.ctx agent w.block)
    else t.ownNow agent w) s2
  ((s3.dirtyReps agent).foldl (fun (t : State) b => t.wbkNow agent b) s3).settleEpochs core

end Sys2Proof.Machine
end

