-- ==== Sys2Proof/Machine/Flags.lean ====
section
/-! DEFINITION. Predicates, masks, the predicate prefix, `%hstat` and the status word: the flag computations of the execution, encoding
and recovery chapters. -/

namespace Sys2Proof.Machine

def allLanes : LaneMask := BitVec.allOnes 64

/-- A predicate source as a lane mask: a k register gives its bit to every lane (R107). -/
def Warp.predMask (x : Warp) : PReg → LaneMask
  | .p r => tabGetD x.p r.toNat 0
  | .k r => if x.k.getLsbD r.toNat then allLanes else 0

def invertIf (b : Bool) (m : LaneMask) : LaneMask := if b then ~~~m else m

/-- Write the lanes `m` of a p register (R32). -/
def Warp.setP (x : Warp) (r : Nat) (m bits : LaneMask) : Warp :=
  { x with p := tabSet x.p r ((tabGetD x.p r 0 &&& ~~~m) ||| (bits &&& m)) }

/-- Write a k register. -/
def Warp.setK (x : Warp) (r : Nat) (b : Bool) : Warp :=
  { x with k := (x.k &&& ~~~(1#4 <<< r)) ||| (if b then 1#4 <<< r else 0) }

/-- Write a predicate destination: the lanes `m` of a p register, or a k register's one bit (taken from lane 0). -/
def Warp.setPred (x : Warp) (q : PReg) (m bits : LaneMask) : Warp :=
  match q with
  | .p r => x.setP r.toNat m bits
  | .k r => x.setK r.toNat (bits.getLsbD 0)

/-! ### The predicate prefix (R69) -/

/-- The mask a vector instruction runs under: the path's, or the side of the prefix (R69). -/
def Warp.lanes (x : Warp) : LaneMask :=
  match x.pfx with
  | none => x.mask
  | some p => if 0 < p.thenLeft then p.base &&& p.cond else p.base &&& ~~~p.cond

/-- A uniform or once-per-warp instruction runs iff it is not covered or its mask has a bit set (R69). -/
def Warp.runs (x : Warp) : Bool := x.pfx.isNone || x.lanes != 0

/-- then_left and remaining each decrease by 1 where nonzero; the prefix ends at 0 (R69). -/
def Prefix.next (p : Prefix) : Option Prefix :=
  if p.remaining ≤ 1 then none else some { p with remaining := p.remaining - 1, thenLeft := p.thenLeft - 1 }

def Warp.pfxStep (x : Warp) : Warp := { x with pfx := x.pfx.bind Prefix.next }

/-! ### `%hstat` (R379, Table 4) -/

def Warp.handler (x : Warp) : Bool := x.hstat.getLsbD 0
def Warp.masked (x : Warp) : Bool := x.hstat.getLsbD 1

/-- Handler mode with traps masked (R371); the double-fault code and the re-entry bit are kept clear of it. -/
def hstatEnter (h : Word) : Word := (h &&& 0xFF00) ||| 3
/-- Leave handler mode and clear the trap mask (R378). -/
def hstatLeave (h : Word) : Word := h &&& 0xFF00
/-- A SYSWR changes bit [1] only (R379). -/
def hstatWrite (h v : Word) : Word := (h &&& ~~~2) ||| (v &&& 2)
/-- The second code of a double fault (R374). -/
def hstatDouble (h : Word) (code : Nat) : Word := (h &&& 0xFF) ||| (BitVec.ofNat 32 (code % 256) <<< 8)
/-- Debug re-entry: handler mode, traps masked, bit [2] set (R374). -/
def hstatDebug (h : Word) : Word := h ||| 7

/-! ### The status word (R372) -/

/-- Trap code, deferred, queued deferred traps, overflow, skid and prefix counts of a trap entry. -/
def statusWord (code : Nat) (deferred : Bool) (queued : Nat) (over_ : Bool) (skid : Nat) (p : Option Prefix) : DWord :=
  let rem := match p with | some q => q.remaining | none => 0
  let thn := match p with | some q => q.thenLeft | none => 0
  BitVec.ofNat 64 (code % 256 + (if deferred then 256 else 0) + (min queued 4) * 1024 + (if over_ then 8192 else 0)
    + (min skid 8) * 16384 + rem * 2 ^ 24 + thn * 2 ^ 28)

/-- TRET's test of `%fstat` and `%fpc` (R378). -/
def tretOk (st pc : DWord) (held : Bool) : Bool :=
  let s := st.toNat
  let p := pc.toNat
  bits s 32 32 = 0 && bits s 18 6 = 0 && bits p 49 15 = 0 && bits p 3 3 = 0 && decide (p % 8 ≤ 4) &&
    decide (bits s 24 4 ≤ 8) && decide (bits s 28 4 ≤ bits s 24 4) && (bits s 24 4 = 0 || held)

/-- The linear slot of a 64-bit PC. -/
def pcOfWord (p : DWord) : Nat := linearSlot (p.toNat % 2 ^ 49 / 64 * 64) (p.toNat % 8)

end Sys2Proof.Machine
end

