-- ==== Sys2Proof/Machine/Operands.lean ====
section
/-! DEFINITION. Registers and operand forms: reading and writing v, s, p and k registers, mapping and reserves (R33 to R37), pending
results and hazards (R65 to R67), last-read unmapping (R35, R68). -/

namespace Sys2Proof.Machine

def zeroLanes : Lanes := List.replicate 64 0

/-! ### Reading -/

/-- A vector register: an unmapped one reads as zero in every lane (R35). -/
def Warp.readV (x : Warp) (r : Nat) : Lanes := tabGetD x.v r zeroLanes
def Warp.readS (x : Warp) (r : Nat) : Word := tabGetD x.s r 0

/-- Register `i` of a source group at a lane: a uniform register or an immediate gives its value to every lane (R64). -/
def Warp.laneAt (x : Warp) (i : Nat) (a : Src) (l : Nat) : Word :=
  match a with
  | .v r _ => (x.readV (r.toNat + i)).getD l 0
  | .s r => x.readS (r.toNat + i)
  | .imm w => if i = 0 then w else 0

/-- A source of one register at a lane. -/
def Warp.lane (x : Warp) (a : Src) (l : Nat) : Word := x.laneAt 0 a l

/-- A pair at a lane, low word in the lower register. -/
def Warp.lane64 (x : Warp) (a : Src) (l : Nat) : DWord := x.laneAt 1 a l ++ x.laneAt 0 a l

/-- An operand of a type at a lane: pairs for 64-bit types; a 32-bit immediate of a 64-bit type is extended as the type requires
(R104, R105). -/
def Warp.operand (x : Warp) (ty : Ty) (a : Src) (l : Nat) : DWord :=
  match a with
  | .imm w => if ty == .s64 then w.signExtend 64 else w.zeroExtend 64
  | _ => if ty.is64 then x.lane64 a l else (x.lane a l).zeroExtend 64

/-- A predicate source at a lane. -/
def Warp.predAt (x : Warp) (q : PReg) (l : Nat) : Bool := (x.predMask q).getLsbD l

/-- A pair of uniform registers. -/
def Warp.pairS (x : Warp) (r : Nat) : DWord := x.readS (r + 1) ++ x.readS r
/-- A group of uniform registers as words w0, w1, ... of 64 bits, low word in the lower register (R285). -/
def Warp.wordsS (x : Warp) (r n : Nat) : List DWord := (List.range n).map (fun i => x.pairS (r + 2 * i))

/-! ### Pending results (R65) -/

/-- Whether a pending entry is still unwritten at a cycle. -/
def Pend.live (e : Pend) (now : Nat) : Bool := match e.due with | some d => decide (now < d) | none => true

/-- Whether a register is pending: for a vector register, the physical register its name maps, whose remaining lanes an older
result may still have to deliver. -/
def Warp.pending (x : Warp) (now : Nat) (r : PendReg) : Bool :=
  x.pend.any (fun e => e.reg = r && e.live now && (!e.old || e.lanes != 0))

/-- Whether any register of the warp is still to be written (R66). In handler mode the destination that stays pending until TRET is
not waited for (R66, R375; log 24). -/
def Warp.busy (x : Warp) (now : Nat) : Bool :=
  x.pend.any (fun e => e.live now && !(x.handler && e.due.isNone && x.frame.acc = some e.op))

/-- Registers of a source of `n` registers. -/
def srcRegs (n : Nat) : Src → List PendReg
  | .v r _ => (List.range n).map (fun i => .v (r.toNat + i))
  | .s r => (List.range n).map (fun i => .s (r.toNat + i))
  | .imm _ => []

/-- Vector registers that a source's last-read bit unmaps (R68). -/
def srcLasts (n : Nat) : Src → List Nat
  | .v r .last => (List.range n).map (fun i => r.toNat + i)
  | _ => []

def predRegs : PReg → List PendReg
  | .p r => [.p r.toNat]
  | .k r => [.k r.toNat]

def dstRegs (n : Nat) : Dst → List PendReg
  | .v r => (List.range n).map (fun i => .v (r.toNat + i))
  | .s r => (List.range n).map (fun i => .s (r.toNat + i))

/-! ### Mapping and reserves (R35 to R37) -/

/-- Physical registers a warp holds: its mapped ones, and the old ones of overwrites not yet complete. -/
def Warp.held (x : Warp) : Nat := x.v.length + (x.pend.filter (·.ovw)).length

def Warp.mapped (x : Warp) (r : Nat) : Bool := (tabGet x.v r).isSome

/-- Unmap the registers named by last-read bits. -/
def Warp.unmap (x : Warp) (l : List Nat) : Warp := { x with v := l.foldl tabErase x.v }

/-- Whether writing `dst` after unmapping `lasts` would map more than N registers: REG_RESERVE (R36). -/
def Warp.overReserve (x : Warp) (n : Nat) (lasts dst : List Nat) : Bool :=
  decide (n < (dst.foldl (fun v r => tabSet v r zeroLanes) (x.unmap lasts).v).length)

/-! ### Writing -/

/-- Values of the lanes `m` of a register replaced. -/
def mergeLanes (m : LaneMask) (new old : Lanes) : Lanes :=
  (List.range 64).map (fun l => if m.getLsbD l then new.getD l 0 else old.getD l 0)

/-- A later write takes lanes away from what earlier operations have still to deliver (R65). -/
def Pend.yieldTo (r : PendReg) (m : LaneMask) (e : Pend) : Pend :=
  if e.reg = r then { e with old := (match r with | .v _ => true | _ => e.old), lanes := e.lanes &&& ~~~m } else e

/-- Mark a register as being written by an operation (with none due: until the operation completes). -/
def Warp.mark (x : Warp) (r : PendReg) (due : Option Nat) (op : Nat) (m : LaneMask) (ovw : Bool) : Warp :=
  { x with pend := x.pend.map (Pend.yieldTo r m) ++ [{ reg := r, due := due, op := op, ovw := ovw, old := false, lanes := m }] }

/-- Write lanes of a vector register: a new physical register takes the values, the old one is freed when the write completes. -/
def Warp.putV (x : Warp) (r : Nat) (m : LaneMask) (vals : Lanes) (due : Nat) : Warp :=
  let y := x.mark (.v r) (some due) 0 m (x.mapped r)
  { y with v := tabSet y.v r (mergeLanes m vals (x.readV r)) }

/-- Write a uniform register. -/
def Warp.putS (x : Warp) (r : Nat) (w : Word) (due : Nat) : Warp :=
  let y := x.mark (.s r) (some due) 0 allLanes false
  { y with s := tabSet y.s r w }

/-- Write a predicate. -/
def Warp.putPred (x : Warp) (q : PReg) (m bits : LaneMask) (due : Nat) : Warp :=
  let y := match q with
    | .p r => x.mark (.p r.toNat) (some due) 0 m false
    | .k r => x.mark (.k r.toNat) (some due) 0 allLanes false
  y.setPred q m bits

/-- Write a destination group; a uniform destination takes lane 0's values. -/
def Warp.putDst (x : Warp) (d : Dst) (m : LaneMask) (vals : List Lanes) (due : Nat) : Warp :=
  match d with
  | .v r => (vals.zipIdx).foldl (fun y vi => y.putV (r.toNat + vi.2) m vi.1 due) x
  | .s r => (vals.zipIdx).foldl (fun y vi => y.putS (r.toNat + vi.2) (vi.1.getD 0 0) due) x

/-- Reserve a destination register for an operation of variable latency (R67): a vector register is mapped at issue (R219). -/
def Warp.reserve (x : Warp) (op : Nat) (m : LaneMask) (r : PendReg) : Warp :=
  match r with
  | .v n =>
    let y := x.mark r none op m (x.mapped n)
    { y with v := tabSet y.v n (x.readV n) }
  | _ => x.mark r none op m false

/-- Deliver a value to the lanes an operation has still to write in a register. -/
def Warp.deliver (x : Warp) (op : Nat) (r : PendReg) (m : LaneMask) (vals : Lanes) : Warp :=
  match x.pend.find? (fun e => e.reg = r && e.op = op && e.due.isNone) with
  | none => x
  | some e =>
    let m := m &&& e.lanes
    match r with
    | .v n => if x.mapped n then { x with v := tabSet x.v n (mergeLanes m vals (x.readV n)) } else x
    | .s n => if m = 0 then x else { x with s := tabSet x.s n (vals.getD 0 0) }
    | .p n => x.setP n m (BitVec.ofNat 64 ((List.range 64).foldl (fun a l => a + (if vals.getD l 0 = 0 then 0 else 2 ^ l)) 0))
    | .k n => if m = 0 then x else x.setK n (vals.getD 0 0 != 0)

/-- A result that completes while an older result of the same register is outstanding holds the older physical register until both
writes have completed (R65): its entry takes over the older one's condition. -/
def settle (gone : Pend → Bool) : List Pend → List Pend → List Pend
  | _, [] => []
  | before, e :: rest =>
    if gone e then
      match (if e.ovw then (before.filter (fun o => o.reg = e.reg && !gone o)).getLast? else none) with
      | some o => { e with due := o.due, op := o.op, old := true, lanes := 0 } :: settle gone (before ++ [e]) rest
      | none => settle gone (before ++ [e]) rest
    else e :: settle gone (before ++ [e]) rest

/-- The results of an operation are complete: their registers stop being pending. -/
def Warp.complete (x : Warp) (op : Nat) : Warp :=
  { x with pend := settle (fun e => e.due.isNone && e.op = op) [] x.pend }

/-- Results of fixed latency whose cycle has come are written (R67). -/
def Warp.writeBack (x : Warp) (now : Nat) : Warp :=
  { x with pend := settle (fun e => e.due.isSome && !e.live now) [] x.pend }

/-! ### What an instruction reads and writes -/

/-- Registers an instruction reads (for the hazard check), vector registers its last-read bits unmap, and the vector registers it
writes (for the reserve). -/
structure Deps where
  reads : List PendReg := []
  lasts : List Nat := []
  dsts  : List Nat := []
deriving DecidableEq, Repr

def Deps.src (n : Nat) (a : Src) : Deps := { reads := srcRegs n a, lasts := srcLasts n a }
def Deps.pred (q : PReg) : Deps := { reads := predRegs q }
def Deps.uni (r n : Nat) : Deps := { reads := (List.range n).map (fun i => .s (r + i)) }
def Deps.dst (n : Nat) : Dst → Deps
  | .v r => { dsts := (List.range n).map (fun i => r.toNat + i) }
  | .s _ => {}
def Deps.join (a b : Deps) : Deps := { reads := a.reads ++ b.reads, lasts := a.lasts ++ b.lasts, dsts := a.dsts ++ b.dsts }
def Deps.all (l : List Deps) : Deps := l.foldl Deps.join {}

end Sys2Proof.Machine
end

