-- ==== Sys2Proof/Machine/Retire.lean ====
section
/-! DEFINITION. The end of work: retirement and completion (R30, R46 to R48) and the kill of a context's work (R363, R368). -/

namespace Sys2Proof.Machine

/-! ### Launch records and kernel descriptors (R43, R44) -/

def wordOf (l : List DWord) (i : Nat) : Nat := (l.getD i 0).toNat
/-- `n` bytes at a byte offset of a list of 64-bit words. -/
def fieldAt (l : List DWord) (off n : Nat) : Nat := wordOf l (off / 8) / 256 ^ (off % 8) % 256 ^ n

def Launch.w (l : Launch) : Nat := bits (wordOf l.lr 0) 43 7
def Launch.g (l : Launch) : Nat := bits (wordOf l.lr 1) 43 3
def Launch.x (l : Launch) : Nat := bits (wordOf l.lr 3) 0 20
def Launch.y (l : Launch) : Nat := bits (wordOf l.lr 3) 20 16
def Launch.z (l : Launch) : Nat := bits (wordOf l.lr 3) 36 12
def Launch.wgs (l : Launch) : Nat := l.x * l.y * l.z
/-- Number of cluster groups (R26). -/
def Launch.cgs (l : Launch) : Nat := if l.g = 0 then 0 else (l.wgs + l.g - 1) / l.g
def Launch.level (l : Launch) (i : Nat) : Bool := bits (wordOf l.lr 1) (46 + i) 1 = 1

def State.launch? (s : State) (d e : Nat) : Option Launch := tabGet (s.dev d).launches e
def State.setLaunch (s : State) (d e : Nat) (l : Launch) : State := s.modDev d (fun x => { x with launches := tabSet x.launches e l })

/-- The requested operating point: the highest vote, or the default, and not above the cap (R24, R304). -/
def Dev.target (x : Dev) : Nat :=
  let votes := x.launches.filterMap (fun (e : Nat × Launch) => e.2.vote)
  min x.regs.cap (if votes.isEmpty then x.regs.point else votes.foldl max 0)

/-- Request a change of the point in force; it is to become stable (R304). -/
def State.repoint (s : State) (d : Nat) : State :=
  s.modDev d (fun x => if x.target = x.regs.force then x
    else { x with regs := { x.regs with force := x.target, want := some (x.target, x.ns) } })

/-- The management core gives up its tickets for a launch's phase words (R337). -/
def State.dropTickets (s : State) (d e : Nat) : State :=
  { s with dies := s.dies.map (fun (x : Nat × Die) => (x.1, { x.2 with monQ := x.2.monQ.filter (fun k => k.launch != some (d, e)) })) }

/-- An admitted-launch entry becomes free, and its vote ends (R304). -/
def State.dropLaunch (s : State) (d e : Nat) : State :=
  ((s.dropTickets d e).modDev d (fun x => { x with launches := tabErase x.launches e })).repoint d

/-! ### The outcome of a pre-emption (R357, R358) -/

def PgSt.final : PgSt → Bool | .swapped | .killed | .done => true | _ => false
/-- Outcome of a PREEMPT: 0 drained, 1 swapped, 2 killed; the mode itself when it found no group. -/
def Preempt.outcome (p : Preempt) : Nat :=
  if p.groups.isEmpty then p.mode
  else if p.groups.any (fun g => g.st == .killed) then 2 else if p.groups.any (fun g => g.st == .swapped) then 1 else 0

/-- Give a cluster group a pre-emption state from this moment on. -/
def State.setPg (s : State) (g : CgId) (st : PgSt) : State :=
  s.modDev g.dev (fun x => { x with preempts := x.preempts.map (fun (p : Preempt) =>
    { p with groups := p.groups.map (fun (y : PGroup) => if y.cg = g && !y.st.final then { y with st := st, since := x.ns } else y) }) })

/-- A pre-emption whose groups have all ended raises PREEMPT_DONE. -/
def State.settlePre (s : State) (d : Nat) : State :=
  let over_ := fun (p : Preempt) => p.groups.all (fun g => g.st.final)
  ((s.dev d).preempts.filter over_).foldl (fun (t : State) p => t.raiseEvent d p.ctx 0 0 0x09 [p.mode, p.outcome, p.groups.length])
    (s.modDev d (fun x => { x with preempts := x.preempts.filter (fun p => !over_ p) }))

/-- A completion event, if its level's bit is set (R46). -/
def State.completion (s : State) (d : Nat) (l : Launch) (die level index : Nat) : State :=
  if l.level level then s.raiseEvent d l.ctx die die 0x01 [l.seq, level, index] else s

/-- The completion word (R46): written with %seq, or one COMPLETION_FAULT event. -/
def State.completionWord (s : State) (d : Nat) (l : Launch) : State :=
  let va := bits (wordOf l.lr 2) 0 46 * 8
  let s := s.walked (4 * d) d l.ctx va
  let bad := fun (r : Nat) => s.raiseEvent d l.ctx 0 0 0x0E [l.seq, r, va]
  match s.translate d l.ctx va with
  | .error (r, _) => bad r
  | .ok p =>
    match p.place with
    | .memory .. =>
      if !p.writable then bad 3
      else if !s.admitted d l.ctx p 8 true then bad 4
      else match p.key with
        | none => bad 4
        | some key => s.writeHome key (bytesOf 8 l.seq) (s.whoFor d l.ctx (4 * d) (blockOf key))
    | .host pa => if !p.writable then bad 3 else s.hostStore d pa 8 l.seq
    | _ => bad 7

/-- Free a workgroup's warps' places in the slots of its core (R30). -/
def State.freeSlots (s : State) (g : Wg) (sel : WarpId → Bool) : State :=
  s.modCore g.core (fun c => { c with quads := c.quads.map (fun q => { q with slots := q.slots.filter (fun e => !sel e.2) }) })

/-- Count a completed cluster group up the tree: die group, device grid (R46, R47). -/
def State.cgDone (s : State) (d e cg die : Nat) : State :=
  match s.launch? d e with
  | none => s
  | some l =>
    let s1 := s.completion d l die 2 cg
    let dg := cg / 36
    let left := tabGetD l.dgLeft dg 1 - 1
    let l1 := { l with dgLeft := tabSet l.dgLeft dg left }
    if left != 0 then s1.setLaunch d e l1
    else
      let s2 := s1.completion d l1 die 3 dg
      let l2 := { l1 with grid := l1.grid - 1 }
      if l2.grid != 0 then s2.setLaunch d e l2
      else (((s2.completionWord d l2).completion d l2 0 4 0).dropLaunch d e)

/-- Every warp of a killed launch's remaining workgroups has retired: the entry is freed (R363). -/
def State.endLaunch (s : State) (d e : Nat) : State :=
  match s.launch? d e with
  | some l => if l.ended && !s.wgs.any (fun g => g.id.dev = d && g.id.launch = e) then s.dropLaunch d e else s
  | none => s

/-- A warp may retire: every lane has exited, its counters are zero and its results written (R30, R318). -/
def Warp.mayRetire (x : Warp) (now : Nat) : Bool :=
  !x.done && x.mask = 0 && x.stack.isEmpty && x.exited = allLanes && x.ops.isEmpty && !x.pend.any (fun e => e.live now) && x.halt.isNone
    && x.park.isEmpty && !x.handler

/-- The storage of a cluster group is freed: an arrival that still comes for one of its barriers finds nothing there (R30, R339). -/
def State.freeCg (s : State) (c : CgId) : State :=
  let mine := s.wgs.filter (fun y => y.id.dev = c.dev && y.id.launch = c.launch && y.cg = c.cg)
  let free := fun (b : BarLoc) => match b with
    | .spad i _ => if mine.any (fun y => y.id = i) then BarLoc.gone else b
    | _ => b
  { s with
    wgs := s.wgs.filter (fun y => !(y.id.dev = c.dev && y.id.launch = c.launch && y.cg = c.cg))
    upds := s.upds.map (fun (u : Upd) => { u with bar := free u.bar })
    dies := s.dies.map (fun (e : Nat × Die) => (e.1, { e.2 with mons := e.2.mons.map (fun (m : Mon) => { m with bar := free m.bar }) })) }

/-- Retirement of one warp, the release of each completed level, and the completions above it (R30, R46, R47). -/
def State.retire (s : State) (w : WarpId) : State :=
  match s.wg w.wg, s.warp w with
  | some g, some x =>
    let d := w.wg.dev
    if !g.resident || !x.mayRetire (s.cycle d) then s
    else
      let die := agentOfCore g.core % 4
      let s0 := (s.freeSlots g (fun y => y = w)).modWarp w (fun x => { x with done := true, park := [], v := [] })
      match s.launch? d w.wg.launch with
      | none => s0
      | some l =>
        let s1 := (s0.flushNow g.core).completion d l die 0 (w.wg.index * g.warps.length + w.warp)
        -- the panels end with their workgroup (R352)
        let s2 := s1.modWg w.wg (fun y => if y.left = 1 then { y with left := 0, st := .retired, panels := [] } else { y with left := y.left - 1 })
        if g.left != 1 then s2
        else
          let s3 := s2.completion d l die 1 w.wg.index
          let left := tabGetD l.cgLeft g.cg 1 - 1
          let s4 := match s3.launch? d w.wg.launch with
            | some l' => s3.setLaunch d w.wg.launch { l' with cgLeft := tabSet l'.cgLeft g.cg left }
            | none => s3
          if left != 0 then s4
          else
            -- partitions, tiles, maps and tile entries of the whole cluster group are freed together (R30)
            let s5 := s4.freeCg { dev := d, launch := w.wg.launch, cg := g.cg }
            (((s5.cgDone d w.wg.launch g.cg die).endLaunch d w.wg.launch).setPg { dev := d, launch := w.wg.launch, cg := g.cg } .done).settlePre d
  | _, _ => s

/-! ### Kill (R363, R368) -/

/-- Free the room of a workgroup's image in the swap ways (R352). -/
def State.freeImage (s : State) (g : Wg) : State :=
  match g.img with
  | some i => if i.area then s else s.modCluster i.slice (fun c => { c with swapUse := tabSet c.swapUse g.ctx (tabGetD c.swapUse g.ctx 0 - i.bytes) })
  | none => s

/-- The operation that a move is for. -/
def Move.op : Move → Option Nat
  | .perform i _ | .advance i | .copyRead i _ | .copyWrite i _ | .convElem i => some i
  | .act (.viewLineRequest i _) | .act (.loadComplete i) | .act (.storeAck i) | .act (.routerArrival i) | .act (.pairingExpiry i)
  | .act (.chinitHome i) | .act (.channelPushHome i) | .act (.channelPopHome i) | .act (.channelAck i) | .act (.channelDelivery i)
  | .act (.barrierInitUpdate i) | .act (.barrierArrival i) | .act (.barrierExpectation i) | .act (.barrierCredit i)
  | .act (.monitorArm i) | .act (.monxHome i) => some i
  | _ => none

/-- The operation that a home's request, or the ticket for it, serves: its own, or that of the move which is to be made again. -/
def Txn.op (t : Txn) : Option Nat := match t.again with | some m => m.op | none => some t.acc

/-- Discard what warps of a selection have in flight: operations, monitors, tickets, reports, waiting traps. -/
def State.dropWork (s : State) (sel : WarpId → Bool) : State :=
  let accIds := (s.accs.filter (fun a => sel a.w)).map (·.id)
  let chIds := (s.chops.filter (fun a => sel a.w)).map (·.id)
  let updIds := (s.upds.filter (fun a => sel a.w)).map (·.id)
  let engIds := (s.copies.filter (fun a => sel a.w)).map (·.id) ++ (s.convs.filter (fun a => sel a.w)).map (·.id)
  let gone := fun (i : Nat) => accIds.contains i || chIds.contains i || updIds.contains i || engIds.contains i
  let keep := fun (t : Ticket) => t.launch.isSome || !gone t.op && !(t.txn.bind (·.op)).any gone
  { s with
    accs := s.accs.filter (fun a => !sel a.w)
    chops := s.chops.filter (fun a => !sel a.w)
    upds := s.upds.filter (fun a => !sel a.w)
    copies := s.copies.filter (fun a => !sel a.w)
    convs := s.convs.filter (fun a => !sel a.w)
    reports := s.reports.filter (fun a => !sel a.w)
    txns := s.txns.filter (fun t => t.started || !t.op.any gone)
    dies := s.dies.map (fun (e : Nat × Die) => (e.1, { e.2 with
      mons := e.2.mons.filter (fun m => !sel m.w)
      monQ := e.2.monQ.filter keep
      postQ := e.2.postQ.filter keep
      chainQ := e.2.chainQ.map (fun q => (q.1, q.2.filter keep)) }))
    cores := s.cores.map (fun (e : Nat × Core) => (e.1, { e.2 with
      mq := e.2.mq.filter (fun m => !sel m.w)
      quads := e.2.quads.map (fun q => { q with slots := q.slots.filter (fun x => !sel x.2) }) })) }

/-- The counts that a home keeps in word 3 of a channel descriptor: sends in its overflow queue and posted receives (R269). -/
def State.descCounts (s : State) (key ctx : Nat) : Nat :=
  ((s.die (agentOfKey key)).ovf.filter (fun m => m.desc = key && m.ctx = ctx)).length % 2 ^ 32
    + (s.chops.filter (fun q => q.ctx = ctx && (match q.loc with | .posted k _ => k = key | _ => false))).length % 2 ^ 32 * 2 ^ 32

/-- Descriptors of a context with posted receives of a selection of warps, or with overflow sends. -/
def State.countedDescs (s : State) (d ctx : Nat) (sel : WarpId → Bool) : List Nat :=
  ((s.chops.filterMap (fun q => match q.loc with | .posted k _ => if sel q.w then some k else none | _ => none))
    ++ (s.dies.flatMap (fun (e : Nat × Die) => (e.2.ovf.filter (fun o => o.dev = d && o.ctx = ctx)).map (·.desc)))).dedup

/-- The homes of some descriptors bring their counts up to date, each on its own behalf. -/
def State.recount (s : State) (d ctx : Nat) (keys : List Nat) : State :=
  keys.foldl (fun (t : State) key =>
    t.hwrNow (blockOf key) (BitVec.ofNat 512 (t.descCounts key ctx * 256 ^ 24)) (maskAt 24 8) none (t.whoFor d ctx homeAgent (blockOf key))) s

/-- Cluster groups of an admitted launch whose bind records stand in slot tables of the device. -/
def State.queuedCgs (s : State) (d e : Nat) : List Nat :=
  (s.clusters.filter (fun (c : Nat × Cluster) => c.1 / 144 = d)).flatMap (fun c =>
    (c.2.slots.filter (fun b => bits b.w0.toNat 0 10 = e && bits b.w1.toNat 63 1 = 0)).map (fun b => bits b.w0.toNat 16 32))

/-- An admitted launch that has placed no work yet: each cluster group placed is queued or withdrawn. -/
def State.unplaced (s : State) (d e : Nat) (l : Launch) : Bool :=
  let q := s.queuedCgs d e
  l.cgLeft.all (fun c => q.contains c.1 || l.again.contains c.1)

/-- The kill of a context's work on a set of clusters (`all` for every cluster), and its event (R363, R368). -/
def State.kill (s : State) (d ctx : Nat) (all : Bool) (on : Nat → Bool) (cause : Nat) : State :=
  let hit := fun (g : Wg) => g.id.dev = d && g.ctx = ctx && (all || on (clusterOfCore g.core))
  let dead := s.wgs.filter hit
  let s1 := s.dropWork (fun w => dead.any (fun g => g.id = w.wg))
  let entries := (dead.map (fun g => g.id.launch)).dedup
  let unplaced := if all then ((s.dev d).launches.filter (fun (e : Nat × Launch) => e.2.ctx = ctx && !entries.contains e.1 && s.unplaced d e.1 e.2)).map (·.1) else []
  -- a launch that loses its withdrawn bind records can never complete
  let stuck := if all then ((s.dev d).launches.filter (fun (e : Nat × Launch) => e.2.ctx = ctx && !unplaced.contains e.1 && !e.2.again.isEmpty)).map (·.1) else []
  let ends := (entries ++ stuck).dedup
  let s2 := { s1 with
    wgs := s1.wgs.filter (fun g => !hit g)
    clusters := s1.clusters.map (fun (e : Nat × Cluster) =>
      if e.1 / 144 = d then
        (e.1, { e.2 with
          slots := e.2.slots.filter (fun b => !(ends ++ unplaced).contains (bits b.w0.toNat 0 10)) })
      else e)
    l2 := s1.l2.map (fun (e : Nat × L2Line) => if e.2.ctx = ctx && devOfAgent (repAgent e.1) = d && (e.2.cls == Resi.pin || e.2.cls == Resi.keep)
      then (e.1, { e.2 with cls := .normal }) else e) }
  let s2 := dead.foldl (fun (t : State) g => t.freeImage g) s2
  let s3 := s2.modDev d (fun x => { x with
    launches := (x.launches.map (fun (e : Nat × Launch) => if ends.contains e.1 then (e.1, { e.2 with ended := true, vote := none, again := [] }) else e)).filter
      (fun (e : Nat × Launch) => !unplaced.contains e.1)
    dbgOwner := if x.dbgOwner = some ctx then none else x.dbgOwner })
  let s4 := if all then { s3 with dies := s3.dies.map (fun (e : Nat × Die) => (e.1, { e.2 with ovf := e.2.ovf.filter (fun o => !(o.dev = d && o.ctx = ctx)) })) } else s3
  let s4 := s4.recount d ctx (s.countedDescs d ctx (fun w => dead.any (fun g => g.id = w.wg)))
  let s5 := (ends.foldl (fun (t : State) e => t.endLaunch d e) (unplaced.foldl (fun (t : State) e => t.dropTickets d e) s4)).repoint d
  let s6 := s5.raiseEvent d ctx 0 0 0x0A [cause]
  (dead.foldl (fun (t : State) g => t.setPg { dev := d, launch := g.id.launch, cg := g.cg } .killed) s6).settlePre d

end Sys2Proof.Machine
end

