-- ==== Sys2Proof/Machine/Swap.lean ====
section
/-! DEFINITION. Swap partitions, the HBM swap area, and the panels of a core's weight buffer (R167, R352, R354, R355). -/

namespace Sys2Proof.Machine

/-! ### The swap ways of a slice (R352) -/

/-- Bytes of a panel's backing copy: its header and records. -/
def Panel.backed (p : Panel) : Nat := 64 + p.bytes.length

/-- Bytes of a context's swap partition on a cluster: its images there and the backing copies of its workgroups' panels that the swap ways
hold. DESIGN CHOICE (log 146): a copy stays in the slice that it was written to, also when a restore has moved its workgroup to another
cluster. -/
def State.swapUsed (s : State) (k ctx : Nat) : Nat :=
  tabGetD (s.cluster k).swapUse ctx 0 + (s.wgs.filter (fun g => g.ctx = ctx && g.id.dev = k / 144)).foldl (fun n g =>
    g.panels.foldl (fun n p => if p.2.area || p.2.slice != k then n else n + p.2.backed) n) 0

/-- Whether `n` more bytes fit: at most 8 MiB for one context, and the swap ways of the slice for all. -/
def State.swapFits (s : State) (k ctx n : Nat) : Bool :=
  let ways := ((List.range 16).filter (fun i => (s.dev (k / 144)).regs.swapMask.getLsbD i)).length
  decide (s.swapUsed k ctx + n ≤ 8 * 2 ^ 20) &&
    decide ((List.range 64).foldl (fun a c => a + s.swapUsed k c) n ≤ ways * 2 ^ 20)

/-! ### The HBM swap area (R352) -/

/-- First VA of a context's HBM swap area for a cluster. -/
def State.areaVa (s : State) (k ctx : Nat) : Nat := s.ctxWord (k / 144) ctx 19 % 2 ^ 49 + 2 ^ 24 * (k % 144)

/-- Home keys of the blocks of the first `n` bytes of the area; none when a page of them is not a writable MEMORY page. -/
def State.areaKeys (s : State) (k ctx n : Nat) : Option (List Nat) :=
  (List.range ((n + 63) / 64)).mapM (fun i => match s.translate (k / 144) ctx (s.areaVa k ctx + 64 * i) with
    | .ok p => if p.writable then p.key else none
    | .error _ => none)

/-- The device's walks of the area's pages. -/
def State.areaWalks (s : State) (k ctx n : Nat) : State :=
  (List.range ((n + 65535) / 65536)).foldl (fun (t : State) i => t.walked (k / 36) (k / 144) ctx (t.areaVa k ctx + 65536 * i)) s

/-- 64 bytes whose values the manual does not state: a saved image has no layout (log 85). -/
def freeBlock (n : Nat) : BitVec 512 :=
  (List.range 8).foldl (fun (x : BitVec 512) i => x ||| ((Config.freeWord (n + i)).setWidth 512 <<< (64 * i))) 0

/-- A whole block of the area is written at its home; the flag is false when the header of a typed block cannot be read (R233). -/
def State.areaWrite (s : State) (b : Nat) (x : BitVec 512) (w : Who) : State × Bool :=
  let t := s.clearFor b .hwr w
  if (t.block b).typed && !(t.hall b).isPoison && !t.l2Holds b && t.decoded b = .bad then ((t.readHome b w .normal).1, false)
  else (t.mergeHome b x (BitVec.allOnes 64) none w, true)

/-- `n` bytes of a context's HBM swap area are written; a fault on the area, or an uncorrectable error, kills the context with cause 5. -/
def State.spill (s : State) (k ctx n : Nat) : State :=
  let d := k / 144
  let s := s.areaWalks k ctx n
  match s.areaKeys k ctx n with
  | none => s.kill d ctx true (fun _ => true) 5
  | some keys =>
    let (t, ok) := keys.foldl (fun (acc : State × Bool) key =>
      let t := acc.1
      let (u, ok) := State.areaWrite { t with free := t.free + 8 } (blockOf key) (freeBlock t.free) (t.whoFor d ctx (k / 36) (blockOf key))
      (u, acc.2 && ok)) (s, true)
    if ok then t else t.kill d ctx true (fun _ => true) 5

/-- `n` bytes of the area are read back; a fault or an uncorrectable error kills the context with cause 5. -/
def State.unspill (s : State) (k ctx n : Nat) : State :=
  let d := k / 144
  let s := s.areaWalks k ctx n
  match s.areaKeys k ctx n with
  | none => s.kill d ctx true (fun _ => true) 5
  | some keys =>
    let (t, ok) := keys.foldl (fun (acc : State × Bool) key =>
      match acc.1.hrdNow (blockOf key) (acc.1.whoFor d ctx (k / 36) (blockOf key)) with
      | (u, .ok _) => (u, acc.2)
      | (u, .error _) => (u, false)) (s, true)
    if ok then t else t.kill d ctx true (fun _ => true) 5

/-! ### Panels of the physical weight buffer (R167, R354) -/

/-- A context's weight-buffer class (Table 2 of the isolation chapter): 0 PIN, 1 KEEP, 2 NORMAL, 3 STREAM. -/
def State.wbClass (s : State) (dev ctx : Nat) : Nat := bits (s.ctxWord dev ctx 0) 6 2

/-- A panel in a core's physical weight buffer: its workgroup, offset, size and class. -/
structure WbEntry where
  wg   : WgId
  off  : Nat
  size : Nat
  cls  : Nat
deriving DecidableEq, Repr

/-- PIN panels beyond 128 KiB of a core's buffer count as KEEP (R354). DESIGN CHOICE (log 122): they are counted in the order of the workgroups
and of their panels, which is also the order of eviction among panels of one class. -/
def pinLimit : List WbEntry → Nat → List WbEntry
  | [], _ => []
  | e :: es, n =>
    if e.cls != 0 then e :: pinLimit es n
    else if n + e.size ≤ 131072 then e :: pinLimit es (n + e.size) else { e with cls := 1 } :: pinLimit es n

/-- Panels that stand in a core's buffer. -/
def State.wbHeld (s : State) (core : Nat) : List WbEntry :=
  pinLimit ((s.wgs.filter (fun g => g.core = core)).flatMap (fun g => (g.panels.filter (fun p => p.2.here)).map (fun p =>
    { wg := g.id, off := p.1, size := p.2.backed, cls := s.wbClass g.id.dev g.ctx }))) 0

/-- Change one panel of a workgroup. -/
def State.modPanel (s : State) (g : WgId) (off : Nat) (f : Panel → Panel) : State :=
  s.modWg g (fun h => { h with panels := h.panels.map (fun (p : Nat × Panel) => if p.1 = off then (p.1, f p.2) else p) })

/-- Evict panels until the buffer's 256 KiB hold the rest. -/
def evictPanels : List WbEntry → Nat → State → State
  | [], _, s => s
  | e :: es, total, s =>
    if total ≤ 262144 then s else evictPanels es (total - e.size) (s.modPanel e.wg e.off (fun p => { p with here := false }))

/-- A panel enters its core's buffer: others leave it in the order STREAM, NORMAL, KEEP, PIN. -/
def State.placePanel (s : State) (core : Nat) (g : WgId) (off : Nat) : State :=
  let t := s.modPanel g off (fun p => { p with here := true })
  let held := t.wbHeld core
  evictPanels (sortBy (fun e => 3 - e.cls) (held.filter (fun e => !(e.wg = g && e.off = off)))) (held.foldl (fun n e => n + e.size) 0) t

/-- A panel has been written: its backing copy takes room in the swap partition, or in the HBM swap area (R352). -/
def State.backPanel (s : State) (core : Nat) (g : WgId) (off : Nat) : State :=
  match s.wg g with
  | none => s
  | some h =>
    match tabGet h.panels off with
    | none => s
    | some p =>
      let k := clusterOfCore core
      let t := (s.placePanel core g off).modPanel g off (fun p => { p with slice := k, area := true, bad := false })
      if t.swapFits k h.ctx p.backed then t.modPanel g off (fun p => { p with area := false }) else t.spill k h.ctx p.backed

/-- A panel is used: one that has left the buffer is reloaded from its backing copy (R167, R354); a copy that cannot be read kills the
context with cause 5 (R368). -/
def State.usePanel (s : State) (core : Nat) (g : WgId) (off : Nat) : State :=
  match (s.wg g).bind (fun h => (tabGet h.panels off).map (fun p => (h.ctx, p))) with
  | none => s
  | some (ctx, p) =>
    if p.here then s
    else if p.bad && !p.area then s.kill g.dev ctx true (fun _ => true) 5
    else (if p.area then s.unspill p.slice ctx p.backed else s).placePanel core g off

/-- Panels of a workgroup that stand in its core's buffer as PIN. -/
def State.pinHeld (s : State) (g : Wg) : List Nat := ((s.wbHeld g.core).filter (fun e => e.wg = g.id && e.cls = 0)).map (·.off)

/-- Panels after a restore on a core: only those listed are still in its buffer, every other is reloaded when first used. -/
def Wg.dropPanels (g : Wg) (keep : List Nat) : Wg :=
  { g with panels := g.panels.map (fun (p : Nat × Panel) => (p.1, { p.2 with here := p.2.here && keep.contains p.1 })) }

end Sys2Proof.Machine
end

