-- ==== Sys2Proof/Machine/Ops.lean ====
section
/-! DEFINITION. The operations the meanings share: fetching a line, taking a trap and returning from one (R370 to R378), and the frame
of an instruction's issue (R35 to R37, R65 to R72). -/

namespace Sys2Proof.Machine

/-! ### Trap codes (R369, Table 2) -/

def tIllegalOpcode := 0x01
def tIllegalEncoding := 0x02
def tBadTarget := 0x03
def tFetchParity := 0x04
def tRegHazard := 0x05
def tRegReserve := 0x06
def tResourceRange := 0x07
def tIllegalState := 0x08
def tDivergeDepth := 0x09
def tSwTrap := 0x0A
def tBreakpoint := 0x0B
def tAddrRange := 0x10
def tMisaligned := 0x11
def tSpadUnbacked := 0x12
def tSpaceFault := 0x13
def tPageFault := 0x14
def tViewFault := 0x15
def tViewRo := 0x16
def tViewRange := 0x17
def tMemUncorrectable := 0x18
def tMatrixFormat := 0x20
def tMatrixUnavailable := 0x21
def tTileState := 0x22
def tChannelFault := 0x28
def tChannelOverflow := 0x29
def tCopyFault := 0x2A
def tBarrierFault := 0x2B
def tLaunchFault := 0x2C
def tTretFault := 0x30
def tStateUncorrectable := 0x31

/-- A precise trap with no detail. -/
def trapOf (code : Nat) : TrapInfo := { code := code, deferred := false }
/-- A precise trap with an address and detail words. -/
def trapAt (code addr : Nat) (info : List Nat) : TrapInfo :=
  { code := code, deferred := false, addr := addr, info := info.map (BitVec.ofNat 32) }
/-- PAGE_FAULT with its reason and level (R347). -/
def pageTrap (va : Nat) (f : PFault) : TrapInfo := trapAt tPageFault va [f.1, f.2]

/-! ### Fetching a line (R51 to R54) -/

/-- The line word of a line (Table 1 of the encoding chapter). -/
def lineWord (l : BitVec 512) : Word := l.extractLsb' 480 32
def legalSlot (l : BitVec 512) (slot : Nat) : Bool := (lineWord l).getLsbD slot
def templateBit (l : BitVec 512) (slot : Nat) : Bool := (lineWord l).getLsbD (5 + slot)
def lineReserved (l : BitVec 512) : Bool := (lineWord l).extractLsb' 9 7 != 0
def slotBits (l : BitVec 512) (i : Nat) : BitVec 96 := l.extractLsb' (96 * i) 96

/-- Even parity of the 16 chunks of 30 bits (R51, R54). -/
def parityOk (l : BitVec 512) : Bool :=
  (List.range 16).all (fun k =>
    parity ((List.range 30).map (fun i => l.getLsbD (30 * k + i))) = (lineWord l).getLsbD (16 + k))

/-- The quadrant of a warp (R29). -/
def quadOf (g : Wg) (w : Nat) : Nat := (g.q0 + w) % 4

/-- A code line from L2 or memory: a MEMORY page of the own device; an uncorrectable line fails its parity check (log 22). -/
def State.readLine (s : State) (core ctx va : Nat) : Except TrapInfo (BitVec 512) :=
  match s.translateAt core ctx va with
  | .error f => .error (pageTrap va f)
  | .ok p =>
    match p.place, p.key with
    | .memory _ v _, some key =>
      if v != devOfCore core then .error (pageTrap va (2, p.lvl))
      else match s.peekHome (blockOf key) with
        | .error _ => .error (trapAt tFetchParity va [])
        | .ok (x, _) => if parityOk x then .ok x else .error (trapAt tFetchParity va [])
    | _, _ => .error (pageTrap va (2, p.lvl))

/-- The copy of a line in one of a core's instruction buffers, those of quadrant `q` first. -/
def Core.ibCopy (c : Core) (q ctx line : Nat) : Option IbLine :=
  ((c.quad q).ibuf ++ c.quads.flatMap (·.ibuf)).find? (fun e => e.ctx = ctx && e.line = line)

/-- A line as a warp sees it: its core's buffers first, which no store reaches (R55), otherwise memory. -/
def State.lineFor (s : State) (g : Wg) (w va : Nat) : Except TrapInfo (BitVec 512) :=
  match (s.coreAt g.core).ibCopy (quadOf g w) g.ctx (va / 64) with
  | some e => .ok e.bits
  | none => s.readLine g.core g.ctx va

/-- The check of a control transfer's target (R52, R53). -/
def State.checkTarget (s : State) (g : Wg) (w : Nat) (n : Int) : Except TrapInfo Nat :=
  if n < 0 ∨ (maxPc : Int) < n then .error (trapOf tBadTarget)
  else
    match s.lineFor g w (lineVa n.toNat) with
    | .error t => .error { t with addr := lineVa n.toNat }
    | .ok l => if legalSlot l (slotOf n.toNat) then .ok n.toNat else .error (trapOf tBadTarget)

/-! ### Taking a trap (R370 to R374) -/

/-- A halt or swap keeps the time a SLEEP has left (R381). -/
def Park.freeze (now : Nat) : Park → Park | .sleep u => .slept (u - now) | p => p
def Park.thaw (now : Nat) : Park → Park | .slept n => .sleep (now + n) | p => p
def Warp.freeze (x : Warp) (now : Nat) : Warp := { x with park := x.park.map (Park.freeze now) }
def Warp.thaw (x : Warp) (now : Nat) : Warp := { x with park := x.park.map (Park.thaw now) }

/-- The handler's entry as a linear slot: slot index w5 of the code at w4 (R371). -/
def State.handlerPc (s : State) (dev ctx : Nat) : Option Nat :=
  let va := s.ctxWord dev ctx 4 % 2 ^ 49
  if va = 0 then none else some (5 * (va / 64) + s.ctxWord dev ctx 5 % 2 ^ 32)

/-- The handler is usable: w4 is set and the entry slot is a legal target; a line that cannot be fetched is entered, and traps there
(log 23). -/
def State.usableHandler (s : State) (g : Wg) (w : Nat) : Option Nat :=
  match s.handlerPc g.id.dev g.ctx with
  | none => none
  | some pc =>
    if maxPc < pc then none
    else match s.lineFor g w (lineVa pc) with
      | .error _ => some pc
      | .ok l => if legalSlot l (slotOf pc) then some pc else none

/-- A double fault (R374): the workgroup halts; the context is killed, or the fault is reported for debugging. -/
def State.doubleFault (s : State) (w : WarpId) (first second : Nat) : State :=
  match s.wg w.wg with
  | none => s
  | some g =>
    let s1 := s.modWg w.wg (fun g => { g with halted := true, owner := some w.warp })
    let s2 := s1.modWarp w (fun x => { x with hstat := hstatDouble x.hstat second })
    if bits (s.ctxWord w.wg.dev g.ctx 0) 1 1 = 1 then
      let die := agentOfCore g.core % 4
      s2.raiseEvent w.wg.dev g.ctx die die 0x0B [dieLocalCore g.core, w.warp, first, second]
    else s2.kill w.wg.dev g.ctx true (fun _ => true) 4

/-- The fault frame of a trap (R371, R372, Table 5). TRAP and BKPT resume at the next slot. -/
def mkFrame (x : Warp) (t : TrapInfo) (queued skid : Nat) : Frame :=
  let past := t.code = tSwTrap || t.code = tBreakpoint
  let pc := if past && !t.deferred then x.pc + 1 else x.pc
  let pfx := if past && !t.deferred then x.pfx.bind Prefix.next else x.pfx
  { code := t.code
    stat := statusWord t.code t.deferred queued x.dqOver skid pfx
    pc := BitVec.ofNat 64 (pcWord pc)
    apc := if t.deferred then t.apc.map (fun a => BitVec.ofNat 64 (pcWord a)) else none
    addr := BitVec.ofNat 64 t.addr
    base := BitVec.ofNat 64 t.base
    lanes := t.lanes
    mask := x.mask
    info := (t.info ++ [0, 0, 0, 0]).take 4
    cmd := (t.cmd ++ List.replicate 16 0).take 16
    pfx := pfx
    stack := x.stack
    park := x.park
    acc := t.acc }

/-- A warp in handler mode at the handler's entry (R371). DESIGN CHOICE (log 112): from then on its kernel's entry slot counts as checked (R52), also
where the trap came before the warp's first instruction: TRET, which R52 leaves unchecked, is not checked there. -/
def Warp.enter (x : Warp) (t : TrapInfo) (queued skid pc : Nat) : Warp :=
  { x with frame := mkFrame x t queued skid, frep := [],
           hstat := hstatEnter x.hstat, mask := ~~~x.exited, stack := [], pfx := none, park := [], pc := pc, halt := none,
           dqOver := false, checked := true }

/-- The trapping warp enters handler mode, or double-faults with no usable handler (R371, R374). -/
def State.enterTrap (s : State) (w : WarpId) (t : TrapInfo) : State :=
  match s.wg w.wg, s.warp w with
  | some g, some _ =>
    let s1 := s.modWg w.wg (fun g => { g with owner := some w.warp })
    let skid := if t.deferred then t.skid else 0
    match s.usableHandler g w.warp with
    | none => (s1.modWarp w (fun x => { x with frame := mkFrame x t x.dq.length skid })).doubleFault w t.code 0
    | some pc => s1.modWarp w (fun x => x.enter t x.dq.length skid pc)
  | _, _ => s

/-- A warp stopped at an issue-group boundary: parked, trapped precisely, or halted with its skid done. -/
def Warp.atStop (x : Warp) : Bool := x.ptrap.isSome || (match x.halt with | some h => h.stopped | none => false)

/-- Enter the next waiting trap of a workgroup, if it takes none now (R373): lowest warp first, deferred traps before the precise. -/
def State.pump (s : State) (id : WgId) : State :=
  match s.wg id with
  | none => s
  | some g =>
    if g.owner.isSome || g.halted || !(g.st == .running || g.st == .draining) then s
    else
      match g.warps.zipIdx.find? (fun xi => !xi.1.done && (xi.1.dq != [] || xi.1.ptrap.isSome)) with
      | none => s
      | some (x, i) =>
        let w : WarpId := { wg := id, warp := i }
        if !x.atStop then s
        else match x.dq with
          | t :: rest => (s.modWarp w (fun x => { x with dq := rest })).enterTrap w t
          | [] => match x.ptrap with
            | some t => (s.modWarp w (fun x => { x with ptrap := none })).enterTrap w t
            | none => s

/-- Broadcast the halt to a workgroup: a parked warp stops at once with skid 0 (R370). -/
def Warp.haltNow (now : Nat) (x : Warp) : Warp :=
  if x.done || x.halt.isSome || x.handler then x
  else { x.freeze now with halt := some { skid := 0, stopped := x.park != [] } }

/-- Put a deferred trap on its way to its warp. -/
def State.defer (s : State) (w : WarpId) (t : TrapInfo) : State :=
  let (id, s) := s.fresh
  { s with reports := s.reports ++ [{ id := id, w := w, t := { t with deferred := true } }] }

/-- Take a trap (R370 to R374): it is queued on its warp, the workgroup is halted, and the next trap in order is entered. A trap in
handler mode, and STATE_UNCORRECTABLE, is a double fault. A deferred trap of a swapped workgroup is queued in its image; one for a warp in
handler mode stays under way, and is taken after restore. -/
def State.takeTrap (s : State) (w : WarpId) (t : TrapInfo) : State :=
  match s.wg w.wg, s.warp w with
  | some g, some x =>
    if x.done then s
    else if x.handler && !g.resident then s.defer w t
    else if x.handler then s.doubleFault w x.frame.code t.code
    else if t.code = tStateUncorrectable then
      ((s.modWg w.wg (fun g => { g with warps := g.warps.map (Warp.haltNow (s.cycle w.wg.dev)) })).modWarp w
        (fun x => { x with frame := mkFrame x t x.dq.length 0, halt := none })).doubleFault w t.code t.code
    else
      let q := fun (x : Warp) =>
        if t.deferred then (if 4 ≤ x.dq.length then { x with dqOver := true } else { x with dq := x.dq ++ [t] })
        else { x with ptrap := some t }
      let s1 := s.modWg w.wg (fun g => { g with warps := g.warps.zipIdx.map (fun xi => if xi.2 = w.warp then (q xi.1).haltNow (s.cycle w.wg.dev) else xi.1.haltNow (s.cycle w.wg.dev)) })
      if g.resident then s1.pump w.wg else s.modWarp w q
  | _, _ => s

/-! ### TRET (R375, R378) -/

/-- The uniform registers an update writes: the first, and how many. -/
def Upd.dst (u : Upd) : Option (Nat × Nat) :=
  match u.kind with
  | .arrive _ (some d) => some (d, 1)
  | .mon _ d => some (d, 2)
  | .monx _ d => some (d, 1)
  | .tstat d => some (d, 1)
  | _ => none

/-- Deliver replacement words to a pending access or update and end it (R375). -/
def State.finishLost (s : State) (w : WarpId) (op : Nat) (words : List Lanes) : State :=
  let ends := fun (s : State) (d : Option Dst) (n : Nat) (m : LaneMask) (k : CntClass) =>
    let s1 := match d with
      | none => s
      | some d => s.modWarp w (fun x => ((dstRegs n d).zipIdx.foldl (fun (y : Warp) (ri : PendReg × Nat) => y.deliver op ri.1 m (words.getD ri.2 zeroLanes)) x).complete op)
    s1.opEnd w k op
  match s.acc? op with
  | some a => ends (s.dropAcc op) a.dst ((a.size + 3) / 4) (match a.lost with | some l => l.lanes | none => 0) a.cls
  | none =>
    match s.upd? op with
    | some u =>
      ends (s.dropUpd op) (u.dst.map (fun r => Dst.s (BitVec.ofNat 6 r.1))) ((u.dst.map (·.2)).getD 0) allLanes (u.cls.getD .load)
    | none => s

/-- The warp state that TRET restores (R378); a switch marker on the TRET parks the warp as well (R66). -/
def Warp.tret (x : Warp) (now : Nat) (sw : Bool) : Warp :=
  let st := x.frame.stat.toNat
  let rem := bits st 24 4
  let y := { x with hstat := hstatLeave x.hstat }
  { y with mask := x.frame.mask &&& ~~~x.exited,
           pfx := if rem = 0 then none else x.frame.pfx.map (fun p => { p with remaining := rem, thenLeft := bits st 28 4 }),
           stack := x.frame.stack, pc := pcOfWord x.frame.pc,
           park := (if sw && y.busy now then [.sw] else []) ++ x.frame.park.map (Park.thaw now) }

/-- Return from handler mode (R378): the pending access is completed, the frame restored, and the next queued trap entered or the
siblings released. Under a stop request sleeping time goes on standing still (R359, R381). -/
def State.tret (s : State) (w : WarpId) (sw : Bool) : State :=
  match s.warp w with
  | none => s
  | some x =>
    let words := if x.frame.stat.getLsbD 9 then (List.range 4).map (fun i => tabGetD x.frep i zeroLanes) else []
    let s1 := match x.frame.acc with
      | some op => if x.frame.stat.toNat % 256 = tMemUncorrectable then s.finishLost w op words else s
      | none => s
    let now := s.cycle w.wg.dev
    let s2 := (s1.modWarp w (fun x => x.tret now sw)).modWg w.wg (fun g => { g with owner := none })
    let queued := match s2.wg w.wg with
      | some g => g.warps.any (fun x => !x.done && (x.dq != [] || x.ptrap.isSome))
      | none => false
    if queued then
      (s2.modWarp w (fun x => { x.freeze now with halt := some { skid := 0, stopped := true } })).pump w.wg
    else s2.modWg w.wg (fun g => { g with warps := g.warps.map (fun x =>
      { (if g.st == .stopping then x.freeze now else if x.halt.isSome then x.thaw now else x) with halt := none }) })

/-! ### Issue of an instruction -/

/-- What a meaning knows of the warp that issues it. -/
structure Ctx where
  w    : WarpId
  g    : Wg
  x    : Warp
  now  : Nat

def Ctx.dev (c : Ctx) : Nat := c.w.wg.dev
def Ctx.core (c : Ctx) : Nat := c.g.core
def Ctx.ctx (c : Ctx) : Nat := c.g.ctx
def Ctx.agent (c : Ctx) : Nat := agentOfCore c.g.core
def Ctx.who (c : Ctx) : Who := { dev := c.dev, ctx := some c.ctx, agent := c.agent }

/-- The warp whose slot is executed, if it is live. -/
def State.current (s : State) : Option Ctx :=
  match s.cur with
  | none => none
  | some w =>
    match s.wg w.wg, s.warp w with
    | some g, some x => if x.done then none else some { w := w, g := g, x := x, now := s.cycle w.wg.dev }
    | _, _ => none

/-- Registers of a quadrant that lie in no reserve and that no warp holds above its reserve (R37). -/
def State.sharedPool (s : State) (g : Wg) (q : Nat) : Nat :=
  let used := (s.wgs.filter (fun h => h.core = g.core && h.resident)).foldl (fun n h =>
    (h.warps.zipIdx.filter (fun xi => quadOf h xi.2 = q && !xi.1.done)).foldl (fun n xi =>
      n + max h.regs (xi.1.writeBack (s.cycle g.id.dev)).held) n) 0
  512 - used

/-- Whether an allocation of `need` physical registers, after `freed` are unmapped, must wait for the pool (R37). -/
def State.poolEmpty (s : State) (c : Ctx) (d : Deps) : Bool :=
  let freed := (c.x.v.length) - (c.x.unmap d.lasts).v.length
  let held := (c.x.writeBack c.now).held
  let after := held - freed + d.dsts.length
  decide (s.sharedPool c.g (quadOf c.g c.w.warp) < max c.g.regs after - max c.g.regs held)

/-- After an instruction has issued: the PC, the prefix, the skid of a halt in progress and of each report that has arrived, and the
switch marker (R66, R69, R370, R372). -/
def Warp.advance (x : Warp) (now : Nat) (sw jump covered : Bool) : Warp :=
  let x1 := if jump then x else { x with pc := x.pc + 1 }
  let x2 := if covered then x1.pfxStep else x1
  let x3 := { x2 with halt := x2.halt.map (fun (h : Halt) => { skid := h.skid + 1, stopped := h.stopped || decide (8 ≤ h.skid + 1) }),
                      dq := if x2.handler then x2.dq else x2.dq.map (fun t => { t with skid := t.skid + 1 }) }
  if sw && x3.busy now then { x3 with park := .sw :: x3.park } else x3

/-- How an instruction is issued: once per warp or per lane, whether a prefix may cover it, whether it sets the PC itself, whether its
effect already includes all that follows issue (TRET). -/
structure Mode where
  once  : Bool
  cover : Bool := true
  jump  : Bool := false
  raw   : Bool := false
  sw    : Bool
deriving DecidableEq, Repr

/-- Issue an instruction (R72's order): a forbidden cover, its own holds at issue, the hazard check, nothing if no lane runs it, the reserve,
the hold of an empty shared pool (R37), then its own traps and effect. DESIGN CHOICE (log 134): the manual lists the holds of R310 in no order
with the hazard check. `hold` says that it must wait at issue; `pre` is what the machine does for it before its checks, and stays done
if it traps (the walks of its addresses, R345); `body` reads registers in the context and changes the state. -/
def State.issue (s : State) (m : Mode) (d : Deps) (hold : Ctx → State → Bool) (body : Ctx → State → Except TrapInfo State)
    (pre : Ctx → State → State := fun _ t => t) : Host.Outcome State Fault Refusal :=
  match s.current with
  | none => .fault .noWarp
  | some c =>
    let covered := c.x.pfx.isSome
    let runs := if m.once then c.x.runs else c.x.lanes != 0
    if covered && !m.cover then .next (s.takeTrap c.w (trapOf tIllegalEncoding))
    else if runs && hold c s then .next s
    else if d.reads.any (c.x.pending c.now) then .next (s.takeTrap c.w (trapOf tRegHazard))
    else if !runs then
      .next (s.modWarp c.w (fun x => (x.unmap d.lasts).advance c.now m.sw false covered))
    else if c.x.overReserve c.g.regs d.lasts d.dsts then .next (s.takeTrap c.w (trapOf tRegReserve))
    else if d.dsts != [] && s.poolEmpty c d then .next s
    else
      let s := pre c s
      match body c (s.modWarp c.w (fun x => x.unmap d.lasts)) with
      | .error t => .next (s.takeTrap c.w t)
      | .ok t => .next (if m.raw then t else t.modWarp c.w (fun x => x.advance c.now m.sw m.jump covered))

/-- An instruction that changes only its warp. -/
def State.issueWarp (s : State) (m : Mode) (d : Deps) (body : Ctx → Warp → Warp) : Host.Outcome State Fault Refusal :=
  s.issue m d (fun _ _ => false) (fun c t => .ok (t.modWarp c.w (body c)))

def isUniform : Dst → Bool | .s _ => true | .v _ => false

/-- Build the lanes of a result from a function of the lane: the active lanes, or lane 0 of the uniform form. -/
def laneVals (uniform : Bool) (m : LaneMask) (n : Nat) (f : Nat → List Word) : List Lanes :=
  if uniform then
    let r := f 0
    (List.range n).map (fun i => [r.getD i 0])
  else
    let rs := (List.range 64).map (fun l => if m.getLsbD l then f l else [])
    (List.range n).map (fun i => rs.map (fun r => r.getD i 0))

/-- Build a lane mask from a function of the lane. -/
def laneBits (m : LaneMask) (f : Nat → Bool) : LaneMask :=
  BitVec.ofNat 64 ((List.range 64).foldl (fun a l => if m.getLsbD l && f l then a + 2 ^ l else a) 0)

/-- An instruction of opcodes 0x10-0x5F with a register result of `n` registers and a fixed latency. -/
def State.alu (s : State) (sw : Bool) (dst : Dst) (n lat : Nat) (srcs : Deps) (f : Warp → Nat → List Word) : Host.Outcome State Fault Refusal :=
  let u := isUniform dst
  s.issueWarp { once := u, sw := sw } (srcs.join (Deps.dst n dst)) (fun c y =>
    let m := if u then allLanes else c.x.lanes
    y.putDst dst m (laneVals u m n (f c.x)) (c.now + (if u then 2 else lat)))

/-- An instruction of opcodes 0x10-0x5F with a predicate result. -/
def State.aluPred (s : State) (sw uniform : Bool) (q : PReg) (lat : Nat) (srcs : Deps) (f : Warp → Nat → Bool) : Host.Outcome State Fault Refusal :=
  s.issueWarp { once := uniform, sw := sw } srcs (fun c y =>
    let m := if uniform then allLanes else c.x.lanes
    y.putPred q m (laneBits (if uniform then 1 else m) (f c.x)) (c.now + (if uniform then 2 else lat)))

end Sys2Proof.Machine
end

