-- ==== Sys2Proof/Machine/Integer.lean ====
section
/-! DEFINITION. The meanings of opcodes 0x10 to 0x2F: integer, bit, address and move instructions (R103 to R126). -/

namespace Sys2Proof.Machine

/-- Registers of a result or operand of an integer type. -/
def tyRegs (t : Ty) : Nat := if t.is64 then 2 else 1

/-- The words of a 64-bit value, low word first. -/
def words2 (v : DWord) : List Word := [lo32 v, hi32 v]

/-- Dependences of two sources of a type, and of three. -/
def deps2 (o : Alu) : Deps := (Deps.src (tyRegs o.ty) o.a).join (Deps.src (tyRegs o.ty) o.b)
def deps3 (o : Alu) : Deps := (deps2 o).join (Deps.src (tyRegs o.ty) o.c)
/-- Two sources, the second a count, position or selector of one register. -/
def depsCount (o : Alu) : Deps := (Deps.src (tyRegs o.ty) o.a).join (Deps.src 1 o.b)
/-- Three sources of one register. -/
def deps111 (o : Alu) : Deps := ((Deps.src 1 o.a).join (Deps.src 1 o.b)).join (Deps.src 1 o.c)

/-- A one-source integer operation through `fit` (R108). -/
def int1 (o : Alu) (f : Int → Int) (s : State) : Host.Outcome State Fault Refusal :=
  s.alu o.sw o.d (tyRegs o.ty) 8 (Deps.src (tyRegs o.ty) o.a) (fun x l =>
    words2 (fit o.ty (f (opnd o.ty (x.operand o.ty o.a l))) o.sat))

/-- A two-source integer operation through `fit` (R108, R110, R113). -/
def int2 (o : Alu) (lat : Nat) (f : Int → Int → Int) (s : State) : Host.Outcome State Fault Refusal :=
  s.alu o.sw o.d (tyRegs o.ty) lat (deps2 o) (fun x l =>
    words2 (fit o.ty (f (opnd o.ty (x.operand o.ty o.a l)) (opnd o.ty (x.operand o.ty o.b l))) o.sat))

/-- A three-source integer operation through `fit` (R108, R110). -/
def int3 (o : Alu) (lat : Nat) (f : Int → Int → Int → Int) (s : State) : Host.Outcome State Fault Refusal :=
  s.alu o.sw o.d (tyRegs o.ty) lat (deps3 o) (fun x l =>
    words2 (fit o.ty (f (opnd o.ty (x.operand o.ty o.a l)) (opnd o.ty (x.operand o.ty o.b l)) (opnd o.ty (x.operand o.ty o.c l))) o.sat))

/-- IADD (R108). -/
def execIadd (o : Alu) (s : State) : Host.Outcome State Fault Refusal := int2 o 8 (fun x y => x + y) s
/-- IADD3 (R108). -/
def execIadd3 (o : Alu) (negc : Bool) (s : State) : Host.Outcome State Fault Refusal :=
  int3 o 8 (fun x y z => if negc then x + y - z else x + y + z) s
/-- ISUB (R108). -/
def execIsub (o : Alu) (s : State) : Host.Outcome State Fault Refusal := int2 o 8 (fun x y => x - y) s
/-- INEG (R108). -/
def execIneg (o : Alu) (s : State) : Host.Outcome State Fault Refusal := int1 o (fun x => -x) s
/-- IABS (R108). -/
def execIabs (o : Alu) (s : State) : Host.Outcome State Fault Refusal := int1 o (fun x => (x.natAbs : Int)) s

/-- IADDC (R109): a sum and a carry-out predicate, both with the latency of the vector integer class. -/
def execIaddc (o : Alu) (sub : Bool) (q : PReg) (cin : Option PReg) (s : State) : Host.Outcome State Fault Refusal :=
  let u := isUniform o.d
  let deps := ((deps2 o).join (match cin with | some c => Deps.pred c | none => {})).join (Deps.dst 1 o.d)
  s.issueWarp { once := u, sw := o.sw } deps (fun c y =>
    let m := if u then allLanes else c.x.lanes
    let r := fun l => laneAddc sub (c.x.lane o.a l) (c.x.lane o.b l) (cin.map (fun p => c.x.predAt p l))
    let due := c.now + (if u then 2 else 8)
    (y.putDst o.d m (laneVals u m 1 (fun l => [lo32 (r l).1])) due).putPred q m (laneBits (if u then 1 else m) (fun l => (r l).2)) due)

/-- IMUL (R110). -/
def execImul (o : Alu) (s : State) : Host.Outcome State Fault Refusal := int2 o 12 (fun x y => x * y) s
/-- IMULHI (R110). -/
def execImulhi (o : Alu) (s : State) : Host.Outcome State Fault Refusal :=
  s.alu o.sw o.d 1 12 (deps2 o) (fun x l =>
    [hi32 (BitVec.ofInt 64 (opnd o.ty (x.operand o.ty o.a l) * opnd o.ty (x.operand o.ty o.b l)))])
/-- IMAD (R110). -/
def execImad (o : Alu) (s : State) : Host.Outcome State Fault Refusal := int3 o 12 (fun x y z => x * y + z) s
/-- IMAD64 (R110): c and d are pairs. -/
def execImad64 (o : Alu) (s : State) : Host.Outcome State Fault Refusal :=
  s.alu o.sw o.d 2 12 ((deps2 o).join (Deps.src 2 o.c)) (fun x l =>
    words2 (BitVec.ofInt 64 (opnd o.ty (x.operand o.ty o.a l) * opnd o.ty (x.operand o.ty o.b l) + ((x.lane64 o.c l).toNat : Int))))

/-- IMIN (R113). -/
def execImin (o : Alu) (s : State) : Host.Outcome State Fault Refusal := int2 o 8 (fun x y => min x y) s
/-- IMAX (R113). -/
def execImax (o : Alu) (s : State) : Host.Outcome State Fault Refusal := int2 o 8 (fun x y => max x y) s

/-- ISAD (R111). -/
def execIsad (o : Alu) (s : State) : Host.Outcome State Fault Refusal :=
  s.alu o.sw o.d 1 12 (deps111 o) (fun x l => [lo32 (laneSad o.ty o.sat (x.lane o.a l) (x.lane o.b l) (x.lane o.c l))])

/-- ICMP (R114). -/
def execIcmp (o : Alu) (cmp : Cmp) (comb : Comb) (inv : Bool) (q : PReg) (c : PReg) (s : State) : Host.Outcome State Fault Refusal :=
  let deps := (deps2 o).join (if comb == .none then {} else Deps.pred c)
  s.aluPred o.sw (isUniform o.d) q 8 deps (fun x l =>
    combine comb (cmpInt cmp (opnd o.ty (x.operand o.ty o.a l)) (opnd o.ty (x.operand o.ty o.b l))) (x.predAt c l != inv))

/-- PICK (R115). -/
def execPick (o : Alu) (inv : Bool) (c : PReg) (s : State) : Host.Outcome State Fault Refusal :=
  s.alu o.sw o.d (tyRegs o.ty) 8 ((deps2 o).join (Deps.pred c)) (fun x l =>
    words2 (if x.predAt c l != inv then x.operand o.ty o.a l else x.operand o.ty o.b l))

/-- PLOG (R116); the uniform form is the one whose destination is a k predicate. -/
def execPlog (sw : Bool) (d a b c : PReg) (table : Byte) (s : State) : Host.Outcome State Fault Refusal :=
  let deps := ((Deps.pred a).join (Deps.pred b)).join (Deps.pred c)
  s.aluPred sw (match d with | .k _ => true | .p _ => false) d 8 deps (fun x l => plogBit table (x.predAt a l) (x.predAt b l) (x.predAt c l))

/-- SHL (R117). -/
def execShl (o : Alu) (s : State) : Host.Outcome State Fault Refusal :=
  s.alu o.sw o.d (tyRegs o.ty) 8 (depsCount o) (fun x l => words2 (laneShl o.ty (x.operand o.ty o.a l) (x.lane o.b l).toNat))
/-- SHR (R117). -/
def execShr (o : Alu) (s : State) : Host.Outcome State Fault Refusal :=
  s.alu o.sw o.d (tyRegs o.ty) 8 (depsCount o) (fun x l => words2 (laneShr o.ty (x.operand o.ty o.a l) (x.lane o.b l).toNat))
/-- SAR (R117). -/
def execSar (o : Alu) (s : State) : Host.Outcome State Fault Refusal :=
  s.alu o.sw o.d (tyRegs o.ty) 8 (depsCount o) (fun x l => words2 (laneSar o.ty (x.operand o.ty o.a l) (x.lane o.b l).toNat))
/-- SHF (R118). -/
def execShf (o : Alu) (right clamp : Bool) (s : State) : Host.Outcome State Fault Refusal :=
  s.alu o.sw o.d 1 8 (deps111 o) (fun x l => [laneShf right clamp (x.lane o.a l) (x.lane o.c l) (x.lane o.b l).toNat])

/-- LOGT (R119). -/
def execLogt (o : Alu) (table : Byte) (s : State) : Host.Outcome State Fault Refusal :=
  s.alu o.sw o.d 1 8 (deps111 o) (fun x l => [laneLogt table (x.lane o.a l) (x.lane o.b l) (x.lane o.c l)])

/-- POPC (R120). -/
def execPopc (o : Alu) (s : State) : Host.Outcome State Fault Refusal :=
  s.alu o.sw o.d 1 8 (Deps.src (tyRegs o.ty) o.a) (fun x l => [BitVec.ofNat 32 (popBits (x.operand o.ty o.a l) o.ty.width)])
/-- CLZ (R120). -/
def execClz (o : Alu) (s : State) : Host.Outcome State Fault Refusal :=
  s.alu o.sw o.d 1 8 (Deps.src (tyRegs o.ty) o.a) (fun x l => [BitVec.ofNat 32 (clzBits (x.operand o.ty o.a l) o.ty.width)])
/-- BREV (R120). -/
def execBrev (o : Alu) (s : State) : Host.Outcome State Fault Refusal :=
  s.alu o.sw o.d (tyRegs o.ty) 8 (Deps.src (tyRegs o.ty) o.a) (fun x l => words2 (revBits (x.operand o.ty o.a l) o.ty.width))

/-- BFE (R121). -/
def execBfe (o : Alu) (s : State) : Host.Outcome State Fault Refusal :=
  s.alu o.sw o.d 1 8 (depsCount o) (fun x l => [laneBfe (tySigned o.ty) (x.lane o.a l) (x.lane o.b l)])
/-- BFI (R122). -/
def execBfi (o : Alu) (s : State) : Host.Outcome State Fault Refusal :=
  s.alu o.sw o.d 1 8 (deps111 o) (fun x l => [laneBfi (x.lane o.a l) (x.lane o.b l) (x.lane o.c l)])
/-- BSEL (R123). -/
def execBsel (o : Alu) (s : State) : Host.Outcome State Fault Refusal :=
  s.alu o.sw o.d 1 8 (deps111 o) (fun x l => [laneBsel (x.lane o.a l) (x.lane o.b l) (x.lane o.c l)])

/-- LEA (R124). -/
def execLea (o : Alu) (sh : BitVec 5) (s : State) : Host.Outcome State Fault Refusal :=
  s.alu o.sw o.d 1 8 (deps2 o) (fun x l => [laneLea (x.lane o.a l) (x.lane o.b l) sh.toNat])
/-- LEA64 (R124): a and d are pairs, b one register read under the type. -/
def execLea64 (o : Alu) (sh : BitVec 5) (s : State) : Host.Outcome State Fault Refusal :=
  s.alu o.sw o.d 2 8 ((Deps.src 2 o.a).join (Deps.src 1 o.b)) (fun x l =>
    words2 (laneLea64 o.ty (x.lane64 o.a l) (x.operand o.ty o.b l) sh.toNat))

/-- IDP4 (R112). -/
def execIdp4 (o : Alu) (bs : Bool) (s : State) : Host.Outcome State Fault Refusal :=
  s.alu o.sw o.d 1 12 (deps111 o) (fun x l => [lo32 (laneDot 8 (tySigned o.ty) bs o.sat (x.lane o.a l) (x.lane o.b l) (x.lane o.c l))])
/-- IDP2 (R112). -/
def execIdp2 (o : Alu) (bs : Bool) (s : State) : Host.Outcome State Fault Refusal :=
  s.alu o.sw o.d 1 12 (deps111 o) (fun x l => [lo32 (laneDot 16 (tySigned o.ty) bs o.sat (x.lane o.a l) (x.lane o.b l) (x.lane o.c l))])

/-- MOV (R125): b, unchanged. -/
def execMov (o : Alu) (s : State) : Host.Outcome State Fault Refusal :=
  s.alu o.sw o.d (tyRegs o.ty) 8 (Deps.src (tyRegs o.ty) o.b) (fun x l => [x.laneAt 0 o.b l, x.laneAt 1 o.b l])
/-- MOVI (R125). -/
def execMovi (sw : Bool) (d : Dst) (w : Word) (s : State) : Host.Outcome State Fault Refusal :=
  s.alu sw d 1 8 {} (fun _ _ => [w])

/-- The word P2V writes: k3 to k0, then p7 to p0 (R126). -/
def predWord (x : Warp) (l : Nat) : Word :=
  BitVec.ofNat 32 ((List.range 8).foldl (fun a i => a + (if (tabGetD x.p i 0).getLsbD l then 2 ^ i else 0)) (x.k.toNat * 256))

/-- Every predicate register. -/
def allPreds : List PendReg := (List.range 8).map PendReg.p ++ (List.range 4).map PendReg.k

/-- P2V (R126). -/
def execP2v (sw : Bool) (d : BitVec 8) (s : State) : Host.Outcome State Fault Refusal :=
  s.alu sw (.v d) 1 8 { reads := allPreds } (fun x l => [predWord x l])

/-- V2P (R126): each predicate of the mask takes its bit of the active lanes. -/
def execV2p (sw : Bool) (a : BitVec 8) (m : Marker) (mask : Byte) (s : State) : Host.Outcome State Fault Refusal :=
  s.issueWarp { once := false, sw := sw } (Deps.src 1 (.v a m)) (fun c y =>
    (List.range 8).foldl (fun (y : Warp) i =>
      if mask.getLsbD i then
        y.putPred (.p (BitVec.ofNat 3 i)) c.x.lanes (laneBits c.x.lanes (fun l => (c.x.lane (.v a m) l).getLsbD i)) (c.now + 8)
      else y) y)

end Sys2Proof.Machine
end

