-- ==== Sys2Proof/Machine/Float.lean ====
section
/-! DEFINITION. The meanings of opcodes 0x30 to 0x54: floating-point instructions, elementary functions, conversions and block
quantisation (R127 to R145). -/

namespace Sys2Proof.Machine

def fdeps2 (o : FOp) : Deps := (Deps.src 1 o.a).join (Deps.src 1 o.b)
def fdeps3 (o : FOp) : Deps := (fdeps2 o).join (Deps.src 1 o.c)

/-- A one-source operation on FP32 codes. -/
def flt1 (o : FOp) (lat : Nat) (f : Word → Word) (s : State) : Host.Outcome State Fault Refusal :=
  s.alu o.sw o.d 1 lat (Deps.src 1 o.a) (fun x l => [f (x.lane o.a l)])
/-- A two-source operation on 32-bit patterns. -/
def flt2 (o : FOp) (f : Word → Word → Word) (s : State) : Host.Outcome State Fault Refusal :=
  s.alu o.sw o.d 1 8 (fdeps2 o) (fun x l => [f (x.lane o.a l) (x.lane o.b l)])
/-- A three-source operation on 32-bit patterns. -/
def flt3 (o : FOp) (f : Word → Word → Word → Word) (s : State) : Host.Outcome State Fault Refusal :=
  s.alu o.sw o.d 1 8 (fdeps3 o) (fun x l => [f (x.lane o.a l) (x.lane o.b l) (x.lane o.c l)])

/-- The modified sources of an operation on codes of format `f` (R130). -/
def srcA (o : FOp) (f : Fmt) (c : Nat) : Xreal := fsrc f o.na o.aa c
def srcB (o : FOp) (f : Fmt) (c : Nat) : Xreal := fsrc f o.nb o.ab c
def srcC (o : FOp) (f : Fmt) (c : Nat) : Xreal := fsrc f o.nc o.ac c

/-- FADD (R131). -/
def execFadd (o : FOp) (s : State) : Host.Outcome State Fault Refusal :=
  flt2 o (fun a b => BitVec.ofNat 32 (fAdd .fp32 o.rm (srcA o .fp32 a.toNat) (srcB o .fp32 b.toNat))) s
/-- FMUL (R131). -/
def execFmul (o : FOp) (s : State) : Host.Outcome State Fault Refusal :=
  flt2 o (fun a b => BitVec.ofNat 32 (fMul .fp32 o.rm (srcA o .fp32 a.toNat) (srcB o .fp32 b.toNat))) s
/-- FFMA (R131). -/
def execFfma (o : FOp) (s : State) : Host.Outcome State Fault Refusal :=
  flt3 o (fun a b c => BitVec.ofNat 32 (fFma .fp32 o.rm (srcA o .fp32 a.toNat) (srcB o .fp32 b.toNat) (srcC o .fp32 c.toNat))) s

/-- FMIN (R132). -/
def execFmin (o : FOp) (nan : Bool) (s : State) : Host.Outcome State Fault Refusal :=
  flt2 o (fun a b => BitVec.ofNat 32 (minMaxCode .fp32 false nan a.toNat b.toNat)) s
/-- FMAX (R132). -/
def execFmax (o : FOp) (nan : Bool) (s : State) : Host.Outcome State Fault Refusal :=
  flt2 o (fun a b => BitVec.ofNat 32 (minMaxCode .fp32 true nan a.toNat b.toNat)) s

/-- FCMP (R133). -/
def execFcmp (o : FOp) (cmp : FCmp) (comb : Comb) (q : PReg) (c : PReg) (s : State) : Host.Outcome State Fault Refusal :=
  let deps := (fdeps2 o).join (if comb == .none then {} else Deps.pred c)
  s.aluPred o.sw (isUniform o.d) q 8 deps (fun x l => combine comb (cmpFlt cmp (x.lane o.a l) (x.lane o.b l)) (x.predAt c l))

/-- FRND (R134). -/
def execFrnd (o : FOp) (s : State) : Host.Outcome State Fault Refusal := flt1 o 8 (laneFrnd o.rm) s
/-- FCLASS (R135). -/
def execFclass (o : FOp) (s : State) : Host.Outcome State Fault Refusal := flt1 o 8 laneFclass s
/-- FDP2 (R136). -/
def execFdp2 (o : FOp) (s : State) : Host.Outcome State Fault Refusal := flt3 o (laneFdp2 o) s

/-- HADD2 (R137). -/
def execHadd2 (o : FOp) (s : State) : Host.Outcome State Fault Refusal :=
  let f := fltFmt o.ty
  flt2 o (packed2 (fun a b => fAdd f o.rm (srcA o f a) (srcB o f b))) s
/-- HMUL2 (R137). -/
def execHmul2 (o : FOp) (s : State) : Host.Outcome State Fault Refusal :=
  let f := fltFmt o.ty
  flt2 o (packed2 (fun a b => fMul f o.rm (srcA o f a) (srcB o f b))) s
/-- HFMA2 (R137). -/
def execHfma2 (o : FOp) (s : State) : Host.Outcome State Fault Refusal :=
  let f := fltFmt o.ty
  flt3 o (packed3 (fun a b c => fFma f o.rm (srcA o f a) (srcB o f b) (srcC o f c))) s
/-- HMIN2 (R137). -/
def execHmin2 (o : FOp) (nan : Bool) (s : State) : Host.Outcome State Fault Refusal :=
  flt2 o (packed2 (minMaxCode (fltFmt o.ty) false nan)) s
/-- HMAX2 (R137). -/
def execHmax2 (o : FOp) (nan : Bool) (s : State) : Host.Outcome State Fault Refusal :=
  flt2 o (packed2 (minMaxCode (fltFmt o.ty) true nan)) s

/-- FRCP (R138). -/
def execFrcp (o : FOp) (s : State) : Host.Outcome State Fault Refusal := flt1 o 24 (elemCode .rcp o.rm) s
/-- FRSQ (R138). -/
def execFrsq (o : FOp) (s : State) : Host.Outcome State Fault Refusal := flt1 o 24 (elemCode .rsq o.rm) s
/-- FSQRT (R138). -/
def execFsqrt (o : FOp) (s : State) : Host.Outcome State Fault Refusal := flt1 o 24 (elemCode .sqrt o.rm) s
/-- FEX2 (R138). -/
def execFex2 (o : FOp) (s : State) : Host.Outcome State Fault Refusal := flt1 o 24 (elemCode .ex2 o.rm) s
/-- FLG2 (R138). -/
def execFlg2 (o : FOp) (s : State) : Host.Outcome State Fault Refusal := flt1 o 24 (elemCode .lg2 o.rm) s
/-- FSIN (R138). -/
def execFsin (o : FOp) (s : State) : Host.Outcome State Fault Refusal := flt1 o 24 (elemCode .sin o.rm) s
/-- FCOS (R138). -/
def execFcos (o : FOp) (s : State) : Host.Outcome State Fault Refusal := flt1 o 24 (elemCode .cos o.rm) s
/-- FTANH (R138). -/
def execFtanh (o : FOp) (s : State) : Host.Outcome State Fault Refusal := flt1 o 24 (elemCode .tanh o.rm) s

/-- CVT (R139). -/
def execCvt (o : Cv) (s : State) : Host.Outcome State Fault Refusal :=
  s.alu o.sw o.d (tyRegs o.td) 8 (Deps.src (tyRegs o.ts) o.a) (fun x l => words2 (laneCvt o (x.operand o.ts o.a l)))

/-- CVTP (R140): the pack form reads b, the unpack form writes a pair. -/
def execCvtp (o : Cv) (s : State) : Host.Outcome State Fault Refusal :=
  let deps := (Deps.src 1 o.a).join (if o.packs then Deps.src 1 o.b else {})
  s.alu o.sw o.d (if o.td == .f32 then 2 else 1) 8 deps (fun x l => words2 (laneCvtp o (x.lane o.a l) (x.lane o.b l)))

/-- CVT8 (R141). -/
def execCvt8 (o : Cv) (s : State) : Host.Outcome State Fault Refusal :=
  let n := cvt8In o
  s.alu o.sw o.d (cvt8Out o) 8 (Deps.src n o.a) (fun x l => laneCvt8 o ((List.range n).map (fun i => x.laneAt i o.a l)))

/-- Codes and header words that QBLK writes, by lane (R142 to R144, Table 6). -/
def qblkLanes (o : Cv) (pow2 spc : Bool) (x : Warp) (m : LaneMask) : List (Word × Word) :=
  let f := fltFmt o.td
  let on := fun l v => if m.getLsbD l then some v else none
  if o.td == .e2m1 then
    let els := (List.range 128).map (fun i => on (i / 2) (x.laneAt (i % 2) o.a (i / 2)))
    let r := qblkBlock f o.rm o.sat pow2 spc els
    (List.range 64).map (fun l =>
      let c := fun i => ((r.1.getD i none).getD 0) % 16
      (BitVec.ofNat 32 (c (2 * l) + 16 * c (2 * l + 1)), r.2))
  else
    let n := if o.td.isHalf then 32 else 64
    let r := fun b => qblkBlock f o.rm o.sat pow2 spc ((List.range n).map (fun i => on (b * n + i) (x.lane o.a (b * n + i))))
    let rs := (List.range (64 / n)).map r
    (List.range 64).map (fun l =>
      let b := rs.getD (l / n) ([], 0)
      (BitVec.ofNat 32 ((b.1.getD (l % n) none).getD 0), b.2))

/-- QBLK (R142 to R144): codes to d, headers to d + 1. -/
def execQblk (o : Cv) (pow2 spc : Bool) (s : State) : Host.Outcome State Fault Refusal :=
  let n := if o.td == .e2m1 then 2 else 1
  s.issueWarp { once := false, sw := o.sw } ((Deps.src n o.a).join (Deps.dst 2 o.d)) (fun c y =>
    let r := qblkLanes o pow2 spc c.x c.x.lanes
    y.putDst o.d c.x.lanes [r.map (·.1), r.map (·.2)] (c.now + 16))

/-- DQBLK (R145). -/
def execDqblk (o : Cv) (s : State) : Host.Outcome State Fault Refusal :=
  let f := fltFmt o.td
  let deps := (Deps.src 1 o.a).join (Deps.src 1 o.b)
  s.alu o.sw o.d (if o.td == .e2m1 then 2 else 1) 16 deps (fun x l =>
    let c := (x.lane o.a l).toNat
    let h := x.lane o.b l
    if o.td == .e2m1 then [dqElem f o.rm o.sat h (c % 16), dqElem f o.rm o.sat h (c / 16 % 16)]
    else [dqElem f o.rm o.sat h (c % 2 ^ f.width)])

end Sys2Proof.Machine
end

