-- ==== Sys2Proof/Machine/Cross.lean ====
section
/-! DEFINITION. The meanings of opcodes 0x58 to 0x5D: cross-lane instructions (R146 to R151). -/

namespace Sys2Proof.Machine

/-- SHFL (R147): a is read from the lane the pattern names, active or not. -/
def execShfl (sw : Bool) (w : BitVec 3) (mode : ShflMode) (d : BitVec 8) (a b : Src) (s : State) : Host.Outcome State Fault Refusal :=
  s.alu sw (.v d) 1 16 ((Deps.src 1 a).join (Deps.src 1 b)) (fun x l =>
    [x.lane a (shflSrc mode w.toNat (x.lane b l).toNat l)])

/-- The predicate of a vote at a lane (R148). -/
def voteAt (x : Warp) (a : PReg) (inv : Bool) (l : Nat) : Bool := x.predAt a l != inv

/-- VOTE (R148): a k destination is written once. -/
def execVote (sw : Bool) (mode : VoteMode) (inv : Bool) (d a : PReg) (s : State) : Host.Outcome State Fault Refusal :=
  s.issueWarp { once := false, sw := sw } (Deps.pred a) (fun c y =>
    let v := voteBits mode ((lanesOf c.x.lanes).map (voteAt c.x a inv))
    y.putPred d c.x.lanes (if v then allLanes else 0) (c.now + 16))

/-- BALLOT (R148). -/
def execBallot (sw : Bool) (inv : Bool) (d : BitVec 8) (a : PReg) (s : State) : Host.Outcome State Fault Refusal :=
  s.issueWarp { once := false, sw := sw } ((Deps.pred a).join (Deps.dst 2 (.v d))) (fun c y =>
    let v : DWord := laneBits c.x.lanes (voteAt c.x a inv)
    y.putDst (.v d) c.x.lanes [List.replicate 64 (lo32 v), List.replicate 64 (hi32 v)] (c.now + 16))

/-- REDUX (R149). -/
def execRedux (sw : Bool) (ty : Ty) (op : RedOp) (rm : Rm) (sat : Bool) (d : BitVec 8) (a : Src) (s : State) :
    Host.Outcome State Fault Refusal :=
  s.issueWarp { once := false, sw := sw } ((Deps.src 1 a).join (Deps.dst 1 (.v d))) (fun c y =>
    let v := reduceWords ty op rm sat ((lanesOf c.x.lanes).map (c.x.lane a))
    y.putDst (.v d) c.x.lanes [List.replicate 64 v] (c.now + 16))

/-- SCAN (R150). -/
def execScan (sw : Bool) (ty : Ty) (op : RedOp) (rm : Rm) (sat excl : Bool) (d : BitVec 8) (a : Src) (s : State) :
    Host.Outcome State Fault Refusal :=
  s.issueWarp { once := false, sw := sw } ((Deps.src 1 a).join (Deps.dst 1 (.v d))) (fun c y =>
    let act := lanesOf c.x.lanes
    let r := fun l => reduceWords ty op rm sat ((act.filter (fun j => if excl then decide (j < l) else decide (j ≤ l))).map (c.x.lane a))
    y.putDst (.v d) c.x.lanes (laneVals false c.x.lanes 1 (fun l => [r l])) (c.now + 16))

/-- MATCH (R151). -/
def execMatchLanes (sw : Bool) (ty : Ty) (all : Bool) (d : BitVec 8) (a : Src) (s : State) : Host.Outcome State Fault Refusal :=
  s.issueWarp { once := false, sw := sw } ((Deps.src (tyRegs ty) a).join (Deps.dst 2 (.v d))) (fun c y =>
    let m := c.x.lanes
    let same := fun l => laneBits m (fun j => c.x.operand ty a j == c.x.operand ty a l)
    let v := fun l => if all then (if same l == m then m else 0) else same l
    y.putDst (.v d) m (laneVals false m 2 (fun l => words2 (v l))) (c.now + 16))

end Sys2Proof.Machine
end

