-- ==== Sys2Proof/Machine/Control.lean ====
section
/-! DEFINITION. The meanings of opcodes 0x01 to 0x0A: control flow, divergence, the predicate prefix, NOP and YIELD (R69, R313 to R319). -/

namespace Sys2Proof.Machine

/-! ### Eligibility (R310, R319) -/

/-- A warp that may issue: not parked, not stopped by a halt or a waiting trap, with a path to run, and running under its workgroup's state;
under a stop request only a handler with traps masked goes on (R359). -/
def Warp.mayIssue (g : Wg) (x : Warp) : Bool :=
  !x.done && x.park.isEmpty && x.ptrap.isNone && x.mask != 0 && !g.halted
    && (match x.halt with | none => true | some h => !h.stopped)
    && (g.st == .running || g.st == .draining || (g.st == .stopping && x.handler && x.masked))

/-- The YIELD rule: it ends after 64 cycles, or once every warp it names has issued a group (R319). -/
def Warp.yielding (x : Warp) (now : Nat) : Bool :=
  match x.yield with | none => false | some y => !y.others.isEmpty && decide (now < y.until_)

/-- The line of a warp's next slot stands in its quadrant's buffer (R310). -/
def State.buffered (s : State) (g : Wg) (w : Nat) (x : Warp) : Bool :=
  ((s.coreAt g.core).quad (quadOf g w)).ibuf.any (fun e => e.ctx = g.ctx && e.line = x.pc / 5)

/-- Warps of a quadrant that are eligible, in slot order (R310): the issue stage lists in `heldNow` those that something holds at issue. -/
def State.eligible (s : State) (core q now : Nat) : List (Nat × WarpId) :=
  ((s.coreAt core).quad q).slots.filter (fun e =>
    match s.wg e.2.wg, s.warp e.2 with
    | some g, some x => x.mayIssue g && !x.yielding now && s.buffered g e.2.warp x && !s.heldNow.contains e.2
    | _, _ => false)

/-! ### Branches (R315, R316) -/

/-- Linear slot of slot index 0: the kernel's code, or the handler's in handler mode (R315, R371). -/
def State.codeBase (s : State) (c : Ctx) : Nat :=
  let va := if c.x.handler then s.ctxWord c.dev c.ctx 4 % 2 ^ 49 else c.g.code
  5 * (va / 64)

/-- Move the warp's path to a checked target. -/
def State.jumpTo (s : State) (c : Ctx) (n : Int) : Except TrapInfo State :=
  match s.checkTarget c.g c.w.warp n with
  | .error t => .error t
  | .ok pc => .ok (s.modWarp c.w (fun x => { x with pc := pc }))

/-- A once-per-warp control instruction that no prefix may cover and that sets the PC itself. -/
def ctl (sw : Bool) : Mode := { once := true, cover := false, jump := true, sw := sw }

/-- NOP (R319). -/
def execNop (sw : Bool) (s : State) : Host.Outcome State Fault Refusal :=
  s.issueWarp { once := true, sw := sw } {} (fun _ y => y)

/-- BRA (R316): a false condition checks nothing. -/
def execBra (sw : Bool) (cond : Option (BitVec 2)) (inv : Bool) (off : Word) (s : State) : Host.Outcome State Fault Refusal :=
  s.issue (ctl sw) (match cond with | some k => Deps.pred (.k k) | none => {}) (fun _ _ => false) (fun c t =>
    let take := match cond with | none => true | some k => c.x.k.getLsbD k.toNat != inv
    if take then t.jumpTo c ((c.x.pc : Int) + off.toInt)
    else .ok (t.modWarp c.w (fun x => { x with pc := x.pc + 1 })))

/-- Transfer to a slot index held in a uniform register (R315, R316). -/
def indexJump (sw : Bool) (a : BitVec 6) (s : State) : Host.Outcome State Fault Refusal :=
  s.issue (ctl sw) (Deps.uni a.toNat 1) (fun _ _ => false) (fun c t =>
    t.jumpTo c ((t.codeBase c + (c.x.readS a.toNat).toNat : Nat) : Int))

/-- BRX (R316). -/
def execBrx (sw : Bool) (a : BitVec 6) (s : State) : Host.Outcome State Fault Refusal := indexJump sw a s
/-- RET (R316). -/
def execRet (sw : Bool) (a : BitVec 6) (s : State) : Host.Outcome State Fault Refusal := indexJump sw a s

/-- CALL (R316): s[d] receives the slot index after the CALL and is pending to no later instruction. -/
def execCall (sw : Bool) (d : BitVec 6) (off : Word) (s : State) : Host.Outcome State Fault Refusal :=
  s.issue (ctl sw) {} (fun _ _ => false) (fun c t =>
    let back : Word := BitVec.ofInt 32 ((c.x.pc : Int) + 1 - (t.codeBase c : Int))
    (t.jumpTo c ((c.x.pc : Int) + off.toInt)).map (fun t =>
      t.modWarp c.w (fun x => { x with s := tabSet x.s d.toNat back, pend := x.pend.filter (fun e => e.reg != .s d.toNat) })))

/-! ### Divergence (R317, R318) -/

/-- `resume()` of R318 on the stack, top first, from a PC: the mask, the PC and the stack left. Every entry that is popped sets the PC. -/
def resume : Nat → List DivEntry → LaneMask × Nat × List DivEntry
  | pc, [] => (0, pc, [])
  | _, e :: rest =>
    if e.pmask != 0 then (e.pmask, e.ppc, { e with pmask := 0 } :: rest)
    else if e.rmask != 0 then (e.rmask, e.rpc, rest)
    else resume e.rpc rest

/-- Continue a warp whose mask has become empty (R318). -/
def Warp.resume (x : Warp) : Warp :=
  let r := Sys2Proof.Machine.resume x.pc x.stack
  { x with mask := r.1, pc := r.2.1, stack := r.2.2 }

/-- BRD (R317): the entry is pushed even when every lane agrees. -/
def execBrd (sw : Bool) (q : PReg) (inv : Bool) (rejoin : BitVec 14) (off : Word) (s : State) : Host.Outcome State Fault Refusal :=
  s.issue (ctl sw) (match q with | .k k => Deps.pred (.k k) | .p _ => {}) (fun _ _ => false) (fun c t =>
    let pendingLane : Bool := match q with
      | .p r => c.x.pend.any (fun e => e.reg = .p r.toNat && e.live c.now && (e.lanes &&& c.x.mask) != 0)
      | .k _ => false
    if pendingLane then .error (trapOf tRegHazard)
    else
      match t.checkTarget c.g c.w.warp ((c.x.pc : Int) + off.toInt) with
      | .error e => .error e
      | .ok target =>
        match t.checkTarget c.g c.w.warp ((c.x.pc : Int) + rejoin.toInt) with
        | .error e => .error e
        | .ok rpc =>
          if 16 ≤ c.x.stack.length then .error (trapOf tDivergeDepth)
          else
            let cond := invertIf inv (c.x.predMask q)
            let taken := c.x.mask &&& cond
            let fall := c.x.mask &&& ~~~cond
            let entry : DivEntry := { rpc := rpc, rmask := c.x.mask, pmask := if fall != 0 then taken else 0, ppc := target }
            .ok (t.modWarp c.w (fun x =>
              if fall != 0 then { x with mask := fall, pc := x.pc + 1, stack := entry :: x.stack }
              else { x with mask := taken, pc := target, stack := entry :: x.stack })))

/-- JOIN (R318). -/
def execJoin (sw : Bool) (s : State) : Host.Outcome State Fault Refusal :=
  s.issue (ctl sw) {} (fun _ _ => false) (fun c t =>
    if c.x.stack.isEmpty then .error (trapOf tIllegalState)
    else .ok (t.modWarp c.w Warp.resume))

/-- EXIT (R318); in handler mode it raises ILLEGAL_STATE (R374). -/
def execExit (sw : Bool) (s : State) : Host.Outcome State Fault Refusal :=
  s.issue (ctl sw) {} (fun _ _ => false) (fun c t =>
    if c.x.handler then .error (trapOf tIllegalState)
    else .ok (t.modWarp c.w (fun (x : Warp) => Warp.resume { x with
      exited := x.exited ||| x.mask
      stack := x.stack.map (fun (e : DivEntry) => { e with rmask := e.rmask &&& ~~~x.mask, pmask := e.pmask &&& ~~~x.mask }) })))

/-! ### The prefix and YIELD -/

/-- PRED (R69): the predicate is read once, at PRED. -/
def execPred (sw : Bool) (q : PReg) (inv : Bool) (m e : BitVec 4) (s : State) : Host.Outcome State Fault Refusal :=
  s.issueWarp { once := true, cover := false, sw := sw } (Deps.pred q) (fun c y =>
    { y with pfx := some { remaining := m.toNat + e.toNat, thenLeft := m.toNat, base := c.x.mask, cond := invertIf inv (c.x.predMask q) } })

/-- YIELD (R319): it waits for the other warps of its quadrant that are eligible as it issues. -/
def execYield (sw : Bool) (s : State) : Host.Outcome State Fault Refusal :=
  s.issue { once := true, sw := sw } {} (fun _ _ => false) (fun c t =>
    let others := ((t.eligible c.core (quadOf c.g c.w.warp) c.now).map (·.2)).filter (· != c.w)
    .ok (t.modWarp c.w (fun x => { x with yield := some { others := others, until_ := c.now + 64 } })))

end Sys2Proof.Machine
end

