-- ==== Sys2Proof/Machine/System.lean ====
section
/-! DEFINITION. The meanings of TRAP, TRET, SYSRD, SYSWR, BKPT and SLEEP (R33, R376 to R381). -/

namespace Sys2Proof.Machine

/-- A once-per-warp system instruction. -/
def sysMode (sw : Bool) : Mode := { once := true, sw := sw }

/-- TRAP (R377). DESIGN CHOICE (log 111): S on a TRAP or BKPT parks nothing, before or after the handler: the instruction traps, and R66
does not say what S does then. -/
def execTrap (sw : Bool) (code : BitVec 16) (s : State) : Host.Outcome State Fault Refusal :=
  s.issue (sysMode sw) {} (fun _ _ => false) (fun _ _ => .error (trapAt tSwTrap 0 [code.toNat]))

/-- BKPT (R377), with S as for TRAP (log 111). -/
def execBkpt (sw : Bool) (code : BitVec 16) (s : State) : Host.Outcome State Fault Refusal :=
  s.issue (sysMode sw) {} (fun _ _ => false) (fun _ _ => .error (trapAt tBreakpoint 0 [code.toNat]))

/-- TRET (R378). -/
def execTret (sw : Bool) (s : State) : Host.Outcome State Fault Refusal :=
  s.issue { once := true, cover := false, raw := true, sw := sw } {} (fun _ _ => false) (fun c t =>
    if !c.x.handler then .error (trapOf tIllegalState)
    else if !tretOk c.x.frame.stat c.x.frame.pc c.x.frame.pfx.isSome then .error (trapOf tTretFault)
    else .ok (t.tret c.w sw))

/-- SLEEP (R381): of a warp that is halting, its time stands still at once. -/
def execSleep (sw : Bool) (n : BitVec 20) (s : State) : Host.Outcome State Fault Refusal :=
  s.issueWarp (sysMode sw) {} (fun c y => { y with
    park := (if c.x.halt.isSome then .slept n.toNat else .sleep (c.now + n.toNat)) :: y.park })

/-! ### Special registers (Table 8 of the execution model, Table 4 of the recovery chapter) -/

/-- A word of the debug mailbox; word 2 is the owner (R392). -/
def Dev.dbgWord (d : Dev) (i : Nat) : Nat :=
  if i = 2 then (match d.dbgOwner with | some c => c | none => 0xFFFFFFFF) else memRead d.dbg (4 * i) 4

/-- A warp's PC and skid as its siblings' handler reads them; 0 for a retired warp. -/
def Wg.sibling (g : Wg) (i : Nat) : Nat :=
  match g.warps[i]? with
  | none => 0
  | some x => if x.done then 0 else pcWord x.pc + (match x.halt with | some h => min h.skid 8 | none => 0) * 2 ^ 60

/-- The bits of `%fstat` that its layout names: the others read 0 (R5, R372). -/
def fstatMask : DWord := 0xFF03FFFF

/-- The value of a special register at a lane. -/
def State.sysValue (s : State) (c : Ctx) (r i l : Nat) : DWord :=
  let f := c.x.frame
  let n := fun (v : Nat) => BitVec.ofNat 64 v
  match r with
  | 0 => n (64 * c.w.warp + l)
  | 1 => n l
  | 2 => n c.w.warp
  | 3 => n c.g.x
  | 4 => n c.g.y
  | 5 => n c.g.z
  | 6 => n c.g.cg
  | 7 => n (c.agent % 4)
  | 8 => n (domainNumber c.dev)
  | 9 => n c.ctx
  | 10 => n (s.clock c.dev)
  | 11 => n c.g.seq
  | 12 => n c.g.data
  | 16 => c.x.hstat.zeroExtend 64
  | 17 => f.stat &&& fstatMask
  | 18 => f.pc
  | 19 => f.apc.getD f.pc
  | 20 => f.addr
  | 21 => f.base
  | 22 => f.lanes
  | 23 => f.mask
  | 24 => (f.info.getD i 0).zeroExtend 64
  | 25 => (f.cmd.getD i 0).zeroExtend 64
  | 26 => ((tabGetD c.x.frep i zeroLanes).getD l 0).zeroExtend 64
  | 27 => (tabGetD c.x.fscr i 0).zeroExtend 64
  | 28 => n (c.g.sibling i)
  | 29 => n ((s.dev c.dev).dbgWord i)
  | _ => 0

/-- Uses that raise ILLEGAL_STATE (R379). -/
def State.sysIllegal (s : State) (c : Ctx) (r : Nat) (write : Bool) : Bool :=
  (decide (17 ≤ r ∧ r ≤ 28) && !c.x.handler) || (r = 16 && write && !c.x.handler) || (r = 29 && (s.dev c.dev).dbgOwner != some c.ctx)

/-- SYSRD (R379). -/
def execSysrd (sw : Bool) (d : Dst) (reg : Byte) (idx : BitVec 10) (s : State) : Host.Outcome State Fault Refusal :=
  let r := reg.toNat
  let n := if sysWide r then 2 else 1
  s.issue (sysMode sw) (Deps.dst n d) (fun _ _ => false) (fun c t =>
    if t.sysIllegal c r false then .error (trapOf tIllegalState)
    else
      let u := isUniform d
      let m := if u then allLanes else c.x.lanes
      .ok (t.modWarp c.w (fun y => y.putDst d m (laneVals u m n (fun l =>
        let v := s.sysValue c r idx.toNat l
        [v.extractLsb' 0 32, v.extractLsb' 32 32])) (c.now + 4))))

/-- Write one word of the debug mailbox: the owner word is the device's; a change of word 1 signals vector 1 (R392). -/
def State.mboxWrite (s : State) (d i v : Nat) : State :=
  if i = 2 then s
  else
    let old := (s.dev d).dbgWord i
    let t := s.modDev d (fun x => { x with dbg := memWrite x.dbg (4 * i) 4 v })
    if i = 1 && old != v % 2 ^ 32 then t.msi d 1 else t

/-- SYSWR (R379). -/
def execSyswr (sw : Bool) (a : Src) (reg : Byte) (idx : BitVec 10) (s : State) : Host.Outcome State Fault Refusal :=
  let r := reg.toNat
  let i := idx.toNat
  s.issue (sysMode sw) (Deps.src (if sysWide r then 2 else 1) a) (fun _ _ => false) (fun c t =>
    if t.sysIllegal c r true then .error (trapOf tIllegalState)
    else
      let w := c.x.lane a 0
      let v := c.x.lane64 a 0
      let frame := fun (f : Frame → Frame) => t.modWarp c.w (fun y => { y with frame := f y.frame })
      .ok (match r with
        | 16 => t.modWarp c.w (fun y => { y with hstat := hstatWrite y.hstat w })
        | 17 => frame (fun f => { f with stat := v })
        | 18 => frame (fun f => { f with pc := v })
        | 23 => frame (fun f => { f with mask := v })
        | 26 => t.modWarp c.w (fun y => { y with
            frep := tabSet y.frep i (mergeLanes c.x.lanes ((List.range 64).map (c.x.lane a)) (tabGetD y.frep i zeroLanes)) })
        | 27 => t.modWarp c.w (fun y => { y with fscr := tabSet y.fscr i w })
        | 29 => t.mboxWrite c.dev i w.toNat
        | _ => t))

end Sys2Proof.Machine
end

