-- ==== Sys2Proof/Machine/Access.lean ====
section
/-! DEFINITION. Accesses in flight: what an access waits for (R207, R214, R251, R252), releases (R253 to R256), acquires (R257), and the
performance of its parts in the L1, at a scratchpad bank and at the PCIe controller (R214 to R217, R221). -/

namespace Sys2Proof.Machine

/-! ### Scratchpad words (R40, R386) -/

def Wg.spadRead (g : Wg) (off n : Nat) : Nat := memRead g.spad off n

/-- A word lies in a range of bytes; two words lie in one row of one check group (R40). -/
def wordIn (w off n : Nat) : Bool := decide (off ≤ 4 * w + 3) && decide (4 * w < off + n)
def sameCheck (w v : Nat) : Bool := w / 512 = v / 512 && w % 512 / 32 = v % 512 / 32
/-- A word's row and check group have a check bank's word with this key. -/
def onCheck (w c : Nat) : Bool := w / 512 = c / 32 && w % 512 / 32 = c % 32 / 2

/-- Store to a partition; the words written pass their detection code again, and the row's checks are recomputed (R386). -/
def Wg.spadWrite (g : Wg) (off n v : Nat) : Wg :=
  { g with spad := memWrite g.spad off n v, spadErr := g.spadErr.filter (fun e => !wordIn e.1 off n)
           checkErr := g.checkErr.filter (fun c => !(List.range ((off + n + 3) / 4 - off / 4)).any (fun i => onCheck (off / 4 + i) c.1)) }

/-- Bytes of a partition, its private area included (R39). -/
def Wg.spadSize (g : Wg) : Nat := g.spadN + 256 * g.priv * g.warps.length

/-- A failing word cannot be rebuilt when another of its row and check group fails in one of its byte lanes (R386). -/
def Wg.lostWord (g : Wg) (e : Nat × BitVec 4) : Bool :=
  g.spadErr.any (fun f => f.1 != e.1 && sameCheck e.1 f.1 && (f.2 &&& e.2) != 0)
    || g.checkErr.any (fun c => onCheck e.1 c.1 && (c.2 &&& e.2) != 0)
def Wg.spadBad (g : Wg) (off n : Nat) : Bool := g.spadErr.any (fun e => wordIn e.1 off n && g.lostWord e)

/-- A corrected error of a bank is noted with its cycle (R387). -/
def Core.noteBank (c : Core) (now bank : Nat) : Core :=
  { c with ceBank := tabSet c.ceBank bank (now :: (tabGetD c.ceBank bank []).filter (fun t => decide (now < t + 2 ^ 24))) }

/-- A read of a partition's bytes rebuilds the failing words that their rows still give, and corrects them in place (R386, R387). -/
def State.spadFix (s : State) (id : WgId) (off n : Nat) : State :=
  match s.wg id with
  | none => s
  | some g =>
    match g.spadErr.filter (fun e => wordIn e.1 off n && !g.lostWord e) with
    | [] => s
    | l =>
      let t := s.modWg id (fun h => { h with spadErr := h.spadErr.filter (fun e => !l.contains e) })
      if g.resident then t.modCore g.core (fun c => l.foldl (fun c e => c.noteBank (s.cycle id.dev) (e.1 % 512)) c) else t

/-! ### Kinds and orders of accesses -/

def Acc.writes (a : Acc) : Bool := match a.kind with | .store | .hdrStore | .atom .. => true | _ => false
/-- Kinds of access that fences and releases wait for (R225). -/
def Acc.covered (a : Acc) : Bool := match a.kind with | .resid .. | .evt .. => false | _ => true

def Strength.acq : Strength → Bool | .strong .acq _ | .strong .ar _ => true | _ => false
def Strength.rel : Strength → Bool | .strong .rel _ | .strong .ar _ => true | _ => false
def Strength.sc : Strength → Scope | .strong _ sc => sc | .weak => .wp

def wide : Scope → Bool | .wp | .wg => false | _ => true
def widest : Scope → Bool | .dv | .dm => true | _ => false

def lineOfKey (key : Nat) : Nat := key / 128

/-- The home key of a part's place, if it is known. -/
def Loc.key? : Loc → Option Nat
  | .l1 _ k | .home k | .decoded k .. => some k
  | _ => none

/-- Whether a part must wait for an undone part of an earlier access of its warp (R187, R248, R251, R252). -/
def Part.clash (p q : Part) (qw : Bool) : Bool :=
  match p.loc, q.loc with
  | .spad g o own, .spad g' o' own' => if own then own' else !own' && g = g' && o / 128 = o' / 128
  | .host _ x, .host _ y => x / 128 = y / 128 || qw
  | l, m =>
    match l.key?, m.key? with
    | some k, some k' => lineOfKey k = lineOfKey k' && p.sh = q.sh
    | _, _ => false

/-- Whether a part lies in the home line of a key, under a plain address. -/
def Part.onLine (p : Part) (key : Nat) : Bool := !p.sh && p.loc.key?.any (fun k => lineOfKey k = lineOfKey key)

/-- Whether a part may still reach the home line of a key: it lies there under a plain address or a shadow one, or its view has not mapped
it yet. -/
def Part.mayReach (p : Part) (key : Nat) : Bool :=
  !p.done && (match p.loc with | .view .. => true | l => l.key?.any (fun k => lineOfKey k = lineOfKey key))

/-- Whether what a warp of workgroup `own` does to a barrier and a part of the same warp keep program order (R242, R251, R252). -/
def BarLoc.clash (own : WgId) (b : BarLoc) (p : Part) : Bool :=
  match b, p.loc with
  | .spad g o, .spad g' o' mine => if mine then g = own else g = g' && o / 128 = o' / 128
  | .home k, _ => p.onLine k
  | _, _ => false

/-- The same for an update: over the word that MON and MONX name, over the barrier otherwise. -/
def Upd.clash (u : Upd) (p : Part) : Bool :=
  match u.kind with
  | .mon word _ | .monx word _ => p.onLine (8 * word)
  | _ => u.bar.clash u.w.wg p

/-- A warp's request for a barrier waits for its earlier accesses: acquires still to complete, and parts it must follow. -/
def Acc.before (a : Acc) (clash : Part → Bool) : Bool := !a.held && (Strength.acq a.str || a.parts.any (fun p => !p.done && clash p))

/-- An update of a barrier, which is no request to a monitor table. -/
def Upd.updates (u : Upd) : Bool := match u.kind with | .mon .. | .monx .. | .tstat _ => false | _ => true

/-- A part in a scratchpad or in host memory that has not been performed. -/
def Part.ahead (p : Part) : Bool := !p.done && (match p.loc with | .spad .. | .host .. => true | _ => false)

/-- Whether a warp's accesses before operation `id` have such a part: what the operation writes follows them (R242, R247). -/
def State.aheadOf (s : State) (w : WarpId) (id : Nat) : Bool :=
  s.accs.any (fun a => a.w = w && decide (a.id < id) && !a.held && a.parts.any (·.ahead))

/-- Whether a part is held behind an earlier access of its warp: an acquire still to complete, a part it must follow, or a VINV. -/
def State.blocked (s : State) (a : Acc) (p : Part) : Bool :=
  s.accs.any (fun e => e.w = a.w && decide (e.id < a.id) && !e.held &&
    (Strength.acq e.str
      || (match e.kind, p.loc with | .vinv .., .view .. => true | _, _ => false)
      || e.parts.any (fun q => !q.done && p.clash q e.writes)))
  || s.upds.any (fun u => u.w = a.w && u.cls.isSome && decide (u.id < a.id) && !u.done && u.clash p)

/-! ### Release (R253 to R256) -/

/-- Accesses and barrier updates of a warp, issued before an operation, that a release waits for: its strong writes to barriers come
before the release too (R225, R240, R330). It does not wait for an access that only TRET completes (log 52). -/
def State.earlier (s : State) (w : WarpId) (id : Nat) : List Nat :=
  (s.accs.filter (fun a => a.w = w && decide (a.id < id) && a.covered && !a.held)).map (·.id)
    ++ (s.upds.filter (fun u => u.w = w && decide (u.id < id) && u.cls.isSome)).map (·.id)

def State.anyAcc (s : State) (ids : List Nat) : Bool := s.accs.any (fun a => ids.contains a.id)
/-- One of some accesses and updates is still under way. -/
def State.anyOp (s : State) (ids : List Nat) : Bool := s.anyAcc ids || s.upds.any (fun u => ids.contains u.id && !u.done)
def State.anyWb (s : State) (ids : List Nat) : Bool := s.wbs.any (fun a => ids.contains a.id)
def State.anyDrain (s : State) (ids : List Nat) : Bool := s.drains.any (fun a => ids.contains a.id)

/-- A closed epoch of a core is drained once it is listed no longer (R256). A record names a closed epoch; the open one may have its number
again (R254). -/
def State.epochDrained (s : State) (core e : Nat) : Bool := !(s.coreAt core).closed.any (fun x => x.1 = e)

/-- Closed epochs of a core that are no younger than one of them (R256). -/
def Core.upTo (c : Core) (e : Nat) : List Nat :=
  let l := c.closed.map (·.1)
  if l.contains e then l.takeWhile (· != e) ++ [e] else []

/-- Ask a core to drain an epoch, unless it is asked already. -/
def State.askDrain (s : State) (core e : Nat) : State :=
  if s.drains.any (fun d => d.core = core && d.epoch = e) then s
  else
    let (id, s) := s.fresh
    { s with drains := s.drains ++ [{ id := id, core := core, epoch := e, wbs := none }] }

/-- Close the open epoch of a core, of which no other undrained epoch has the next number: its record, and a new epoch with an empty signature (R255). -/
def State.closeEpoch (s : State) (core : Nat) : State × RelRec :=
  let c := s.coreAt core
  (s.modCore core (fun c => { c with closed := c.closed ++ [(c.epoch, c.sig)], epoch := (c.epoch + 1) % 65536, sig := 0 }),
   { line := 0, core := dieLocalCore core, epoch := c.epoch, sig := c.sig })

/-- One step of the release of an operation; the record is that of a lazy release. -/
def State.relStep (s : State) (w : WarpId) (core id : Nat) : Rel → State × Rel × Option RelRec
  | .done => (s, .done, none)
  | .todo sc lazy => (s, (if sc == .wp then .done else .accs sc lazy (s.earlier w id)), none)
  | .accs sc lazy ids =>
    if s.anyOp ids then (s, .accs sc lazy ids, none)
    else if !wide sc then (s, .done, none)
    else if lazy then
      match (s.coreAt core).closed with
      | e :: rest =>
        if decide (3 ≤ rest.length) || rest.any (fun x => x.1 = ((s.coreAt core).epoch + 1) % 65536) || e.1 = ((s.coreAt core).epoch + 1) % 65536 then (s.askDrain core e.1, .accs sc lazy ids, none)
        else let (t, r) := s.closeEpoch core; (t, .done, some r)
      | [] => let (t, r) := s.closeEpoch core; (t, .done, some r)
    else
      let t := s.startWbs core (fun _ => true)
      (t, .wbs sc (t.wbIds core) [], none)
  | .wbs sc ids blocks =>
    let agent := agentOfCore core
    if s.anyWb ids then (s, .wbs sc ids blocks, none)
    else if widest sc then
      match blocks with
      | [] => let l := s.dirtyReps agent; if l.isEmpty then (s.settleEpochs core, .done, none) else (s, .wbs sc [] l, none)
      | _ :: _ =>
        if blocks.any (fun b => (s.dirtyReps agent).contains b) then (s, .wbs sc ids blocks, none) else (s.settleEpochs core, .done, none)
    else (s.settleEpochs core, .done, none)

/-! ### Acquire (R225, R257) -/

/-- The acquire that starts once the values of a read or fence have returned. -/
def acqOf (str : Strength) (recs : List RelRec) : Acq := if Strength.acq str && wide (Strength.sc str) then .todo (Strength.sc str) recs else .none

/-- One step of an acquire: drain the recorded epochs of other cores, write back the blocks that hit a signature, drop them and every
other clean copy of the core (log 25). -/
def State.acqStep (s : State) (core : Nat) : Acq → State × Acq
  | .none => (s, .none)
  | .todo sc recs =>
    let base := 144 * agentOfCore core
    let (t, ids) := (recs.filter (fun r => base + r.core != core)).foldl (fun (x : State × List Nat) r =>
      let (id, t) := x.1.fresh
      ({ t with drains := t.drains ++ [{ id := id, core := base + r.core, epoch := r.epoch, wbs := none }] }, id :: x.2)) (s, [])
    (t, .drains sc recs ids)
  | .drains sc recs ids =>
    if s.anyDrain ids then (s, .drains sc recs ids)
    else
      let hit := fun b => recs.any (fun r => sigHit r.sig b)
      let t := s.startWbs core hit
      (t, .wbs sc recs ((t.wbs.filter (fun w => w.core = core && hit w.block)).map (·.id)))
  | .wbs sc recs ids => if s.anyWb ids then (s, .wbs sc recs ids) else (s.dropClean core (fun _ => true), .none)

/-- Home lines of two 64-byte blocks: the blocks of a line. -/
def blocksOfLine (line : Nat) : List Nat := [2 * line, 2 * line + 1]

/-- One step of the release or acquire work of an access, or of a CCTL. -/
def State.advanceAcc (s : State) (a : Acc) : State :=
  let core := match s.wg a.w.wg with | some g => g.core | none => 0
  let setRel := fun (s : State) (r : Rel) (x : Option RelRec) => modAcc s a.id (fun a => { a with rel := r, rcd := x })
  match a.kind, a.rel with
  | .cctl lines _, .accs _ _ ids =>
    if s.anyOp ids then s
    else
      let sel := fun b => match lines with | none => true | some l => l.contains (b / 2)
      let t := s.startWbs core sel
      setRel t (.wbs .wg ((t.wbs.filter (fun w => w.core = core && sel w.block)).map (·.id)) []) none
  | .cctl lines drop, .wbs _ ids _ =>
    if s.anyWb ids then s
    else
      let sel := fun b => match lines with | none => true | some l => l.contains (b / 2)
      setRel (if drop then s.dropClean core sel else s) .done none
  | _, .done =>
    if a.parts.any (fun p => !p.done) then s
    else
      let (t, q) := s.acqStep core (match a.acq with | .todo sc _ => .todo sc a.got | q => q)
      modAcc t a.id (fun a => { a with acq := q })
  | _, r =>
    let (t, r', x) := s.relStep a.w core a.id r
    setRel t r' x

/-! ### Parts: loads that are done, lost or dropped -/

/-- Replace the parts of an access. -/
def State.setParts (s : State) (id : Nat) (f : Part → Part) : State := modAcc s id (fun a => { a with parts := a.parts.map f })

/-- Parts of an access that could not be read (R375): they are done, their lanes are lost. -/
def State.loseParts (s : State) (id : Nat) (sel : Part → Bool) (source reason : Nat) : State :=
  modAcc s id (fun a =>
    let ls := maskOf (fun l => a.parts.any (fun p => p.lane = l && !p.done && sel p))
    if ls = 0 then a
    else { a with
      parts := a.parts.map (fun p => if sel p then { p with done := true } else p)
      lost := match a.lost with
        | none => some { source := source, reason := reason, lanes := ls }
        | some x => some { x with lanes := x.lanes ||| ls } })

/-- Lanes that a deferred trap takes out of an access: their parts are gone and their destinations stay as they are; the frame will carry
the lanes of every faulting line (R209). -/
def State.faultLanes (s : State) (id : Nat) (ls : LaneMask) (t : TrapInfo) : State :=
  modAcc s id (fun a => { a with
    parts := a.parts.filter (fun p => !ls.getLsbD p.lane)
    lanes := a.lanes &&& ~~~ls
    fault := match a.fault with
      | none => some { t with deferred := true, lanes := ls, apc := some a.pc }
      | some f => some { f with lanes := f.lanes ||| ls } })

/-! ### Atomics (R220, R221) -/

/-- The new value of Table 3. -/
def atomNew (ty : Ty) (op : AtomOp) (m v : DWord) : DWord :=
  let w := fun (x : Word) => x.zeroExtend 64
  if ty.is64 then
    match op with
    | .add => m + v
    | .min => minMaxInt ty false m v
    | .max => minMaxInt ty true m v
    | .and => m &&& v
    | .or => m ||| v
    | .xor => m ^^^ v
    | _ => v
  else
    let a := lo32 m
    let b := lo32 v
    match op with
    | .add => if ty = .f32 then w (BitVec.ofNat 32 (fAdd .fp32 .rn (decodeFp32 a) (decodeFp32 b))) else w (a + b)
    | .min => w (minMaxWord ty false a b)
    | .max => w (minMaxWord ty true a b)
    | .and => w (a &&& b)
    | .or => w (a ||| b)
    | .xor => w (a ^^^ b)
    | .exch => w b
    | .inc => if b ≤ a then 0 else w (a + 1)
    | .dec => if a = 0 ∨ b < a then w b else w (a - 1)

/-- The value a lane leaves at its location (R221). -/
def Acc.newValue (a : Acc) (lane m : Nat) : Nat :=
  let x := BitVec.ofNat 64 m
  let b := a.b.getD lane 0
  match a.kind with
  | .atom cas ty op _ => if cas then (if x = b then (a.c.getD lane 0).toNat else m) else (atomNew ty op x b).toNat
  | _ => m

/-- Perform the parts `sel` of an access on a memory of bytes that `rd` reads and `wr` writes, in lane order: loads take their bytes,
stores and atomics write theirs. -/
def Acc.performOn {α : Type} (a : Acc) (sel : Part → Bool) (rd : α → Part → Nat) (wr : α → Part → Nat → α) (m : α) : α × List Part :=
  a.parts.foldl (fun (acc : α × List Part) p =>
    if p.done || !sel p then (acc.1, acc.2 ++ [p])
    else match a.kind with
      | .load _ | .hdrLoad => (acc.1, acc.2 ++ [{ p with val := rd acc.1 p, done := true }])
      | .atom .. =>
        let v := rd acc.1 p
        (wr acc.1 p (a.newValue p.lane v), acc.2 ++ [{ p with val := v, done := true }])
      | _ => (wr acc.1 p p.val, acc.2 ++ [{ p with done := true }])) (m, [])

/-- Clean copies of a line leave a core's L1 (R214; for loads, log 26). -/
def State.dropLine (s : State) (core key : Nat) : State := s.dropClean core (fun b => b / 2 = lineOfKey key)

/-- The core's L1 line of a home key is clean and written back; otherwise its write-back is started (R214). -/
def State.lineClean (s : State) (core key : Nat) : State × Bool :=
  let bs := blocksOfLine (lineOfKey key)
  if bs.any (fun b => (s.dirtyBlocks core).contains b) then (s.startWbs core (fun b => bs.contains b), false)
  else (s, !s.wbOn core (fun b => bs.contains b))

/-- The core of a warp. -/
def State.coreOf (s : State) (w : WarpId) : Nat := match s.wg w.wg with | some g => g.core | none => 0

/-- What operation `id` of a warp writes at a home follows the warp's earlier accesses to the line (R242, R247): those are over, and its core
has written back the line's dirty bytes, or starts to. -/
def State.engOrder (s : State) (w : WarpId) (id key : Nat) : State × Bool :=
  if s.accs.any (fun a => a.w = w && decide (a.id < id) && !a.held && a.parts.any (·.mayReach key)) then (s, false)
  else s.lineClean (s.coreOf w) key

/-- Bytes of a 512-bit block as a number, and back. -/
def blockRead (x : BitVec 512) (o n : Nat) : Nat := x.toNat / 256 ^ o % 256 ^ n
def blockWrite (x : BitVec 512) (o n v : Nat) : BitVec 512 :=
  mergeBytes x (BitVec.ofNat 512 (v % 256 ^ n * 256 ^ o)) (maskAt o n)

/-! ### Parts performed at the core, a bank or the PCIe controller -/

/-- One move of a part and the parts of its access that share its block (log 27). -/
def State.performPart (s : State) (id i : Nat) : State :=
  match s.acc? id with
  | none => s
  | some a =>
    match a.parts[i]? with
    | none => s
    | some p =>
      if p.done || a.rel != .done || s.blocked a p then s
      else match p.loc with
      | .pad v => s.setParts id (fun q => if q = p then { q with val := v, done := true } else q)
      | .spad g off _ =>
        let sel := fun (q : Part) => match q.loc with | .spad h o _ => h = g && o / 64 = off / 64 | _ => false
        match s.wg g with
        | none => s.setParts id (fun q => if sel q then { q with done := true } else q)
        | some h =>
          let at_ := fun (q : Part) => match q.loc with | .spad _ o _ => o | _ => 0
          match a.kind with
          | .hdrLoad | .hdrStore =>
            let r := a.performOn sel (fun (t : Tab Word) q => (tabGetD t (at_ q / 64) 0).toNat)
              (fun t q v => tabSet t (at_ q / 64) (normHdr (BitVec.ofNat 32 v))) h.hdrs
            modAcc (s.modWg g (fun h => { h with hdrs := r.1 })) id (fun a => { a with parts := r.2 })
          | _ =>
            let bad := fun (q : Part) => sel q && h.spadBad (at_ q) q.n
            let reads := !a.writes || (match a.kind with | .atom .. => true | _ => false)
            let s0 := if reads then (a.parts.filter (fun q => !q.done && sel q)).foldl (fun (t : State) q => t.spadFix g (at_ q) q.n) s else s
            let s1 := if reads then s0.loseParts id bad 3 0 else s0
            let h := (s1.wg g).getD h
            let a1 := (s1.acc? id).getD a
            let r := a1.performOn sel (fun (t : Wg) q => t.spadRead (at_ q) q.n) (fun t q v => t.spadWrite (at_ q) q.n v) h
            modAcc (s1.modWg g (fun h => { h with spad := r.1.spad, spadErr := r.1.spadErr, checkErr := r.1.checkErr })) id (fun a => { a with parts := r.2 })
      | .host d _ =>
        let at_ := fun (q : Part) => match q.loc with | .host _ x => x | _ => 0
        -- of two lanes that store one byte the higher one's value stays (R217)
        if a.writes && (a.parts.take i).any (fun q => !q.done && decide (at_ q < at_ p + p.n) && decide (at_ p < at_ q + q.n)) then s else
        let r := a.performOn (fun q => q = p) (fun (t : State) q => t.hostLoad d (at_ q) q.n) (fun t q v => t.hostStore d (at_ q) q.n v) s
        modAcc r.1 id (fun a => { a with parts := r.2 })
      | .l1 core key =>
        let b := blockOf key
        let off := fun (q : Part) => match q.loc with | .l1 _ k => k % 64 | _ => 0
        let sel := fun (q : Part) => match q.loc with | .l1 _ k => blockOf k = b | _ => false
        let x := (s.l1Block core b).getD {}
        match a.kind with
        | .hdrLoad =>
          match x.hdr with
          | none => s
          | some h => s.setParts id (fun q => if !q.done && sel q then { q with val := h.toNat, done := true } else q)
        | .load _ =>
          let ready := fun (q : Part) => sel q && (maskAt (off q) q.n &&& ~~~x.valid) = 0
          s.setParts id (fun q => if !q.done && ready q then { q with val := blockRead x.bytes (off q) q.n, done := true } else q)
        | _ =>
          if !s.l1Room core b then s else
          let ctx := match s.wg a.w.wg with | some g => g.ctx | none => 0
          let mine := a.parts.filter (fun q => !q.done && sel q)
          let y := mine.foldl (fun (y : BitVec 512) q => blockWrite y (off q) q.n q.val) x.bytes
          let m := mine.foldl (fun (m : BitVec 64) q => m ||| maskAt (off q) q.n) 0
          (s.writeL1 core b y m ctx).setParts id (fun q => if sel q then { q with done := true } else q)
      | _ => s

end Sys2Proof.Machine
end

