-- ==== Sys2Proof/Machine/Memory.lean ====
section
/-! DEFINITION. The meanings of opcodes 0x60 to 0x65 and 0x70 to 0x79: loads, stores, atomics, fences, headers, cache control, residency
and view invalidation (R210 to R232), and EVT (R380). -/

namespace Sys2Proof.Machine

/-! ### Addresses (R41, R185, R211) -/

/-- The partition and offset that `n` bytes of a scratchpad address reach; none when it is unbacked (R41). -/
def State.spadPlace (s : State) (c : Ctx) (a n : Nat) : Option (WgId × Nat × Bool) :=
  if a < 0x80000 then (if a + n ≤ c.g.spadSize then some (c.g.id, a, true) else none)
  else if a < 0x100000 ∨ 0x300000 ≤ a then none
  else
    let k := (a - 0x100000) / 0x80000
    let off := a % 0x80000
    if k = c.g.pos then (if off + n ≤ c.g.spadSize then some (c.g.id, off, true) else none)
    else match s.wgs.find? (fun h => h.id.dev = c.dev && h.id.launch = c.g.id.launch && h.cg = c.g.cg && h.pos = k) with
      | some h => if off + n ≤ h.spadSize then some (h.id, off, false) else none
      | none => none

/-- Local address of a private byte of a lane's thread (R185). -/
def Ctx.privateAt (c : Ctx) (lane b : Nat) : Nat := c.g.spadN + 4 * ((c.w.warp * c.g.priv + b / 4) * 64 + lane) + b % 4

/-- `addr(l)` (R211). -/
def Ctx.address (c : Ctx) (sp : Space) (a : Addr) (l : Nat) : Nat :=
  match sp with
  | .sp => (c.x.lane a.base l + a.off).toNat
  | _ => (c.x.lane64 a.base l + a.off.signExtend 64).toNat

/-- The pieces of a lane's access: first byte and size (R217). -/
def pieces (sp : Space) (z : Nat) : List (Nat × Nat) :=
  match sp with
  | .pv => if z < 4 then [(0, z)] else (List.range (z / 4)).map (fun i => (4 * i, 4))
  | _ => if z ≤ 8 then [(0, z)] else [(0, 8), (8, 8)]

/-! ### Checks at issue (R212) -/

/-- What an access instruction asks for. -/
structure Req where
  kind   : AccKind
  cls    : CntClass
  sp     : Space
  size   : Nat
  str    : Strength
  hint   : Hint := .normal
  write  : Bool
  align  : Bool := true
  noHost : Bool := false
  block  : Bool := false
deriving DecidableEq, Repr

/-- A precise trap over the lanes that fail a test. -/
def failing (code : Nat) (lanes : List Nat) (addr : Nat → Nat) (f : Nat → Option (List Nat)) : Option TrapInfo :=
  match lanes.find? (fun l => (f l).isSome) with
  | none => none
  | some l => some { trapAt code (addr l) ((f l).getD []) with lanes := maskOf (fun i => lanes.contains i && (f i).isSome) }

def flag (b : Bool) : Option (List Nat) := if b then some [] else none

/-- The first trap of a list, or none. -/
def firstTrap : List (Option TrapInfo) → Option TrapInfo
  | [] => none
  | some t :: _ => some t
  | none :: rest => firstTrap rest

/-- Whether an access is performed in the core's L1 when its page is MEMORY (R214). DESIGN CHOICE (log 140): a strong access of scope warp or
workgroup is, whatever its hint. -/
def Req.inL1 (q : Req) : Bool :=
  (match q.kind with | .load _ | .store | .hdrLoad => true | _ => false) &&
  (match q.str with | .weak => q.hint != .bypass | .strong _ sc => !wide sc)

/-- The place of a piece of a lane's access. -/
def State.locOf (s : State) (c : Ctx) (q : Req) (a lane : Nat) (p : Option Page) (idx n : Nat) : Loc :=
  let a := (if q.block then a / 64 * 64 else a) + idx
  match q.sp with
  | .pv => .spad c.g.id (c.privateAt lane a) true
  | .sp =>
    match s.spadPlace c a n with
    | some (g, off, own) => .spad g off own
    | none => .pad 0
  | .gl =>
    match p with
    | none => .pad 0
    | some p =>
      match p.place with
      | .view id off => .view id ((if q.block then off / 64 * 64 else off) + idx) a
      | .host pa => .host c.dev (pa + idx)
      | _ =>
        let key := (if q.block then p.key.getD 0 / 64 * 64 else p.key.getD 0) + idx
        if q.inL1 then .l1 c.core key else .home key

/-- The checks of R212 that come before any translation (R184). -/
def State.earlyTrap (s : State) (c : Ctx) (q : Req) (lanes : List Nat) (addr : Nat → Nat) : Option TrapInfo :=
  firstTrap
    [failing tAddrRange lanes addr (fun l => flag (q.sp != .sp && decide (2 ^ 49 ≤ addr l))),
     failing tMisaligned lanes addr (fun l => flag (q.align && addr l % q.size != 0)),
     failing tSpadUnbacked lanes addr (fun l => flag (match q.sp with
       | .sp => (s.spadPlace c (if q.block then addr l / 64 * 64 else addr l) (if q.block then 64 else q.size)).isNone
       | .pv => decide (4 * c.g.priv < addr l + q.size)
       | .gl => false))]

/-- The checks of R212 over all lanes, in order; answers the parts, and the lanes that an importing device refuses with the level of the
leaf (R348). -/
def State.checkAccess (s : State) (c : Ctx) (q : Req) (lanes : List Nat) (addr : Nat → Nat) (val : Nat → Nat) :
    Except TrapInfo (List Part × List (Nat × Nat)) :=
  match s.earlyTrap c q lanes addr with
  | some t => .error t
  | none =>
    let pages : Tab (Except PFault Page) := if q.sp == .gl then lanes.map (fun l => (l, s.translateAt c.core c.ctx (addr l))) else []
    let page := fun (l : Nat) => match tabGet pages l with | some (.ok p) => some p | _ => none
    let late := firstTrap
      [failing tSpaceFault lanes addr (fun l => match page l with
         | some p => (match p.place with | .host _ => flag q.noHost | .fabric .. => some [] | _ => none)
         | none => none),
       failing tPageFault lanes addr (fun l => match tabGet pages l with
         | some (.error f) => some [f.1, f.2]
         | some (.ok p) => if q.write && !p.writable then some [3, p.lvl] else none
         | none => none)]
    match late with
    | some t => .error t
    | none =>
      let parts := lanes.flatMap (fun l => (pieces q.sp q.size).map (fun (i, n) =>
        { lane := l, idx := i, n := n, loc := s.locOf c q (addr l) l (page l) i n, val := val l / 256 ^ i % 256 ^ n, done := false, sh := false }))
      let refused := lanes.filterMap (fun l => match page l with
        | some p => if s.admitted c.dev c.ctx p q.size q.write then none else some (l, p.lvl)
        | none => none)
      .ok (parts, refused)

/-! ### Issue of an access -/

/-- The release that precedes an access: lazy when every part is at a home of the issuer's die and the scope is `.cg` or `.dg` (R253). -/
def relOf (agent : Nat) (str : Strength) (parts : List Part) : Rel :=
  if !Strength.rel str then .done
  else
    let sc := Strength.sc str
    .todo sc ((sc == .cg || sc == .dg) && parts.all (fun p => match p.loc with | .home k => agentOfKey k = agent | _ => false))

def resiOf : Hint → Resi | .stream => .stream | .keep => .keep | _ => .normal

/-- Put an access in flight: counted, its destination reserved; lanes that an importing device refuses end in a deferred trap (R348). -/
def State.startAccess (s : State) (c : Ctx) (q : Req) (dst : Option Dst) (lanes : LaneMask) (parts : List Part) (refused : List (Nat × Nat))
    (addr : Nat → Nat) (b cc : List DWord) : State :=
  let (id, s1) := s.fresh
  let s2 := s1.opBegin c.w q.cls id
  let s3 := match dst with
    | none => s2
    | some d => s2.modWarp c.w (fun x => (dstRegs ((q.size + 3) / 4) d).foldl (fun (y : Warp) r => y.reserve id (if isUniform d then allLanes else lanes) r) x)
  let acc : Acc :=
    { id := id, w := c.w, kind := q.kind, cls := q.cls, dst := dst, lanes := lanes, size := q.size, str := q.str, hint := resiOf q.hint,
      pc := c.x.pc, parts := parts, b := b, c := cc, rel := relOf c.agent q.str parts, rcd := none, got := [], acq := acqOf q.str [],
      lost := none, fault := none, held := false, addrs := (List.range 64).map (fun l => if lanes.getLsbD l then addr l else 0) }
  let s4 := { s3 with accs := s3.accs ++ [acc] }
  match refused with
  | [] => s4
  | (l, lvl) :: _ =>
    let ls := maskOf (fun i => refused.any (fun r => r.1 = i))
    s4.faultLanes id ls (trapAt tPageFault (addr l) [5, lvl])

/-- The translations of some lanes' addresses (R345, R349). -/
def State.warmFor (s : State) (c : Ctx) (lanes : List Nat) (addr : Nat → Nat) : State :=
  s.warm c.core c.ctx ((lanes.map addr).filter (fun a => decide (a < 2 ^ 49)))

/-- The translations that the lanes of an access need: none in the other spaces, and none once a check that comes first fails (R184, R212). -/
def State.warmReq (s : State) (c : Ctx) (q : Req) (lanes : List Nat) (addr : Nat → Nat) : State :=
  if q.sp == .gl && (s.earlyTrap c q lanes addr).isNone then s.warmFor c lanes addr else s

/-- Issue of an access instruction: checks, then the access in flight. -/
def State.accessIssue (s : State) (sw once : Bool) (deps : Deps) (q : Req) (adr : Addr) (dst : Option Dst)
    (val : Ctx → Nat → Nat) (b cc : Ctx → Nat → DWord) : Host.Outcome State Fault Refusal :=
  s.issue { once := once, sw := sw } deps (fun c _ => c.x.full q.cls) (fun c t =>
    let m : LaneMask := if once then 1 else c.x.lanes
    let lanes := lanesOf m
    let addr := fun l => c.address q.sp adr l
    match t.checkAccess c q lanes addr (val c) with
    | .error e => .error e
    | .ok (parts, refused) =>
      let all := List.range 64
      let isAtom := match q.kind with | .atom .. => true | _ => false
      .ok (t.startAccess c q dst m parts refused addr (if isAtom then all.map (b c) else []) (if isAtom then all.map (cc c) else [])))
    (fun c t => t.warmReq c q (lanesOf (if once then 1 else c.x.lanes)) (fun l => c.address q.sp adr l))

def addrRegs : Space → Nat | .sp => 1 | _ => 2

def noVal (_ : Ctx) (_ : Nat) : Nat := 0
def noOpnd (_ : Ctx) (_ : Nat) : DWord := 0

/-- The number held by a register group at a lane. -/
def Ctx.groupAt (c : Ctx) (d : Dst) (n l : Nat) : Nat :=
  let word := fun i => match d with | .v r => (c.x.readV (r.toNat + i)).getD l 0 | .s r => c.x.readS (r.toNat + i)
  (List.range n).foldl (fun a i => a + (word i).toNat * 2 ^ (32 * i)) 0

/-- Loads (R217). -/
def loadOf (o : MemOp) (kind : AccKind) (block : Bool) (s : State) : Host.Outcome State Fault Refusal :=
  let z := if block then 4 else o.size.bytes
  s.accessIssue o.sw (isUniform o.d) ((Deps.src (addrRegs o.sp) o.adr.base).join (Deps.dst ((z + 3) / 4) o.d))
    { kind := kind, cls := .load, sp := o.sp, size := z, str := o.str, hint := o.hint, write := false, align := !block, noHost := block, block := block }
    o.adr (some o.d) noVal noOpnd noOpnd

/-- Stores (R217). -/
def storeOf (o : MemOp) (kind : AccKind) (block : Bool) (s : State) : Host.Outcome State Fault Refusal :=
  let z := if block then 4 else o.size.bytes
  let n := (z + 3) / 4
  s.accessIssue o.sw (isUniform o.d) ((Deps.src (addrRegs o.sp) o.adr.base).join { reads := dstRegs n o.d })
    { kind := kind, cls := .store, sp := o.sp, size := z, str := o.str, hint := o.hint, write := true, align := !block, noHost := block, block := block }
    o.adr none (fun c l => c.groupAt o.d n l) noOpnd noOpnd

/-- LD (R217, R218). -/
def execLd (o : MemOp) (s : State) : Host.Outcome State Fault Refusal := loadOf o (.load o.sext) false s
/-- ST (R217, R218). -/
def execSt (o : MemOp) (s : State) : Host.Outcome State Fault Refusal := storeOf o .store false s
/-- LDS (R217). -/
def execLds (o : MemOp) (s : State) : Host.Outcome State Fault Refusal := loadOf { o with sp := .sp } (.load o.sext) false s
/-- STS (R217). -/
def execSts (o : MemOp) (s : State) : Host.Outcome State Fault Refusal := storeOf { o with sp := .sp } .store false s
/-- LDHDR (R227). -/
def execLdhdr (o : MemOp) (s : State) : Host.Outcome State Fault Refusal := loadOf o .hdrLoad true s
/-- STHDR (R228). -/
def execSthdr (o : MemOp) (s : State) : Host.Outcome State Fault Refusal := storeOf o .hdrStore true s

/-! ### Atomics (R220 to R223) -/

/-- ATOM, ATOMS, CAS, CASS and RED: `cas` compares, `ret` returns the old value. -/
def atomOf (o : AtomI) (sp : Space) (cas ret : Bool) (s : State) : Host.Outcome State Fault Refusal :=
  let n := if o.ty.is64 then 2 else 1
  let srcs := ((Deps.src (addrRegs sp) o.adr.base).join (Deps.src n o.b)).join (if cas then Deps.src n o.c else {})
  let opnd := fun (a : Src) (c : Ctx) (l : Nat) => if o.ty.is64 then c.x.lane64 a l else (c.x.lane a l).zeroExtend 64
  s.accessIssue o.sw false (if ret then srcs.join (Deps.dst n (.v o.d)) else srcs)
    { kind := .atom cas o.ty o.op ret, cls := if ret then .load else .store, sp := sp, size := 4 * n, str := .strong o.o o.sc,
      write := true, noHost := true }
    o.adr (if ret then some (.v o.d) else none) noVal (opnd o.b) (if cas then opnd o.c else noOpnd)

/-- ATOM (R221). -/
def execAtom (o : AtomI) (s : State) : Host.Outcome State Fault Refusal := atomOf o .gl false true s
/-- ATOMS (R221). -/
def execAtoms (o : AtomI) (s : State) : Host.Outcome State Fault Refusal := atomOf o .sp false true s
/-- CAS (R221). -/
def execCas (o : AtomI) (s : State) : Host.Outcome State Fault Refusal := atomOf o .gl true true s
/-- CASS (R221). -/
def execCass (o : AtomI) (s : State) : Host.Outcome State Fault Refusal := atomOf o .sp true true s
/-- RED (R223). -/
def execRed (o : AtomI) (s : State) : Host.Outcome State Fault Refusal := atomOf o .gl false false s

/-! ### FENCE (R224 to R226, R258) -/

/-- The accesses and barrier updates a fence waits for (Table 4, R240): what returns a value for `.acq`, all of them for the others. It does
not wait for an access that only TRET completes (log 52). -/
def State.fenceWaits (s : State) (w : WarpId) (o : Order) : List Nat :=
  (s.accs.filter (fun a => a.w = w && a.covered && !a.held && (o != .acq || a.cls == .load))).map (·.id)
    ++ (s.upds.filter (fun u => u.w = w && u.cls.isSome && (o != .acq || u.cls == some .load))).map (·.id)

/-- FENCE: the warp parks until its fence completes. -/
def execFence (sw : Bool) (o : Order) (sc : Scope) (s : State) : Host.Outcome State Fault Refusal :=
  s.issue { once := true, sw := sw } {} (fun _ _ => false) (fun c t =>
    .ok (t.modWarp c.w (fun x =>
      { x with park := .fence o sc (if sc == .wp then .ready else .accs (t.fenceWaits c.w o)) :: x.park })))

def relFence : Order → Bool | .rel | .ar | .sc => true | _ => false
def acqFence : Order → Bool | .acq | .ar | .sc => true | _ => false

/-- The acquire part of a fence. -/
def fenceAcq (o : Order) (sc : Scope) (recs : List RelRec) : FenceSt :=
  if acqFence o && wide sc then .acq (.todo sc recs) else .ready

/-- The next stage of a parked fence. A `.sc` fence completes as `.ar` but for the drop, then makes its round trip to the serialisation
point, an event of its own, and only then drops (R257, R258). -/
def State.fenceNext (s : State) (core : Nat) (recs : List RelRec) (o : Order) (sc : Scope) : FenceSt → State × FenceSt
  | .accs ids =>
    if s.anyOp ids then (s, .accs ids)
    else if relFence o && wide sc then
      let t := s.startWbs core (fun _ => true)
      (t, .wbs (t.wbIds core) [])
    else (s, fenceAcq o sc recs)
  | .wbs ids blocks =>
    let agent := agentOfCore core
    if s.anyWb ids then (s, .wbs ids blocks)
    else if widest sc && blocks.isEmpty && !(s.dirtyReps agent).isEmpty then (s, .wbs [] (s.dirtyReps agent))
    else if widest sc && blocks.any (fun b => (s.dirtyReps agent).contains b) then (s, .wbs ids blocks)
    else (s.settleEpochs core, fenceAcq o sc recs)
  | .serial => (s, .serial)
  | .drop => (s.dropClean core (fun _ => true), .ready)
  | .acq (.wbs sc' recs' ids) =>
    if o == .sc then (s, if s.anyWb ids then .acq (.wbs sc' recs' ids) else .serial)
    else
      let (t, q) := s.acqStep core (.wbs sc' recs' ids)
      (t, if q = .none then .ready else .acq q)
  | .acq a =>
    let (t, q) := s.acqStep core a
    (t, if q = .none then .ready else .acq q)
  | .ready => (s, .ready)

/-- Move the parked fence of a warp to its next stage. A fence that completes an acquire leaves no record kept. -/
def State.fenceMove (s : State) (w : WarpId) : State :=
  match s.wg w.wg, s.warp w with
  | some g, some x =>
    match x.park.find? (fun p => match p with | .fence .. => true | _ => false) with
    | some (.fence o sc st) =>
      if !g.resident then s else
      let (t, st') := s.fenceNext g.core x.recs o sc st
      t.modWarp w (fun (x : Warp) =>
        { x with park := x.park.map (fun p => if p = .fence o sc st then .fence o sc st' else p),
                 recs := if st' = .ready && acqFence o && wide sc then [] else x.recs })
    | _ => s
  | _, _ => s

/-! ### Prefetch, cache control, residency (R229 to R231) -/

/-- The line of an address on a MEMORY page that a request of the core may reach: home key of its first byte. -/
def State.lineAt (s : State) (c : Ctx) (a : Nat) : Option Nat :=
  if 2 ^ 49 ≤ a then none
  else match s.translateAt c.core c.ctx (a / 128 * 128) with
    | .ok p => if s.admitted c.dev c.ctx p 128 false then p.key else none
    | .error _ => none

/-- A shared replica of a foreign block, obtained in one instant (RDS of Table 8). -/
def State.rdsNow (s : State) (agent b : Nat) (w : Who) (cls : Resi) : State :=
  if (s.rep? agent b).isSome then s
  else
    -- a dirty owner forwards its data, unless the block has become POISON when it was touched (R261, R265, R266)
    let fwd := match ((s.tagRead b).touch b).hall b with | .mod o | .owned o => s.rep? o b | _ => none
    let s1 := s.clearFor b .rds w
    match fwd with
    | some r => s1.fillReplica agent b { bytes := r.bytes, hdr := r.hdr, ctx := w.ctx.getD 0 } cls
    | none => match s1.readHome b w cls with
      | (s2, .error _) => s2
      | (s2, .ok (x, h)) => s2.fillReplica agent b { bytes := x, hdr := h, ctx := w.ctx.getD 0 } cls

/-- Fill one block for a prefetch (R229): the home slice, and the core's L1 unless `l2`. DESIGN CHOICE (log 142): with `l2` a foreign block is
read at its home as by an HRD and leaves no replica. A block with a transaction in progress, a
write-back of the core under way, no room in the L1 or a context held for tokens (R356) is left as it is. -/
def State.prefetch (s : State) (c : Ctx) (l2 : Bool) (cls : Resi) (b : Nat) : State :=
  let who := s.whoFor c.dev c.ctx c.agent b
  if s.txns.any (fun t => t.block = b) || s.wbOn c.core (· = b) || s.throttled b who || (!l2 && !s.l1Room c.core b) then s
  else if agentOfBlock b = c.agent || l2 then
    match (s.clearFor b .hrd who).readHome b who cls with
    | (t, .error _) => t
    | (t, .ok (x, h)) => if l2 then t else t.fillBlock c.core b x h
  else
    let t := s.rdsNow c.agent b who cls
    match t.rep? c.agent b with
    | some r => (t.fillBlock c.core b r.bytes r.hdr).settleRep c.agent b
    | none => t

/-- PREF (R229). -/
def execPref (sw : Bool) (hint : Hint) (l2 : Bool) (adr : Addr) (s : State) : Host.Outcome State Fault Refusal :=
  s.issue { once := false, sw := sw } (Deps.src 2 adr.base) (fun _ _ => false) (fun c t =>
    .ok ((lanesOf c.x.lanes).foldl (fun (u : State) l =>
      match u.lineAt c (c.address .gl adr l) with
      | none => u
      | some key => (blocksOfLine (lineOfKey key)).foldl (fun (v : State) b => v.prefetch c l2 (resiOf hint) b) u) t))
    (fun c t => t.warmFor c (lanesOf c.x.lanes) (fun l => c.address .gl adr l))

/-- An access with no part, which waits for its own completion condition. -/
def State.startWait (s : State) (c : Ctx) (kind : AccKind) (rel : Rel) : State :=
  let (id, s1) := s.fresh
  let acc : Acc :=
    { id := id, w := c.w, kind := kind, cls := .store, dst := none, lanes := 0, size := 0, str := .weak, hint := .normal, pc := c.x.pc,
      parts := [], b := [], c := [], rel := rel, rcd := none, got := [], acq := .none, lost := none, fault := none, held := false }
  let s2 := s1.opBegin c.w .store id
  { s2 with accs := s2.accs ++ [acc] }

/-- What the checks of an address that is only translated ask for (R230). -/
def probeReq : Req := { kind := .probe, cls := .store, sp := .gl, size := 1, str := .weak, write := false, align := false }

/-- CCTL (R230). `.ib` discards the instruction copies of the core; the others wait for the warp's earlier accesses and for the
write-backs. -/
def execCctl (sw : Bool) (op : CctlOp) (adr : Addr) (s : State) : Host.Outcome State Fault Refusal :=
  let line := op == .wb || op == .inv
  s.issue { once := false, sw := sw } (if line then Deps.src 2 adr.base else {}) (fun c _ => op != .ib && c.x.full .store) (fun c t =>
    if op == .ib then
      .ok (t.modCore c.core (fun k => { k with quads := k.quads.map (fun q => { q with ibuf := [] }) }))
    else
      let before := Rel.accs .wg false (t.earlier c.w (t.nextId + 1))
      if !line then .ok (t.startWait c (.cctl none (op == .invall)) before)
      else
        let lanes := lanesOf c.x.lanes
        let addr := fun l => c.address .gl adr l
        match t.checkAccess c probeReq lanes addr (fun _ => 0) with
        | .error e => .error e
        | .ok (parts, _) =>
          let lines := (parts.filterMap (fun p => p.loc.key?.map lineOfKey)).dedup
          .ok (t.startWait c (.cctl (some lines) (op == .inv)) before))
    (fun c t => if line then t.warmReq c probeReq (lanesOf c.x.lanes) (fun l => c.address .gl adr l) else t)

/-- Lines of a context that a home slice holds as PIN. -/
def State.pinned (s : State) (ctx key : Nat) : Nat :=
  (s.l2.filter (fun e => e.2.cls == .pin && e.2.ctx = ctx && repAgent e.1 = agentOfKey key
    && sliceIn (agentOfKey key) (repBlock e.1) = sliceOfKey key)).length

/-- The context in which an operation of a warp that has issued is read: only its workgroup counts. -/
def State.ctxFor (s : State) (w : WarpId) : Option Ctx :=
  (s.wg w.wg).map (fun g => { w := w, g := g, x := {}, now := s.cycle w.wg.dev })

/-- Set the class of one line (R231, R353); the flag says that it exceeds the PIN allowance. An absent line is filled by a read at the
home, which recalls what an owner holds (R260, R266). -/
def State.setResi (s : State) (c : Ctx) (cls : Resi) (line : Nat) : State × Bool :=
  let key := 128 * line
  let agent := agentOfKey key
  let old := s.l2At agent (2 * line)
  let mine := match old with | some e => e.cls == .pin && e.ctx = c.ctx | none => false
  let ways := ((List.range 16).filter (fun i => (s.usableWays c.dev c.ctx).getLsbD i)).length
  let most := min (bits (s.ctxWord c.dev c.ctx 0) 32 16) ((ways - 1) * 8192)
  let beyond := cls == .pin && !mine && decide (most ≤ s.pinned c.ctx key)
  let cls' : Resi := if beyond then .keep else cls
  let t := if old.isNone && (cls == .pin || cls == .keep) then
      [2 * line, 2 * line + 1].foldl (fun (t : State) b =>
        let who := t.whoFor c.dev c.ctx c.agent b
        ((t.clearFor b .hrd who).readHome b who cls').1) s
    else s
  (match t.l2At agent (2 * line) with
   | some e => { t with l2 := tabSet t.l2 (repKey agent line) { e with cls := cls', ctx := c.ctx } }
   | none => t, beyond)

/-- The home lines on a device that a lane's range of `n` bytes from `a` reaches (R231). -/
def State.residLines (s : State) (c : Ctx) (a n : Nat) : List Nat :=
  if n = 0 then []
  else (List.range ((a + n - 1) / 128 - a / 128 + 1)).filterMap (fun i =>
    match s.lineAt c (a / 128 * 128 + 128 * i) with
    | some k => if devOfAgent (agentOfKey k) = c.dev then some (lineOfKey k) else none
    | none => none)

/-- RESID (R231): every line of each active lane's range that is homed on this device. They are applied one by one, as requests to their
homes. -/
def execResid (sw : Bool) (cls : Resi) (adr : Addr) (len : Src) (s : State) : Host.Outcome State Fault Refusal :=
  s.issue { once := false, sw := sw } ((Deps.src 2 adr.base).join (Deps.src 1 len)) (fun c _ => c.x.full .store) (fun c t =>
    let lanes := lanesOf c.x.lanes
    let addr := fun l => c.address .gl adr l
    match t.earlyTrap c probeReq lanes addr with
    | some e => .error e
    | none => .ok (t.startWait c (.resid cls (lanes.flatMap (fun l => t.residLines c (addr l) (c.x.lane len l).toNat)) false) .done))
    (fun c t => t.warmReq c probeReq (lanesOf c.x.lanes) (fun l => c.address .gl adr l))

/-- A RESID applies its next line, once its context has tokens at the line's home (R356). The first line beyond the PIN allowance raises one
RESID_LIMIT (R231). -/
def State.residStep (s : State) (a : Acc) : State :=
  match a.kind, s.ctxFor a.w with
  | .resid cls (line :: rest) limit, some c =>
    if s.throttled (2 * line) (s.whoFor c.dev c.ctx c.agent (2 * line)) then s
    else
      let (t, beyond) := s.setResi c cls line
      let u := if beyond && !limit then t.raiseEvent c.dev c.ctx (c.agent % 4) (c.agent % 4) 0x08 [pcWord a.pc, dieLocalCore c.core] else t
      modAcc u a.id (fun a => { a with kind := .resid cls rest (limit || beyond) })
  | _, _ => s

/-- VINV (R232): the release part of FENCE.rel.dm, then the drop in every view unit of the domain. -/
def execVinv (sw : Bool) (x : VinvArg) (s : State) : Host.Outcome State Fault Refusal :=
  s.issue { once := true, sw := sw } (match x with | .reg r => Deps.uni r.toNat 1 | _ => {}) (fun c _ => c.x.full .store) (fun c t =>
    let id := match x with
      | .reg r => some ((c.x.readS r.toNat).toNat % 65536)
      | .id i => some i.toNat
      | .all => none
    .ok (t.startWait c (.vinv id (t.agentsOf c.dev)) (.todo .dm false)))

/-- EVT (R380): the release part of FENCE.rel.dv, then a USER event. -/
def execEvt (sw : Bool) (a : BitVec 6) (ty : BitVec 16) (s : State) : Host.Outcome State Fault Refusal :=
  s.issue (sysMode sw) (Deps.uni a.toNat 2) (fun c _ => c.x.full .store) (fun c t =>
    .ok (t.startWait c (.evt ty.toNat (c.x.pairS a.toNat)) (.todo .dv false)))

/-! ### Completion (R213, R375) -/

/-- The value of a lane of a load or atomic, from its parts. -/
def Acc.laneValue (a : Acc) (l : Nat) : Nat :=
  (a.parts.filter (fun p => p.lane = l)).foldl (fun v p => v + p.val % 256 ^ p.n * 256 ^ p.idx) 0

/-- Register `i` of a lane's result (R217). -/
def Acc.word (a : Acc) (l i : Nat) : Word :=
  let v := a.laneValue l
  match a.kind with
  | .load true => if a.size ≤ 2 then BitVec.ofInt 32 (sextNat v (8 * a.size)) else BitVec.ofNat 32 (v / 2 ^ (32 * i))
  | _ => BitVec.ofNat 32 (v / 2 ^ (32 * i))

/-- Write the lanes `m` of a load's destination. -/
def State.deliverAcc (s : State) (a : Acc) (m : LaneMask) : State :=
  match a.dst with
  | none => s
  | some d => s.modWarp a.w (fun x => (dstRegs ((a.size + 3) / 4) d).zipIdx.foldl (fun (y : Warp) (ri : PendReg × Nat) =>
      y.deliver a.id ri.1 m ((List.range 64).map (fun l => a.word l ri.2))) x)

/-- The deferred trap of lanes taken out of an access is reported when the access ends (R209). -/
def State.reportFault (s : State) (a : Acc) : State := match a.fault with | some t => s.defer a.w t | none => s

/-- An update that has been performed is acknowledged: its result is written and its counter falls (R330, R334, R336). -/
def State.ackUpd (s : State) (id : Nat) (k : CntClass) : State :=
  match s.upd? id with
  | none => s
  | some u =>
    if !u.done || u.cls != some k || (u.dst.isSome && u.res.isNone) then s
    else
      let v := u.res.getD 0
      let t := match u.dst with
        | none => s
        | some (d, n) => s.modWarp u.w (fun x => ((List.range n).foldl (fun (y : Warp) i =>
            y.deliver id (.s (d + i)) allLanes [BitVec.ofNat 32 (v.toNat / 2 ^ (32 * i))]) x).complete id)
      (t.dropUpd id).opEnd u.w k id

/-- LOAD_COMPLETE (R213, R257, R375): once every part has its data, the acquire is carried out, lost lanes are reported with the address
of the lowest of them (log 105), and the destination is written; LOAD falls in issue order. -/
def execLoadComplete (id : Nat) (s : State) : Host.Outcome State Fault Refusal :=
  .next (match s.acc? id with
  | none => s.ackUpd id .load
  | some a =>
    if a.cls != .load || a.held || a.rel != .done || a.acq != .none || a.parts.any (fun p => !p.done) then s
    else
      match a.lost with
      | some x =>
        let t := s.deliverAcc a (a.lanes &&& ~~~x.lanes)
        ((modAcc t id (fun a => { a with held := true })).reportFault a).defer a.w
          { code := tMemUncorrectable, deferred := true, addr := a.addrs.getD ((lanesOf x.lanes).headD 0) 0, lanes := x.lanes, info := [BitVec.ofNat 32 x.source, BitVec.ofNat 32 x.reason],
            apc := some a.pc, acc := some id }
      | none =>
        let t := (s.deliverAcc a a.lanes).modWarp a.w (fun (x : Warp) =>
          { (x.complete id) with recs := if Strength.acq a.str then x.recs else x.recs ++ a.got })
        ((t.dropAcc id).opEnd a.w a.cls id).reportFault a)

/-- STORE_ACK (R213, R230 to R232, R257, R380): a store or RED once every part is performed, the warp keeping the records that a RED
received, a CCTL once its write-backs are acknowledged, a RESID once no line is left, a
VINV once every view unit has answered, an EVT once its record is written or dropped; STORE falls in issue order. -/
def execStoreAck (id : Nat) (s : State) : Host.Outcome State Fault Refusal :=
  .next (match s.acc? id with
  | none => s.ackUpd id .store
  | some a =>
    let waits : Bool := match a.kind with | .vinv _ l => !l.isEmpty | .resid _ l _ => !l.isEmpty | _ => false
    if a.cls != .store || a.rel != .done || a.acq != .none || waits || a.parts.any (fun p => !p.done) then s
    else
      let t := match a.kind, s.wg a.w.wg with
        | .evt ty pay, some g =>
          let die := agentOfCore g.core % 4
          s.raiseEvent a.w.wg.dev g.ctx die die 0x0C [ty + a.w.warp * 2 ^ 16, pay.toNat, pcWord a.pc]
        | _, _ => s
      let t := t.modWarp a.w (fun (x : Warp) => { x with recs := if Strength.acq a.str then x.recs else x.recs ++ a.got })
      ((t.dropAcc id).opEnd a.w a.cls id).reportFault a)

end Sys2Proof.Machine
end

