-- ==== Sys2Proof/Machine/Views.lean ====
section
/-! DEFINITION. Layout views: view descriptors (R192 to R197), the map of a shadow byte to its base element (R196), and the request of one
shadow line at its view unit (R200 to R209). -/

namespace Sys2Proof.Machine

/-! ### View descriptors (R193 to R197) -/

/-- A window of a view: base dimension, pads, dilation, stride, kernel extent (w12, w13). -/
structure Win where
  dim  : Nat
  lo   : Nat
  hi   : Nat
  dil  : Nat
  str  : Nat
  k    : Nat
deriving DecidableEq, Repr

def winOf (w : Nat) : Win :=
  { dim := bits w 0 3, lo := bits w 32 8, hi := bits w 40 8, dil := bits w 24 8 + 1, str := bits w 16 8 + 1, k := bits w 8 8 + 1 }

/-- A view descriptor: its sixteen words. -/
abbrev VD := List DWord

def VD.fmt (v : VD) : Nat := bits (wordOf v 0) 56 8
def VD.rank (v : VD) : Nat := bits (wordOf v 0) 51 3
def VD.base (v : VD) : Nat := bits (wordOf v 0) 0 49
def VD.typed (v : VD) : Bool := bits (wordOf v 1) 12 1 = 1
def VD.wins (v : VD) : Nat := bits (wordOf v 1) 10 2
def VD.idxW (v : VD) : Nat := bits (wordOf v 1) 8 2
def VD.gdim (v : VD) : Nat := bits (wordOf v 1) 5 3
def VD.home (v : VD) : Nat := bits (wordOf v 1) 0 5
def VD.pad (v : VD) : Nat := bits (wordOf v 1) 32 32
def VD.dims (v : VD) : Nat := v.rank + v.wins
def VD.ext (v : VD) (i : Nat) : Nat := bits (wordOf v (2 + i / 2)) (32 * (i % 2)) 32
def VD.stride (v : VD) (i : Nat) : Nat := bits (wordOf v (5 + i / 2)) (32 * (i % 2)) 32
def VD.perm (v : VD) (k : Nat) : Nat := bits (wordOf v 8) (3 * k) 3
def VD.tlog (v : VD) (k : Nat) : Nat := bits (wordOf v 8) (24 + 4 * k) 4
def VD.sigma (v : VD) (i : Nat) : Nat := bits (wordOf v 9) (8 * i) 8 + 1
def VD.m0 (v : VD) : Nat := bits (wordOf v 10) 0 32
def VD.m1 (v : VD) : Nat := bits (wordOf v 10) 32 32
def VD.ivec (v : VD) : Nat := bits (wordOf v 11) 0 49
def VD.count (v : VD) : Nat := bits (wordOf v 14) 0 32
def VD.win (v : VD) (i : Nat) : Win := winOf (wordOf v (12 + i))
/-- Window whose base dimension is `i`, with its tap dimension. -/
def VD.winAt (v : VD) (i : Nat) : Option (Win × Nat) :=
  if 1 ≤ v.wins ∧ (v.win 0).dim = i then some (v.win 0, v.rank)
  else if 2 ≤ v.wins ∧ (v.win 1).dim = i then some (v.win 1, v.rank + 1)
  else none
def VD.gathered (v : VD) (i : Nat) : Bool := v.idxW != 0 && v.gdim = i
/-- Element width in bits (R196). -/
def VD.width (v : VD) : Nat :=
  if v.fmt = 0 then 8 * 2 ^ bits (wordOf v 0) 54 2 else match Fmt.ofCode v.fmt with | some f => f.width | none => 8
/-- Logical extent of a dimension (R195). -/
def VD.extent (v : VD) (i : Nat) : Int :=
  if v.rank ≤ i then (v.win (i - v.rank)).k
  else match v.winAt i with
    | some (w, _) => ((v.ext i + w.lo + w.hi : Int) - (w.dil * (w.k - 1) : Nat) - 1).fdiv w.str + 1
    | none => if v.gathered i then v.count else ((v.ext i + v.sigma i - 1) / v.sigma i : Nat)
def VD.tile (v : VD) (k : Nat) : Nat := 2 ^ v.tlog k
/-- Padded extent of a shadow dimension; 0 when the view has no element. -/
def VD.padded (v : VD) (k : Nat) : Nat :=
  let x := (v.extent (v.perm k)).toNat
  v.tile k * ((x + v.tile k - 1) / v.tile k)
/-- Shadow elements Q (R195). -/
def VD.size (v : VD) : Nat := (List.range v.dims).foldl (fun q k => q * v.padded k) 1
/-- R197. -/
def VD.blockPreserving (v : VD) : Bool :=
  let w := v.width
  let per := 512 / w
  let run := if v.tlog 0 = 0 then v.padded 0 else v.tile 0
  v.perm 0 = 0 && (v.winAt 0).isNone && !v.gathered 0 && v.sigma 0 = 1 && v.stride 0 = 1 && v.m0 % per = 0 && v.m1 % per = 0
    && run % per = 0 && v.ext 0 % per = 0 && v.base % 64 = 0
    && (List.range v.rank).all (fun i => i = 0 || v.stride i * w % 512 = 0)
def VD.decoding (v : VD) : Bool := v.typed && !v.blockPreserving
/-- Shadow element width (R197). -/
def VD.shadowWidth (v : VD) : Nat := if v.decoding then 16 else v.width
def VD.readOnly (v : VD) : Bool := bits (wordOf v 0) 50 1 = 1 || v.wins != 0 || v.decoding
/-- The limits of Table 3 and the cases of R194. -/
def VD.valid (v : VD) : Bool :=
  let n := v.dims
  let six := List.range 6
  let used := (List.range n).map v.perm
  decide (v.fmt ≤ 10) && (v.fmt = 0 || bits (wordOf v 0) 54 2 = 0) && decide (1 ≤ v.rank) && decide (v.rank ≤ 6)
    && bits (wordOf v 0) 49 1 = 1 && decide (8 * v.base % max 8 v.width = 0)
    && bits (wordOf v 1) 13 19 = 0 && decide (v.wins ≤ 2) && decide (v.idxW ≤ 2)
    && (if v.idxW = 0 then v.gdim = 0 && v.count = 0 else decide (v.gdim < v.rank))
    && (!v.typed || v.fmt != 0) && decide (n ≤ 6)
    && six.all (fun i => decide (i < v.rank) || (v.ext i = 0 && v.stride i = 0 && v.sigma i = 1))
    && six.all (fun k => decide (k < n) || (v.tlog k = 0 && v.perm k = 0))
    && (List.range n).all (fun i => used.contains i)
    && bits (wordOf v 8) 48 16 = 0 && bits (wordOf v 8) 18 6 = 0 && bits (wordOf v 9) 48 16 = 0 && v.m0 &&& v.m1 = 0
    && bits (wordOf v 11) 49 15 = 0 && (v.idxW = 0 || v.ivec % (2 * v.idxW) = 0)
    && [0, 1].all (fun i => let x := wordOf v (12 + i)
        if i < v.wins then bits x 48 16 = 0 && bits x 3 5 = 0 && decide ((v.win i).dim < v.rank) else x = 0)
    && bits (wordOf v 14) 32 32 = 0 && wordOf v 15 = 0
    && (decide (v.wins < 2) || (v.win 0).dim != (v.win 1).dim)
    && (List.range v.rank).all (fun i => v.sigma i = 1 || ((v.winAt i).isNone && !v.gathered i))
    && (v.idxW = 0 || (v.winAt v.gdim).isNone)
    && (v.typed || v.blockPreserving || (v.fmt != 7 && v.fmt != 10))
    && decide (v.pad < 2 ^ min 32 v.shadowWidth)

/-! ### The map (R196) -/

/-- Bits of `q` at the set positions of a mask, packed upward. -/
def packBits (q m : Nat) : Nat → Nat → Nat
  | 0, _ => 0
  | n + 1, i => if m.testBit i then (if q.testBit i then 1 else 0) + 2 * packBits q m n (i + 1) else packBits q m n (i + 1)

def interleave (q m0 m1 : Nat) : Nat :=
  let n := 80
  let c := fun (m : Nat) => ((List.range 32).filter (fun i => m.testBit i)).length
  let rest := 2 ^ n - 1 - m0 - m1
  packBits q m0 n 0 + packBits q m1 n 0 * 2 ^ c m0 + packBits q rest n 0 * 2 ^ (c m0 + c m1)

/-- What an element of a view is: outside the shadow, padding, or logical coordinates. -/
inductive Coord where
  | range | pad | at (y : List Nat)
deriving DecidableEq, Repr

/-- Digits of a mixed-radix number, least significant first, and what is left. -/
def digits : List Nat → Nat → List Nat × Nat
  | [], q => ([], q)
  | r :: rs, q => let (ds, rest) := digits rs (q / r); (q % r :: ds, rest)

/-- The logical coordinates of shadow element `q0` (R196). -/
def VD.coords (v : VD) (q0 : Nat) : Coord :=
  let ks := List.range v.dims
  let (inner, q1) := digits (ks.map v.tile) (interleave q0 v.m0 v.m1)
  let (outer, q2) := digits (ks.map (fun k => v.padded k / v.tile k)) q1
  if v.size = 0 ∨ q2 ≠ 0 then .range
  else
    let y := fun (k : Nat) => outer.getD k 0 * v.tile k + inner.getD k 0
    if ks.any (fun k => decide (v.extent (v.perm k) ≤ (y k : Int))) then .pad
    else .at (ks.map (fun i => match ks.find? (fun k => v.perm k = i) with | some k => y k | none => 0))

/-! ### The view unit (R200) -/

/-- Base element of a shadow element: bit address, padding, or a trap. -/
inductive ElemAt where
  | pad | bit (a : Nat)
deriving DecidableEq, Repr

/-- Whose view it is: device and context, the agent that asks, the view ID, and the shadow VA and line offset a trap reports. -/
structure ViewReq where
  dev   : Nat
  ctx   : Nat
  agent : Nat
  id    : Nat
  va    : Nat
  line  : Nat
  write : Bool
deriving DecidableEq, Repr

def ViewReq.trap (r : ViewReq) (code base : Nat) : TrapInfo := { trapAt code r.va [r.id, r.line] with base := base }

/-- Key of a descriptor in a view unit's cache. -/
def ViewReq.key (r : ViewReq) : Nat × Nat := (r.dev * 64 + r.ctx, r.id)

/-- Bytes of a context's memory inside one block, read at their home for an agent. DESIGN CHOICE (log 138): a descriptor or index vector that
cannot be read raises PAGE_FAULT, reason 2 on a HOST or VIEW page, SPACE_FAULT on a page of the fabric (R347), or MEM_UNCORRECTABLE. -/
def State.readVa (s : State) (agent dev ctx va n : Nat) : State × Except TrapInfo Nat :=
  let s := s.walked agent dev ctx va
  match s.translate dev ctx va with
  | .error f => (s, .error (pageTrap va f))
  | .ok p =>
    match p.place, p.key with
    | .fabric .., _ => (s, .error (trapAt tSpaceFault va []))
    | _, none => (s, .error (pageTrap va (2, p.lvl)))
    | _, some key =>
      if !s.admitted dev ctx p n false then (s, .error (pageTrap va (5, p.lvl)))
      else match s.hrdNow (blockOf key) (s.whoFor dev ctx agent (blockOf key)) with
        | (t, .ok (x, _)) => (t, .ok (blockRead x (key % 64) n))
        | (t, .error e) => (t, .error (trapAt tMemUncorrectable va [e.1, e.2]))

/-- The descriptor of a view: from a view unit's cache, otherwise read from the view table and cached at its home agent (R192, R200). A
unit keeps what it has read until VINV (log 106); the table's length holds for a cached descriptor too. Its faults come before any base VA is
computed, so that the frame's base is 0 (R209). -/
def State.viewDesc (s : State) (r : ViewReq) : State × Except TrapInfo VD :=
  if bits (s.ctxWord r.dev r.ctx 3) 0 17 ≤ r.id then (s, .error (r.trap tViewFault 0)) else
  match ((s.agentsOf r.dev).flatMap (fun a => (s.die a).vds)).find? (fun e => e.1 = r.key) with
  | some e => (s, .ok e.2)
  | none =>
      let at_ := bits (s.ctxWord r.dev r.ctx 2) 0 49 + 128 * r.id
      let read := (List.range 16).foldl (fun (acc : State × Except TrapInfo VD) i =>
        match acc with
        | (s, .error e) => (s, .error e)
        | (s, .ok v) =>
          match s.readVa r.agent r.dev r.ctx (at_ + 8 * i) 8 with
          | (t, .error e) => (t, .error { e with addr := r.va })
          | (t, .ok x) => (t, .ok (v ++ [BitVec.ofNat 64 x]))) (s, .ok [])
      match read with
      | (t, .error e) => (t, .error e)
      | (t, .ok v) => (t.modDie v.home (fun d => { d with vds := d.vds ++ [(r.key, v)] }), .ok v)

/-- The home agent of a view must be that of its base (Table 3), which the frame then names. A fault of the base's translation is the
access's. -/
def State.viewHome (s : State) (r : ViewReq) (v : VD) : Option TrapInfo :=
  match s.translate r.dev r.ctx v.base with
  | .error f => some { pageTrap r.va f with base := v.base }
  | .ok p => match p.key with
    | some k => if agentOfKey k = v.home then none else some (r.trap tViewFault v.base)
    | none => some (r.trap tViewFault v.base)

/-- The stack that holds a view's base, if the base translates. -/
def State.viewUnit (s : State) (r : ViewReq) : Option (Nat × Nat) :=
  match (s.viewDesc r).2 with
  | .error _ => none
  | .ok v => match s.translate r.dev r.ctx v.base with
    | .ok p => p.key.map (fun k => (agentOfKey k, stackOfKey k))
    | .error _ => none

/-- Base coordinates of an element, with its index read at the home (R196). A fault of the index comes before the element's base VA is computed
(R209). -/
def State.viewElem (s : State) (r : ViewReq) (v : VD) (q : Nat) : State × Except TrapInfo ElemAt :=
  match v.coords q with
  | .range => (s, .error (r.trap tViewRange 0))
  | .pad => (s, .ok .pad)
  | .at y =>
    let step := fun (acc : State × Except TrapInfo (Option Int)) (i : Nat) =>
      match acc with
      | (s, .ok (some sum)) =>
        let yi := y.getD i 0
        if v.gathered i then
          let va := v.ivec + yi * (2 * v.idxW)
          let s := s.walked v.home r.dev r.ctx va
          match s.translate r.dev r.ctx va with
          | .error f => (s, .error (pageTrap r.va f))
          | .ok p =>
            match p.key with
            | none => (s, .error (r.trap tViewFault 0))
            | some key =>
              if agentOfKey key != v.home then (s, .error (r.trap tViewFault 0))
              else if !s.admitted r.dev r.ctx p (2 * v.idxW) false then (s, .error (pageTrap r.va (5, p.lvl)))
              else
                match s.hrdNow (blockOf key) (s.whoFor r.dev r.ctx r.agent (blockOf key)) with
                | (t, .error e) => (t, .error (trapAt tMemUncorrectable r.va [e.1, e.2]))
                | (t, .ok (x, _)) =>
                  let c := blockRead x (key % 64) (2 * v.idxW)
                  if v.ext i ≤ c then (t, .error (r.trap tViewRange 0)) else (t, .ok (some (sum + (c * v.stride i : Nat))))
        else match v.winAt i with
          | some (w, tap) =>
            let c : Int := (yi * w.str : Nat) - (w.lo : Int) + (y.getD tap 0 * w.dil : Nat)
            if c < 0 ∨ (v.ext i : Int) ≤ c then (s, .ok none) else (s, .ok (some (sum + c * v.stride i)))
          | none => (s, .ok (some (sum + (v.sigma i * yi * v.stride i : Nat))))
      | x => x
    match (List.range v.rank).foldl step (s, .ok (some 0)) with
    | (t, .error e) => (t, .error e)
    | (t, .ok none) => (t, .ok .pad)
    | (t, .ok (some sum)) => (t, .ok (.bit ((8 * v.base + v.width * sum.toNat))))

/-- The home key of a base byte, checked to lie on the view unit's own stack and to admit the access (R191, R200, R347). -/
def State.baseKey (s : State) (r : ViewReq) (v : VD) (va : Nat) : Except TrapInfo Nat :=
  match s.translate r.dev r.ctx va, s.translate r.dev r.ctx v.base with
  | .error f, _ => .error { pageTrap r.va f with base := va }
  | _, .error f => .error { pageTrap r.va f with base := v.base }
  | .ok p, .ok b =>
    match p.place, p.key, b.key with
    | .memory vh _ _, some key, some bk =>
      if !vh || agentOfKey key != v.home || agentOfKey bk != v.home || stackOfKey key != stackOfKey bk then .error (r.trap tViewFault va)
      else if r.write && !p.writable then .error { pageTrap r.va (3, p.lvl) with base := va }
      else if !s.admitted r.dev r.ctx p 1 r.write then .error { pageTrap r.va (5, p.lvl) with base := va }
      else .ok key
    | _, _, _ => .error (r.trap tViewFault va)

/-- The pieces of `n` shadow bytes at offset `off`: byte within them, size and place. `hdr` asks for the block of a header; a shadow block
of a view that is not block-preserving is untyped. The pad value has 32 bits; the upper half of an 8-byte PAD element reads as 0
(log 120). -/
def State.viewPieces (s : State) (r : ViewReq) (v : VD) (off n : Nat) (hdr : Bool) : State × Except TrapInfo (List (Nat × Nat × Loc)) :=
  if hdr && !v.blockPreserving then
    match v.coords (8 * off / v.shadowWidth) with
    | .range => (s, .error (r.trap tViewRange 0))
    | _ => (s, .ok [(0, 4, .pad 0)])
  else
    let n := if hdr then 1 else n
    let eb := max 1 (v.shadowWidth / 8)
    let cells := (List.range ((off % eb + n + eb - 1) / eb)).map (fun i =>
      let start := max off (off / eb * eb + eb * i)
      (start, min (off + n) (off / eb * eb + eb * (i + 1)) - start))
    cells.foldl (fun (acc : State × Except TrapInfo (List (Nat × Nat × Loc))) (c : Nat × Nat) =>
      match acc with
      | (s, .error e) => (s, .error e)
      | (s, .ok l) =>
        match s.viewElem r v (8 * c.1 / v.shadowWidth) with
        | (t, .error e) => (t, .error e)
        | (t, .ok .pad) =>
          if hdr then (t, .ok (l ++ [(0, 4, .pad 0)]))
          else
            let code := if v.shadowWidth = 4 then v.pad % 16 * 17 else v.pad
            (t, .ok (l ++ [(c.1 - off, c.2, .pad (code / 256 ^ (c.1 % eb) % 256 ^ c.2))]))
        | (t, .ok (.bit a)) =>
          let va := if v.decoding then a / 8 else a / 8 + c.1 % eb
          let t := t.walked v.home r.dev r.ctx va
          match t.baseKey r v va with
          | .error e => (t, .error e)
          | .ok key =>
            if hdr then (t, .ok (l ++ [(0, 4, .home (key / 64 * 64))]))
            else if v.decoding then (t, .ok (l ++ [(c.1 - off, c.2, .decoded (key / 64 * 64) v.fmt (a % 512 / v.width) (c.1 % 2) ((r.va + (c.1 - off)) / 128))]))
            else (t, .ok (l ++ [(c.1 - off, c.2, .home key)]))) (s, .ok [])

/-! ### One shadow line (R200, R205 to R209) -/

/-- Checks of an access through a view before its elements: validity, home, read-only, size of an atomic (R194, R198, R206). Where several
hold for one line, the first in this order is raised (log 107). -/
def State.viewOpen (s : State) (r : ViewReq) (a : Acc) : State × Except TrapInfo VD :=
  match s.viewDesc r with
  | (t, .error e) => (t, .error e)
  | (t, .ok v) =>
    let stHdr := match a.kind with | .hdrStore => true | _ => false
    let atom := match a.kind with | .atom .. => true | _ => false
    if !v.valid then (t, .error (r.trap tViewFault 0))
    else
    let t := t.walked v.home r.dev r.ctx v.base
    match t.viewHome r v with
    | some e => (t, .error e)
    | none =>
    if r.write && v.readOnly then (t, .error (r.trap tViewRo 0))
    else if stHdr && !v.blockPreserving then (t, .error (r.trap tViewRo 0))
    else if atom && v.width != 8 * a.size then (t, .error (r.trap tViewFault 0))
    else (t, .ok v)

/-- VIEW_LINE_REQUEST (R200): the view unit maps every element that the access reaches in one shadow line, `line` being the shadow VA
divided by 128. A line that faults takes its lanes out of the access. DESIGN CHOICE (log 139): a descriptor or index vector that is
uncorrectable takes them out with MEM_UNCORRECTABLE also in a store or RED. -/
def execViewLineRequest (id line : Nat) (s : State) : Host.Outcome State Fault Refusal :=
  .next (s.orWait (match s.acc? id with
  | none => s
  | some a =>
    let inLine := fun (p : Part) => match p.loc with | .view _ _ va => va / 128 = line && !p.done | _ => false
    match a.parts.find? inLine, s.wg a.w.wg with
    | some p0, some g =>
      match p0.loc with
      | .view vid off va =>
        let reqOf := fun (a : Acc) (vid va off : Nat) =>
          ({ dev := a.w.wg.dev, ctx := g.ctx, agent := agentOfCore g.core, id := vid, va := va, line := off / 128 * 128, write := a.writes } : ViewReq)
        let r := reqOf a vid va off
        let unit := s.viewUnit r
        -- earlier shadow requests of the warp: uncomposed ones, and shadow stores not yet performed, of the same unit (R207)
        let held := s.accs.any (fun e => e.w = a.w && decide (e.id < a.id) && !e.held && e.parts.any (fun q => !q.done &&
          (match q.loc with
           | .view i o w => unit.isSome && s.viewUnit (reqOf e i w o) = unit
           | .home k => q.sh && e.writes && unit = some (agentOfKey k, stackOfKey k)
           | _ => false)))
        let blockOf0 := match unit with | some (ag, st) => blockOf (mkKey ag (st * 2 ^ 36)) | none => 0
        if a.rel != .done || s.blocked a p0 || held then s
        else if unit.isSome && s.throttled blockOf0 (s.whoFor r.dev r.ctx r.agent blockOf0) then s
        else
          let lanes := maskOf (fun l => a.parts.any (fun p => p.lane = l && inLine p))
          let hdr := match a.kind with | .hdrLoad | .hdrStore => true | _ => false
          let atom := match a.kind with | .atom .. => true | _ => false
          let fail := fun (t : State) (e : TrapInfo) =>
            if e.code = tMemUncorrectable && a.cls == .load then
              t.loseParts id inLine (e.info.getD 0 0).toNat (e.info.getD 1 0).toNat
            else t.faultLanes id lanes e
          match s.viewOpen r a with
          | (t, .error e) => fail t e
          | (t, .ok v) =>
            let res := a.parts.foldl (fun (acc : State × Except TrapInfo (List Part)) (p : Part) =>
              match acc with
              | (t, .error e) => (t, .error e)
              | (t, .ok l) =>
                if !inLine p then (t, .ok (l ++ [p]))
                else match p.loc with
                  | .view _ off va =>
                    match t.viewPieces { r with va := va } v off p.n hdr with
                    | (u, .error e) => (u, .error e)
                    | (u, .ok ps) =>
                      if atom && ps.any (fun x => match x.2.2 with | .pad _ => true | _ => false) then (u, .error ({ r with va := va } |>.trap tViewRange 0))
                      else (u, .ok (l ++ ps.map (fun x => { p with idx := p.idx + x.1, n := x.2.1, loc := x.2.2, val := p.val / 256 ^ x.1 % 256 ^ x.2.1, sh := true, keep := !v.blockPreserving })))
                  | _ => (t, .ok (l ++ [p]))) (t, .ok [])
            match res with
            | (u, .error e) => fail u e
            | (u, .ok parts) => modAcc u id (fun a => { a with parts := parts })
      | _ => s
    | _, _ => s))

end Sys2Proof.Machine
end

