-- ==== Sys2Proof/Machine/Coherence.lean ====
section
/-! DEFINITION. The events of homes, replicas and L1s: RDS to FORWARD (R259 to R263), drains (R256, R257), the serialisation of `.sc` fences
(R258), lost agents (R265), view-descriptor drops (R232), page walks (R345), evictions and fills. -/

namespace Sys2Proof.Machine

/-! ### Reads at the home -/

/-- The part is to be performed at the home of a block. -/
def Part.atBlock (p : Part) (b : Nat) : Bool := match p.loc with | .home k | .decoded k .. => blockOf k = b | _ => false

/-- The part waits in a core's L1 for bytes, or a header, of a block that the core does not hold. -/
def State.missing (s : State) (a : Acc) (p : Part) (b : Nat) : Bool :=
  !p.done && (match p.loc with
    | .l1 core k => blockOf k = b && (match a.kind, s.l1Block core b with
        | .load _, some x => (maskAt (k % 64) p.n &&& ~~~x.valid) != 0
        | .hdrLoad, some x => x.hdr.isNone
        | .load _, none => true
        | .hdrLoad, none => true
        | _, _ => false)
    | _ => false)

def Acc.reads (a : Acc) : Bool := match a.kind with | .load _ | .hdrLoad => true | _ => false

def State.ctxOf (s : State) (w : WarpId) : Nat := match s.wg w.wg with | some g => g.ctx | none => 0
def State.whoOf (s : State) (w : WarpId) (b : Nat) : Who := s.whoFor w.wg.dev (s.ctxOf w) (agentOfCore (s.coreOf w)) b

/-- One SCALE_ERROR event: the instruction's PC and the core of its warp (R96, R389). -/
def State.scaleError (s : State) (w : WarpId) (die pc : Nat) : State :=
  s.raiseEvent w.wg.dev (s.ctxOf w) die (agentOfCore (s.coreOf w) % 4) 0x05 [pcWord pc, dieLocalCore (s.coreOf w)]

/-- The BF16 code that a decoding view delivers (R197), and whether a scale error is noted. -/
def decodeElement (x : BitVec 512) (h : Word) (fmt idx : Nat) : Nat × Bool :=
  match Fmt.ofCode fmt with
  | none => (0, false)
  | some f =>
    let (v, e) := blockValue h f (x.toNat / 2 ^ (f.width * idx) % 2 ^ f.width)
    (roundTo .bf16 v .rn false, e)

/-- The data of a block reaches parts of a load (R200, R217). -/
def State.takeBlock (s : State) (a : Acc) (b : Nat) (sel : Part → Bool) (x : BitVec 512) (h : Word) : State :=
  let val := fun (p : Part) =>
    match a.kind, p.loc with
    | .hdrLoad, _ => h.toNat
    | _, .decoded _ f i sh _ => (decodeElement x h f i).1 / 256 ^ sh % 256 ^ p.n
    | _, .home k => blockRead x (k % 64) p.n
    | _, _ => 0
  let lines := (a.parts.filterMap (fun p => match p.loc with
    | .decoded _ f i _ l => if !p.done && p.atBlock b && sel p && (decodeElement x h f i).2 && !a.noted.contains l then some l else none
    | _ => none)).dedup
  let t := s.setParts a.id (fun p => if !p.done && p.atBlock b && sel p then { p with val := val p, done := true } else p)
  lines.foldl (fun t l => modAcc (t.scaleError a.w (agentOfBlock b % 4) a.pc) a.id (fun a => { a with noted := l :: a.noted })) t

/-- Records of a home line. -/
def State.lineRecords (s : State) (b : Nat) : List RelRec := s.records.filter (fun r => r.line = b / 2)

/-- Whether a part is read by a request of the access for a block: at the home, or as a miss of its core's L1. -/
def State.readsAt (s : State) (a : Acc) (b : Nat) (p : Part) : Bool :=
  !p.done && (p.atBlock b || (agentOfBlock b = agentOfCore (s.coreOf a.w) && s.missing a p b))

/-- The part lies in a block: at the home, or in the L1 of a core. -/
def Part.onBlock (p : Part) (b : Nat) : Bool := p.loc.key?.any (fun k => blockOf k = b)

/-- Parts of an access are sent to the home of a block. -/
def State.send (s : State) (id b : Nat) (sel : Part → Bool) : State :=
  s.setParts id (fun p => if p.onBlock b then { p with sent := sel p } else p)

/-- The kind of parts of an access, plain or mapped by views, that its next request for a block carries; plain and shadow parts go to the
home each on their own (R207). Where both may go, either does. -/
def State.choose (s : State) (plain shadow : Bool) : State × Option Bool :=
  if plain && shadow then ({ s with free := s.free + 1 }, some ((Config.freeWord s.free).getLsbD 0))
  else (s, if plain then some false else if shadow then some true else none)

/-- A core may take a block into its L1: no write-back of it is under way, and its line has room. -/
def State.mayFill (s : State) (core b : Nat) : Bool := !s.wbOn core (· = b) && s.l1Room core b

/-- The read of a request that its home has granted: the parts it has sent are done, or lost. -/
def State.readDone (s : State) (a : Acc) (b : Nat) : State :=
  let core := s.coreOf a.w
  let mine := fun (p : Part) => s.readsAt a b p && p.sent
  match s.readHome b (s.whoOf a.w b) a.hint with
  | (u, .error e) => u.loseParts a.id mine e.1 e.2
  | (u, .ok (x, h)) =>
    let u1 := if a.parts.any (fun p => s.missing a p b) && u.mayFill core b then u.fillBlock core b x h else u
    let u2 := u1.takeBlock a b (·.sent) x h
    let strong := match a.str with | .strong _ sc => wide sc | .weak => false
    let home := fun (sh : Bool) => a.parts.any (fun p => mine p && p.atBlock b && p.sh = sh)
    let u3 := if strong && (home false || home true) && agentOfBlock b = agentOfCore core then
        modAcc u2 a.id (fun a => { a with got := a.got ++ u2.lineRecords b }) else u2
    if home false then u3.dropLine core (keyOfBlock b) else u3

/-- HRD (R260, R261): a read performed at the home for an access: its parts at the home, or a miss of its core's L1. Before plain parts are
sent, the core writes back the dirty bytes of their line (R214). -/
def execHrd (id b : Nat) (s : State) : Host.Outcome State Fault Refusal :=
  .next (match s.acc? id with
  | none => match s.txns.find? (·.orphan b .hrd id) with
    | some t => (s.homeStep b .hrd t.req id).1
    | none => s
  | some a =>
    let core := s.coreOf a.w
    let r := agentOfCore core
    if s.atHome b .hrd r id then
      let (t, complete) := s.homeStep b .hrd r id
      if complete && a.parts.any (fun p => s.readsAt a b p && p.sent) then t.readDone a b else t
    else if !a.reads || a.rel != .done || s.throttled b (s.whoOf a.w b) then s
    else
      let may := fun (sh : Bool) (p : Part) => s.readsAt a b p && p.sh = sh && !s.blocked a p
      let home := a.parts.any (fun p => may false p && p.atBlock b)
      let (s1, clean) := if home then s.lineClean core (keyOfBlock b) else (s, s.mayFill core b)
      match s1.choose (clean && a.parts.any (may false)) (a.parts.any (may true)) with
      | (_, none) => s1
      | (s2, some sh) =>
        let s3 := s2.send id b (may sh)
        let (t, complete) := s3.homeStep b .hrd r id
        match complete, t.acc? id with
        | true, some a' => t.readDone a' b
        | _, _ => t)

/-! ### Writes at the home -/

/-- Room for the record of a lazy release (R255): the epoch that must be drained first is asked for. -/
def State.recordReady (s : State) (core b : Nat) (r : RelRec) : State × Bool :=
  let line := s.lineRecords b
  let slice := s.records.filter (fun x => agentOfKey (x.line * 128) = agentOfBlock b && sliceOfKey (x.line * 128) = sliceOf b)
  if line.any (fun x => x.core = r.core) then (s, true)
  else if 2048 ≤ slice.length then
    if s.epochDrained core r.epoch then (s, true) else (s.askDrain core r.epoch, false)
  else match line with
    | o :: _ =>
      let oc := 144 * agentOfBlock b + o.core
      if line.length < 4 || s.epochDrained oc o.epoch then (s, true) else (s.askDrain oc o.epoch, false)
    | [] => (s, true)

/-- Store the record of a lazy release against its line (R255). -/
def State.storeRecord (s : State) (b : Nat) (r : RelRec) : State :=
  let slice := s.records.filter (fun x => agentOfKey (x.line * 128) = agentOfBlock b && sliceOfKey (x.line * 128) = sliceOf b)
  let line := s.lineRecords b
  let keep := fun (l : List RelRec) => { s with records := l ++ [{ r with line := b / 2 }] }
  if line.any (fun x => x.core = r.core) then keep (s.records.filter (fun x => !(x.line = b / 2 && x.core = r.core)))
  else if 2048 ≤ slice.length then s
  else match line with
    | o :: _ => if 4 ≤ line.length then keep (s.records.filter (· != o)) else keep s.records
    | [] => keep s.records

/-- Perform the parts of a store, header store or atomic that have been sent to a block's home (R221, R223, R228, R233). An atomic whose
read finds uncorrectable data is a failed merge (R234); one with a result is also lost to its warp (R375). That it does both is DEDUCED
(log 45). -/
def State.performHome (s : State) (a : Acc) (b : Nat) (who : Who) : State :=
  let sel := fun (p : Part) => p.atBlock b && p.sent
  let off := fun (p : Part) => match p.loc with | .home k => k % 64 | _ => 0
  let mine := a.parts.filter (fun p => !p.done && sel p)
  let cover := fun (l : List Part) => l.foldl (fun (m : BitVec 64) q => m ||| maskAt (off q) q.n) 0
  let m := cover mine
  let fin := fun (t : State) => t.setParts a.id (fun p => if sel p then { p with done := true } else p)
  -- only what comes through block-preserving views or none can bring a POISON block back (R204, R235)
  let restore := !mine.any (·.keep) || cover (mine.filter (fun p => !p.keep)) = BitVec.allOnes 64
  match a.kind with
  | .hdrStore =>
    match mine.getLast? with
    | some p => fin (s.mergeHome b 0 0 (some (normHdr (BitVec.ofNat 32 p.val))) who)
    | none => s
  | .atom _ _ _ ret =>
    match s.readHome b who .normal with
    | (t, .error e) =>
      let u := if e.1 = 1 then (t.setHall b (.poison 1)).memError b who 1 else t
      if ret then u.loseParts a.id sel e.1 e.2 else fin u
    | (t, .ok (x, _)) =>
      let r := a.performOn sel (fun (y : BitVec 512) q => blockRead y (off q) q.n) (fun y q v => blockWrite y (off q) q.n v) x
      modAcc (t.mergeHome b r.1 m none who restore) a.id (fun a => { a with parts := r.2 })
  | _ =>
    let x := mine.foldl (fun (y : BitVec 512) q => blockWrite y (off q) q.n q.val) 0
    fin (s.mergeHome b x m none who restore)

/-- An L1 write-back is acknowledged by its home (R260). -/
def State.dropWb (s : State) (w : Wb) : State := ({ s with wbs := s.wbs.filter (fun x => x.id != w.id) }).settleEpochs w.core

/-- Who an L1 write-back is made for: the context that made the block dirty (R234, R385). -/
def State.whoWb (s : State) (w : Wb) : Who := s.whoFor (devOfCore w.core) w.ctx (agentOfCore w.core) w.block

/-- The first write-back of a core for a block: later ones wait. -/
def State.wbFirst (s : State) (w : Wb) : Bool :=
  (s.wbs.find? (fun x => x.core = w.core && x.block = w.block)).any (fun x => x.id = w.id)

/-- The shadow block of a lane's access (R200). -/
def Acc.shadowBlock (a : Acc) (p : Part) : Nat := a.addrs.getD p.lane 0 / 64

/-- The last lane whose parts, of those listed, lie in a part's shadow block. -/
def Acc.lastLane (a : Acc) (l : List Part) (p : Part) : Nat :=
  (l.filter (fun q => a.shadowBlock q = a.shadowBlock p)).foldl (fun n q => max n q.lane) 0

/-- The parts of a write through views that a view unit applies next to a block: those of one shadow block, and with them those of the
shadow blocks whose lanes lie between its lanes, so that lanes are applied in increasing number (R205). None while a lower lane's shadow
line is still to be composed, since it may reach the same element. -/
def Acc.nextLanes (a : Acc) (b : Nat) : Part → Bool :=
  let l := a.parts.filter (fun p => !p.done && p.sh && p.atBlock b)
  match l with
  | [] => fun _ => false
  | p :: ps =>
    let last := (ps.foldl (fun (x : Nat × Bool) q =>
      if x.2 || decide (x.1 < q.lane) then (x.1, true) else (max x.1 (a.lastLane l q), false)) (a.lastLane l p, false)).1
    let composing := a.parts.any (fun q => !q.done && decide (q.lane ≤ last) && (match q.loc with | .view .. => true | _ => false))
    fun q => !composing && !q.done && q.sh && q.atBlock b && decide (q.lane ≤ last)

/-- What a write that its home has granted does: its parts are performed, with the record of a lazy release (R255). -/
def State.writeDone (s : State) (a : Acc) (b : Nat) : State :=
  let core := s.coreOf a.w
  let u := s.performHome a b (s.whoOf a.w b)
  let v := match a.rcd with | some x => u.storeRecord b x | none => u
  let rmw := match a.kind with | .atom .. => true | _ => false
  let v := if rmw && agentOfBlock b = agentOfCore core then modAcc v a.id (fun a => { a with got := a.got ++ v.lineRecords b }) else v
  if a.parts.any (fun p => !p.done && p.atBlock b && p.sent && !p.sh) then v.dropLine core (keyOfBlock b) else v

/-- HWR (R260, R261): a write performed at the home: a store, RED, atomic, STHDR or view store of an access, or a home-die write-back. A
lazy release goes on only while its record has room (R255). -/
def execHwr (id b : Nat) (s : State) : Host.Outcome State Fault Refusal :=
  .next (match s.acc? id, s.wbs.find? (fun w => w.id = id) with
  | some a, _ =>
    let core := s.coreOf a.w
    let r := agentOfCore core
    let room := fun (t : State) => match a.rcd with | some x => t.recordReady core b x | none => (t, true)
    let go := fun (t : State) =>
      let (u, complete) := t.homeStep b .hwr r id
      match complete, u.acc? id with
      | true, some a' => if a'.parts.any (fun p => !p.done && p.atBlock b && p.sent) then u.writeDone a' b else u
      | _, _ => u
    if s.atHome b .hwr r id then
      let (s1, ok) := room s
      if ok then go s1 else s1.leaveHome b .hwr r id
    else if !a.writes || a.rel != .done || s.throttled b (s.whoOf a.w b) then s
    else
      let plain := fun (p : Part) => !p.done && !p.sh && p.atBlock b && !s.blocked a p
      let shadow := fun (p : Part) => a.nextLanes b p && !s.blocked a p
      let (s1, clean) := if a.parts.any plain then s.lineClean core (keyOfBlock b) else (s, false)
      match s1.choose clean (a.parts.any shadow) with
      | (_, none) => s1
      | (s2, some sh) =>
        let (s3, ok) := room s2
        if ok then go (s3.send id b (if sh then shadow else plain)) else s3
  | none, some w =>
    let r := agentOfCore w.core
    if w.block != b || agentOfBlock b != r || !s.wbFirst w || (!s.atHome b .hwr r id && s.throttled b (s.whoWb w)) then s
    else
      let (t, complete) := s.homeStep b .hwr r id
      if !complete then t else (t.mergeHome b w.bytes w.mask w.hdr (s.whoWb w)).dropWb w
  | none, none =>
    match s.txns.find? (·.orphan b .hwr id) with
    | some t => (s.homeStep b .hwr t.req id).1
    | none => s)

/-! ### Requests of replica slices -/

/-- A load of one of an agent's cores that waits for a foreign line. -/
def State.demand (s : State) (agent b : Nat) : Option Acc :=
  s.accs.find? (fun a => agentOfCore (s.coreOf a.w) = agent && a.parts.any (fun p => s.missing a p b || s.missing a p (b / 2 * 2) || s.missing a p (b / 2 * 2 + 1)))

/-- Cores of an agent with a load that waits for a block take it into their L1. -/
def State.fillWaiting (s : State) (agent b : Nat) (x : BitVec 512) (h : Word) : State :=
  ((s.accs.filter (fun a => agentOfCore (s.coreOf a.w) = agent && a.parts.any (fun p => s.missing a p b))).map (fun a => s.coreOf a.w)).dedup.foldl
    (fun (t : State) core => if t.mayFill core b then t.fillBlock core b x h else t) s

/-- RDS (R261). A poisoned block leaves no replica; the loads that wait for it are lost. A replica that finds no way of the slice passes
through to the loads that wait (R351). -/
def execRds (agent b : Nat) (s : State) : Host.Outcome State Fault Refusal :=
  .next (
    let at_ := s.atHome b .rds agent 0
    let dem := s.demand agent b
    let who := match dem with | some a => s.whoOf a.w b | none => { dev := devOfAgent agent, ctx := some 0, agent := agent }
    if !at_ && (agentOfBlock b = agent || (s.rep? agent b).isSome || dem.isNone || s.lost.contains agent || s.throttled b who) then s
    else
      let cls := match dem with | some a => a.hint | none => Resi.normal
      let fwd := s.forwarded b .rds agent 0
      let (t, complete) := s.homeStep b .rds agent 0
      if !complete || (t.rep? agent b).isSome then t
      else
        let take := fun (u : State) (x : BitVec 512) (h : Word) =>
          ((u.fillReplica agent b { bytes := x, hdr := h, ctx := who.ctx.getD 0 } cls).fillWaiting agent b x h).settleRep agent b
        match fwd, (t.hall b).isPoison with
        | some d, false => take t d.1 d.2
        | _, _ => match t.readHome b who cls with
        | (u, .ok (x, h)) => take u x h
        | (u, .error e) =>
          (u.accs.filter (fun a => agentOfCore (u.coreOf a.w) = agent)).foldl (fun (v : State) a =>
            v.loseParts a.id (fun p => s.missing a p b) e.1 e.2) u)

/-- Write-backs of an agent's cores that wait for a foreign block. -/
def State.wbsOf (s : State) (agent b : Nat) : List Wb := s.wbs.filter (fun w => agentOfCore w.core = agent && w.block = b)

/-- Merge an agent's waiting write-backs of a block into the replica it owns. -/
def State.mergeWbs (s : State) (agent b : Nat) : State :=
  (s.wbsOf agent b).foldl (fun (t : State) w => (t.mergeRep agent w).dropWb w) s

/-- The home has no data for an agent's waiting write-backs of a block: each is discarded or, of a whole block, performed at the home.
Once one has restored the block, those behind it wait to ask for it again (R235, R261). -/
def State.loseWbs (s : State) (agent b src : Nat) : State :=
  ((s.wbsOf agent b).foldl (fun (u : State × Nat) w =>
    if u.2 = 0 then u
    else
      let t := (u.1.mergeLost w (s.whoWb w) u.2).dropWb w
      (t, if (t.hall b).isPoison then 2 else 0)) (s.dropRep agent b, src)).1

/-- Ownership has been granted: the agent's replica, or the home's data where it holds none, is owned, and the write-backs are merged.
Poison discards them, but for a write-back of the whole block (R235, R261). -/
def State.granted (s : State) (agent b : Nat) : State :=
  match s.wbsOf agent b with
  | [] => s
  | w :: _ =>
    if (s.hall b).isPoison then s.loseWbs agent b 2
    else match s.rep? agent b with
      | some x => (s.setRep agent b { x with shr := false, owned := true }).mergeWbs agent b
      | none => match s.readHome b (s.whoWb w) .normal with
        | (t, .ok (x, h)) => (t.fillReplica agent b { bytes := x, hdr := h, owned := true, ctx := w.ctx } .normal).mergeWbs agent b
        | (t, .error e) => t.loseWbs agent b e.1

/-- A write-back of an agent's cores may ask for a foreign block. -/
def State.mayOwn (s : State) (agent b : Nat) : Bool :=
  match s.wbsOf agent b with
  | [] => false
  | w :: _ => !s.throttled b (s.whoWb w)

/-- RDX (R261): a replica slice obtains a block that it does not own for a write-back. -/
def execRdx (agent b : Nat) (s : State) : Host.Outcome State Fault Refusal :=
  .next (
    let at_ := s.atHome b .rdx agent 0
    let owned := match s.rep? agent b with | some r => r.owned | none => false
    if !at_ && (agentOfBlock b = agent || owned || !s.mayOwn agent b) then s
    else
      let (t, complete) := s.homeStep b .rdx agent 0
      if !complete then t else t.granted agent b)

/-- UPG (R261): an owner in EXCL or OWNED that receives a write-back. -/
def execUpg (agent b : Nat) (s : State) : Host.Outcome State Fault Refusal :=
  .next (
    let at_ := s.atHome b .upg agent 0
    let need := match s.rep? agent b with | some r => r.owned && (!r.dirty || r.shr) | none => false
    if !at_ && (!need || !s.mayOwn agent b) then s
    else
      let (t, complete) := s.homeStep b .upg agent 0
      if !complete then t else t.granted agent b)

/-- WBK (R261): an owner writes its dirty block back and keeps it, or drops it. -/
def execWbk (agent b : Nat) (drop : Bool) (s : State) : Host.Outcome State Fault Refusal :=
  .next (
    let kind : ReqKind := if drop then .wbkDrop else .wbkKeep
    let at_ := s.atHome b kind agent 0
    let dirty := match s.rep? agent b with | some r => r.dirty | none => false
    if !at_ && (!dirty || s.lost.contains agent) then s
    else
      let (t, complete) := s.homeStep b kind agent 0
      if complete then ((s.tagRead b).touch b).wbkDone t agent b drop else t)

/-- One agent's answer to what a home asked of it; the data that an owner forwards travels with the request (R261). -/
def State.answerAsk (s : State) (agent b : Nat) (sel : WaitKind → Bool) : State :=
  match s.txns.find? (fun t => t.block = b && t.started && t.waits.any (fun w => w.1 = agent && sel w.2)) with
  | none => s
  | some t =>
    match t.waits.find? (fun w => w.1 = agent && sel w.2) with
    | none => s
    | some w =>
      let u := s.answer b agent (s.repPay agent b) w.2
      let fwd := match w.2, s.rep? agent b with
        | .forward _, some r => some (r.bytes, r.hdr)
        | _, _ => t.fwd
      { u with txns := u.txns.map (fun x => if x = t then { x with waits := x.waits.filter (· != w), fwd := fwd } else x) }

/-- INVALIDATE (R260): the agent drops its replica and answers. -/
def execInvalidate (agent b : Nat) (s : State) : Host.Outcome State Fault Refusal :=
  .next (s.answerAsk agent b (fun k => match k with | .inv => true | _ => false))
/-- RECALL (R260): the owner sends its dirty data home, and keeps or drops its copy. -/
def execRecall (agent b : Nat) (s : State) : Host.Outcome State Fault Refusal :=
  .next (s.answerAsk agent b (fun k => match k with | .recallKeep | .recallDrop => true | _ => false))
/-- FORWARD (R261): the owner sends its data to the requester and stays dirty. -/
def execForward (agent b : Nat) (s : State) : Host.Outcome State Fault Refusal :=
  .next (s.answerAsk agent b (fun k => match k with | .forward _ => true | _ => false))

/-- The agent that holds a ticket. -/
def State.requester (s : State) (k : Ticket) : Option Nat :=
  if let some (d, _) := k.launch then some (4 * d) else
  match k.txn, s.upd? k.op, s.chop? k.op with
  | some t, _, _ => some t.req
  | none, some u, _ => some (agentOfCore (s.coreOf u.w))
  | none, none, some o => some (agentOfCore (s.coreOf o.w))
  | none, none, none => none

/-- The warp whose operation a ticket is for. -/
def State.ticketWarp (s : State) (k : Ticket) : Option WarpId :=
  match k.txn with
  | some t => t.op.bind (fun i => match s.acc? i, s.upd? i, s.chop? i, s.copy? i with
    | some a, _, _, _ => some a.w
    | none, some u, _, _ => some u.w
    | none, none, some o, _ => some o.w
    | none, none, none, some o => some o.w
    | none, none, none, none => (s.convs.find? (fun v => v.id = i)).map (·.w))
  | none => match s.upd? k.op, s.chop? k.op with
    | some u, _ => some u.w
    | none, some o => some o.w
    | none, none => none

/-- Whether a ticket may go unclaimed (R337): its requester is a lost agent, or its request is one of a swapped or killed context. A live
requester claims within 4,096 cycles. -/
def State.mayLapse (s : State) (k : Ticket) : Bool :=
  (match s.requester k with | some a => s.lost.contains a | none => true) ||
    (k.launch.isNone && (match s.ticketWarp k with
      | some w => !(s.wg w.wg).any (·.resident)
      | none => k.txn.isNone))

/-- LOST_AGENT_TIMEOUT (R265): a home that has waited 2 ms for an agent declares it lost: its requests that have not started are
discarded, with their tickets. -/
def execLostAgentTimeout (b agent : Nat) (s : State) : Host.Outcome State Fault Refusal :=
  .next (
    let d := devOfAgent (agentOfBlock b)
    if s.txns.any (fun t => t.block = b && t.started && decide (t.since + 2000000 ≤ s.clock d) && t.waits.any (fun w => w.1 = agent)) then
      let keep := fun (k : Ticket) => s.requester k != some agent
      let s0 := (s.agentsOf d).foldl (fun (u : State) g => u.modDie g (fun x => { x with
        monQ := x.monQ.filter keep, postQ := x.postQ.filter keep,
        chainQ := x.chainQ.map (fun (e : Nat × List Ticket) => (e.1, e.2.filter keep)) })) s
      let s1 := { s0 with
        lost := if s.lost.contains agent then s.lost else s.lost ++ [agent]
        txns := (s.txns.filter (fun (t : Txn) => t.req != agent || t.started)).map (fun (t : Txn) => { t with waits := t.waits.filter (fun w => w.1 != agent) }) }
      s1.raiseEvent d 64 (agentOfBlock b % 4) (agentOfBlock b % 4) 0x22 [agentField agent]
    else s)

/-! ### Drains and serialisation -/

/-- DRAIN_REQUEST (R256): the core starts the write-back of every dirty block whose epoch is the asked one or older. -/
def execDrainRequest (id : Nat) (s : State) : Host.Outcome State Fault Refusal :=
  .next (match s.drains.find? (fun d => d.id = id) with
  | none => s
  | some d =>
    if d.wbs.isSome then s
    else
      let upTo := (s.coreAt d.core).upTo d.epoch
      let old := fun (b : Nat) => match s.l1Block d.core b with | some x => upTo.contains x.epoch | none => false
      let t := s.startWbs d.core old
      -- write-backs of those epochs already under way are waited for too
      let ids := if upTo.isEmpty then [] else (t.wbs.filter (fun w => w.core = d.core && upTo.contains w.epoch)).map (·.id)
      { t with drains := t.drains.map (fun x => if x.id = id then { x with wbs := some ids } else x) })

/-- DRAIN_ANSWER (R256, R257): every home has acknowledged; the epochs are drained. -/
def execDrainAnswer (id : Nat) (s : State) : Host.Outcome State Fault Refusal :=
  .next (match s.drains.find? (fun d => d.id = id) with
  | none => s
  | some d =>
    match d.wbs with
    | none => s
    | some ids =>
      if s.anyWb ids then s
      else
        State.settleEpochs { s with drains := s.drains.filter (fun x => x.id != id) } d.core)

/-- SERIALISATION_REQUEST (R258): the round trip of a parked FENCE.sc, which has completed as FENCE.ar but for its drop; the order of
arrival gives S. -/
def execSerialisationRequest (w : WarpId) (s : State) : Host.Outcome State Fault Refusal :=
  .next (match s.warp w with
  | none => s
  | some x =>
    match x.park.find? (fun p => match p with | .fence _ _ .serial => true | _ => false) with
    | some (.fence o sc .serial) =>
      State.modWarp { s with scOrder := s.scOrder ++ [{ w := w, sc := sc }] } w (fun (x : Warp) => { x with
        park := x.park.map (fun p => if p = Park.fence o sc .serial then Park.fence o sc .drop else p) })
    | _ => s)

/-! ### View units, walks, reports -/

/-- VD_DROP (R232): an agent's view units drop a context's descriptor, or all of them, and answer. -/
def execVdDrop (id agent : Nat) (s : State) : Host.Outcome State Fault Refusal :=
  .next (match s.acc? id with
  | none => s
  | some a =>
    match a.kind with
    | .vinv vid agents =>
      if a.rel != .done || !agents.contains agent then s
      else
        let key := a.w.wg.dev * 64 + s.ctxOf a.w
        let hit := fun (e : (Nat × Nat) × List DWord) => e.1.1 = key && (match vid with | some i => e.1.2 = i | none => true)
        modAcc (s.modDie agent (fun d => { d with vds := d.vds.filter (fun e => !hit e) })) id
          (fun a => { a with kind := .vinv vid (agents.filter (· != agent)) })
    | _ => s)

/-- PAGE_WALK (R345, R349): a walk completes and fills the L2 TLB of the cluster and the L1 TLB of the core. -/
def execPageWalk (core ctx va : Nat) (s : State) : Host.Outcome State Fault Refusal :=
  .next (s.orWait (s.pageWalk core ctx va))

/-- DEFERRED_TRAP_REPORT (R209): the report reaches its warp. -/
def execDeferredTrapReport (id : Nat) (s : State) : Host.Outcome State Fault Refusal :=
  .next (match s.reports.find? (fun r => r.id = id) with
  | none => s
  | some r => ({ s with reports := s.reports.filter (fun x => x.id != id) }).takeTrap r.w r.t)

/-- SIBLING_HALT (R370): a halted warp stops at an issue-group boundary; a waiting trap is then entered. -/
def execSiblingHalt (w : WarpId) (s : State) : Host.Outcome State Fault Refusal :=
  .next ((s.modWarp w (fun x => { x with halt := x.halt.map (fun h => { h with stopped := true }) })).pump w.wg)

/-! ### Fills and evictions (moves of the agenda) -/

/-- A core fills a block from its agent's replica, for a load of its own that waits in that line and is not held for tokens (R356). -/
def State.fillFromReplica (s : State) (core b : Nat) : State :=
  let asked := s.accs.any (fun a => s.coreOf a.w = core && !s.throttled b (s.whoOf a.w b)
    && a.parts.any (fun p => (blocksOfLine (lineOfBlock b)).any (fun x => s.missing a p x)))
  match s.rep? (agentOfCore core) b with
  | some r => if !asked || !s.mayFill core b || s.fusedCore core then s else (s.useL2 (agentOfCore core) b none).fillBlock core b r.bytes r.hdr
  | none => s

/-- An L1 block is evicted: dirty bytes are written back. With the last dirty block of its epoch the core drains the epoch: the dirty
blocks of older epochs are written back with it (R256). -/
def State.evictL1 (s : State) (core b : Nat) : State :=
  let t := (s.startWb core b).dropL1 core b
  match s.l1Block core b with
  | none => t
  | some x =>
    if x.dirty = 0 || (t.coreAt core).l1.any (fun e => e.2.dirty != 0 && e.2.epoch = x.epoch) then t
    else
      let c := t.coreAt core
      let older := if x.epoch = c.epoch then c.closed.map (·.1) else c.upTo x.epoch
      t.startWbs core (fun b => match t.l1Block core b with | some y => older.contains y.epoch | none => false)

/-- A write-back merges into a replica that its agent already owns dirty and alone. -/
def State.mergeOwned (s : State) (id : Nat) : State :=
  match s.wbs.find? (fun w => w.id = id) with
  | none => s
  | some w =>
    let agent := agentOfCore w.core
    match s.rep? agent w.block with
    | some r => if r.owned && r.dirty && !r.shr && s.wbFirst w && !s.throttled w.block (s.whoWb w) then (s.mergeRep agent w).dropWb w else s
    | none => s

end Sys2Proof.Machine
end

