-- ==== Sys2Proof/Machine/Barriers.lean ====
section
/-! DEFINITION. Barrier objects and their updates (R322 to R331), tile-table entries (R332, R333), monitors (R334 to R336), and the wait
unit (R327). -/

namespace Sys2Proof.Machine

/-! ### The barrier object (R322, R323) -/

/-- A barrier object (Table 1). -/
structure Bar where
  phase : Nat
  exp   : Nat
  pend  : Nat
  keep  : Bool
  over_ : Bool
  b     : Nat
  l     : Nat
deriving DecidableEq, Repr

/-- The object in its 16 bytes, and back. -/
def Bar.ofNat (v : Nat) : Bar :=
  { phase := bits v 0 16, exp := bits v 16 16, pend := bits v 32 16, keep := v.testBit 48, over_ := v.testBit 49, b := bits v 64 32, l := bits v 96 32 }
def Bar.toNat (x : Bar) : Nat :=
  x.phase % 65536 + x.exp % 65536 * 2 ^ 16 + x.pend % 65536 * 2 ^ 32 + (if x.keep then 2 ^ 48 else 0) + (if x.over_ then 2 ^ 49 else 0)
    + x.b % 2 ^ 32 * 2 ^ 64 + x.l % 2 ^ 32 * 2 ^ 96

/-- The test after an update: the object, whether the phase completed, and whether more bytes landed than were expected. -/
def Bar.test (x : Bar) : Bar × Bool × Bool :=
  if x.exp != 0 && x.pend = 0 && decide (x.b ≤ x.l) then
    ({ x with over_ := x.over_ || decide (x.b < x.l), phase := (x.phase + 1) % 65536, pend := x.exp, b := if x.keep then x.b else 0, l := 0 },
     true, decide (x.b < x.l))
  else (x, false, false)

/-- An arrival of a count: reason 1 uninitialised, 2 excess. -/
def Bar.arrive (x : Bar) (n : Nat) : Except Nat Bar :=
  if x.exp = 0 then .error 1 else if x.pend < n then .error 2 else .ok { x with pend := x.pend - n }

/-- One update of a barrier: the object before the test, and whether it is tested (BINIT is not). EXPECT.arv makes its expectation, then
its arrival (R330); an error of either leaves the object as it was. -/
def Bar.update (x : Bar) : UpdKind → Except Nat (Bar × Bool)
  | .init n keep bytes => .ok ({ phase := 0, exp := n, pend := n, keep := keep, over_ := false, b := bytes, l := 0 }, false)
  | .arrive n _ => (x.arrive n).map (fun y => (y, true))
  | .fired _ => (x.arrive 1).map (fun y => (y, true))
  | .expect n arv =>
    if 2 ^ 32 ≤ x.b + n then .error 3
    else
      let y := { x with b := x.b + n }
      if arv then (y.arrive 1).map (fun z => (z, true)) else .ok (y, true)
  | .credit n => .ok (if 2 ^ 32 ≤ x.l + n then { x with l := 2 ^ 32 - 1, over_ := true } else { x with l := x.l + n }, true)
  | _ => .ok (x, false)

/-- A required phase is met (R325). -/
def metBy (phase rho : Nat) : Bool := decide ((phase + 65536 - rho % 65536) % 65536 < 32768)

/-! ### Reading and writing a barrier at its bank or home (R324) -/

/-- The 16 bytes of a barrier; the source and reason of R375 when they cannot be read. -/
def State.readBar (s : State) (w : WarpId) : BarLoc → State × Except (Nat × Nat) Nat
  | .gone => (s, .ok 0)
  | .spad g off =>
    let t := s.spadFix g off 16
    match t.wg g with
    | none => (t, .ok 0)
    | some h => if h.spadBad off 16 then (t, .error (3, 0)) else (t, .ok (h.spadRead off 16))
  | .home key =>
    let b := blockOf key
    match (s.clearFor b .hwr (s.whoOf w b)).readHome b (s.whoOf w b) .normal with
    | (t, .error e) => (t, .error e)
    | (t, .ok (x, _)) => (t, .ok (blockRead x (key % 64) 16))

def State.writeBar (s : State) (w : WarpId) (v : Nat) : BarLoc → State
  | .gone => s
  | .spad g off => s.modWg g (fun h => h.spadWrite off 16 v)
  | .home key =>
    let b := blockOf key
    s.mergeHome b (BitVec.ofNat 512 (v * 256 ^ (key % 64))) (maskAt (key % 64) 16) none (s.whoOf w b)

/-- The phase that a WAIT reads and whether the barrier is initialised. -/
def State.phaseAt (s : State) (g : WgId) (off : Nat) : Option (Nat × Bool) :=
  match s.wg g with
  | some h => if h.spadBad off 16 then none else let x := Bar.ofNat (h.spadRead off 16); some (x.phase, x.exp != 0)
  | none => none

/-- Change what a warp waits for, also where a trap has put it aside (R371). -/
def Warp.mapPark (x : Warp) (f : Park → Park) : Warp :=
  { x with park := x.park.map f, frame := { x.frame with park := x.frame.park.map f } }

/-- A completion of a barrier is signalled to every warp that waits on it: its condition is met if the new phase meets it (R327, R331). -/
def State.meetBar (s : State) (b : BarLoc) (phase : Nat) : State :=
  let f := fun (p : Park) => match p with
    | .bar l rho acq (some false) => if l = b && metBy phase rho then .bar l rho acq (some true) else p
    | p => p
  { s with wgs := s.wgs.map (fun g => { g with warps := g.warps.map (fun x => x.mapPark f) }) }

/-! ### Tile entries (R332) -/

/-- An entry in the filling state whose phase is met becomes ready. -/
def Tile.tested (t : Tile) (phase : Nat) : Tile := if t.st == .filling && metBy phase t.rho then { t with st := .ready } else t

/-- The state of an entry that a TWAIT waits for (R333). -/
def Tile.awaited (t : Tile) (drained : Bool) : Bool := if drained then t.st != .draining else t.st == .ready

/-- A change of tile entries is signalled to the warps that wait on them (R327). -/
def Wg.withTiles (h : Wg) (ts : Tab Tile) : Wg :=
  let f := fun (p : Park) => match p with
    | .tile t drained false => .tile t drained ((tabGetD ts t {}).awaited drained)
    | p => p
  { h with tiles := ts, warps := h.warps.map (fun x => x.mapPark f) }

/-- Every filling entry bound to a barrier is tested at its completion. -/
def State.testTiles (s : State) (g : WgId) (off : Nat) : State :=
  s.modWg g (fun h => h.withTiles (h.tiles.map (fun (e : Nat × Tile) =>
    if e.2.bar = off then (e.1, e.2.tested (h.spadRead off 2)) else e)))

/-- Maps that a matrix entry names. DESIGN CHOICE (log 137): MAPDEF does not name the map that it defines, so it waits for no tile and counts as
no reader. -/
def MOp.maps : MOp → List Nat
  | .tmma _ src _ _ ma _ => (match src with | .inl mb => [mb] | .inr _ => []) ++ [ma]
  | .wbld sp _ m _ _ _ => match sp with | .dense => [m] | _ => []
  | .accld _ _ _ m => [m]
  | .accst _ _ _ _ m => [m]
  | _ => []

/-- Readers of a tile entry: queued or running matrix entries that name a map bound to it. -/
def State.readers (s : State) (g : WgId) (t : Nat) : Nat :=
  match s.wg g with
  | none => 0
  | some h => ((s.coreAt h.core).mq.filter (fun e => e.w.wg = g && e.op.maps.any (fun m => match tabGet h.maps m with
      | some r => r.tile = some t | none => false))).length

/-- A draining entry with no reader left becomes empty, or with rearm filling or ready for the next phase. -/
def State.settleTiles (s : State) (g : WgId) : State :=
  s.modWg g (fun h => h.withTiles (h.tiles.map (fun (e : Nat × Tile) =>
    if e.2.st == .draining && s.readers g e.1 = 0 then
      if e.2.rearm then (e.1, { e.2 with st := .filling, rho := (e.2.rho + 1) % 65536, rearm := false }.tested (h.spadRead e.2.bar 2))
      else (e.1, {})
    else e)))

/-! ### Updates (R323, R324) -/

/-- Where an update acts: MON and MONX at the home of the word they watch. -/
def Upd.loc (u : Upd) : BarLoc := match u.kind with | .mon word _ | .monx word _ => .home (8 * word) | _ => u.bar

/-- Two places at which a warp of workgroup `own` acts in program order: in its own partition (R252), or in one 128-byte line (R251). -/
def BarLoc.near (own : WgId) : BarLoc → BarLoc → Bool
  | .spad g o, .spad g' o' => g = g' && (g = own || o / 128 = o' / 128)
  | .home k, .home k' => lineOfKey k = lineOfKey k'
  | _, _ => false

/-- An earlier update of the same warp that an update follows has not been performed. -/
def State.updBehind (s : State) (u : Upd) : Bool :=
  s.upds.any (fun v => v.w = u.w && v.cls.isSome && decide (v.id < u.id) && !v.done && v.loc.near u.w.wg u.loc)

/-- An update waits for the release it carries, for an earlier acquire of its warp, and behind the warp's earlier updates and accesses
that it follows (R251, R252). Arrivals of monitors and credits wait for nothing. -/
def State.updOrdered (s : State) (u : Upd) : Bool :=
  u.rel = .done && !u.done && (u.cls.isNone ||
    (!s.updBehind u
      && !s.accs.any (fun a => a.w = u.w && decide (a.id < u.id) && a.before u.clash)))

/-- A warp's own update of a barrier at its home also waits until the core has written back the line's dirty bytes (R214, R242). -/
def State.updReady (s : State) (u : Upd) : Bool :=
  s.updOrdered u && (match u.cls, u.bar with | some _, .home k => (s.lineClean (s.coreOf u.w) k).2 | _, _ => true)

/-- The update has been performed: one without a counter is gone. -/
def State.updDone (s : State) (u : Upd) (res : Option DWord) : State :=
  if u.cls.isNone then s.dropUpd u.id else modUpd s u.id (fun u => { u with done := true, res := res })

/-- Perform one update as one step of its barrier. -/
def State.performUpd (s : State) (u : Upd) : State :=
  match s.readBar u.w u.bar with
  | (t, .error (src, reason)) =>
    let info := { code := tMemUncorrectable, deferred := true, addr := u.va, lanes := allLanes,
                  info := [BitVec.ofNat 32 src, BitVec.ofNat 32 reason], apc := some u.pc, acc := if u.dst.isSome then some u.id else none }
    if u.dst.isSome then (t.updDone u none).defer u.w info
    else match u.cls with
      | some k => ((t.dropUpd u.id).opEnd u.w k u.id).defer u.w info
      | none => (t.dropUpd u.id).defer u.w info
  | (t, .ok v) =>
    let x := Bar.ofNat v
    let res := BitVec.ofNat 64 ((x.phase + 1) % 65536)
    match x.update u.kind with
    | .error r => (t.updDone u (some res)).defer u.w { trapAt tBarrierFault u.va [r, u.va] with apc := some u.pc }
    | .ok (y, tested) =>
      let (z, complete, over_) := if tested then y.test else (y, false, false)
      let t1 := t.writeBar u.w z.toNat u.bar
      let t2 := match complete, u.bar with | true, .spad g off => (t1.testTiles g off).meetBar u.bar z.phase | _, _ => t1
      let t3 := if over_ then
          let core := t2.coreOf u.w
          t2.raiseEvent u.w.wg.dev (t2.ctxOf u.w) (match u.bar with | .home k => agentOfKey k % 4 | .spad g _ => (match t2.wg g with | some h => agentOfCore h.core % 4 | none => 0) | .gone => 0)
            (agentOfCore core % 4) 0x07 [u.va, dieLocalCore core]
        else t2
      t3.updDone u (some res)

/-- A firing is a strong read, by the arming warp, of the write that fired it: at a home of the warp's die it brings the records of the
word's line (R257, R335). -/
def State.firedRecords (s : State) (u : Upd) : State :=
  match u.kind with
  | .fired word =>
    let b := word / 8
    if agentOfBlock b = agentOfCore (s.coreOf u.w) then s.modWarp u.w (fun (x : Warp) => { x with recs := x.recs ++ s.lineRecords b }) else s
  | _ => s

/-- Whether an update's request to its home is held for tokens (R356). -/
def State.updHeld (s : State) (u : Upd) : Bool :=
  match u.bar with | .home k => s.throttled (blockOf k) (s.whoOf u.w (blockOf k)) | _ => false

/-- Perform the update of a number if its kind is the row's and nothing holds it; the core of its warp keeps no clean copy of a line that
it writes at the home (R214, R242). An update of a barrier whose cluster group has retired is dropped: the warp that would take
SPAD_UNBACKED has retired with it (R339). -/
def State.runUpd (s : State) (id : Nat) (sel : UpdKind → Bool) : State :=
  match s.upd? id with
  | none => s
  | some u =>
    let line := match u.cls, u.bar with | some _, .home k => some k | _, _ => none
    if !(sel u.kind && s.updOrdered u) then s
    else if u.bar = .gone then s.dropUpd id
    else if s.updHeld u then s
    else if s.updReady u then
      let t := s.firedRecords u
      s.orWait (match line with | some k => (t.performUpd u).dropLine (t.coreOf u.w) k | none => t.performUpd u)
    else match line with | some k => (s.lineClean (s.coreOf u.w) k).1 | none => s

/-- BARRIER_INIT_UPDATE (R330). -/
def execBarrierInitUpdate (id : Nat) (s : State) : Host.Outcome State Fault Refusal :=
  .next (s.runUpd id (fun k => match k with | .init .. => true | _ => false))
/-- BARRIER_ARRIVAL (R323): an ARRIVE, or the arrival of a monitor that fired (R335). -/
def execBarrierArrival (id : Nat) (s : State) : Host.Outcome State Fault Refusal :=
  .next (s.runUpd id (fun k => match k with | .arrive .. | .fired _ => true | _ => false))
/-- BARRIER_EXPECTATION (R323). -/
def execBarrierExpectation (id : Nat) (s : State) : Host.Outcome State Fault Refusal :=
  .next (s.runUpd id (fun k => match k with | .expect .. => true | _ => false))
/-- BARRIER_CREDIT (R323). -/
def execBarrierCredit (id : Nat) (s : State) : Host.Outcome State Fault Refusal :=
  .next (s.runUpd id (fun k => match k with | .credit _ => true | _ => false))

/-! ### Issue (R328 to R330) -/

/-- A barrier operand: its address, and where it lies, checked in R329's order; the update is a write. ADDR_RANGE (R184) comes before MISALIGNED
here as it does for a memory access (R212; DESIGN CHOICE, log 133: R329 does not place it). -/
def State.barAt (s : State) (c : Ctx) (adr : BarAddr) : Except TrapInfo (Nat × BarLoc) :=
  let va := if adr.gl then (c.x.pairS adr.a.toNat + adr.off.signExtend 64).toNat else (c.x.readS adr.a.toNat + adr.off).toNat
  if adr.gl && decide (2 ^ 49 ≤ va) then .error (trapAt tAddrRange va [])
  else if va % 16 != 0 then .error (trapAt tMisaligned va [])
  else if !adr.gl then
    match s.spadPlace c va 16 with
    | some (g, off, _) => .ok (va, .spad g off)
    | none => .error (trapAt tSpadUnbacked va [])
  else
    match s.translateAt c.core c.ctx va with
    | .error f => .error (pageTrap va f)
    | .ok p =>
      match p.place, p.key with
      | .memory _ v _, some key =>
        if v != c.dev then .error (trapAt tSpaceFault va [])
        else if !p.writable then .error (pageTrap va (3, p.lvl))
        else .ok (va, .home key)
      | _, _ => .error (trapAt tSpaceFault va [])

/-- The translation that a global barrier's address needs, once the checks that come first hold (R184). -/
def State.warmBar (s : State) (c : Ctx) (adr : BarAddr) : State :=
  let va := (c.x.pairS adr.a.toNat + adr.off.signExtend 64).toNat
  if adr.gl && decide (va < 2 ^ 49) && va % 16 = 0 then s.warm c.core c.ctx [va] else s

/-- Put an update in flight: counted, its result reserved. -/
def State.startUpd (s : State) (c : Ctx) (kind : UpdKind) (bar : BarLoc) (va : Nat) (cls : Option CntClass) (rel : Rel) : State :=
  let (id, s1) := s.fresh
  let u : Upd := { id := id, w := c.w, kind := kind, bar := bar, va := va, cls := cls, rel := rel, pc := c.x.pc, res := none, ticket := false,
                   done := false, for_ := .none }
  let s2 := match cls with | some k => s1.opBegin c.w k id | none => s1
  let s3 := match u.dst with
    | some (d, n) => s2.modWarp c.w (fun x => (List.range n).foldl (fun (y : Warp) i => y.reserve id allLanes (.s (d + i))) x)
    | none => s2
  { s3 with upds := s3.upds ++ [u] }

def updRel (rel : Bool) (sc : Scope) : Rel := if rel then .todo sc false else .done

def barDeps (adr : BarAddr) : Deps := Deps.uni adr.a.toNat (if adr.gl then 2 else 1)

/-- BINIT (R330). -/
def execBinit (sw : Bool) (adr : BarAddr) (d : BitVec 6) (s : State) : Host.Outcome State Fault Refusal :=
  s.issue (sysMode sw) ((barDeps adr).join (Deps.uni d.toNat 2)) (fun c _ => c.x.full .store) (fun c t =>
    match t.barAt c adr with
    | .error e => .error e
    | .ok (va, bar) =>
      let p := (c.x.readS d.toNat).toNat
      if p % 65536 = 0 ∨ 2 ^ 17 ≤ p then .error (trapAt tBarrierFault va [4, va])
      else .ok (t.startUpd c (.init (p % 65536) (p.testBit 16) (c.x.readS (d.toNat + 1)).toNat) bar va (some .store) .done))
    (fun c t => t.warmBar c adr)

/-- ARRIVE (R330). -/
def execArrive (sw : Bool) (withRet rel : Bool) (sc : Scope) (count : BitVec 5) (adr : BarAddr) (d : BitVec 6) (s : State) :
    Host.Outcome State Fault Refusal :=
  let k : CntClass := if withRet then .load else .store
  s.issue (sysMode sw) (barDeps adr) (fun c _ => c.x.full k) (fun c t =>
    match t.barAt c adr with
    | .error e => .error e
    | .ok (va, bar) =>
      .ok (t.startUpd c (.arrive (count.toNat + 1) (if withRet then some d.toNat else none)) bar va (some k) (updRel rel sc)))
    (fun c t => t.warmBar c adr)

/-- EXPECT (R330). -/
def execExpect (sw : Bool) (arv rel : Bool) (sc : Option Scope) (adr : BarAddr) (d : BitVec 6) (s : State) : Host.Outcome State Fault Refusal :=
  s.issue (sysMode sw) ((barDeps adr).join (Deps.uni d.toNat 1)) (fun c _ => c.x.full .store) (fun c t =>
    match t.barAt c adr with
    | .error e => .error e
    | .ok (va, bar) =>
      .ok (t.startUpd c (.expect (c.x.readS d.toNat).toNat arv) bar va (some .store)
        (match sc with | some x => updRel (arv && rel) x | none => .done)))
    (fun c t => t.warmBar c adr)

/-- WAIT (R331): the warp parks; its barrier is read at its bank once the warp's earlier updates of it have been performed. -/
def execWait (sw : Bool) (acq : Bool) (sc : Scope) (a : BitVec 6) (off : Word) (d : BitVec 6) (s : State) : Host.Outcome State Fault Refusal :=
  s.issue (sysMode sw) ((Deps.uni a.toNat 1).join (Deps.uni d.toNat 1)) (fun _ _ => false) (fun c t =>
    match t.barAt c { gl := false, a := a, off := off } with
    | .error e => .error e
    | .ok (_, bar) =>
      .ok (t.modWarp c.w (fun (x : Warp) =>
        { x with park := .bar bar ((c.x.readS d.toNat).toNat % 65536) (if acq then some sc else none) none :: x.park })))

/-! ### Tile instructions (R333) -/

/-- A tile entry of a workgroup; RESOURCE_RANGE beyond its grant (R42). -/
def Ctx.tile (c : Ctx) (t : Nat) : Except TrapInfo Tile :=
  if c.g.tileN ≤ t then .error (trapOf tResourceRange) else .ok (tabGetD c.g.tiles t {})

def State.setTile (s : State) (g : WgId) (t : Nat) (v : Tile) : State := s.modWg g (fun h => h.withTiles (tabSet h.tiles t v))

/-- TBIND (R333). DESIGN CHOICE (log 132): of several checks that fail, the first of RESOURCE_RANGE, SPAD_UNBACKED and TILE_STATE is taken. The
entry's test takes the barrier's stored phase bytes, also from a word that is uncorrectable (DESIGN CHOICE, log 131). -/
def execTbind (sw : Bool) (t d a : BitVec 6) (s : State) : Host.Outcome State Fault Refusal :=
  s.issue (sysMode sw) ((Deps.uni a.toNat 2).join (Deps.uni d.toNat 2)) (fun _ _ => false) (fun c u =>
    match c.tile t.toNat with
    | .error e => .error e
    | .ok e =>
      let bar := (c.x.readS d.toNat).toNat
      if bar % 16 != 0 || decide (c.g.spadSize < bar + 16) then .error (trapAt tSpadUnbacked bar [])
      else if e.st != .empty then .error (trapOf tTileState)
      else
        let v : Tile := { st := .filling, base := c.x.readS a.toNat, len := c.x.readS (a.toNat + 1), bar := bar,
                          rho := (c.x.readS (d.toNat + 1)).toNat % 65536, rearm := false }
        .ok (u.setTile c.g.id t.toNat (v.tested (c.g.spadRead bar 2))))

/-- TREL (R333). -/
def execTrel (sw : Bool) (rearm : Bool) (t : BitVec 6) (s : State) : Host.Outcome State Fault Refusal :=
  s.issue (sysMode sw) {} (fun _ _ => false) (fun c u =>
    match c.tile t.toNat with
    | .error e => .error e
    | .ok e =>
      if e.st != .ready then .error (trapOf tTileState)
      else .ok ((u.setTile c.g.id t.toNat { e with st := .draining, rearm := rearm }).settleTiles c.g.id))

/-- TWAIT (R333). -/
def execTwait (sw : Bool) (drained : Bool) (t : BitVec 6) (s : State) : Host.Outcome State Fault Refusal :=
  s.issue (sysMode sw) {} (fun _ _ => false) (fun c u =>
    match c.tile t.toNat with
    | .error e => .error e
    | .ok e =>
      if !drained && e.st == .empty then .error (trapOf tTileState)
      else .ok (u.modWarp c.w (fun (x : Warp) => { x with park := .tile t.toNat drained (e.awaited drained) :: x.park })))

def TileSt.code : TileSt → Nat | .empty => 0 | .filling => 1 | .ready => 2 | .draining => 3

/-- TSTAT's status word. -/
def tileStatus (e : Tile) (readers : Nat) : Nat :=
  e.st.code + (if e.rearm then 4 else 0) + (readers % 32) * 8 + e.rho % 65536 * 65536

/-- TSTAT (R333): a result of variable latency. -/
def execTstat (sw : Bool) (t d : BitVec 6) (s : State) : Host.Outcome State Fault Refusal :=
  s.issue (sysMode sw) {} (fun _ _ => false) (fun c u =>
    match c.tile t.toNat with
    | .error e => .error e
    | .ok e =>
      let v := u.startUpd c (.tstat d.toNat) (.spad c.g.id 0) 0 none .done
      .ok (modUpd v (u.nextId + 1) (fun x => { x with done := true, res := some (BitVec.ofNat 64 (tileStatus e (u.readers c.g.id t.toNat))) })))

/-! ### Monitors (R334 to R336) -/

/-- The watched word and the barrier of MON and MONX, checked in R329's order. -/
def State.monAt (s : State) (c : Ctx) (a : BitVec 6) (bar : Word) : Except TrapInfo (Nat × BarLoc) :=
  let va := (c.x.pairS a.toNat).toNat
  let b := bar.toNat
  if 2 ^ 49 ≤ va then .error (trapAt tAddrRange va [])
  else if b % 16 != 0 then .error (trapAt tMisaligned b [])
  else match s.spadPlace c b 16 with
    | none => .error (trapAt tSpadUnbacked b [])
    | some (g, off, _) =>
      match s.translateAt c.core c.ctx va with
      | .error f => .error (pageTrap va f)
      | .ok p =>
        match p.place, p.key with
        | .memory _ v _, some key => if v != c.dev then .error (trapAt tSpaceFault va []) else .ok (key / 8, .spad g off)
        | _, _ => .error (trapAt tSpaceFault va [])

/-- The translation that a watched word's address needs, once the checks that come first hold (R184). -/
def State.warmMon (s : State) (c : Ctx) (a : BitVec 6) (bar : Word) : State :=
  let va := (c.x.pairS a.toNat).toNat
  if decide (va < 2 ^ 49) && bar.toNat % 16 = 0 && (s.spadPlace c bar.toNat 16).isSome then s.warm c.core c.ctx [va] else s

/-- MON (R334). -/
def execMon (sw : Bool) (d a : BitVec 6) (bar : Word) (s : State) : Host.Outcome State Fault Refusal :=
  s.issue (sysMode sw) (Deps.uni a.toNat 2) (fun c _ => c.x.full .load) (fun c t =>
    match t.monAt c a bar with
    | .error e => .error e
    | .ok (word, loc) => .ok (t.startUpd c (.mon word d.toNat) loc bar.toNat (some .load) .done))
    (fun c t => t.warmMon c a bar)

/-- MONX (R336). -/
def execMonx (sw : Bool) (d a : BitVec 6) (bar : Word) (s : State) : Host.Outcome State Fault Refusal :=
  s.issue (sysMode sw) (Deps.uni a.toNat 2) (fun c _ => c.x.full .load) (fun c t =>
    match t.monAt c a bar with
    | .error e => .error e
    | .ok (word, loc) => .ok (t.startUpd c (.monx word d.toNat) loc bar.toNat (some .load) .done))
    (fun c t => t.warmMon c a bar)

/-- MON and MONX follow the warp's earlier accesses and updates to the watched line (R251). -/
def State.monOrdered (s : State) (u : Upd) (word : Nat) : Bool :=
  !u.done && !s.accs.any (fun a => a.w = u.w && decide (a.id < u.id) && a.before (·.onLine (8 * word)))
  && !s.updBehind u

/-- MON reads its word at the home: the core has written back the line's dirty bytes (R214, R242). -/
def State.monReady (s : State) (u : Upd) (word : Nat) : Bool :=
  s.monOrdered u word && (match u.kind with | .mon .. => (s.lineClean (s.coreOf u.w) (8 * word)).2 | _ => true)

/-- Arm a monitor and read its word, in one step (R334); the core keeps no older copy of the line (R242, log 26). -/
def State.armMon (s : State) (u : Upd) (word : Nat) : State :=
  let b := word / 8
  match s.hrdNow b (s.whoOf u.w b) with
  | (t, .error (src, reason)) =>
    (modUpd t u.id (fun u => { u with done := true, ticket := false })).defer u.w
      { code := tMemUncorrectable, deferred := true, addr := u.va, lanes := allLanes, info := [BitVec.ofNat 32 src, BitVec.ofNat 32 reason],
        apc := some u.pc, acc := some u.id }
  | (t, .ok (x, _)) =>
    let m : Mon := { word := word, ctx := t.ctxOf u.w, w := u.w, bar := u.bar, va := u.va, pc := u.pc }
    (modUpd (t.modDie (agentOfBlock b) (fun d => { d with mons := d.mons ++ [m] })) u.id
      (fun u => { u with done := true, ticket := false, res := some (BitVec.ofNat 64 (blockRead x (8 * (word % 8)) 8)) })).dropLine (s.coreOf u.w) (8 * word)

/-- Slots of a die's monitor table in use: armed monitors of warps, and those of its management core on phase words (R302, R337). -/
def State.monSlots (s : State) (a : Nat) : Nat :=
  (s.die a).mons.length
    + ((s.dev (devOfAgent a)).launches.flatMap (fun e => e.2.watch.filter (fun w => agentOfBlock (w / 8) = a))).length

/-- A monitor request's way to the home is held for tokens (R356). -/
def State.monHeld (s : State) (u : Upd) (word : Nat) : Bool := s.throttled (word / 8) (s.whoOf u.w (word / 8))

/-- MONITOR_ARM (R334): at the word's home die; a full table, or tickets ahead, give a ticket (R337). -/
def execMonitorArm (id : Nat) (s : State) : Host.Outcome State Fault Refusal :=
  .next (s.orWait (match s.upd? id with
  | some u =>
    match u.kind with
    | .mon word _ =>
      let a := agentOfBlock (word / 8)
      if s.monHeld u word then s
      else if !s.monReady u word || u.ticket then (if s.monOrdered u word && !u.ticket then (s.lineClean (s.coreOf u.w) (8 * word)).1 else s)
      else if s.monSlots a < 4096 && (s.die a).monQ.isEmpty then s.armMon u word
      else (modUpd s id (fun u => { u with ticket := true })).modDie a (fun d => { d with monQ := d.monQ ++ [{ op := id, offered := none }] })
    | _ => s
  | none => s))

/-- MONX_HOME (R336): the oldest monitor of the context on the word and barrier is removed. -/
def execMonxHome (id : Nat) (s : State) : Host.Outcome State Fault Refusal :=
  .next (match s.upd? id with
  | some u =>
    match u.kind with
    | .monx word _ =>
      let a := agentOfBlock (word / 8)
      if s.monHeld u word || !s.monReady u word then s
      else
        let hit := fun (m : Mon) => m.word = word && m.ctx = s.ctxOf u.w && m.bar = u.bar
        let found := (s.die a).mons.find? hit
        modUpd (s.modDie a (fun d => { d with mons := match found with | some m => d.mons.erase m | none => d.mons })) id
          (fun u => { u with done := true, res := some (if found.isSome then 1 else 0) })
    | _ => s
  | none => s)

/-! ### The wait unit (R327) -/

/-- A WAIT's read of its barrier at the bank, a strong read in program order (R242, R252, R326): none while an earlier update of the warp, or
an earlier access that it must follow, is still to be performed, or an earlier acquire to complete. An uninitialised
barrier meets nothing (R331), nor does one whose word is uncorrectable: the WAIT is parked until a completion (DESIGN CHOICE, log 121: R375
and R386 name no WAIT). -/
def State.waitRead (s : State) (w : WarpId) (b : BarLoc) (rho : Nat) : Option Bool :=
  if s.upds.any (fun u => u.w = w && u.cls.isSome && !u.done && u.loc.near w.wg b) || s.accs.any (fun a => a.w = w && a.before (b.clash w.wg)) then none
  else match b with
    | .spad g off => some (match s.phaseAt g off with | some (ph, ready) => ready && metBy ph rho | none => false)
    | _ => some false

/-- Whether a park's condition holds. -/
def State.parkMet (s : State) (w : WarpId) (x : Warp) (now : Nat) : Park → Bool
  | .sw => !x.busy now
  | .cnt k n => decide (x.cnt k ≤ n)
  | .fence _ _ st => st = .ready
  | .bar b rho _ met => (match met with | none => s.waitRead w b rho | m => m) = some true
  | .tile _ _ met => met
  | .sleep _ | .slept _ => false

/-- What is left of a park after a look at its condition: a WAIT that is not met has read its barrier, and from then on only a completion
wakes it; a WAIT.acq at `.cg` goes on to its acquire (R326). -/
def State.look (s : State) (w : WarpId) (x : Warp) (now : Nat) (p : Park) : Option Park :=
  if s.parkMet w x now p then
    match p with
    | .bar _ _ (some sc) _ => if wide sc then some (Park.fence .acq sc (.acq (.todo sc x.recs))) else none
    | _ => none
  else match p with
    | .bar b rho acq none => some (.bar b rho acq (s.waitRead w b rho))
    | _ => some p

/-- WARP_WAKE (R327): the conditions that hold leave the wait unit. A WAIT that leaves it drops the core's clean copies, so that what an
engine wrote before its credit is seen (R326, log 108). -/
def execWarpWake (w : WarpId) (s : State) : Host.Outcome State Fault Refusal :=
  .next (match s.warp w with
  | none => s
  | some x =>
    let now := s.cycle w.wg.dev
    let waits := fun (p : Park) => match p with | .bar .. => true | _ => false
    let s := x.park.foldl (fun (t : State) p => match p with | .bar (.spad g off) _ _ none => t.spadFix g off 16 | _ => t) s
    let t := s.modWarp w (fun (y : Warp) => { y with park := x.park.filterMap (s.look w x now) })
    if x.park.any (fun p => waits p && s.parkMet w x now p) then t.dropClean (s.coreOf w) (fun _ => true) else t)

/-- SLEEP_EXPIRY (R381). -/
def execSleepExpiry (w : WarpId) (s : State) : Host.Outcome State Fault Refusal :=
  .next (s.modWarp w (fun (x : Warp) => { x with park := x.park.filter (fun p => match p with
    | .sleep u => !decide (u ≤ s.cycle w.wg.dev) | _ => true) }))

/-- YIELD_EXPIRY (R319). -/
def execYieldExpiry (w : WarpId) (s : State) : Host.Outcome State Fault Refusal :=
  .next (s.modWarp w (fun (x : Warp) => if x.yielding (s.cycle w.wg.dev) then x else { x with yield := none }))

/-- RESULT_WRITEBACK (R67): results of fixed latency whose cycle has come, and TSTAT's status words. -/
def execResultWriteback (w : WarpId) (s : State) : Host.Outcome State Fault Refusal :=
  .next (
    let mine := s.upds.filter (fun u => u.w = w && u.done && (match u.kind with | .tstat _ => true | _ => false))
    (mine.foldl (fun (t : State) u =>
      match u.dst with
      | some (d, _) => (t.modWarp w (fun x => (x.deliver u.id (.s d) allLanes [lo32 (u.res.getD 0)]).complete u.id)).dropUpd u.id
      | none => t) s).modWarp w (fun x => x.writeBack (s.cycle w.wg.dev)))

/-- Release work of an update in flight. -/
def State.advanceUpd (s : State) (u : Upd) : State :=
  let (t, r, _) := s.relStep u.w (s.coreOf u.w) u.id u.rel
  modUpd t u.id (fun u => { u with rel := r })

end Sys2Proof.Machine
end

