-- ==== Sys2Proof/Machine/Channels.lean ====
section
/-! DEFINITION. Channels (R267 to R284): issue of CHINIT, PUSH and POP (R272 to R277), pairing in routers (R278 to R281), the channel home
(R282, R283), completion (R275, R276), and LAUNCH (R320). -/

namespace Sys2Proof.Machine

/-! ### Handles and descriptors (R269, R270) -/

def chWindow (h : DWord) : Nat := bits h.toNat 56 8
/-- Kind: 0 POOL, 1 ORDERED, 2 TAGGED. -/
def chKindOf (h : DWord) : Nat := bits h.toNat 54 2
def chSizeCode (h : DWord) : Nat := bits h.toNat 52 2
/-- Bytes of a record. -/
def chSize (h : DWord) : Nat := 16 * 2 ^ chSizeCode h
def chVa (h : DWord) : Nat := bits h.toNat 6 43 * 64
/-- Step 1 of R274. -/
def chHandleOk (h : DWord) : Bool := bits h.toNat 49 3 = 0 && h.toNat % 64 = 0 && chKindOf h != 3 && chSizeCode h != 3
/-- The handle of a channel (Table 3). -/
def mkHandle (win kind size va : Nat) : DWord := BitVec.ofNat 64 (win % 256 * 2 ^ 56 + kind % 4 * 2 ^ 54 + size % 4 * 2 ^ 52 + va / 64 % 2 ^ 43 * 64)

/-- A descriptor as eight words (Table 2). -/
abbrev ChDesc := List Nat
def descWord (d : ChDesc) (i : Nat) : Nat := d.getD i 0
def descHead (d : ChDesc) : Nat := bits (descWord d 2) 0 32
def descTail (d : ChDesc) : Nat := bits (descWord d 2) 32 32
def descCap (d : ChDesc) : Nat := bits (descWord d 1) 16 16 + 1
/-- Records in the ring; head and tail wrap at 2^32. -/
def descCount (d : ChDesc) : Nat := (descTail d + 2 ^ 32 - descHead d) % 2 ^ 32
def descWith (d : ChDesc) (i v : Nat) : ChDesc := d.set i v
def descSetHead (d : ChDesc) (v : Nat) : ChDesc := descWith d 2 (v % 2 ^ 32 + descTail d * 2 ^ 32)
def descSetTail (d : ChDesc) (v : Nat) : ChDesc := descWith d 2 (descHead d + v % 2 ^ 32 * 2 ^ 32)
/-- VA of ring slot i. -/
def ringVa (d : ChDesc) (size i : Nat) : Nat := bits (descWord d 0) 0 49 + size * (i % descCap d)

/-! ### Places -/

/-- A 64-byte record or descriptor of a channel operation at a VA: its home key, in the domain or on a device of the non-coherent fabric (R18,
R271), otherwise reason 8. A refusal by the importing device or a read-only page is a page fault (R274, R347). -/
def State.chanPlace (s : State) (o : ChOp) (va n : Nat) : Except Nat Nat :=
  let page := match s.wg o.w.wg with
    | some g => if g.resident then s.translateAt g.core o.ctx va else s.translate o.dev o.ctx va
    | none => s.translate o.dev o.ctx va
  match page with
  | .error _ => .error 8
  | .ok p =>
    match p.farKey with
    | none => .error 8
    | some key => if p.writable && s.admitted o.dev o.ctx p n true then .ok key else .error 8

/-- The translation that an operation's descriptor or ring slot needs: at its core, or by a walk for a swapped group. -/
def State.warmChan (s : State) (o : ChOp) (va : Nat) : State :=
  if 2 ^ 49 ≤ va then s
  else match s.wg o.w.wg with
    | some g => if g.resident then s.warm g.core o.ctx [va] else s.walked (agentOfCore g.core) o.dev o.ctx va
    | none => s.walked (4 * o.dev) o.dev o.ctx va

def chWho (s : State) (o : ChOp) (key : Nat) : Who :=
  s.whoFor o.dev o.ctx (match s.wg o.w.wg with | some g => agentOfCore g.core | none => 4 * o.dev) (blockOf key)

/-- Read the descriptor at its home. -/
def State.readDesc (s : State) (o : ChOp) (key : Nat) : State × Except Nat ChDesc :=
  match s.hrdNow (blockOf key) (chWho s o key) with
  | (t, .error _) => (t, .error 8)
  | (t, .ok (x, _)) => (t, .ok ((List.range 8).map (fun i => x.toNat / 2 ^ (64 * i) % 2 ^ 64)))

/-- Whether a queued send belongs to the channel at a key. -/
def Send.onDesc (m : Send) (key ctx : Nat) : Bool := m.desc = key && m.ctx = ctx

/-- Posted receives of a channel, oldest first. "The same descriptor address" of R282 is taken at the home, as the descriptor's home key, so
two VAs of one descriptor name one channel (DESIGN CHOICE, log 124). -/
def State.postedOf (s : State) (key ctx : Nat) : List ChOp :=
  sortBy (fun (q : ChOp) => match q.loc with | .posted _ n => n | _ => 0)
    (s.chops.filter (fun q => q.ctx = ctx && (match q.loc with | .posted k _ => k = key | _ => false)))

/-- The core of an operation's warp keeps no clean copy of a line that the operation writes at its home (R242, R247). -/
def State.chanDrop (s : State) (o : ChOp) (key : Nat) : State := if (s.wg o.w.wg).isSome then s.dropLine (s.coreOf o.w) key else s

/-- Write the descriptor back with its two counts kept (R269). DESIGN CHOICE (log 145): both counts come from the home's queues, whatever software
has stored to them. -/
def State.writeDesc (s : State) (o : ChOp) (key : Nat) (d : ChDesc) : State :=
  let d := descWith d 3 (s.descCounts key o.ctx)
  (s.hwrNow (blockOf key) (BitVec.ofNat 512 ((List.range 8).foldl (fun v i => v + descWord d i % 2 ^ 64 * 2 ^ (64 * i)) 0))
    (BitVec.allOnes 64) none (chWho s o key)).chanDrop o key

/-- Why a home refuses an operation: the descriptor invalid, different from the handle, or another context's (R274). -/
def descFault (o : ChOp) (d : ChDesc) : Option Nat :=
  let w1 := descWord d 1
  if bits w1 12 1 = 0 then some 5
  else if bits w1 0 2 != chKindOf o.handle || bits w1 2 2 != chSizeCode o.handle || bits w1 4 8 != chWindow o.handle then some 6
  else if o.launch && (chKindOf o.handle != 1 || chSizeCode o.handle != 2) then some 6
  else if bits w1 32 6 != o.ctx then some 7
  else none

/-! ### Matching (R279, R282) -/

def ChKind.isPush : ChKind → Bool | .push _ => true | _ => false
def ChKind.isUnord : ChKind → Bool | .push u => u | _ => false
def ChKind.anySrc : ChKind → Bool | .popTry a _ _ _ => a | .popWait a .. => a | _ => false
def ChKind.anyTag : ChKind → Bool | .popTry _ a _ _ => a | .popWait _ a .. => a | _ => false

/-- The source and tag rule. -/
def tagMatch (srctag : Nat) (q : ChOp) : Bool :=
  (q.kind.anySrc || srctag / 2 ^ 16 = q.srctag / 2 ^ 16) && (q.kind.anyTag || srctag % 2 ^ 16 = q.srctag % 2 ^ 16)

/-- A PUSH and a POP match in a router. -/
def routerMatch (p q : ChOp) : Bool :=
  p.kind.isPush && (match q.kind with | .popTry .. | .popWait .. => true | _ => false) && p.handle = q.handle && p.ctx = q.ctx && p.dev = q.dev
    && (chKindOf p.handle = 0 || (chKindOf p.handle = 2 && p.kind.isUnord && tagMatch p.srctag q))

/-- A posted receive matches a send at the home. -/
def homeMatch (p q : ChOp) : Bool := chKindOf p.handle != 2 || tagMatch p.srctag q

/-! ### Delivery and acknowledgement -/

/-- A record, or EMPTY, is sent to the popper; a released PUSH has carried out its waits before, and the acquire follows delivery. -/
def State.deliverTo (s : State) (q : Nat) (rcd : Option (List Byte)) (srctag : Nat) : State :=
  modChop s q (fun o => { o with loc := .delivered rcd srctag })
def State.ackChop (s : State) (p : Nat) : State := modChop s p (fun o => { o with loc := .acked })

/-- An operation ends: its CHAN count and its pending registers. -/
def State.endChop (s : State) (o : ChOp) : State :=
  ((s.dropChop o.id).modWarp o.w (fun x => x.complete o.id)).opEnd o.w .chan o.id

/-- A fault found on the way or at the home: the operation is not linearised (R274, R282). -/
def State.failChop (s : State) (o : ChOp) (code : Nat) (info : List Nat) : State :=
  (s.endChop o).defer o.w { trapAt code 0 info with apc := some o.pc }

/-! ### The home (R282, R283) -/

/-- Push times of the records that a channel holds (R300). -/
def State.noteAge (s : State) (o : ChOp) (key : Nat) : State :=
  let a := agentOfKey key
  if chKindOf o.handle = 2 then s else s.modDie a (fun d => { d with age := tabSet d.age key (tabGetD d.age key [] ++ [s.clock (devOfAgent a)]) })
def State.keepAge (s : State) (key : Nat) (f : List Nat → List Nat) : State :=
  s.modDie (agentOfKey key) (fun d => { d with age := tabSet d.age key (f (tabGetD d.age key [])) })

/-- The VA of a send's place in its context's overflow-queue area: die `d` has 128·capacity bytes at the area's VA + d·128·capacity (R342). -/
def State.sendVa (s : State) (a : Nat) (m : Send) : Nat :=
  bits (s.ctxWord m.dev m.ctx 7) 0 49 + (a % 4 * bits (s.ctxWord m.dev m.ctx 0) 16 16 + m.slot) * 128

/-- The two blocks of that place, none where the area's page has no home to write in the domain of die `a`, and the device's walk for
them. -/
def State.sendBlocks (s : State) (a : Nat) (m : Send) : State × List Nat :=
  let va := s.sendVa a m
  let t := s.walked (4 * m.dev) m.dev m.ctx va
  match s.translate m.dev m.ctx va with
  | .ok p => match p.key with
    | some key => if p.writable && !s.overFabric (devOfAgent (agentOfKey key)) (devOfAgent a) then (t, [blockOf key, blockOf key + 1]) else (t, [])
    | none => (t, [])
  | .error _ => (t, [])

/-- The lowest free place of a context's overflow queue on a die. -/
def State.freeSlot (s : State) (a dev ctx : Nat) : Nat :=
  let used := ((s.die a).ovf.filter (fun m => m.dev = dev && m.ctx = ctx)).map (·.slot)
  ((List.range (used.length + 1)).find? (fun i => !used.contains i)).getD 0

/-- An overflow send is written to its place of the area; what its 128 bytes hold is not given (log 55). -/
def State.keepSend (s : State) (o : ChOp) (a : Nat) (m : Send) : State :=
  let (t, bs) := s.sendBlocks a m
  (bs.foldl (fun (u : State) b => (State.hwrNow { u with free := u.free + 8 } b (freeBlock u.free) (BitVec.allOnes 64) none
    (u.whoFor m.dev m.ctx m.agent b)).chanDrop o (keyOfBlock b)) t).modDie a (fun x => { x with ovf := x.ovf ++ [m] })

/-- An overflow send leaves the queue, read from its place of the area; false when that cannot be read. -/
def State.fetchSend (s : State) (a : Nat) (m : Send) : State × Bool :=
  let (t, bs) := s.sendBlocks a m
  let (u, ok) := bs.foldl (fun (acc : State × Bool) b =>
    match acc.1.hrdNow b (acc.1.whoFor m.dev m.ctx m.agent b) with
    | (v, .ok _) => (v, acc.2)
    | (v, .error _) => (v, false)) (t, true)
  if ok then (u.modDie a (fun x => { x with ovf := x.ovf.erase m }), true) else (u, false)

/-- Move the oldest overflow send of a channel to the ring's tail, if there is one and the ring has room. The write is made for the warp
that pushed it (R234); a fault of the ring's page, or an uncorrectable error of the area, moves nothing. -/
def State.moveUp (s : State) (o : ChOp) (key : Nat) (d : ChDesc) : Except Unit (State × ChDesc) :=
  let a := agentOfKey key
  match (s.die a).ovf.find? (fun m => m.onDesc key o.ctx) with
  | none => .ok (s, d)
  | some m =>
    if descCap d ≤ descCount d then .ok (s, d)
    else
      let va := ringVa d (chSize o.handle) (descTail d)
      let s := s.warmChan o va
      match s.chanPlace o va m.rcd.length with
      | .error _ => .error ()
      | .ok k =>
        match s.fetchSend a m with
        | (_, false) => .error ()
        | (t, true) => .ok ((t.writeHome k m.rcd (t.whoFor m.dev m.ctx m.agent (blockOf k))).chanDrop o k, descSetTail d (descTail d + 1))

/-- What a POP finds. -/
inductive PopGot where
  | got (rcd : List Byte) (srctag : Nat)
  | none
  | fault (reason : Nat)
deriving DecidableEq, Repr

/-- The oldest send of a TAGGED channel that a POP may take: ordered sends count only at the head of their sequence. -/
def firstTagged (q : ChOp) : List Send → List Nat → Option Send
  | [], _ => none
  | m :: ms, seen =>
    if m.unord then (if tagMatch m.srctag q then some m else firstTagged q ms seen)
    else if seen.contains m.srctag then firstTagged q ms seen
    else if tagMatch m.srctag q then some m else firstTagged q ms (m.srctag :: seen)

/-- Take a record for a POP from the ring or the overflow queue. DESIGN CHOICE (log 144): an overflow place that cannot be read gives the POP
CHANNEL_FAULT, reason 8. -/
def State.takeRecord (s : State) (q : ChOp) (key : Nat) (d : ChDesc) : State × ChDesc × PopGot :=
  let a := agentOfKey key
  let size := chSize q.handle
  if chKindOf q.handle != 2 then
    if descCount d = 0 then (s, d, .none)
    else
      let s := s.warmChan q (ringVa d size (descHead d))
      match s.chanPlace q (ringVa d size (descHead d)) size with
      | .error _ => (s, d, .fault 8)
      | .ok k =>
        match s.readHomeBytes k size (chWho s q k) with
        | (t, .error _) => (t, d, .fault 8)
        | (t, .ok rcd) =>
          match (t.keepAge key List.tail).moveUp q key (descSetHead d (descHead d + 1)) with
          | .ok (u, d') => (u, d', .got rcd 0)
          | .error _ => (t, d, .fault 8)
  else
    match firstTagged q ((s.die a).ovf.filter (fun m => m.onDesc key q.ctx)) [] with
    | none => (s, d, .none)
    | some m =>
      match s.fetchSend a m with
      | (t, true) => (t, d, .got m.rcd m.srctag)
      | (t, false) => (t, d, .fault 8)

/-- What a PUSH at its home ends in. -/
inductive PushGot where
  | ok | full | fault (reason : Nat)
deriving DecidableEq, Repr

/-- PUSH at the home of its channel. -/
def State.pushHome (s : State) (p : ChOp) (key : Nat) : State × PushGot :=
  match s.readDesc p key with
  | (t, .error r) => (t, .fault r)
  | (t, .ok d) =>
    match descFault p d with
    | some r => (t, .fault r)
    | none =>
      let a := agentOfKey key
      match (t.postedOf key p.ctx).find? (homeMatch p) with
      | some q => ((t.deliverTo q.id (some p.rcd) p.srctag).writeDesc p key d, .ok)
      | none =>
        if chKindOf p.handle != 2 && descCount d < descCap d then
          let t := t.warmChan p (ringVa d (chSize p.handle) (descTail d))
          match t.chanPlace p (ringVa d (chSize p.handle) (descTail d)) p.rcd.length with
          | .error _ => (t, .fault 8)
          | .ok k => ((((t.writeHome k p.rcd (chWho t p k)).chanDrop p k).noteAge p key).writeDesc p key (descSetTail d (descTail d + 1)), .ok)
        else
          let mine := ((t.die a).ovf.filter (fun m => m.dev = p.dev && m.ctx = p.ctx)).length
          if mine < bits (t.ctxWord p.dev p.ctx 0) 16 16 then
            let m : Send := {
              w := p.w, agent := (chWho t p key).agent, dev := p.dev, ctx := p.ctx, desc := key, srctag := p.srctag, unord := p.kind.isUnord, rcd := p.rcd
              slot := t.freeSlot a p.dev p.ctx }
            (((t.keepSend p a m).noteAge p key).writeDesc p key d, .ok)
          else (t, .full)

/-- Posted receives of a die. -/
def State.postedOn (s : State) (a : Nat) : Nat :=
  (s.chops.filter (fun q => match q.loc with | .posted k _ => agentOfKey k = a | _ => false)).length

/-- POP at the home of its channel; `claim` for a POP that claims the slot of its ticket. -/
def State.popHome (s : State) (q : ChOp) (key : Nat) (claim : Bool) : State :=
  let a := agentOfKey key
  match s.readDesc q key with
  | (t, .error r) => t.failChop q tChannelFault [r]
  | (t, .ok d) =>
    match descFault q d with
    | some r => t.failChop q tChannelFault [r]
    | none =>
      match t.takeRecord q key d with
      | (u, _, .fault r) => u.failChop q tChannelFault [r]
      | (u, d', .got rcd st) => (u.writeDesc q key d').deliverTo q.id (some rcd) st
      | (u, _, .none) =>
        match q.kind with
        | .popWait .. =>
          if claim || ((u.die a).postQ.isEmpty && decide (u.postedOn a < 1024)) then
            let (n, v) := u.fresh
            (modChop v q.id (fun o => { o with loc := .posted key n })).writeDesc q key d
          else (modChop u q.id (fun o => { o with loc := .ticket key })).modDie a (fun x => { x with postQ := x.postQ ++ [{ op := q.id, offered := none }] })
        | _ => u.deliverTo q.id none 0

/-- Serve queued sends and posted receives against a new descriptor (R272), which says the kind and the record size. -/
def State.serveNew (s : State) (o : ChOp) (key : Nat) (d : ChDesc) : State :=
  let fill := fun (n : Nat) (x : State × ChDesc) => (List.range n).foldl (fun (y : State × ChDesc) _ =>
    match y.1.moveUp o key y.2 with | .ok z => z | .error _ => y) x
  let n := (s.die (agentOfKey key)).ovf.length
  let x := if chKindOf o.handle = 2 then (s, d) else fill n (s, d)
  let y := (x.1.postedOf key o.ctx).foldl (fun (z : State × ChDesc) q =>
    match z.1.takeRecord { q with handle := o.handle } key z.2 with
    | (u, d', .got rcd st) => (u.deliverTo q.id (some rcd) st, d')
    | _ => z) x
  y.1.writeDesc o key y.2

/-- CHINIT at the home: words w0 to w7 whole. -/
def State.initHome (s : State) (o : ChOp) (key params storage : Nat) : State :=
  let w1 := bits params 0 12 + 2 ^ 12 + bits params 16 16 * 2 ^ 16 + o.ctx % 64 * 2 ^ 32
  let n := ((s.die (agentOfKey key)).ovf.filter (fun m => m.onDesc key o.ctx)).length
  ((s.keepAge key (fun l => l.drop (l.length - n))).serveNew o key [storage, w1, 0, 0, 0, 0, 0, 0]).ackChop o.id

/-! ### Sending (R251, R276, R277) -/

/-- Operations that their warp sends only after its earlier ones on the same descriptor line. -/
def ChOp.inOrder (o : ChOp) : Bool :=
  match o.kind with
  | .push u => chKindOf o.handle = 1 || (chKindOf o.handle = 2 && !u)
  | .chinit .. => true
  | _ => false

/-- The home line of an operation's descriptor (R251), once its page translates. -/
def State.descLine (s : State) (o : ChOp) : Option Nat :=
  match s.chanPlace o (chVa o.handle) 64 with
  | .ok key => some (lineOfKey key)
  | .error _ => none

/-- Two operations name one descriptor line. -/
def State.sameDescLine (s : State) (o p : ChOp) : Bool :=
  match s.descLine o, s.descLine p with
  | some x, some y => x = y
  | _, _ => chVa o.handle / 128 = chVa p.handle / 128

/-- An operation may be sent: its release is done, and what it must follow is acknowledged: all of them the warp's earlier accesses to the
descriptor's line, which they write (R242, R251); a POP.wait also its earlier updates of the barrier (R330). -/
def State.maySend (s : State) (o : ChOp) : Bool :=
  o.loc == .issued && o.rel == .done
    && (!o.inOrder || !s.chops.any (fun p => p.w = o.w && decide (p.id < o.id) && s.sameDescLine o p))
    && (match s.descLine o with
        | some line => !s.accs.any (fun a => a.w = o.w && decide (a.id < o.id) && !a.held && a.parts.any (·.mayReach (128 * line)))
        | none => true)
    && (match o.kind with
        | .popWait _ _ _ _ bar _ => !s.upds.any (fun u => u.w = o.w && u.cls.isSome && u.updates && decide (u.id < o.id) && !u.done && u.bar = bar)
        | _ => true)

/-! ### Routers (R278 to R281) -/

/-- Operations held in the pairing table of the meeting router of a home slice, oldest first. An entry leaves the table in the cycle of
its expiry, whatever the agenda does then. -/
def State.pairTable (s : State) (key : Nat) : List ChOp :=
  sortBy (fun (o : ChOp) => match o.loc with | .held _ _ n => n | _ => 0)
    (s.chops.filter (fun o => match o.loc with
      | .held k e _ => agentOfKey k = agentOfKey key && sliceOfKey k = sliceOfKey key && decide (s.cycle o.dev < e)
      | _ => false))

def ChOp.mayWait (o : ChOp) : Bool :=
  match o.kind with
  | .push u => chKindOf o.handle = 0 || (chKindOf o.handle = 2 && u)
  | .popTry .. | .popWait .. => chKindOf o.handle = 0 || chKindOf o.handle = 2
  | .chinit .. => false

/-- Arrival at the meeting router. -/
def State.atRouter (s : State) (o : ChOp) (key : Nat) : State :=
  let go := fun (l : ChLoc) => modChop s o.id (fun o => { o with loc := l })
  if devOfAgent (agentOfKey key) != o.dev then go (.forwarded key)
  else
    let table := s.pairTable key
    match table.find? (fun y => routerMatch o y || routerMatch y o) with
    | some y =>
      let (p, q) := if o.kind.isPush then (o, y) else (y, o)
      (s.deliverTo q.id (some p.rcd) p.srctag).ackChop p.id
    | none =>
      if o.mayWait && decide (0 < chWindow o.handle) && decide (table.length < 32) then
        let (n, s1) := s.fresh
        modChop s1 o.id (fun x => { x with loc := .held key (s.cycle o.dev + chWindow o.handle) n })
      else go (.forwarded key)

/-- ROUTER_ARRIVAL (R280): an operation that may be sent and is not held for tokens (R356), the dirty bytes of its descriptor's line written
back by its core (R214, R242), reaches its meeting router. -/
def execRouterArrival (id : Nat) (s : State) : Host.Outcome State Fault Refusal :=
  .next (match s.chop? id with
  | none => s
  | some o =>
    if !s.maySend o then s
    else
      let s0 := s.warmChan o (chVa o.handle)
      s.orWait (match s0.chanPlace o (chVa o.handle) 64 with
      | .error r => s0.failChop o tChannelFault [r]
      | .ok key =>
        let (t, clean) := s0.lineClean (s0.coreOf o.w) key
        if s0.throttled (blockOf key) (chWho s0 o key) then s
        else if clean then s0.atRouter o key else t))

/-- PAIRING_EXPIRY (R280). -/
def execPairingExpiry (id : Nat) (s : State) : Host.Outcome State Fault Refusal :=
  .next (match s.chop? id with
  | some o =>
    match o.loc with
    | .held key e _ => if e ≤ s.cycle o.dev then modChop s id (fun o => { o with loc := .forwarded key }) else s
    | _ => s
  | none => s)

/-- CHINIT_HOME (R272). -/
def execChinitHome (id : Nat) (s : State) : Host.Outcome State Fault Refusal :=
  .next (match s.chop? id with
  | some o =>
    match o.loc, o.kind with
    | .forwarded key, .chinit params storage _ => s.orWait (s.initHome o key params storage)
    | _, _ => s
  | none => s)

/-- The ring slot that a PUSH's record goes to, at once or behind the channel's overflow sends, is free of the warp's earlier accesses (R242,
R247). -/
def State.ringReady (s : State) (o : ChOp) (key : Nat) : State × Bool :=
  match (s.readDesc o key).2 with
  | .error _ => (s, true)
  | .ok d =>
    if chKindOf o.handle = 2 then (s, true)
    else
      let n := ((s.die (agentOfKey key)).ovf.filter (fun m => m.onDesc key o.ctx)).length
      match s.chanPlace o (ringVa d (chSize o.handle) (descTail d + n)) (chSize o.handle) with
      | .ok k => s.engOrder o.w o.id k
      | .error _ => (s, true)

/-- CHANNEL_PUSH_HOME (R282). -/
def execChannelPushHome (id : Nat) (s : State) : Host.Outcome State Fault Refusal :=
  .next (match s.chop? id with
  | some o =>
    match o.loc, o.kind with
    | .forwarded key, .push _ =>
      match s.ringReady o key with
      | (t, false) => t
      | (_, true) =>
        s.orWait (match s.pushHome o key with
        | (t, .ok) => t.ackChop id
        | (t, .full) => t.failChop o tChannelOverflow []
        | (t, .fault r) => t.failChop o tChannelFault [r])
    | _, _ => s
  | none => s)

/-- CHANNEL_POP_HOME (R282). -/
def execChannelPopHome (id : Nat) (s : State) : Host.Outcome State Fault Refusal :=
  .next (match s.chop? id with
  | some o =>
    match o.loc, o.kind with
    | .forwarded key, .popTry .. => s.orWait (s.popHome o key false)
    | .forwarded key, .popWait .. => s.orWait (s.popHome o key false)
    | _, _ => s
  | none => s)

/-! ### Completion (R275, R276) -/

/-- CHANNEL_ACK (R275): a PUSH, LAUNCH or CHINIT is acknowledged; CHINIT's handle becomes readable. -/
def execChannelAck (id : Nat) (s : State) : Host.Outcome State Fault Refusal :=
  .next (match s.chop? id with
  | some o =>
    if o.loc != .acked then s
    else match o.kind with
      | .push _ => s.endChop o
      | .chinit _ _ d =>
        (s.modWarp o.w (fun x => (x.deliver id (.s d) allLanes [lo32 o.handle]).deliver id (.s (d + 1)) allLanes [o.handle.extractLsb' 32 32])).endChop o
      | _ => s
  | none => s)

/-- The registers a POP.try writes. Where the status pair lies within the record group, the pair is written last and overwrites the record's
words there (DESIGN CHOICE, log 125: R275 names both and not their order). -/
def popWrites (d c : Nat) (rcd : Option (List Byte)) (srctag : Nat) : List (Nat × Word) :=
  let words := match rcd with
    | some l => (List.range (l.length / 4)).map (fun i => (d + i, BitVec.ofNat 32 (ofBytes ((l.drop (4 * i)).take 4))))
    | none => []
  words ++ [(c, if rcd.isSome then 0 else 1), (c + 1, BitVec.ofNat 32 srctag)]

/-- CHANNEL_DELIVERY (R275, R276, R284): after its acquire a record is written to the registers, or lands and credits its barrier; a
POP.wait ends once the credit is made. -/
def execChannelDelivery (id : Nat) (s : State) : Host.Outcome State Fault Refusal :=
  .next (match s.chop? id with
  | none => s
  | some o =>
    match o.loc, o.kind with
    | .delivered rcd st, .popTry _ _ d c =>
      if rcd.isSome && o.acqSt != .none then s
      else (s.modWarp o.w (fun x => (popWrites d c rcd st).foldl (fun (y : Warp) (rw : Nat × Word) => y.deliver id (.s rw.1) allLanes [rw.2]) x)).endChop o
    | .delivered (some l) st, .popWait _ _ g off bar va =>
      if o.acqSt != .none || s.aheadOf o.w id then s
      else
        let l := if chKindOf o.handle = 2 then l ++ bytesOf 16 st else l
        let s1 := s.modWg g (fun h => h.spadWrite off l.length (ofBytes l))
        let (n, s2) := s1.fresh
        let u : Upd := { id := n, w := o.w, kind := .credit l.length, bar := bar, va := va, cls := none, rel := .done, pc := o.pc, res := none,
                         ticket := false, done := false, for_ := .pop id }
        ({ s2 with upds := s2.upds ++ [u] }).ackChop id
    | .acked, .popWait .. => if s.upds.any (fun u => u.for_ == .pop id) then s else s.endChop o
    | _, _ => s)

/-- Release or acquire work of a channel operation. -/
def State.advanceChop (s : State) (o : ChOp) : State :=
  match o.loc with
  | .issued =>
    let (t, r, _) := s.relStep o.w (s.coreOf o.w) o.id o.rel
    modChop t o.id (fun o => { o with rel := r })
  | .delivered (some _) _ =>
    let (t, q) := s.acqStep (s.coreOf o.w) o.acqSt
    modChop t o.id (fun o => { o with acqSt := q })
  | _ => s

/-! ### Issue (R272 to R274, R320) -/

/-- Put a channel operation in flight. -/
def State.startChop (s : State) (c : Ctx) (kind : ChKind) (h : DWord) (rcd : List Byte) (srctag : Nat) (sc : Scope) (rel acq launch : Bool)
    (dsts : List Nat) : State :=
  let (id, s1) := s.fresh
  let o : ChOp :=
    { id := id, w := c.w, ctx := c.ctx, dev := c.dev, kind := kind, handle := h, rcd := rcd, srctag := srctag, sc := sc,
      rel := if rel then .todo sc false else .done, acq := acq, acqSt := if acq && wide sc then .todo sc [] else .none,
      loc := .issued, pc := c.x.pc, launch := launch }
  let s2 := (s1.opBegin c.w .chan id).modWarp c.w (fun x => dsts.foldl (fun (y : Warp) r => y.reserve id allLanes (.s r)) x)
  { s2 with chops := s2.chops ++ [o] }

/-- The CHANNEL_FAULT of a reason. -/
def chanTrap (r : Nat) : TrapInfo := trapAt tChannelFault 0 [r]

/-- Table 2's limits on CHINIT's parameters. -/
def chinitOk (params storage : Nat) : Bool :=
  let kind := bits params 0 2
  kind != 3 && bits params 2 2 != 3 && bits params 12 4 = 0 && decide (storage < 2 ^ 49) && storage % 64 = 0
    && (kind != 2 || (storage = 0 && bits params 16 16 = 0))

/-- CHINIT (R272). -/
def execChinit (sw : Bool) (rel : Bool) (sc : Scope) (d a b cc : BitVec 6) (off : Word) (s : State) : Host.Outcome State Fault Refusal :=
  s.issue (sysMode sw) (Deps.all [Deps.uni a.toNat 2, Deps.uni b.toNat 1, Deps.uni cc.toNat 2]) (fun c _ => c.x.full .chan) (fun c t =>
    let va := (c.x.pairS a.toNat + off.signExtend 64).toNat
    let params := (c.x.readS b.toNat).toNat
    let storage := (c.x.pairS cc.toNat).toNat
    if 2 ^ 49 ≤ va then .error (trapAt tAddrRange va [])
    else if va % 64 != 0 then .error (trapAt tMisaligned va [])
    else if (match t.translateAt c.core c.ctx va with
      | .ok p => (match p.place with | .host _ | .view .. => true | _ => false)
      | .error _ => false) then .error (trapAt tSpaceFault va [])
    else if !chinitOk params storage then .error (chanTrap 9)
    else
      .ok (t.startChop c (.chinit params storage d.toNat) (mkHandle (bits params 4 8) (bits params 0 2) (bits params 2 2) va) [] 0 sc rel false false
        [d.toNat, d.toNat + 1]))
    (fun c t =>
      let va := (c.x.pairS a.toNat + off.signExtend 64).toNat
      if decide (va < 2 ^ 49) && va % 64 = 0 then t.warm c.core c.ctx [va] else t)

/-- The bytes of a group of uniform registers, in register order. -/
def Warp.groupBytes (x : Warp) (d n : Nat) : List Byte := (List.range (n / 4)).flatMap (fun i => bytesOf 4 (x.readS (d + i)).toNat)

/-- What PUSH and POP read: the handle, with TAGGED the tag word, and `n` registers per 4 bytes of record from `d`. -/
def chanDeps (s : State) (a b : BitVec 6) (d : Option (BitVec 6)) : Deps :=
  match s.current with
  | none => {}
  | some c =>
    let h := c.x.pairS a.toNat
    Deps.all [Deps.uni a.toNat 2, if chKindOf h = 2 then Deps.uni b.toNat 1 else {},
      match d with | some r => if chHandleOk h then Deps.uni r.toNat (chSize h / 4) else {} | none => {}]

/-- Steps 1 to 3 of R274. -/
def chanCheck (h : DWord) (tagBits : Bool) (d : Option Nat) : Option Nat :=
  if !chHandleOk h then some 1
  else if chKindOf h != 2 && tagBits then some 2
  else match d with
    | some r => let n := chSize h / 4; if r % n != 0 || decide (64 < r + n) then some 3 else none
    | none => none

/-- PUSH (R273 to R276). -/
def execPush (sw : Bool) (unord rel : Bool) (sc : Scope) (d a b : BitVec 6) (s : State) : Host.Outcome State Fault Refusal :=
  s.issue (sysMode sw) (chanDeps s a b (some d)) (fun c _ => c.x.full .chan) (fun c t =>
    let h := c.x.pairS a.toNat
    match chanCheck h unord (some d.toNat) with
    | some r => .error (chanTrap r)
    | none =>
      .ok (t.startChop c (.push unord) h (c.x.groupBytes d.toNat (chSize h)) (if chKindOf h = 2 then (c.x.readS b.toNat).toNat else 0) sc rel false false []))

/-- POP.try (R273 to R276). -/
def execPopTry (sw : Bool) (anysrc anytag acq : Bool) (sc : Scope) (d a b cc : BitVec 6) (s : State) : Host.Outcome State Fault Refusal :=
  s.issue (sysMode sw) (chanDeps s a b none) (fun c _ => c.x.full .chan) (fun c t =>
    let h := c.x.pairS a.toNat
    match chanCheck h (anysrc || anytag) (some d.toNat) with
    | some r => .error (chanTrap r)
    | none =>
      .ok (t.startChop c (.popTry anysrc anytag d.toNat cc.toNat) h [] (if chKindOf h = 2 then (c.x.readS b.toNat).toNat else 0) sc false acq false
        ((List.range (chSize h / 4)).map (d.toNat + ·) ++ ((List.range 2).map (cc.toNat + ·)).filter (fun r => !(decide (d.toNat ≤ r) && decide (r < d.toNat + chSize h / 4))))))

/-- POP.wait (R273 to R276). -/
def execPopWait (sw : Bool) (anysrc anytag acq : Bool) (sc : Scope) (d a b cc : BitVec 6) (s : State) : Host.Outcome State Fault Refusal :=
  s.issue (sysMode sw) ((chanDeps s a b none).join ((Deps.uni d.toNat 1).join (Deps.uni cc.toNat 1))) (fun c _ => c.x.full .chan) (fun c t =>
    let h := c.x.pairS a.toNat
    match chanCheck h (anysrc || anytag) none with
    | some r => .error (chanTrap r)
    | none =>
      let land := (c.x.readS d.toNat).toNat
      let bar := (c.x.readS cc.toNat).toNat
      if land % 16 != 0 || bar % 16 != 0 then .error (chanTrap 4)
      else match t.spadPlace c land (chSize h + (if chKindOf h = 2 then 16 else 0)), t.spadPlace c bar 16 with
        | none, _ => .error (trapAt tSpadUnbacked land [])
        | _, none => .error (trapAt tSpadUnbacked bar [])
        | some (g, off, _), some (bg, bo, _) =>
          .ok (t.startChop c (.popWait anysrc anytag g off (.spad bg bo) bar) h [] (if chKindOf h = 2 then (c.x.readS b.toNat).toNat else 0) sc false acq
            false []))

/-- LAUNCH (R320). -/
def execLaunch (sw : Bool) (grp : BitVec 2) (s : State) : Host.Outcome State Fault Refusal :=
  let a := 16 * grp.toNat
  s.issue (sysMode sw) (Deps.uni a 16) (fun c _ => c.x.full .chan) (fun c t =>
    let w0 := (c.x.pairS a).toNat
    let h := BitVec.ofNat 64 (t.ctxWord c.dev c.ctx (8 + bits w0 56 3))
    if bits w0 50 6 != c.ctx || h = 0 then .error (trapOf tLaunchFault)
    else .ok (t.startChop c (.push false) h (c.x.groupBytes a 64) 0 .dv true false true []))

end Sys2Proof.Machine
end

