-- ==== Sys2Proof/Machine/Copies.lean ====
section
/-! DEFINITION. Copy commands (R285 to R294): CPY, CPYX and WAITCNT, the pools and engines, and the engines' accesses to memory. -/

namespace Sys2Proof.Machine

/-! ### Accesses of an engine (R288) -/

/-- Not a trap: the engine waits, for tokens (R356) or for what its write follows (R247). -/
def engineWaits : TrapInfo := trapOf 0

def unreadable (va : Nat) (e : Nat × Nat) : TrapInfo := trapAt tMemUncorrectable va [e.1, e.2]

/-- The request of a shadow line by an engine for a warp. -/
def State.engReq (s : State) (w : WarpId) (id off va : Nat) (write : Bool) : ViewReq :=
  { dev := w.wg.dev, ctx := s.ctxOf w, agent := agentOfCore (s.coreOf w), id := id, va := va, line := off / 128 * 128, write := write }

/-- A view opened for an engine (R194, R198). -/
def State.engView (s : State) (r : ViewReq) (hdrs : Bool) : State × Except TrapInfo VD :=
  match s.viewDesc r with
  | (t, .error e) => (t, .error e)
  | (t, .ok v) =>
    if !v.valid then (t, .error (r.trap tViewFault 0))
    else
    let t := t.walked v.home r.dev r.ctx v.base
    match t.viewHome r v with
    | some e => (t, .error e)
    | none =>
    if r.write && (v.readOnly || (hdrs && !v.blockPreserving)) then (t, .error (r.trap tViewRo 0))
    else (t, .ok v)

/-- One block at its home for an engine, unless its context is out of tokens there. -/
def State.engBlock (s : State) (w : WarpId) (va key : Nat) : State × Except TrapInfo (BitVec 512 × Word) :=
  let b := blockOf key
  if s.throttled b (s.whoOf w b) then (s, .error engineWaits)
  else match s.hrdNow b (s.whoOf w b) with
    | (t, .error e) => (t, .error (unreadable va e))
    | (t, .ok x) => (t, .ok x)

/-- What a global address is to an engine: a home key, in the domain or over the fabric (R18, R347), host memory, a view's pieces. -/
inductive EngPlace where
  | mem (key : Nat)
  | host (pa : Nat)
  | view (r : ViewReq) (v : VD) (off : Nat)
deriving DecidableEq, Repr

/-- Translate a global address for an engine. -/
def State.engPlace (s : State) (w : WarpId) (va n : Nat) (write hdrs : Bool) : State × Except TrapInfo EngPlace :=
  if 2 ^ 49 ≤ va then (s, .error (trapAt tAddrRange va []))
  else
  let s := s.walked (agentOfCore (s.coreOf w)) w.wg.dev (s.ctxOf w) va
  match s.translate w.wg.dev (s.ctxOf w) va with
    | .error f => (s, .error (pageTrap va f))
    | .ok p =>
      if write && !p.writable then (s, .error (pageTrap va (3, p.lvl)))
      else match p.place with
        | .host pa => if hdrs then (s, .error (trapAt tSpaceFault va [])) else (s, .ok (.host pa))
        | .view id off =>
          let r := s.engReq w id off va write
          match s.engView r hdrs with
          | (t, .error e) => (t, .error e)
          | (t, .ok v) => (t, .ok (.view r v off))
        | .memory .. | .fabric .. =>
          if !s.admitted w.wg.dev (s.ctxOf w) p n write then (s, .error (pageTrap va (5, p.lvl)))
          else match p.farKey with
            | some key => (s, .ok (.mem key))
            | none => (s, .error (pageTrap va (4, p.lvl)))

/-- Up to 8 bytes read by an engine, and whether decoding them noted a scale error. -/
def State.engRead (s : State) (w : WarpId) (va n : Nat) (hdrs : Bool) : State × Except TrapInfo (Nat × Bool) :=
  match s.engPlace w va n false hdrs with
  | (t, .error e) => (t, .error e)
  | (t, .ok (.mem key)) =>
    match t.engBlock w va key with
    | (u, .error e) => (u, .error e)
    | (u, .ok (x, _)) => (u, .ok (blockRead x (key % 64) n, false))
  | (t, .ok (.host pa)) => (t, .ok (t.hostLoad w.wg.dev pa n, false))
  | (t, .ok (.view r v off)) =>
    match t.viewPieces r v off n false with
    | (u, .error e) => (u, .error e)
    | (u, .ok ps) => ps.foldl (fun (acc : State × Except TrapInfo (Nat × Bool)) (p : Nat × Nat × Loc) =>
        match acc with
        | (s, .error e) => (s, .error e)
        | (s, .ok (sum, bad)) =>
          let put := fun (x : Nat) => sum + x % 256 ^ p.2.1 * 256 ^ p.1
          match p.2.2 with
          | .pad x => (s, .ok (put x, bad))
          | .home key =>
            match s.engBlock w va key with
            | (s', .error e) => (s', .error e)
            | (s', .ok (x, _)) => (s', .ok (put (blockRead x (key % 64) p.2.1), bad))
          | .decoded key f i sh _ =>
            match s.engBlock w va key with
            | (s', .error e) => (s', .error e)
            | (s', .ok (x, h)) => let d := decodeElement x h f i; (s', .ok (put (d.1 / 256 ^ sh), bad || d.2))
          | _ => (s, .ok (sum, bad))) (u, .ok (0, false))

/-- The block that holds an address of a typed source, its data and its header read together (R97); none where no block stands behind the
address. -/
def State.engTyped (s : State) (w : WarpId) (va : Nat) : State × Except TrapInfo (Option (BitVec 512 × Word)) :=
  match s.engPlace w va 1 false true with
  | (t, .error e) => (t, .error e)
  | (t, .ok (.mem key)) =>
    match t.engBlock w va key with
    | (u, .error e) => (u, .error e)
    | (u, .ok x) => (u, .ok (some x))
  | (t, .ok (.host _)) => (t, .ok none)
  | (t, .ok (.view r v off)) =>
    match t.viewPieces r v off 1 true with
    | (u, .error e) => (u, .error e)
    | (u, .ok ((_, _, .home key) :: _)) =>
      (match u.engBlock w va key with
       | (y, .error e) => (y, .error e)
       | (y, .ok x) => (y, .ok (some x)))
    | (u, .ok _) => (u, .ok none)

/-- The home pieces of a write through a view, gathered by base block: data and mask. -/
def gatherPieces (v : Nat) (ps : List (Nat × Nat × Loc)) : Tab (BitVec 512 × BitVec 64) :=
  ps.foldl (fun (l : Tab (BitVec 512 × BitVec 64)) p =>
    match p.2.2 with
    | .home key =>
      let o := tabGetD l (blockOf key) (0, 0)
      tabSet l (blockOf key) (blockWrite o.1 (key % 64) p.2.1 (v / 256 ^ p.1), o.2 ||| maskAt (key % 64) p.2.1)
    | _ => l) []

/-- Bytes inside one block written by an engine for operation `id`, whole with a header when one is given (R233, R235). The core of the
warp keeps no clean copy of the line (R242, R289). -/
def State.engWrite (s : State) (w : WarpId) (id va n v : Nat) (hdr : Option Word) : State × Except TrapInfo Unit :=
  let put := fun (s : State) (key n v : Nat) (h : Option Word) =>
    let b := blockOf key
    s.hwrNow b (BitVec.ofNat 512 (v % 256 ^ n * 256 ^ (key % 64))) (maskAt (key % 64) n) h (s.whoOf w b)
  let full := fun (s : State) (key : Nat) => s.throttled (blockOf key) (s.whoOf w (blockOf key))
  match s.engPlace w va n true hdr.isSome with
  | (t, .error e) => (t, .error e)
  | (t, .ok (.mem key)) =>
    let (u, clean) := t.engOrder w id key
    if full u key || !clean then (u, .error engineWaits) else ((put u key n v hdr).dropLine (s.coreOf w) key, .ok ())
  | (t, .ok (.host pa)) => (t.hostStore w.wg.dev pa n v, .ok ())
  | (t, .ok (.view r d off)) =>
    match t.viewPieces r d off (if hdr.isSome then 1 else n) hdr.isSome with
    | (u, .error e) => (u, .error e)
    | (u, .ok ps) =>
      let keys := ps.filterMap (fun p => match p.2.2 with | .home key => some key | _ => none)
      let (u, clean) := keys.foldl (fun (x : State × Bool) key => let (y, ok) := x.1.engOrder w id key; (y, x.2 && ok)) (u, true)
      if keys.any (full u) || !clean then (u, .error engineWaits)
      else
        let y := if hdr.isSome then keys.foldl (fun (s : State) key => put s key 64 v hdr) u
          else (gatherPieces v ps).foldl (fun (s : State) (e : Nat × BitVec 512 × BitVec 64) =>
            s.hwrNow e.1 e.2.1 e.2.2 none (s.whoOf w e.1) d.blockPreserving) u
        (keys.foldl (fun (s : State) key => s.dropLine (s.coreOf w) key) y, .ok ())

/-! ### The command (R285) -/

/-- A copy command: its words w0 to w7. -/
abbrev Cc := List DWord

def ccSrc (c : Cc) : Nat := bits (wordOf c 0) 0 49
def ccSrcSp (c : Cc) : Bool := bits (wordOf c 0) 49 1 = 1
def ccSrcTyped (c : Cc) : Bool := bits (wordOf c 0) 50 1 = 1
def ccFs (c : Cc) : Nat := bits (wordOf c 0) 52 4
def ccFd (c : Cc) : Nat := bits (wordOf c 0) 56 4
def ccDst (c : Cc) : Nat := bits (wordOf c 1) 0 49
def ccDstSp (c : Cc) : Bool := bits (wordOf c 1) 49 1 = 1
def ccDstTyped (c : Cc) : Bool := bits (wordOf c 1) 50 1 = 1
def ccTr (c : Cc) : Bool := bits (wordOf c 1) 51 1 = 1
def ccSat (c : Cc) : Bool := bits (wordOf c 1) 52 1 = 1
def ccScaled (c : Cc) : Bool := bits (wordOf c 1) 55 1 = 1
def ccSteal (c : Cc) : Bool := bits (wordOf c 1) 56 1 = 1
def ccCredit (c : Cc) : Bool := bits (wordOf c 1) 57 1 = 1
def ccNx (c : Cc) : Nat := bits (wordOf c 4) 0 32
def ccNy (c : Cc) : Nat := bits (wordOf c 4) 32 32
def ccSp (c : Cc) : Nat := bits (wordOf c 5) 0 32
def ccDp (c : Cc) : Nat := bits (wordOf c 5) 32 32
def ccScale (c : Cc) : Nat := bits (wordOf c 6) 0 16
def ccFill (c : Cc) : Nat := bits (wordOf c 6) 16 16
def ccBar (c : Cc) : Nat := bits (wordOf c 6) 32 32
/-- Rounding mode of a two-bit code (R88). -/
def rmOf : Nat → Rm | 0 => .rn | 1 => .rz | 2 => .rd | _ => .ru
def ccRm (c : Cc) : Rm := rmOf (bits (wordOf c 1) 53 2)
/-- Width of an element of a format, raw for 0. -/
def ccWidth (c : Cc) (f : Nat) : Nat :=
  if f = 0 then 8 * 2 ^ bits (wordOf c 0) 60 2 else match Fmt.ofCode f with | some x => x.width | none => 8
def ccWs (c : Cc) : Nat := ccWidth c (ccFs c)
def ccWd (c : Cc) : Nat := ccWidth c (ccFd c)
/-- Elements of a destination row. -/
def ccRow (c : Cc) : Nat := if ccTr c then ccNy c else ccNx c
def ccRowBytes (c : Cc) : Nat := ccRow c * ccWd c / 8
/-- Bytes that an element of a width needs for alignment. -/
def elemBytes (w : Nat) : Nat := max 1 (w / 8)

/-- Word 7 with the issuing warp that the device writes into it, its reserved bits kept (Table 6). -/
def ccStamp (core warp : Nat) (w : BitVec 64) : BitVec 64 :=
  w &&& 0xFFFFFFFFFFFF00C0 ||| BitVec.ofNat 64 (core % 256 * 256 + warp % 64)

/-- The checks of R286. -/
def ccOk (c : Cc) : Bool :=
  let raw : Bool := ccFs c = 0
  bits (wordOf c 7) 6 2 = 0 && bits (wordOf c 7) 16 48 = 0 &&
  bits (wordOf c 0) 51 1 = 0 && bits (wordOf c 0) 62 2 = 0 && bits (wordOf c 1) 58 6 = 0
    && decide (ccFs c ≤ 10) && decide (ccFd c ≤ 10) && ((ccFd c = 0) == raw) && (raw || bits (wordOf c 0) 60 2 = 0)
    && (!raw || (!ccDstTyped c && !ccScaled c))
    && decide (1 ≤ ccNx c) && decide (ccNx c ≤ 65536) && decide (1 ≤ ccNy c) && decide (ccNy c ≤ 65536)
    && ccRow c * ccWd c % 8 = 0 && decide (ccRowBytes c ≤ ccDp c)
    && ccSrc c % elemBytes (ccWs c) = 0 && ccSp c % elemBytes (ccWs c) = 0
    && ccDst c % elemBytes (ccWd c) = 0 && ccDp c % elemBytes (ccWd c) = 0
    && (!ccDstTyped c || (ccDst c % 64 = 0 && ccDp c % 64 = 0 && ccRowBytes c % 64 = 0))
    && (!ccScaled c || (ccScale c != 0 && (sc16Value (ccScale c)).isSome))
    && (!ccSrcSp c || bits (wordOf c 0) 32 17 = 0) && (!ccDstSp c || bits (wordOf c 1) 32 17 = 0)
    && decide (ccFill c < 2 ^ ccWd c) && (if ccCredit c then ccBar c % 16 = 0 else ccBar c = 0)

/-- Elements of the region. Element `e` has column `e % nx` and row `e / nx`. -/
def ccElems (c : Cc) : Nat := ccNx c * ccNy c
/-- Elements of a run of the destination: a destination row, or all of the rows where they follow each other without a gap, so that a block
which the command fills by several rows is written whole (R288, log 60). -/
def ccRun (c : Cc) : Nat := if ccDp c = ccRowBytes c then ccElems c else ccRow c
def ccRunBytes (c : Cc) : Nat := ccRun c * ccWd c / 8
/-- Blocks that a run may touch. -/
def ccRunUnits (c : Cc) : Nat := ccRunBytes c / 64 + 2
def ccUnits (c : Cc) : Nat := ccElems c / ccRun c * ccRunUnits c
/-- Unit `u` of writing, what one run of the destination has in one 64-byte block: its address and its bytes, none where the run does not
reach the block. With the typed destination it is the whole block (R286, R290). -/
def ccUnitAt (c : Cc) (u : Nat) : Nat × Nat :=
  let a := ccDst c + u / ccRunUnits c * ccDp c
  let b := (a / 64 + u % ccRunUnits c) * 64
  let lo := max a b
  (lo, min (a + ccRunBytes c) (b + 64) - lo)
/-- The elements of a unit, in the order of their destination addresses. -/
def ccUnitElems (c : Cc) (u : Nat) : List Nat :=
  let r := u / ccRunUnits c
  let (a, n) := ccUnitAt c u
  let q := r * ccRun c + (a - (ccDst c + r * ccDp c)) * 8 / ccWd c
  (List.range (8 * n / ccWd c)).map (fun k =>
    let (y, x) := ((q + k) / ccRow c, (q + k) % ccRow c)
    if ccTr c then x * ccNx c + y else y * ccNx c + x)
/-- The unit of element `e`. -/
def ccUnitOf (c : Cc) (e : Nat) : Nat :=
  let q := if ccTr c then e % ccNx c * ccRow c + e / ccNx c else e
  let a := ccDst c + q / ccRun c * ccDp c
  q / ccRun c * ccRunUnits c + ((a + q % ccRun c * ccWd c / 8) / 64 - a / 64)

/-- The command as the sixteen words of `%fcmd`. -/
def ccWords (c : Cc) : List Word := c.flatMap (fun w => [lo32 w, w.extractLsb' 32 32])

/-! ### Issue (R291, R292) -/

def State.poolCount (s : State) (cluster : Nat) : Nat :=
  (s.copies.filter (fun o => o.cluster = cluster && o.engine.isNone)).length + (s.convs.filter (fun o => o.cluster = cluster && o.engine.isNone)).length

/-- What an engine's command waits for: the warp's earlier scratchpad stores, and its earlier updates of a credited barrier (R288, R330). -/
def State.engineWait (s : State) (w : WarpId) (bar : Option BarLoc) : List Nat :=
  (s.accs.filter (fun a => a.w = w && a.writes && a.parts.any (fun p => !p.done && (match p.loc with | .spad .. => true | _ => false)))).map (·.id)
    ++ (s.upds.filter (fun u => u.w = w && u.cls.isSome && u.updates && !u.done && some u.bar = bar)).map (·.id)

/-- Accesses of a warp to scratchpads and host memory that are not performed: an engine's accesses follow them (R242, R247, R248). -/
def State.engineAfter (s : State) (w : WarpId) : List Nat :=
  (s.accs.filter (fun a => a.w = w && a.parts.any (·.ahead))).map (·.id)

/-- What an engine's command waits for is over. An access that only TRET completes has been performed (R375). -/
def State.engineReady (s : State) (before : List Nat) : Bool :=
  !s.accs.any (fun a => before.contains a.id && !a.held && (a.writes || a.parts.any (·.ahead)))
    && !s.upds.any (fun u => before.contains u.id && !u.done)

/-- The location of a scratchpad barrier as a warp reads its address. -/
def State.spadBar (s : State) (c : Ctx) (a : Nat) : Option BarLoc := (s.spadPlace c a 16).map (fun p => .spad p.1 p.2.1)

/-- CPY and CPYX. DESIGN CHOICE (log 143): COPY_FAULT comes before an unbacked address, and of those the first of source, destination, row list,
column list and barrier is reported. -/
def copyIssue (sw : Bool) (grp : BitVec 2) (deps : Deps) (lists : Ctx → Option CopyLists) (s : State) : Host.Outcome State Fault Refusal :=
  let a := 16 * grp.toNat
  s.issue (sysMode sw) ((Deps.uni a 16).join deps) (fun c t => c.x.full .copy || decide (64 ≤ t.poolCount (clusterOfCore c.core))) (fun c t =>
    let ws := c.x.wordsS a 7 ++ (c.x.wordsS (a + 14) 1).map (ccStamp (dieLocalCore c.core) c.w.warp)
    let l := lists c
    let fail : TrapInfo := { trapAt tCopyFault 0 [] with cmd := ccWords ws }
    let iw := match l with | some x => if x.wide then 4 else 2 | none => 2
    let row := l.bind (·.row)
    let col := l.bind (·.col)
    let unaligned := fun (x : Option Nat) => match x with | some v => v % iw != 0 | none => false
    let unbacked := fun (v n : Nat) => (t.spadPlace c v n).isNone
    let bad := fun (x : Option Nat) (n : Nat) => match x with | some v => if unbacked v (n * iw) then some v else none | none => none
    let spad := [if ccSrcSp ws && unbacked (ccSrc ws) (elemBytes (ccWs ws)) then some (ccSrc ws) else none,
      if ccDstSp ws && unbacked (ccDst ws) (elemBytes (ccWd ws)) then some (ccDst ws) else none,
      bad row (ccNy ws), bad col (ccNx ws), if ccCredit ws && unbacked (ccBar ws) 16 then some (ccBar ws) else none]
    if !ccOk ws || unaligned row || unaligned col then .error fail
    else match spad.filterMap id with
      | v :: _ => .error (trapAt tSpadUnbacked v [])
      | [] =>
        let (id, t1) := t.fresh
        let o : CopyOp :=
          { id := id, w := c.w, cluster := clusterOfCore c.core, pc := c.x.pc, words := ws, lists := l,
            before := t.engineWait c.w (if ccCredit ws then t.spadBar c (ccBar ws) else none) ++ t.engineAfter c.w, engine := none, next := 0, done := false, fault := none,
            scaleErr := false }
        let t2 := t1.opBegin c.w .copy id
        .ok { t2 with copies := t2.copies ++ [o] })

/-- CPY (R291). -/
def execCpy (sw : Bool) (grp : BitVec 2) (s : State) : Host.Outcome State Fault Refusal := copyIssue sw grp {} (fun _ => none) s

/-- CPYX (R291, R292). -/
def execCpyx (sw : Bool) (grp : BitVec 2) (d : BitVec 6) (row col wide : Bool) (s : State) : Host.Outcome State Fault Refusal :=
  copyIssue sw grp (Deps.uni d.toNat 2) (fun c =>
    some { row := if row then some (c.x.readS d.toNat).toNat else none, col := if col then some (c.x.readS (d.toNat + 1)).toNat else none, wide := wide }) s

/-- WAITCNT (R294): the warp parks until the counter is low enough. -/
def execWaitcnt (sw : Bool) (cls : CntClass) (n : BitVec 12) (s : State) : Host.Outcome State Fault Refusal :=
  s.issueWarp (sysMode sw) {} (fun _ y => { y with park := .cnt cls n.toNat :: y.park })

/-! ### Engines and stealing (R293) -/

/-- The oldest element of a list by operation number. -/
def oldestCopy (l : List CopyOp) : Option CopyOp :=
  l.foldl (fun (best : Option CopyOp) o => match best with | some b => if o.id < b.id then some o else best | none => some o) none

/-- Clusters of the same die at most two in-plane hops away, in round-robin order from the one after `last` (cluster number in the die). -/
def stealFrom (cluster last : Nat) : List Nat :=
  let base := cluster / 36 * 36
  let c := cluster % 36
  let dist := fun (a b : Nat) => (a - b) + (b - a)
  ((List.range 36).map (fun i => (last + 1 + i) % 36)).filterMap (fun d =>
    let h := dist (d % 6) (c % 6) + dist (d / 6) (c / 6)
    if h = 1 ∨ h = 2 then some (base + d) else none)

/-- COPY_TAKE (R293): a free engine takes its pool's oldest command, or steals. -/
def execCopyTake (cluster engine : Nat) (s : State) : Host.Outcome State Fault Refusal :=
  .next (
    let me := cluster * 8 + engine
    if 8 ≤ engine || s.copies.any (fun o => o.engine = some me) then s
    else
      let pool := fun (c : Nat) => s.copies.filter (fun o => o.cluster = c && o.engine.isNone)
      let take := fun (s : State) (o : CopyOp) => modCopy s o.id (fun o => { o with engine := some me })
      match oldestCopy (pool cluster) with
      | some o => take s o
      | none =>
        match (stealFrom cluster (s.cluster cluster).steal).find? (fun c => (pool c).any (fun o => ccSteal o.words)) with
        | none => s
        | some c =>
          match oldestCopy ((pool c).filter (fun o => ccSteal o.words)) with
          | some o => (take s o).modCluster cluster (fun k => { k with steal := c % 36 })
          | none => s)

/-! ### The transfer (R287, R292) -/

/-- A scratchpad address read or written for a warp. -/
def State.spadFor (s : State) (w : WarpId) (a n : Nat) : Except TrapInfo (WgId × Nat) :=
  match s.ctxFor w with
  | none => .error (trapAt tSpadUnbacked a [])
  | some c => match s.spadPlace c a n with | some (g, off, _) => .ok (g, off) | none => .error (trapAt tSpadUnbacked a [])

/-- `n` bytes of a scratchpad address, and the header of its block. -/
def State.spadTake (s : State) (w : WarpId) (a n : Nat) : State × Except TrapInfo (Nat × Word) :=
  match s.spadFor w a n with
  | .error e => (s, .error e)
  | .ok (g, off) =>
    let t := s.spadFix g off n
    match t.wg g with
    | none => (t, .error (trapAt tSpadUnbacked a []))
    | some h => (t, if h.spadBad off n then .error (unreadable a (3, 0)) else .ok (h.spadRead off n, tabGetD h.hdrs (off / 64) 0))

/-- An entry of an index list. -/
def State.copyIndex (s : State) (o : CopyOp) (l : Option Nat) (k plain : Nat) : State × Except TrapInfo Nat :=
  match l with
  | none => (s, .ok plain)
  | some a =>
    let iw := match o.lists with | some x => if x.wide then 4 else 2 | none => 2
    let (t, r) := s.spadTake o.w (a + k * iw) iw
    (t, r.map (·.1))

/-- Source coordinates (sx, sy) of element (i, j), through the lists of a CPYX (R287, R292). -/
def State.copyAt (s : State) (o : CopyOp) (i j : Nat) : State × Except TrapInfo (Nat × Nat) :=
  let c := o.words
  match s.copyIndex o (o.lists.bind (·.row)) j (bits (wordOf c 3) 32 32 + j) with
  | (t, .error e) => (t, .error e)
  | (t, .ok sy) =>
    match t.copyIndex o (o.lists.bind (·.col)) i (bits (wordOf c 3) 0 32 + i) with
    | (u, .error e) => (u, .error e)
    | (u, .ok sx) => (u, .ok (sx, sy))

/-- Bit address of a source element; none outside the source's extents. -/
def ccSrcBit (c : Cc) (sx sy : Nat) : Option Nat :=
  if bits (wordOf c 2) 0 32 ≤ sx || bits (wordOf c 2) 32 32 ≤ sy then none
  else some (8 * (ccSrc c + sy * ccSp c) + sx * ccWs c)

/-- Convert a source code (R287): the destination code, and whether a scale error is noted. -/
def ccConvert (c : Cc) (h : Word) (code : Nat) : Nat × Bool :=
  match Fmt.ofCode (ccFs c), Fmt.ofCode (ccFd c) with
  | some fs, some fd =>
    let (v, e) := blockValue (if ccSrcTyped c then h else 0) fs code
    let v := if ccScaled c then (match sc16Value (ccScale c) with | some x => v.div x | none => v) else v
    let out :=
      if fd.isFloat then roundTo fd v (ccRm c) (ccSat c)
      else
        let (lo, hi) : Int × Int := match fd with | .s8 => (-128, 127) | .n8 => (0, 255) | _ => (-8, 7)
        (toIntClamped v (ccRm c) lo hi % (2 ^ fd.width : Nat)).toNat
    (out, e)
  | _, _ => (code, false)

/-- The typed block of global memory in which the source of element (i, j) stands, if there is one. -/
def State.copyBlock (s : State) (o : CopyOp) (i j : Nat) : State × Except TrapInfo (Option (BitVec 512 × Word)) :=
  let c := o.words
  if ccSrcSp c || !ccSrcTyped c || ccFs c = 0 then (s, .ok none)
  else match s.copyAt o i j with
    | (t, .error e) => (t, .error e)
    | (t, .ok (sx, sy)) =>
      match ccSrcBit c sx sy with
      | none => (t, .ok none)
      | some bit => t.engTyped o.w (bit / 8)

/-- The destination code of element (i, j), and whether a scale error is noted; `hand` is the typed source block that the engine has read. -/
def State.copyElem (s : State) (o : CopyOp) (hand : Option (BitVec 512 × Word)) (i j : Nat) : State × Except TrapInfo (Nat × Bool) :=
  let c := o.words
  match s.copyAt o i j with
  | (s, .error e) => (s, .error e)
  | (s, .ok (sx, sy)) =>
    match ccSrcBit c sx sy with
    | none => (s, .ok (ccFill c, false))
    | some bit =>
      let a := bit / 8
      let n := elemBytes (ccWs c)
      let code := fun (v : Nat) => v / 2 ^ (if ccWs c = 4 then bit % 8 else 0) % 2 ^ ccWs c
      let conv := fun (v : Nat) (h : Word) (bad : Bool) => if ccFs c = 0 then (code v, bad) else let r := ccConvert c h (code v); (r.1, r.2 || bad)
      if ccSrcSp c then
        match s.spadTake o.w a n with
        | (t, .error e) => (t, .error e)
        | (t, .ok (v, h)) => (t, .ok (conv v h false))
      else match hand with
        | some (x, h) => (s, .ok (conv (blockRead x (a % 64) n) h false))
        | none =>
          match s.engRead o.w a n (ccSrcTyped c && ccFs c != 0) with
          | (t, .error e) => (t, .error e)
          | (t, .ok (v, bad)) => (t, .ok (conv v 0 bad))

/-- Write one unit of the destination, with its header when it is typed; otherwise a scratchpad block becomes untyped (R287). -/
def State.copyWrite (s : State) (o : CopyOp) (u v : Nat) : State × Except TrapInfo Unit :=
  let c := o.words
  let (a, n) := ccUnitAt c u
  let hdr := if ccDstTyped c then some (normHdr (mkHdr (if ccScaled c then ccScale c else 0x7F00) 0 (ccFd c))) else none
  if ccDstSp c then
    match s.spadFor o.w a n with
    | .error e => (s, .error e)
    | .ok (g, off) =>
      (s.modWg g (fun h => let h' := h.spadWrite off n v
        { h' with hdrs := match hdr with | some x => tabSet h'.hdrs (off / 64) x | none => tabErase h'.hdrs (off / 64) }), .ok ())
  else s.engWrite o.w o.id a n v hdr

/-- COPY_FAULT of a command: the underlying trap, the element and the command (R290, Table 5). -/
def CopyOp.trap (o : CopyOp) (e : TrapInfo) (i j : Nat) : TrapInfo :=
  { trapAt tCopyFault e.addr [e.code, i, j, 0] with deferred := true, base := e.base, cmd := ccWords o.words, apc := some o.pc }

/-- A command that is on an engine and may go on. -/
def State.copyRuns (s : State) (o : CopyOp) : Bool := o.engine.isSome && !o.done && o.fault.isNone && s.engineReady o.before

/-- The command ends with a trap at an element; an engine that only waits goes on later. -/
def State.copyFails (t : State) (o : CopyOp) (x : TrapInfo) (e : Nat) : State :=
  if x.code = 0 then t else modCopy t o.id (fun p => { p with fault := some (o.trap x (e % ccNx o.words) (e / ccNx o.words)) })

/-- The elements that one read forms: the element, and with a typed source every element of its block still to be formed, so that a header
and its elements are read together (R97). -/
def State.copyGroup (s : State) (o : CopyOp) (e : Nat) : List Nat :=
  let c := o.words
  let block := fun (e : Nat) => match (s.copyAt o (e % ccNx c) (e / ccNx c)).2 with
    | .ok (sx, sy) => (ccSrcBit c sx sy).map (· / 512)
    | .error _ => none
  if !ccSrcTyped c || ccFs c = 0 then [e]
  else match block e with
    | none => [e]
    | some b => e :: (List.range (ccElems c)).filter (fun x => x != e && block x = some b)

/-- An element is not formed yet, and its unit is not written. -/
def CopyOp.wants (o : CopyOp) (e : Nat) : Bool :=
  decide (e < ccElems o.words) && (tabGet o.got e).isNone && !o.wrote.testBit (ccUnitOf o.words e)

/-- Move.copyRead: an engine reads a source element and forms its destination code (R287); elements are read in any order (log 60). A typed
block is read once for all of its elements, or not at all (R97). -/
def State.copyRead (s : State) (id e : Nat) : State :=
  match s.copy? id with
  | none => s
  | some o =>
    if !s.copyRuns o || !o.wants e then s
    else
      s.orWait (match s.copyBlock o (e % ccNx o.words) (e / ccNx o.words) with
        | (t, .error x) => t.copyFails o x e
        | (t, .ok hand) =>
          (((s.copyGroup o e).filter o.wants).foldl (fun (acc : State × Bool) e =>
            if acc.2 then acc
            else match acc.1.copyElem o hand (e % ccNx o.words) (e / ccNx o.words) with
              | (t, .error x) => (t.copyFails o x e, true)
              | (t, .ok (code, bad)) => (modCopy t id (fun o => { o with got := tabSet o.got e code, scaleErr := o.scaleErr || bad }), false)) (t, false)).1)

/-- Move.copyWrite: an engine writes a unit whose elements have all been formed (R287, R290). -/
def State.copyStep (s : State) (id u : Nat) : State :=
  match s.copy? id with
  | none => s
  | some o =>
    let es := ccUnitElems o.words u
    if !s.copyRuns o || decide (ccUnits o.words ≤ u) || es.isEmpty || o.wrote.testBit u || es.any (fun e => (tabGet o.got e).isNone) then s
    else
      let v := es.zipIdx.foldl (fun v (ei : Nat × Nat) => v + tabGetD o.got ei.1 0 * 2 ^ (ei.2 * ccWd o.words)) 0
      s.orWait (match s.copyWrite o u v with
        | (t, .error x) => t.copyFails o x (es.headD 0)
        | (t, .ok _) => modCopy t id (fun o => { o with next := o.next + es.length, wrote := o.wrote ||| 2 ^ u, got := es.foldl tabErase o.got }))

/-! ### The end of a command (R289, R290) -/

/-- The command on an engine. -/
def State.copyOn (s : State) (cluster engine : Nat) : Option CopyOp := s.copies.find? (fun o => o.engine = some (cluster * 8 + engine))

/-- One SCALE_ERROR event for a command that noted one (R287), whatever shadow lines of a decoding view it read (DESIGN CHOICE, log 126:
the last paragraph under R209 counts an access's events by shadow lines). -/
def State.copyScale (s : State) (o : CopyOp) : State := if o.scaleErr then s.scaleError o.w (agentOfCluster o.cluster % 4) o.pc else s

/-- COPY_COMPLETE (R289): with every element written, the credit is sent; once it is made, COPY falls in issue order. -/
def execCopyComplete (cluster engine : Nat) (s : State) : Host.Outcome State Fault Refusal :=
  .next (match s.copyOn cluster engine with
  | none => s
  | some o =>
    let c := o.words
    if o.fault.isSome || decide (o.next < ccElems c) then s
    else if o.done then
      if s.upds.any (fun u => u.for_ == .copy o.id) then s else (s.dropCopy o.id).opEnd o.w .copy o.id
    else
      let t := s.copyScale o
      match (if ccCredit c then (t.ctxFor o.w).bind (fun x => t.spadBar x (ccBar c)) else none) with
      | none => (t.dropCopy o.id).opEnd o.w .copy o.id
      | some bar =>
        let (n, t1) := t.fresh
        let u : Upd := { id := n, w := o.w, kind := .credit (ccNx c * ccNy c * ccWd c / 8), bar := bar, va := ccBar c, cls := none, rel := .done,
                         pc := o.pc, res := none, ticket := false, done := false, for_ := .copy o.id }
        modCopy { t1 with upds := t1.upds ++ [u] } o.id (fun o => { o with done := true }))

/-- COPY_ABORT (R290): a faulted command ends; its count goes with the trap. -/
def execCopyAbort (cluster engine : Nat) (s : State) : Host.Outcome State Fault Refusal :=
  .next (match s.copyOn cluster engine with
  | none => s
  | some o =>
    match o.fault with
    | none => s
    | some t => (((s.copyScale o).dropCopy o.id).opEnd o.w .copy o.id).defer o.w t)

end Sys2Proof.Machine
end

