-- ==== Sys2Proof/Machine/Matrix.lean ====
section
/-! DEFINITION. The matrix engine (R152 to R179): operand maps, panels, the issue of queue entries, their steps, the touchstone. -/

namespace Sys2Proof.Machine

/-! ### Map records (R159 to R161) -/

/-- A map record: its four words. -/
abbrev MapWords := List Word

def mapWord (m : MapWords) (i : Nat) : Nat := (m.getD i 0).toNat
def mapBase (m : MapWords) : Nat := mapWord m 0
def mapPitch (m : MapWords) : Nat := bits (mapWord m 1) 0 16
def mapChunks (m : MapWords) : Nat := bits (mapWord m 1) 16 12
def mapFmt (m : MapWords) : Nat := bits (mapWord m 2) 0 8
def mapMn (m : MapWords) : Bool := (mapWord m 2).testBit 8
def mapTyped (m : MapWords) : Bool := (mapWord m 2).testBit 9
def mapSwz (m : MapWords) : Bool := bits (mapWord m 2) 10 2 = 1
def mapP (m : MapWords) : Nat := bits (mapWord m 2) 12 3
def widthOf (code : Nat) : Nat := match Fmt.ofCode code with | some f => f.width | none => 8
def mapW (m : MapWords) : Nat := widthOf (mapFmt m)

/-- Table 3's limits. -/
def mapOk (m : MapWords) : Bool :=
  mapBase m % 64 = 0 && mapPitch m != 0 && mapPitch m % 64 = 0 && mapChunks m != 0 && bits (mapWord m 1) 28 4 = 0
    && decide (1 ≤ mapFmt m) && decide (mapFmt m ≤ 10) && decide (bits (mapWord m 2) 10 2 ≤ 1)
    && (if mapSwz m then decide (1 ≤ mapP m) && decide (mapP m ≤ 4) else mapP m = 0)
    && bits (mapWord m 2) 15 17 = 0 && mapWord m 3 = 0

/-- Chunk length Kc of a width (Table 1). -/
def kcOf (w : Nat) : Nat := if w = 32 then 8 else if w = 16 then 32 else if w = 8 then 64 else 128

/-- Rows and run of a use (Table 4). -/
def mapShape (m : MapWords) (tile : Bool) : Nat × Nat :=
  if tile then (64, 64)
  else
    let k := mapChunks m * kcOf (mapW m)
    if mapMn m then (k, 64) else (64, k)

def mapRowBytes (m : MapWords) (tile : Bool) : Nat := (mapShape m tile).2 * mapW m / 8
def mapBytes (m : MapWords) (tile : Bool) : Nat := ((mapShape m tile).1 - 1) * mapPitch m + mapRowBytes m tile

/-- `map_addr` as an offset from the base: byte, and for 4-bit elements the nibble (R160). -/
def mapAddr (m : MapWords) (r x : Nat) : Nat × Nat :=
  let o := x * mapW m / 8
  let o := if mapSwz m then 64 * (o / 64 ^^^ r % 2 ^ mapP m) + o % 64 else o
  (r * mapPitch m + o, x % 2)

/-- A map in use: its record and the place of its base. -/
structure MapUse where
  words : MapWords
  g     : WgId
  off   : Nat
deriving DecidableEq, Repr

/-- What a check of a use finds wrong. -/
structure UseErr where
  unbacked : Option Nat := none
  format   : Bool := false
deriving DecidableEq, Repr

def UseErr.join (a b : UseErr) : UseErr := { unbacked := a.unbacked.or b.unbacked, format := a.format || b.format }
/-- SPAD_UNBACKED comes before MATRIX_FORMAT (R156). -/
def UseErr.trap (e : UseErr) : Option TrapInfo :=
  match e.unbacked with
  | some a => some (trapAt tSpadUnbacked a [])
  | none => if e.format then some (trapOf tMatrixFormat) else none

/-- The geometry check of R161. -/
def State.mapErr (s : State) (c : Ctx) (m : Nat) (tile : Bool) : UseErr :=
  match tabGet c.g.maps m with
  | none => { format := true }
  | some r =>
    let rb := mapRowBytes r.words tile
    { unbacked := if (s.spadPlace c (mapBase r.words) (mapBytes r.words tile)).isNone then some (mapBase r.words) else none
      format := decide (mapPitch r.words < rb) || (mapSwz r.words && rb % (64 * 2 ^ mapP r.words) != 0) }

/-- A map of a workgroup as an entry that runs uses it. -/
def State.mapUse (s : State) (c : Ctx) (m : Nat) (tile : Bool) : Option MapUse :=
  match tabGet c.g.maps m with
  | none => none
  | some r => (s.spadPlace c (mapBase r.words) (mapBytes r.words tile)).map (fun p => { words := r.words, g := p.1, off := p.2.1 })

/-! ### Panels (R167 to R171) -/

/-- Values kept of each group of 16 (dense: none). -/
def sparseN : Sparse → Nat | .dense => 0 | .sp2 => 2 | .sp4 => 4 | .sp8 => 8

/-- Payload bytes of a record (Table 7). -/
def recordQ (sp : Sparse) (w : Nat) : Nat :=
  match sp with
  | .dense => kcOf w * w / 8
  | _ => kcOf w / 16 * (2 + sparseN sp * w / 8)

/-- Bytes of a panel with its header. -/
def panelBytes (sp : Sparse) (fmt c : Nat) : Nat := 64 + 64 * c * (4 + recordQ sp (widthOf fmt))
def Panel.size (p : Panel) : Nat := panelBytes p.sp p.fmt p.c
/-- A panel is valid once all its records are written. -/
def Panel.whole (p : Panel) : Bool := decide (p.size ≤ 64 + p.bytes.length)

/-- Number held by `n` bytes of a list. -/
def bytesAt (l : List Byte) (o n : Nat) : Nat := ofBytes ((l.drop o).take n)

/-- `expand` of R170 over the positions of a group. -/
def expandGroup (mask : Nat) (vals : List Nat) : List Nat → Nat → List Nat
  | [], _ => []
  | pos :: rest, n =>
    if mask.testBit pos && decide (n < vals.length) then vals.getD n 0 :: expandGroup mask vals rest (n + 1)
    else 0 :: expandGroup mask vals rest n

/-- The Kc codes of a record's payload. -/
def recordCodes (sp : Sparse) (w : Nat) (payload : List Byte) : List Nat :=
  let v := fun (l : List Byte) (n : Nat) => let x := ofBytes l; (List.range n).map (fun i => x / 2 ^ (w * i) % 2 ^ w)
  match sp with
  | .dense => v payload (kcOf w)
  | _ =>
    let n := sparseN sp
    let gb := 2 + n * w / 8
    (List.range (kcOf w / 16)).flatMap (fun g =>
      let grp := (payload.drop (g * gb)).take gb
      expandGroup (bytesAt grp 0 2) (v (grp.drop 2) n) (List.range 16) 0)

/-- What an element of a format is where it depends on a word that could not be read: NaN, or 0 of an integer format (R386). -/
def Fmt.lost : Fmt → Xreal | .s8 | .n8 | .s4 => xzero false | _ => .nan

/-- Expanded elements of a record that depend on bytes that could not be read, `bad` telling of a byte's offset in the record: all of them on the
header, those of a group on its position mask, each on its own value (R168 to R170, R386). -/
def recordLost (sp : Sparse) (w : Nat) (payload : List Byte) (bad : Nat → Bool) : List Bool :=
  let kc := kcOf w
  if (List.range 4).any bad then List.replicate kc true
  else
    let value := fun (at_ i : Nat) => (List.range (max 1 (w / 8))).any (fun b => bad (at_ + w * i / 8 + b))
    match sp with
    | .dense => (List.range kc).map (value 4)
    | _ =>
      let n := sparseN sp
      let gb := 2 + n * w / 8
      (List.range (kc / 16)).flatMap (fun g =>
        let at_ := 4 + g * gb
        if bad at_ || bad (at_ + 1) then List.replicate 16 true
        else (expandGroup (bytesAt payload (g * gb) 2) ((List.range n).map (fun i => if value (at_ + 2) i then 1 else 0)) (List.range 16) 0).map (· = 1))

/-- Column j of chunk c of a panel: exact values, and whether a scale error is noted. -/
def Panel.column (p : Panel) (c j : Nat) : List Xreal × Bool :=
  let w := widthOf p.fmt
  let q := recordQ p.sp w
  let rec_ := (p.bytes.drop ((64 * c + j) * (4 + q))).take (4 + q)
  match Fmt.ofCode p.fmt with
  | none => ([], false)
  | some f =>
    let h : Word := BitVec.ofNat 32 (bytesAt rec_ 0 4)
    let vs := (recordCodes p.sp w (rec_.drop 4)).map (blockValue h f)
    let vals := vs.map (·.1)
    (if p.lost.isEmpty then vals else vals.zipIdx.map (fun v => if p.lost.contains ((64 * c + j) * kcOf w + v.2) then f.lost else v.1), vs.any (·.2))

/-! ### Checks of an entry (R158, R161, R164, R171, R174) -/

def isStoreFmt (f : Nat) : Bool := decide (1 ≤ f) && decide (f ≤ 6)

/-- The checks made at issue, and again when an entry begins to run. -/
def State.entryErr (s : State) (c : Ctx) (op : MOp) : UseErr :=
  let words := fun (m : Nat) => (tabGet c.g.maps m).map (·.words)
  match op with
  | .tmma _ src sparse _ ma _ =>
    let a := s.mapErr c ma false
    match src with
    | .inl mb =>
      let differ := match words ma, words mb with
        | some x, some y => mapW x != mapW y || mapChunks x != mapChunks y
        | _, _ => false
      (a.join (s.mapErr c mb false)).join { format := differ }
    | .inr off =>
      let bad := match tabGet c.g.panels off, words ma with
        | some p, some x => !p.whole || ((p.sp != .dense) != sparse) || widthOf p.fmt != mapW x || p.c != mapChunks x
        | none, _ => true
        | _, none => false
      a.join { format := bad }
  | .wbld sp fmt m off src n =>
    match sp with
    | .dense =>
      let e := s.mapErr c m false
      match words m with
      | none => e
      | some x => e.join { format := off % 64 != 0 || decide (262144 < off + panelBytes .dense (mapFmt x) (mapChunks x)) || mapMn x }
    | _ =>
      let len := panelBytes sp fmt n - 64
      { unbacked := if n != 0 && (s.spadPlace c src len).isNone then some src else none
        format := off % 64 != 0 || decide (262144 < off + panelBytes sp fmt n) || src % 4 != 0 || n = 0 }
  | .accld _ _ _ m => s.mapErr c m true
  | .accst _ _ scale _ m =>
    let f := match words m with | some x => !isStoreFmt (mapFmt x) | none => false
    let sc := match scale with | some v => v % 65536 = 0 || (sc16Value v).isNone | none => false
    (s.mapErr c m true).join { format := f || sc }
  | .mapdef _ ws _ => { format := !mapOk ws }
  | _ => {}

/-! ### Issue (R153 to R156) -/

/-- Tile entries bound to the maps an entry names. -/
def Ctx.boundTiles (c : Ctx) (op : MOp) : List Tile :=
  op.maps.filterMap (fun m => (tabGet c.g.maps m).bind (fun r => r.tile.map (fun t => tabGetD c.g.tiles t {})))

/-- Accumulator tiles, maps, tile entries and indices of an entry beyond their counts (R42, R176). -/
def Ctx.inRange (c : Ctx) (op : MOp) : Bool :=
  let t := fun (n : Nat) => decide (n < c.g.accN)
  let m := fun (n : Nat) => decide (n < c.g.mapN)
  match op with
  | .mapdef x _ b => m x && (match b with | some i => decide (i < c.g.tileN) | none => true)
  | .tmma _ src _ n ma _ => t n && m ma && (match src with | .inl mb => m mb | .inr _ => true)
  | .wbld sp _ x _ _ _ => sp != .dense || m x
  | .wbinv _ | .ttest _ => true
  | .accz n => t n
  | .accld _ _ n x => t n && m x
  | .accst _ _ _ n x => t n && m x
  | .accsc _ n _ _ => t n
  | .accadd _ _ n _ _ => t n
  | .accrd _ n e _ _ => t n && decide (e < 64)
  | .accwr _ n e _ _ => t n && decide (e < 64)

/-- An entry joins the queue at its tail, but before the entries that higher quadrants have issued in the same cycle (R154). -/
def joinQueue (l : List MEntry) (e : MEntry) : List MEntry :=
  let after := fun (x : MEntry) => match x.came, e.came with
    | some a, some b => !x.running && a.1 = b.1 && decide (b.2 < a.2)
    | _, _ => false
  l.takeWhile (fun x => !after x) ++ e :: l.dropWhile (fun x => !after x)

/-- Issue a queue entry; `op` reads the operands in the context. -/
def State.matIssue (s : State) (sw : Bool) (deps : Deps) (op : Ctx → MOp) (dst : Option Dst) : Host.Outcome State Fault Refusal :=
  s.issue (sysMode sw) deps
    (fun c t => c.x.full .mat || decide (16 ≤ (t.coreAt c.core).mq.length) || (c.boundTiles (op c)).any (fun e => e.st == .filling || e.st == .draining))
    (fun c t =>
      let o := op c
      if !c.inRange o then .error (trapOf tResourceRange)
      else if (c.boundTiles o).any (fun e => e.st == .empty) then .error (trapOf tTileState)
      else match (t.entryErr c o).trap with
        | some e => .error e
        | none =>
          if (t.coreAt c.core).fenced = 15 then .error (trapOf tMatrixUnavailable)
          else
            let (id, t1) := t.fresh
            let e : MEntry := { id := id, w := c.w, op := o, pc := c.x.pc, before := t.engineWait c.w none ++ t.engineAfter c.w, running := false, next := 0,
                                resumed := false, scaleErr := false, badWord := false, test := none, came := some (c.now, quadOf c.g c.w.warp) }
            let t2 := t1.opBegin c.w .mat id
            let t3 := match dst with
              | none => t2
              | some d => t2.modWarp c.w (fun x => (dstRegs 1 d).foldl (fun (y : Warp) r => y.reserve id (if isUniform d then allLanes else c.x.lanes) r) x)
            .ok (t3.modCore c.core (fun k => { k with mq := joinQueue k.mq e })))

def uniV (c : Ctx) (r : BitVec 6) : Nat := (c.x.readS r.toNat).toNat

/-- MAPDEF (R162). -/
def execMapdef (sw : Bool) (bind : Option (BitVec 6)) (m : BitVec 4) (a : BitVec 6) (s : State) : Host.Outcome State Fault Refusal :=
  s.matIssue sw (Deps.uni a.toNat 4) (fun c => .mapdef m.toNat ((List.range 4).map (fun i => c.x.readS (a.toNat + i))) (bind.map (·.toNat))) none

/-- TMMA (R164). -/
def execTmma (sw : Bool) (mode : MmaMode) (wb : Bool) (t : BitVec 3) (ma mb : BitVec 4) (d a : BitVec 6) (s : State) : Host.Outcome State Fault Refusal :=
  s.matIssue sw ((if mode == .scale then Deps.uni d.toNat 1 else {}).join (if wb then Deps.uni a.toNat 1 else {}))
    (fun c => .tmma mode (if wb then .inr (uniV c a) else .inl mb.toNat) false t.toNat ma.toNat (if mode == .scale then c.x.readS d.toNat else 0)) none

/-- TMMAS (R164). -/
def execTmmas (sw : Bool) (mode : MmaMode) (t : BitVec 3) (ma : BitVec 4) (d a : BitVec 6) (s : State) : Host.Outcome State Fault Refusal :=
  s.matIssue sw ((if mode == .scale then Deps.uni d.toNat 1 else {}).join (Deps.uni a.toNat 1))
    (fun c => .tmma mode (.inr (uniV c a)) true t.toNat ma.toNat (if mode == .scale then c.x.readS d.toNat else 0)) none

/-- WBLD (R171). -/
def execWbld (sw : Bool) (sp : Sparse) (fmt : Byte) (m : BitVec 4) (d a : BitVec 6) (n : BitVec 13) (s : State) : Host.Outcome State Fault Refusal :=
  s.matIssue sw ((Deps.uni d.toNat 1).join (if sp == .dense then {} else Deps.uni a.toNat 1))
    (fun c => .wbld sp fmt.toNat m.toNat (uniV c d) (if sp == .dense then 0 else uniV c a) n.toNat) none

/-- WBINV (R172). -/
def execWbinv (sw : Bool) (all : Bool) (d : BitVec 6) (s : State) : Host.Outcome State Fault Refusal :=
  s.matIssue sw (if all then {} else Deps.uni d.toNat 1) (fun c => .wbinv (if all then none else some (uniV c d))) none

/-- ACCZ (R173). -/
def execAccz (sw : Bool) (t : BitVec 3) (s : State) : Host.Outcome State Fault Refusal := s.matIssue sw {} (fun _ => .accz t.toNat) none

/-- ACCLD (R174). -/
def execAccld (sw : Bool) (rm : Rm) (sat : Bool) (t : BitVec 3) (m : BitVec 4) (s : State) : Host.Outcome State Fault Refusal :=
  s.matIssue sw {} (fun _ => .accld rm sat t.toNat m.toNat) none

/-- ACCST (R174). -/
def execAccst (sw : Bool) (rm : Rm) (sat scl : Bool) (t : BitVec 3) (m : BitVec 4) (d : BitVec 6) (s : State) : Host.Outcome State Fault Refusal :=
  s.matIssue sw (if scl then Deps.uni d.toNat 1 else {}) (fun c => .accst rm sat (if scl then some (uniV c d % 65536) else none) t.toNat m.toNat) none

/-- ACCSC (R175). -/
def execAccsc (sw : Bool) (rm : Rm) (t : BitVec 3) (a : BitVec 8) (k : Marker) (s : State) : Host.Outcome State Fault Refusal :=
  s.matIssue sw (Deps.src 1 (.v a k)) (fun c => .accsc rm t.toNat c.x.lanes (c.x.readV a.toNat)) none

/-- ACCADD (R175). -/
def execAccadd (sw : Bool) (rm : Rm) (row : Bool) (t : BitVec 3) (a : BitVec 8) (k : Marker) (s : State) : Host.Outcome State Fault Refusal :=
  s.matIssue sw (Deps.src 1 (.v a k)) (fun c => .accadd rm row t.toNat c.x.lanes (c.x.readV a.toNat)) none

/-- ACCRD (R176). -/
def execAccrd (sw : Bool) (col : Bool) (t : BitVec 3) (d : BitVec 8) (a : BitVec 6) (n : Word) (s : State) : Host.Outcome State Fault Refusal :=
  s.matIssue sw ((Deps.uni a.toNat 1).join (Deps.dst 1 (.v d))) (fun c => .accrd col t.toNat (uniV c a + n.toNat) d.toNat c.x.lanes) (some (.v d))

/-- ACCWR (R176). -/
def execAccwr (sw : Bool) (col : Bool) (t : BitVec 3) (d : BitVec 6) (a : BitVec 8) (k : Marker) (n : Word) (s : State) : Host.Outcome State Fault Refusal :=
  s.matIssue sw ((Deps.uni d.toNat 1).join (Deps.src 1 (.v a k)))
    (fun c => .accwr col t.toNat (uniV c d + n.toNat) c.x.lanes (c.x.readV a.toNat)) none

/-- TTEST (R179). -/
def execTtest (sw : Bool) (d : BitVec 6) (s : State) : Host.Outcome State Fault Refusal := s.matIssue sw {} (fun _ => .ttest d.toNat) (some (.s d))

/-! ### The queue (R154, R158, R166) -/

/-- The entries of a workgroup that is to be saved have stopped: they take no further step, and the queue goes on with the others (R166). They
run on while a register result of the workgroup is still to come from the queue, or a handler with masked traps holds the save (R157, R359). -/
def State.mqStops (s : State) (core : Nat) (g : Wg) : Bool :=
  g.st == .stopping && (g.halted || !g.warps.any (fun x => !x.done && x.handler && x.masked))
    && !(s.coreAt core).mq.any (fun e => e.w.wg = g.id && (match e.op with | .accrd .. | .ttest _ => true | _ => false))

/-- The head of a core's queue: the first entry that no stop holds. -/
def State.matHead (s : State) (core : Nat) : Option MEntry :=
  (s.coreAt core).mq.find? (fun e => !(s.wg e.w.wg).any (s.mqStops core))
def State.modEntry (s : State) (core id : Nat) (f : MEntry → MEntry) : State :=
  s.modCore core (fun k => { k with mq := k.mq.map (fun e => if e.id = id then f e else e) })

/-- An entry leaves the queue: its result register stops pending, its MAT count falls, readers of tile entries are counted again. -/
def State.endEntry (s : State) (core : Nat) (e : MEntry) : State :=
  (((s.modCore core (fun k => { k with mq := k.mq.filter (fun x => x.id != e.id) })).modWarp e.w (fun x => x.complete e.id)).opEnd e.w .mat e.id).settleTiles
    e.w.wg

/-- Events of an entry that ends: at most one SCALE_ERROR, and MEM_ERROR for an uncorrectable word, whose address the manual does not
state (R156, R386). -/
def State.entryEvents (s : State) (e : MEntry) (se bad : Bool) : State :=
  let die := agentOfCore (s.coreOf e.w) % 4
  let s1 := if se then s.scaleError e.w die e.pc else s
  if bad then
    { s1 with free := s1.free + 2 }.raiseEvent e.w.wg.dev (s1.ctxOf e.w) die die 0x04
      [(Config.freeWord s1.free).toNat, 0xFF, (Config.freeWord (s1.free + 1)).toNat]
  else s1

/-- An entry ends in a deferred trap (R158, R178), with the events that its steps have noted. -/
def State.failEntry (s : State) (core : Nat) (e : MEntry) (t : TrapInfo) : State :=
  ((s.endEntry core e).entryEvents e e.scaleErr e.badWord).defer e.w { t with deferred := true, apc := some e.pc }

def MOp.isTmma : MOp → Bool | .tmma .. => true | _ => false

/-- Chunks of an entry that runs in steps: TMMA, TMMAS and WBLD. -/
def State.entrySteps (_ : State) (c : Ctx) (op : MOp) : Nat :=
  let words := fun (m : Nat) => (tabGet c.g.maps m).map (·.words)
  match op with
  | .tmma _ _ _ _ ma _ => match words ma with | some x => mapChunks x | none => 0
  | .wbld sp _ m _ _ n => match sp with | .dense => (match words m with | some x => mapChunks x | none => 0) | _ => n
  | _ => 0

/-- A touchstone run is due at a step boundary (R177). -/
def State.touchDue (s : State) (core : Nat) : Bool := decide ((s.dev (devOfCore core)).regs.interval ≤ (s.coreAt core).steps)

/-- MATRIX_ENTRY_START (R158): the head begins to run once the scratchpad stores before it have completed, in a later cycle than it entered
(R154); it is checked again unless it is resumed, and ends at once if it fails. -/
def execMatrixEntryStart (core : Nat) (s : State) : Host.Outcome State Fault Refusal :=
  .next (match s.matHead core with
  | none => s
  | some e =>
    if e.running || !s.engineReady e.before || e.came.any (fun x => x.1 = s.cycle (devOfCore core)) then s
    else match s.ctxFor e.w with
      | none => s
      | some c =>
        if e.op.isTmma && (s.coreAt core).fenced = 15 then s.failEntry core e (trapOf tMatrixUnavailable)
        else match (if e.resumed then none else (s.entryErr c e.op).trap) with
          | some t => s.failEntry core e t
          | none => s.modEntry core e.id (fun e => { e with running := true }))

/-! ### Elements (R160, R386) -/

/-- The code of an element of a map, and the header it is decoded through. -/
def MapUse.code (u : MapUse) (h : Wg) (r x : Nat) : Nat × Word :=
  let (o, nib) := mapAddr u.words r x
  let w := mapW u.words
  let v := h.spadRead (u.off + o) (elemBytes w)
  (if w = 4 then v / 16 ^ nib % 16 else v, if mapTyped u.words then tabGetD h.hdrs ((u.off + o) / 64) 0 else 0)

/-- An element of a map: its exact value, whether a scale error is noted, and whether a word of it is uncorrectable. -/
def MapUse.elem (u : MapUse) (h : Wg) (r x : Nat) : Xreal × Bool × Bool :=
  let (code, hdr) := u.code h r x
  match Fmt.ofCode (mapFmt u.words) with
  | none => (.nan, false, false)
  | some f => let b := blockValue hdr f code; (b.1, b.2, h.spadBad (u.off + (mapAddr u.words r x).1) (elemBytes (mapW u.words)))

/-- Reading elements of a map rebuilds the failing words among them (R386). -/
def State.fixMap (s : State) (u : MapUse) (es : List (Nat × Nat)) : State :=
  match s.wg u.g with
  | none => s
  | some h =>
    if h.spadErr.isEmpty then s
    else es.foldl (fun (t : State) (e : Nat × Nat) => t.spadFix u.g (u.off + (mapAddr u.words e.1 e.2).1) (elemBytes (mapW u.words))) s

/-- Row and run indices that a step of an operand reads. -/
def MapUse.stepElems (u : MapUse) (step : Nat) : List (Nat × Nat) :=
  let kc := kcOf (mapW u.words)
  (List.range 64).flatMap (fun n => (List.range kc).map (fun q => if mapMn u.words then (step * kc + q, n) else (n, step * kc + q)))

/-- An operand's `kc` elements of one chunk for row or column n: values, scale error, uncorrectable. -/
def MapUse.vector (u : MapUse) (h : Wg) (step n : Nat) : List Xreal × Bool × Bool :=
  let kc := kcOf (mapW u.words)
  let es := (List.range kc).map (fun q => let k := step * kc + q; if mapMn u.words then u.elem h k n else u.elem h n k)
  (es.map (·.1), es.any (fun e => e.2.1), es.any (fun e => e.2.2))

/-! ### Accumulators (R163) -/

def accKey (i j : Nat) : Nat := 64 * i + j
def Wg.accAt (g : Wg) (t i j : Nat) : Word := tabGetD (g.acc.getD t []) (accKey i j) 0
/-- A whole tile from a function of its elements: elements that are 0 are not listed. -/
def tileOf (f : Nat → Nat → Word) : Tab Word :=
  (List.range 4096).filterMap (fun k => let v := f (k / 64) (k % 64); if v = 0 then none else some (k, v))
def State.setTileAcc (s : State) (g : WgId) (t : Nat) (f : Nat → Nat → Word) : State := s.modWg g (fun h => { h with acc := h.acc.set t (tileOf f) })

/-! ### Steps (R164, R171) -/

/-- One step of TMMA or TMMAS on workgroup `h`: the new tile, whether a scale error is noted, and whether a word was uncorrectable. -/
def tmmaStepOf (h : Wg) (a : MapUse) (ha : Wg) (b : Nat → List Xreal × Bool × Bool) (mode : MmaMode) (t step : Nat) (alpha : Word) :
    (Nat → Nat → Word) × Bool × Bool :=
  let rows := (List.range 64).map (a.vector ha step)
  let cols := (List.range 64).map b
  let val := fun (i j : Nat) =>
    let x := rows.getD i ([], false, false)
    let y := cols.getD j ([], false, false)
    if x.2.2 || y.2.2 then nan32
    else
      let old := decodeFp32 (h.accAt t i j)
      let c := if step != 0 then old else match mode with
        | .acc => old
        | .zero => xzero false
        | .scale => old.mul (decodeFp32 alpha)
      chunkSum c (List.zipWith Xreal.mul x.1 y.1)
  (val, rows.any (fun x => x.2.1) || cols.any (fun x => x.2.1), rows.any (fun x => x.2.2) || cols.any (fun x => x.2.2))

/-- What the next step of a running TMMA or WBLD reads: failing words of its maps are rebuilt, and a panel that has left the weight buffer
is reloaded (R354, R386). -/
def State.fixOperands (s : State) (core : Nat) (e : MEntry) : State :=
  match s.ctxFor e.w with
  | none => s
  | some c =>
    if !e.running then s
    else
      let fix := fun (t : State) (m : Nat) (tile : Bool) => match t.mapUse c m tile with | some u => t.fixMap u (u.stepElems e.next) | none => t
      match e.op with
      | .tmma _ src _ _ ma _ =>
        if s.touchDue core then s
        else
          let t := fix s ma false
          (match src with
           | .inl mb => fix t mb false
           | .inr off => t.usePanel core e.w.wg off)
      | .wbld .dense _ m _ _ _ =>
        (match s.mapUse c m false with
         | some u => let kc := kcOf (mapW u.words)
           s.fixMap u ((List.range 64).flatMap (fun j => (List.range kc).map (fun q => (j, e.next * kc + q))))
         | none => s)
      | .wbld sp fmt _ _ src n =>
        let len := 64 * (4 + recordQ sp (widthOf fmt))
        (match s.spadPlace c src (panelBytes sp fmt n - 64) with
         | some (g, o, _) => s.spadFix g (o + e.next * len) len
         | none => s)
      | .accld _ _ _ m =>
        (match s.mapUse c m true with
         | some u => s.fixMap u ((List.range 4096).map (fun k => if mapMn u.words then (k % 64, k / 64) else (k / 64, k % 64)))
         | none => s)
      | _ => s

/-- TMMA_STEP (R164): one chunk of the running TMMA or TMMAS; all 4,096 results are written together. -/
def execTmmaStep (core : Nat) (s : State) : Host.Outcome State Fault Refusal :=
  .next (s.orWait (match s.matHead core with
  | none => s
  | some e =>
    let s := s.fixOperands core e
    match s.ctxFor e.w, e.op with
    | some c, .tmma mode src _ t ma alpha =>
      if !e.running || s.touchDue core || decide (s.entrySteps c e.op ≤ e.next) then s
      else match s.mapUse c ma false with
        | none => s
        | some a =>
          let col : Option (Nat → List Xreal × Bool × Bool) := match src with
            | .inl mb => match s.mapUse c mb false with
              | some u => (s.wg u.g).map (fun hb => u.vector hb e.next)
              | none => none
            | .inr off => (tabGet c.g.panels off).map (fun p => fun j => let v := p.column e.next j; (v.1, v.2, false))
          match s.wg a.g, col with
          | some ha, some b =>
            let (f, se, bad) := tmmaStepOf c.g a ha b mode t e.next alpha
            (((s.setTileAcc e.w.wg t f).modEntry core e.id (fun e => { e with next := e.next + 1, scaleErr := e.scaleErr || se, badWord := e.badWord || bad })).modCore
              core (fun k => { k with steps := k.steps + 1, total := k.total + 1, lastCtx := c.ctx }))
          | _, _ => s
    | _, _ => s))

/-- Column j of chunk c of a dense panel from map row j: header and elements as stored, and which elements cannot be read. -/
def MapUse.record (u : MapUse) (h : Wg) (c j : Nat) : List Byte × List Bool :=
  let w := mapW u.words
  let kc := kcOf w
  let (o, _) := mapAddr u.words j (c * kc)
  let at_ := u.off + o
  let n := kc * w / 8
  let hdr := if mapTyped u.words then (tabGetD h.hdrs (at_ / 64) 0).toNat else 0
  (bytesOf 4 hdr ++ bytesOf n (h.spadRead at_ n),
   if h.spadBad at_ n then recordLost .dense w [] (fun i => decide (4 ≤ i) && h.spadBad (at_ + i - 4) 1) else [])

/-- Record j of chunk c of a sparse panel whose records lie at an offset of a partition, with the elements that cannot be read. -/
def Wg.sparseRecord (h : Wg) (sp : Sparse) (fmt o c j : Nat) : List Byte × List Bool :=
  let w := widthOf fmt
  let len := 4 + recordQ sp w
  let at_ := o + (64 * c + j) * len
  let bytes := bytesOf len (h.spadRead at_ len)
  (bytes, if h.spadBad at_ len then recordLost sp w (bytes.drop 4) (fun i => h.spadBad (at_ + i) 1) else [])

/-- Drop the panels whose extent a new panel overlaps (R168). -/
def dropOverlap (panels : Tab Panel) (off size : Nat) : Tab Panel :=
  panels.filter (fun e => !(decide (off < e.1 + e.2.size) && decide (e.1 < off + size)))

/-- WBLD_STEP (R171): one chunk of the running WBLD. -/
def execWbldStep (core : Nat) (s : State) : Host.Outcome State Fault Refusal :=
  .next (s.orWait (match s.matHead core with
  | none => s
  | some e =>
    let s := s.fixOperands core e
    match s.ctxFor e.w, e.op with
    | some c, .wbld sp fmt m off src n =>
      if !e.running || decide (s.entrySteps c e.op ≤ e.next) then s
      else
        -- format, chunks, and for each column of the chunk its record and what it has lost
        let got : Option (Nat × Nat × List (List Byte × List Bool)) := match sp with
          | .dense => match s.mapUse c m false with
            | some u => (s.wg u.g).map (fun h => (mapFmt u.words, mapChunks u.words, (List.range 64).map (u.record h e.next)))
            | none => none
          | _ => match s.spadPlace c src (panelBytes sp fmt n - 64) with
            | some (g, o, _) => (s.wg g).map (fun h => (fmt, n, (List.range 64).map (h.sparseRecord sp fmt o e.next)))
            | none => none
        match got with
        | none => s
        | some (f, chunks, rs) =>
          let kc := kcOf (widthOf f)
          let lost := rs.zipIdx.flatMap (fun r => (r.1.2.zipIdx.filter (·.1)).map (fun b => (64 * e.next + r.2) * kc + b.2))
          let t := s.modWg e.w.wg (fun h =>
            let old := if e.next = 0 then none else tabGet h.panels off
            let base := if e.next = 0 then dropOverlap h.panels off (panelBytes sp f chunks) else h.panels
            { h with panels := tabSet base off { fmt := f, sp := sp, c := chunks, bytes := (old.map (·.bytes)).getD [] ++ rs.flatMap (·.1),
                                                 lost := (old.map (·.lost)).getD [] ++ lost } })
          let u := t.modEntry core e.id (fun e => { e with next := e.next + 1, badWord := e.badWord || rs.any (fun r => !r.2.isEmpty) })
          -- the panel is complete: its backing copy takes room in the swap partition (R352)
          if e.next + 1 = chunks then u.backPanel core e.w.wg off else u
    | _, _ => s))

/-! ### Touchstone (R177, R178) -/

/-- A touchstone run: failing subarrays are fenced, one MATRIX_FENCE for each newly fenced one. A run in which only subarrays fail that are
fenced already counts as one that passed (log 110). DEDUCED (log 136): the event's core is the die-local one. -/
def State.touchstone (s : State) (core ctx : Nat) (failing : BitVec 4) : State :=
  let k := s.coreAt core
  let fresh := failing &&& ~~~k.fenced
  let fenced := k.fenced ||| failing
  let s1 := s.modCore core (fun k => { k with fenced := fenced, steps := 0, total := if fresh = 0 then 0 else k.total })
  let die := agentOfCore core % 4
  (List.range 4).foldl (fun (t : State) i =>
    if fresh.getLsbD i then t.raiseEvent (devOfCore core) ctx die die 0x06 [dieLocalCore core, fenced.toNat, k.total] else t) s1

/-- TOUCHSTONE_RUN (R177, R178): at a step boundary once the interval is reached, or for a running TTEST; a running TMMA ends when the
last subarray is fenced. -/
def execTouchstoneRun (core : Nat) (failing : BitVec 4) (s : State) : Host.Outcome State Fault Refusal :=
  .next (
    let head := s.matHead core
    match head with
    | some { id := id, w := w, op := .ttest _, running := true, test := none, .. } =>
      let t := s.touchstone core (s.ctxOf w) failing
      t.modEntry core id (fun e => { e with test := some ((t.coreAt core).fenced.toNat * 16 + failing.toNat) })
    | _ =>
      if !s.touchDue core then s
      else
        let t := s.touchstone core (s.coreAt core).lastCtx failing
        match head with
        | some e => if e.running && e.op.isTmma && (t.coreAt core).fenced = 15 then t.failEntry core e (trapOf tMatrixUnavailable) else t
        | none => t)

/-! ### Completion (R172 to R176, R179) -/

/-- ACCST writes its 64 rows, each block with its header (R174). -/
def MapUse.storeTile (u : MapUse) (rm : Rm) (sat : Bool) (scale : Option Nat) (tile : Nat → Nat → Word) (h : Wg) : Wg :=
  match Fmt.ofCode (mapFmt u.words) with
  | none => h
  | some f =>
    let n := elemBytes f.width
    let hdr : Word := mkHdr (scale.getD 0x7F00) 0 f.code
    (List.range 4096).foldl (fun (h : Wg) k =>
      let (i, j) := (k / 64, k % 64)
      let (r, x) := if mapMn u.words then (j, i) else (i, j)
      let v := decodeFp32 (tile i j)
      let v := match scale.bind sc16Value with | some sc => v.div sc | none => v
      let a := u.off + (mapAddr u.words r x).1
      let y := h.spadWrite a n (roundTo f v rm sat)
      { y with hdrs := if mapTyped u.words then tabSet y.hdrs (a / 64) hdr else tabErase y.hdrs (a / 64) }) h

/-- ACCLD's value of an element: an untyped FP32 source is copied exactly (R174). -/
def MapUse.loadElem (u : MapUse) (h : Wg) (rm : Rm) (sat : Bool) (r x : Nat) : Word :=
  let e := u.elem h r x
  let (code, hdr) := u.code h r x
  if e.2.2 then nan32
  else if Fmt.ofCode (mapFmt u.words) = some .fp32 && hdrFmt hdr = 0 then BitVec.ofNat 32 code
  else BitVec.ofNat 32 (roundTo .fp32 e.1 rm sat)

/-- One index pair of ACCSC, ACCADD, ACCRD and ACCWR: lane, other index to row and column. -/
def accAxis (rowIsLane : Bool) (l n : Nat) : Nat × Nat := if rowIsLane then (l, n) else (n, l)

/-- The effect of an entry that runs as one step; flags of a scale error and of an uncorrectable word. -/
def State.runEntry (s : State) (c : Ctx) (e : MEntry) : State × Bool × Bool :=
  let g := c.g
  let upd := fun (t : Nat) (f : Nat → Nat → Word) => (s.setTileAcc g.id t f, false, false)
  match e.op with
  | .mapdef m ws b => (s.modWg g.id (fun h => { h with maps := tabSet h.maps m { words := ws, tile := b } }), false, false)
  | .wbinv none => (s.modWg g.id (fun h => { h with panels := [] }), false, false)
  | .wbinv (some o) => (s.modWg g.id (fun h => { h with panels := tabErase h.panels o }), false, false)
  | .accz t => upd t (fun _ _ => 0)
  | .accld rm sat t m =>
    match s.mapUse c m true with
    | none => (s, false, false)
    | some u =>
      match s.wg u.g with
      | none => (s, false, false)
      | some h =>
        let at_ := fun (i j : Nat) => if mapMn u.words then (j, i) else (i, j)
        let es := (List.range 4096).map (fun k => let p := at_ (k / 64) (k % 64); u.elem h p.1 p.2)
        (s.setTileAcc g.id t (fun i j => let p := at_ i j; u.loadElem h rm sat p.1 p.2), es.any (fun x => x.2.1), es.any (fun x => x.2.2))
  | .accst rm sat scale t m =>
    match s.mapUse c m true with
    | none => (s, false, false)
    | some u => (s.modWg u.g (u.storeTile rm sat scale (g.accAt t)), false, false)
  | .accsc rm t lanes v =>
    upd t (fun i j => if lanes.getLsbD i then roundFp32 ((decodeFp32 (g.accAt t i j)).mul (decodeFp32 (v.getD i 0))) rm else g.accAt t i j)
  | .accadd rm row t lanes v =>
    upd t (fun i j =>
      let l := if row then i else j
      if lanes.getLsbD l then roundFp32 (sumX rm [decodeFp32 (g.accAt t i j), decodeFp32 (v.getD l 0)]) rm else g.accAt t i j)
  | .accrd col t n d lanes =>
    (s.modWarp e.w (fun x => x.deliver e.id (.v d) lanes ((List.range 64).map (fun l => let (i, j) := accAxis col l n; g.accAt t i j))), false, false)
  | .accwr col t n lanes v =>
    upd t (fun i j =>
      let (l, k) := if col then (i, j) else (j, i)
      if k = n && lanes.getLsbD l then v.getD l 0 else g.accAt t i j)
  | .ttest d => (s.modWarp e.w (fun x => x.deliver e.id (.s d) allLanes [BitVec.ofNat 32 (e.test.getD 0)]), false, false)
  | _ => (s, false, false)

/-- MATRIX_ENTRY_COMPLETE (R154): the running head has taken its last step, or runs as one step now. -/
def execMatrixEntryComplete (core : Nat) (s : State) : Host.Outcome State Fault Refusal :=
  .next (match s.matHead core with
  | none => s
  | some e =>
    match s.ctxFor e.w with
    | none => s
    | some c =>
      let waits : Bool := match e.op with | .ttest _ => e.test.isNone | _ => decide (e.next < s.entrySteps c e.op)
      if !e.running || waits then s
      else
        let s := match e.op with | .accld .. => s.fixOperands core e | _ => s
        let (t, se, bad) := s.runEntry ((s.ctxFor e.w).getD c) e
        (t.endEntry core e).entryEvents e (e.scaleErr || se) (e.badWord || bad))

end Sys2Proof.Machine
end

