-- ==== Sys2Proof/Machine/Conv.lean ====
section
/-! DEFINITION. The narrow convolution engine (R180 to R182): CONVN, its tasks and their outputs. -/

namespace Sys2Proof.Machine

/-! ### The task record (R180) -/

/-- A CONVN task: its sixteen 32-bit words. -/
abbrev ConvTask := List Word

def cvWord (t : ConvTask) (i : Nat) : Nat := (t.getD i 0).toNat
def cvAddr (t : ConvTask) (i : Nat) : Nat := (cvWord t i + cvWord t (i + 1) * 2 ^ 32) % 2 ^ 49
def cvIn (t : ConvTask) : Nat := cvAddr t 0
def cvInSp (t : ConvTask) : Bool := (cvWord t 1).testBit 17
def cvOut (t : ConvTask) : Nat := cvAddr t 2
def cvOutSp (t : ConvTask) : Bool := (cvWord t 3).testBit 17
def cvFilter (t : ConvTask) : Nat := cvWord t 4
def cvH (t : ConvTask) : Nat := bits (cvWord t 5) 0 16
def cvW (t : ConvTask) : Nat := bits (cvWord t 5) 16 16
def cvIp (t : ConvTask) : Nat := cvWord t 6
def cvOp (t : ConvTask) : Nat := cvWord t 7
def cvCin (t : ConvTask) : Nat := bits (cvWord t 8) 0 3 + 1
def cvCout (t : ConvTask) : Nat := bits (cvWord t 8) 4 6 + 1
def cvKh (t : ConvTask) : Nat := bits (cvWord t 8) 10 4 + 1
def cvKw (t : ConvTask) : Nat := bits (cvWord t 8) 14 4 + 1
def cvSy (t : ConvTask) : Nat := bits (cvWord t 8) 18 3 + 1
def cvSx (t : ConvTask) : Nat := bits (cvWord t 8) 21 3 + 1
def cvDy (t : ConvTask) : Nat := bits (cvWord t 8) 24 3 + 1
def cvDx (t : ConvTask) : Nat := bits (cvWord t 8) 27 3 + 1
/-- Format: 0 S8, 1 N8, 2 BF16. -/
def cvFmt (t : ConvTask) : Nat := bits (cvWord t 8) 30 2
def cvTop (t : ConvTask) : Nat := bits (cvWord t 9) 0 8
def cvBottom (t : ConvTask) : Nat := bits (cvWord t 9) 8 8
def cvLeft (t : ConvTask) : Nat := bits (cvWord t 9) 16 8
def cvRight (t : ConvTask) : Nat := bits (cvWord t 9) 24 8
def cvPad (t : ConvTask) : Nat := bits (cvWord t 10) 0 16
def cvOutBf (t : ConvTask) : Bool := bits (cvWord t 10) 16 2 = 1
def cvSteal (t : ConvTask) : Bool := (cvWord t 10).testBit 18
def cvCredit (t : ConvTask) : Bool := (cvWord t 10).testBit 19
def cvBar (t : ConvTask) : Nat := cvWord t 11
/-- Bytes of an input element and of an output element. -/
def cvInBytes (t : ConvTask) : Nat := if cvFmt t = 2 then 2 else 1
def cvOutBytes (t : ConvTask) : Nat := if cvOutBf t then 2 else 4

/-- Table 8's limits (R182). -/
def cvOk (t : ConvTask) : Bool :=
  bits (cvWord t 1) 18 14 = 0 && bits (cvWord t 3) 18 14 = 0 && (!cvInSp t || bits (cvWord t 1) 0 17 = 0) && (!cvOutSp t || bits (cvWord t 3) 0 17 = 0)
    && cvFilter t % 4 = 0 && cvH t != 0 && cvW t != 0 && cvIp t % 4 = 0 && cvOp t % 4 = 0 && !(cvWord t 8).testBit 3 && cvFmt t != 3
    && (cvFmt t = 2 || decide (cvPad t < 256)) && decide (bits (cvWord t 10) 16 2 ≤ 1) && (!cvOutBf t || cvFmt t = 2) && bits (cvWord t 10) 20 12 = 0
    && (if cvCredit t then cvBar t % 16 = 0 else cvBar t = 0)
    && cvWord t 12 = 0 && cvWord t 13 = 0 && cvWord t 14 = 0 && cvWord t 15 = 0

/-- An output extent (R181); 0 for one that is not positive. -/
def convExtent (n lo hi d k s : Nat) : Nat := (((n + lo + hi : Int) - (d * (k - 1) : Nat) - 1).fdiv s + 1).toNat
def cvHo (t : ConvTask) : Nat := convExtent (cvH t) (cvTop t) (cvBottom t) (cvDy t) (cvKh t) (cvSy t)
def cvWo (t : ConvTask) : Nat := convExtent (cvW t) (cvLeft t) (cvRight t) (cvDx t) (cvKw t) (cvSx t)
/-- Output elements of a task. -/
def cvTotal (t : ConvTask) : Nat := cvHo t * cvWo t * cvCout t

/-- CONVN (R182): the record is read once the warp's earlier scratchpad stores have completed. Its address may be a window address
(log 109). -/
def execConvn (sw : Bool) (a : BitVec 6) (s : State) : Host.Outcome State Fault Refusal :=
  s.issue (sysMode sw) (Deps.uni a.toNat 1)
    (fun c t => c.x.full .conv || decide (64 ≤ t.poolCount (clusterOfCore c.core)) || !(t.engineWait c.w none).isEmpty)
    (fun c t =>
      let at_ := uniV c a
      match t.spadPlace c at_ 64 with
      | none => .error (trapAt tSpadUnbacked at_ [])
      | some (g, off, _) =>
        let t := t.spadFix g off 64
        match t.wg g with
        | none => .error (trapAt tSpadUnbacked at_ [])
        | some h =>
          let words := (List.range 16).map (fun i => BitVec.ofNat 32 (h.spadRead (off + 4 * i) 4))
          if at_ % 64 != 0 || !cvOk words then .error (trapOf tMatrixFormat)
          else
            let (id, t1) := t.fresh
            let lost : TrapInfo := { trapAt tCopyFault at_ [tMemUncorrectable, 0, 0, 0] with deferred := true, cmd := words, apc := some c.x.pc }
            let o : ConvOp :=
              { id := id, w := c.w, cluster := clusterOfCore c.core, pc := c.x.pc, words := words,
                before := t.engineWait c.w (if cvCredit words then t.spadBar c (cvBar words) else none) ++ t.engineAfter c.w, engine := none, next := 0, done := false,
                fault := if h.spadBad off 64 then some lost else none }
            let t2 := t1.opBegin c.w .conv id
            .ok { t2 with convs := t2.convs ++ [o] })

/-! ### The engine (R181, R182) -/

def oldestConv (l : List ConvOp) : Option ConvOp :=
  l.foldl (fun (best : Option ConvOp) o => match best with | some b => if o.id < b.id then some o else best | none => some o) none

def State.convOn (s : State) (cluster : Nat) : Option ConvOp := s.convs.find? (fun o => o.engine = some cluster)

/-- CONVN_TAKE (R182, R293): the free engine of a cluster takes the oldest task of its pool, or steals one. -/
def execConvnTake (cluster : Nat) (s : State) : Host.Outcome State Fault Refusal :=
  .next (
    if (s.convOn cluster).isSome then s
    else
      let pool := fun (c : Nat) => s.convs.filter (fun o => o.cluster = c && o.engine.isNone)
      let take := fun (s : State) (o : ConvOp) => modConv s o.id (fun o => { o with engine := some cluster })
      match oldestConv (pool cluster) with
      | some o => take s o
      | none =>
        match (stealFrom cluster (s.cluster cluster).steal).find? (fun c => (pool c).any (fun o => cvSteal o.words)) with
        | none => s
        | some c =>
          match oldestConv ((pool c).filter (fun o => cvSteal o.words)) with
          | some o => (take s o).modCluster cluster (fun k => { k with steal := c % 36 })
          | none => s)

/-- A page of the non-coherent fabric admits no access of a CONVN task (R347). -/
def State.convFabric (s : State) (w : WarpId) (a : Nat) : Bool :=
  match s.translate w.wg.dev (s.ctxOf w) a with
  | .ok p => (match p.place with | .fabric .. => true | _ => false)
  | .error _ => false

/-- `n` bytes at an address of either space, one at a time where they are not aligned, and whether a scale error is noted (R96). -/
def State.convRead (s : State) (w : WarpId) (sp : Bool) (a n : Nat) : State × Except TrapInfo (Nat × Bool) :=
  if sp then let (t, r) := s.spadTake w a n; (t, r.map (fun x => (x.1, false)))
  else if s.convFabric w a then (s, .error (trapAt tSpaceFault a []))
  else
    let step := if a % n = 0 then n else 1
    (List.range (n / step)).foldl (fun (acc : State × Except TrapInfo (Nat × Bool)) i =>
      match acc with
      | (t, .error e) => (t, .error e)
      | (t, .ok (v, bad)) => match t.engRead w (a + step * i) step false with
        | (u, .error e) => (u, .error e)
        | (u, .ok (x, b)) => (u, .ok (v + x * 256 ^ (step * i), bad || b))) (s, .ok (0, false))

/-- Store `n` bytes at an address of either space. -/
def State.convWrite (s : State) (w : WarpId) (id : Nat) (sp : Bool) (a n v : Nat) : State × Except TrapInfo Unit :=
  if sp then
    match s.spadFor w a n with
    | .error e => (s, .error e)
    | .ok (g, off) => (s.modWg g (fun h => h.spadWrite off n v), .ok ())
  else if s.convFabric w a then (s, .error (trapAt tSpaceFault a []))
  else
    let step := if a % n = 0 then n else 1
    (List.range (n / step)).foldl (fun (acc : State × Except TrapInfo Unit) i =>
      match acc with
      | (t, .error e) => (t, .error e)
      | (t, .ok _) => t.engWrite w id (a + step * i) step (v / 256 ^ (step * i)) none) (s, .ok ())

/-- The product of one term of an output: input element and filter element. -/
def cvFormat (t : ConvTask) : Fmt := match cvFmt t with | 0 => .s8 | 1 => .n8 | _ => .bf16

/-- Terms of output (oy, ox, o) in order, and whether a scale error is noted. An unbacked scratchpad byte ends the task as it ends a copy
command (log 109). -/
def State.convTerms (s : State) (op : ConvOp) (oy ox o : Nat) : State × Except TrapInfo (List Xreal × Bool) :=
  let t := op.words
  let n := cvInBytes t
  let taps := (List.range (cvKh t)).flatMap (fun ky => (List.range (cvKw t)).flatMap (fun kx => (List.range (cvCin t)).map (fun c => (ky, kx, c))))
  taps.foldl (fun (acc : State × Except TrapInfo (List Xreal × Bool)) (k : Nat × Nat × Nat) =>
    match acc with
    | (s, .error e) => (s, .error e)
    | (s, .ok (l, bad)) =>
      let (ky, kx, c) := k
      let y : Int := (oy * cvSy t + ky * cvDy t : Nat) - (cvTop t : Int)
      let x : Int := (ox * cvSx t + kx * cvDx t : Nat) - (cvLeft t : Int)
      let inside : Bool := decide (0 ≤ y) && decide (y < (cvH t : Int)) && decide (0 ≤ x) && decide (x < (cvW t : Int))
      let fa := cvFilter t + (((o * cvKh t + ky) * cvKw t + kx) * cvCin t + c) * n
      match (if inside then s.convRead op.w (cvInSp t) (cvIn t + y.toNat * cvIp t + (x.toNat * cvCin t + c) * n) n else (s, .ok (cvPad t, false))) with
      | (u, .error e) => (u, .error e)
      | (u, .ok (a, b1)) => match u.spadTake op.w fa n with
        | (v, .error e) => (v, .error e)
        | (v, .ok (b, _)) =>
          (v, .ok (l ++ [(decodeElem (cvFormat t) (xzero false) a).mul (decodeElem (cvFormat t) (xzero false) b)], bad || b1))) (s, .ok ([], false))

/-- The chunk sums of a list of terms, 32 at a time, the last run padded with +0. -/
def chunkRuns : Nat → Word → List Xreal → Word
  | 0, c, _ => c
  | n + 1, c, l =>
    match l with
    | [] => c
    | _ => let run := l.take 32
      chunkRuns n (chunkSum (decodeFp32 c) (run ++ List.replicate (32 - run.length) (xzero false))) (l.drop 32)

/-- The output code of a list of terms. -/
def convOut (t : ConvTask) (terms : List Xreal) : Nat :=
  if cvFmt t = 2 then
    let c := chunkRuns (terms.length / 32 + 1) 0 terms
    if cvOutBf t then roundTo .bf16 (decodeFp32 c) .rn false else c.toNat
  else ((sumX .rn terms).parts.1 % (2 ^ 32 : Nat)).toNat

/-- Move.convElem: the engine computes and writes the next output element. -/
def State.convStep (s : State) (id : Nat) : State :=
  match s.conv? id with
  | none => s
  | some op =>
    let t := op.words
    if op.engine.isNone || op.done || op.fault.isSome || !s.engineReady op.before || decide (cvTotal t ≤ op.next) then s
    else
      let o := op.next % cvCout t
      let ox := op.next / cvCout t % cvWo t
      let oy := op.next / cvCout t / cvWo t
      let fail := fun (s : State) (e : TrapInfo) =>
        if e.code = 0 then s
        else
          let f : TrapInfo := { trapAt tCopyFault e.addr [e.code, ox * cvCout t + o, oy, 0] with deferred := true, base := e.base, cmd := t, apc := some op.pc }
          modConv s id (fun (p : ConvOp) => { p with fault := some f })
      s.orWait (match s.convTerms op oy ox o with
      | (u, .error e) => fail u e
      | (u, .ok (l, bad)) =>
        match u.convWrite op.w op.id (cvOutSp t) (cvOut t + oy * cvOp t + (ox * cvCout t + o) * cvOutBytes t) (cvOutBytes t) (convOut t l) with
        | (v, .error e) => fail v e
        | (v, .ok _) => modConv v id (fun op => { op with next := op.next + 1, scaleErr := op.scaleErr || bad }))

/-- One SCALE_ERROR event for a task that noted one (R96), whatever shadow lines of a decoding view it read (DESIGN CHOICE, log 126). -/
def State.convScale (s : State) (o : ConvOp) : State := if o.scaleErr then s.scaleError o.w (agentOfCluster o.cluster % 4) o.pc else s

/-- CONVN_COMPLETE (R182): every output is written, then the credit, then CONV falls in issue order; a fault ends the task as it ends a
copy command. A credit to a barrier address that nothing backs is dropped (log 109). -/
def execConvnComplete (cluster : Nat) (s : State) : Host.Outcome State Fault Refusal :=
  .next (match s.convOn cluster with
  | none => s
  | some op =>
    let t := op.words
    match op.fault with
    | some e => (((s.convScale op).dropConv op.id).opEnd op.w .conv op.id).defer op.w e
    | none =>
      if op.next < cvTotal t then s
      else if op.done then (if s.upds.any (fun u => u.for_ == .conv op.id) then s else (s.dropConv op.id).opEnd op.w .conv op.id)
      else
        let s := s.convScale op
        match (if cvCredit t then (s.ctxFor op.w).bind (fun x => s.spadBar x (cvBar t)) else none) with
        | none => (s.dropConv op.id).opEnd op.w .conv op.id
        | some bar =>
          let (n, s1) := s.fresh
          let u : Upd := { id := n, w := op.w, kind := .credit (cvTotal t * cvOutBytes t), bar := bar, va := cvBar t, cls := none, rel := .done,
                           pc := op.pc, res := none, ticket := false, done := false, for_ := .conv op.id }
          modConv { s1 with upds := s1.upds ++ [u] } op.id (fun op => { op with done := true }))

end Sys2Proof.Machine
end

