-- ==== Sys2Proof/Machine/Tickets.lean ====
section
/-! DEFINITION. Reservation tickets (R337, R338): the monitor table, the posted-receive list and the conflict chains. -/

namespace Sys2Proof.Machine

/-- The reservation queue of a resource of an agent. -/
def Die.queue (d : Die) : TicketRes → List Ticket
  | .monitor => d.monQ
  | .posted => d.postQ
  | .chain i => tabGetD d.chainQ i []

def Die.setQueue (d : Die) (r : TicketRes) (q : List Ticket) : Die :=
  match r with
  | .monitor => { d with monQ := q }
  | .posted => { d with postQ := q }
  | .chain i => { d with chainQ := if q.isEmpty then tabErase d.chainQ i else tabSet d.chainQ i q }

/-- Whether a slot is free for a ticket, beside the slots held for other tickets. -/
def State.slotFree (s : State) (agent : Nat) (r : TicketRes) (held : List Ticket) (k : Ticket) : Bool :=
  match r, k.txn with
  | .monitor, _ => decide (s.monSlots agent + held.length < 4096)
  | .posted, _ => decide (s.postedOn agent + held.length < 1024)
  | .chain _, some t => State.chainRoom { s with txns := s.txns ++ held.filterMap (·.txn) } t.block
  | .chain _, none => true

/-- An offer is held for its ticket for 4,096 cycles. -/
def Ticket.live (k : Ticket) (now : Nat) : Bool := match k.offered with | some c => decide (now ≤ c + 4096) | none => false

/-- Every free slot is offered to the oldest ticket that can use it. -/
def State.offers (s : State) (agent : Nat) (r : TicketRes) (now : Nat) (q : List Ticket) : List Ticket :=
  q.foldl (fun (l : List Ticket) k =>
    let held := (l ++ q.drop l.length).filter (fun x => x.offered.isSome)
    l ++ [if k.offered.isNone && s.slotFree agent r held k then { k with offered := some now } else k]) []

/-- The request of a ticket is sent again and takes its slot. -/
def State.claim (s : State) (r : TicketRes) (k : Ticket) : State :=
  match r with
  | .monitor =>
    match s.upd? k.op with
    | some u => match u.kind with | .mon word _ => s.armMon u word | _ => s
    | none => s
  | .posted =>
    match s.chop? k.op with
    | some o => match o.loc with | .ticket key => s.popHome o key true | _ => s
    | none => s
  | .chain _ => match k.txn with | some t => { s with txns := joinChain s.txns t } | none => s

/-- TICKET_CLAIM (R337): free slots are offered to the oldest tickets; when nothing is left to offer, the oldest offered slot is claimed,
within 4,096 cycles of its offer where its ticket may lapse at all. A swapped requester's slot is claimed on its behalf (R338); the management core claims its own with its
next DEPENDENCY_CHECK. -/
def execTicketClaim (agent : Nat) (r : TicketRes) (s : State) : Host.Outcome State Fault Refusal :=
  .next (
    let now := s.cycle (devOfAgent agent)
    let q := (s.die agent).queue r
    let q' := s.offers agent r now q
    if q' != q then s.modDie agent (fun d => d.setQueue r q')
    else match q.find? (fun k => k.offered.isSome && (k.live now || !s.mayLapse k) && k.launch.isNone) with
      | some k => s.orWait ((s.modDie agent (fun d => d.setQueue r (q.erase k))).claim r k)
      | none => s)

/-- TICKET_EXPIRY (R337): the oldest offer left unclaimed by a swapped or killed context or a lost agent passes on, and its requester joins the
back of the queue. -/
def execTicketExpiry (agent : Nat) (r : TicketRes) (s : State) : Host.Outcome State Fault Refusal :=
  .next (
    let now := s.cycle (devOfAgent agent)
    let q := (s.die agent).queue r
    match q.find? (fun k => k.offered.isSome && !k.live now && s.mayLapse k) with
    | some k => s.modDie agent (fun d => d.setQueue r (q.erase k ++ [{ k with offered := none }]))
    | none => s)

end Sys2Proof.Machine
end

