-- ==== Sys2Proof/Machine/Restart.lean ====
section
/-! DEFINITION. Device-fatal faults, resets and starts (R25, R367, R393, R394), operating points and the cap (R24, R304). -/

namespace Sys2Proof.Machine

/-- Blocks at home on a device that names its own agents as sharer or owner lose them with the reset, as R265 repairs lost agents. -/
def Block.afterReset (base : Nat) (own : Nat → Bool) (x : Block) : Block :=
  match (hallOf x.hall).shift base with
  | .shared1 a | .excl a => if own a then { x with hall := hallByte .home } else x
  | .mod a | .owned a => if own a then { x with hall := hallByte (.poison 2) } else x
  | _ => x

/-- A reset of a device: everything its cores, clusters and dies hold is gone; HBM keeps its bytes. -/
def State.wipe (s : State) (d : Nat) : State :=
  let s1 := s.dropWork (fun w => w.wg.dev = d)
  let far := fun (agent : Nat) => devOfAgent agent != d
  { s1 with
    wgs := s1.wgs.filter (fun g => g.id.dev != d)
    wbs := s1.wbs.filter (fun w => devOfCore w.core != d)
    drains := s1.drains.filter (fun w => devOfCore w.core != d)
    cores := s1.cores.filter (fun (e : Nat × Core) => devOfCore e.1 != d)
    clusters := s1.clusters.filter (fun (e : Nat × Cluster) => e.1 / 144 != d)
    dies := (s1.dies.filter (fun (e : Nat × Die) => far e.1)).map (fun (e : Nat × Die) => (e.1, { e.2 with
      chainQ := e.2.chainQ.map (fun q => (q.1, q.2.filter (fun k => !k.txn.any (fun t => !far t.req)))) }))
    l2 := s1.l2.filter (fun (e : Nat × L2Line) => far (repAgent e.1))
    cut := s1.cut.filter (fun b => far (agentOfBlock b))
    records := s1.records.filter (fun r => far (agentOfKey (r.line * 128)))
    replicas := s1.replicas.filter (fun (e : Nat × Replica) => far (repAgent e.1))
    txns := s1.txns.filter (fun t => far (agentOfBlock t.block) && far t.req)
    scOrder := s1.scOrder.filter (fun e => e.w.wg.dev != d)
    cur := match s1.cur with | some w => if w.wg.dev = d then none else some w | none => none
    blocks := s1.blocks.map (fun (e : Nat × Block) => (e.1, if far (agentOfBlock e.1) then e.2 else e.2.afterReset (domainBase e.1) (fun a => !far a))) }

/-- What a device keeps over a reset: fused cores, firmware in flash, failed-start count, the last fatal cause, the reserved region. -/
def Dev.afterReset (x : Dev) : Dev :=
  { cycle := x.cycle, frac := x.frac, ns := x.ns, fused := x.fused, msix := x.msix, fw := x.fw, hread := x.hread, hpoison := x.hpoison,
    up := false,
    regs := { fatal := x.regs.fatal, fatalDie := x.regs.fatalDie, failed := x.regs.failed, minimal := x.regs.minimal,
              reason := x.regs.reason, ready := false, rsvBase := x.regs.rsvBase, rsvSize := x.regs.rsvSize } }

/-- A device-fatal fault (R367): every context ends without completion, the cause is kept, vector 0 is signalled, the device resets. -/
def State.deviceFatal (s : State) (d cause die : Nat) : State :=
  ((s.wipe d).modDev d (fun x => let y := x.afterReset; { y with regs := { y.regs with fatal := cause, fatalDie := die } })).msi d 0

/-- The lowest-numbered live device of its domain other than `d` (R34). -/
def State.peer (s : State) (d : Nat) : Option Nat :=
  match (s.domainOf d).filter (fun v => v != d && (s.dev v).up) with
  | [] => none
  | v :: vs => some (vs.foldl min v)

/-- Digest and version of the image in flash. -/
def Firmware.flash (f : Firmware) : Nat × Nat := f.staged.getD (f.running, f.version)

/-- What a start that ends well runs: the image in flash; in minimal mode the built-in recovery firmware, which leaves the image in flash for
a later start (R393, R394). -/
def Firmware.atStart (f : Firmware) (minimal : Bool) : Firmware :=
  if minimal then { f with running := Config.recoveryDigest, version := Config.recoveryVersion, staged := some f.flash }
  else { f with running := f.flash.1, version := f.flash.2, staged := none }

/-- The boot ROM's check of the image in flash (R393): the reason of Table 12 with which it refuses the image, 0 when it runs it. -/
def Firmware.romReason (f : Firmware) : Nat := if !f.signed then 1 else if f.flash.2 < Config.fusedMinimum then 2 else 0

/-- The version of the image that a start runs. -/
def Firmware.startVersion (f : Firmware) (minimal : Bool) : Nat := if minimal then Config.recoveryVersion else f.flash.2

/-- The reason with which a start ends: an image is refused for its version only where that is below the fused minimum; a start that would end
well, and does not run the recovery firmware, fails when the boot ROM refuses the image. -/
def State.startReason (s : State) (d reason : Nat) : Nat :=
  let fw := (s.dev d).fw
  let minimal := decide (3 ≤ (s.dev d).regs.failed)
  let r := if reason = 2 ∧ Config.fusedMinimum ≤ fw.startVersion minimal then 0 else reason
  if r = 0 ∧ minimal = false then fw.romReason else r

/-- A start ends (R394): with reason 0 the firmware has reported ready; otherwise the start has failed. Three failed starts before it
make it a start in minimal mode, which keeps the count. An image whose signature fails once stays refused until FW_STAGE writes another
(log 10). -/
def State.endStart (s : State) (d r : Nat) : State :=
  let x := s.dev d
  let reason := s.startReason d r
  let minimal := decide (3 ≤ x.regs.failed)
  let count := min 255 (x.regs.failed + 1)
  let ok := reason = 0
  let fw := if ok then x.fw.atStart minimal else if reason = 1 && !minimal then { x.fw with signed := false } else x.fw
  let ns := match s.peer d with | some v => s.clock v | none => 0
  let failed := if ok && !minimal then 0 else count
  let s1 := s.modDev d (fun x => { x with
    fw := fw, up := ok, ns := ns, frac := 0
    regs := { x.regs with minimal := minimal, reason := reason, failed := failed, ready := ok } })
  -- the refills of a die count from here (R356)
  let s1 := (List.range 4).foldl (fun (t : State) i => t.modDie (4 * d + i) (fun y => { y with refill := x.cycle / 1024 })) s1
  -- an agent stays lost until the domain is reset
  let s2 := if (s.peer d).isNone then { s1 with lost := s1.lost.filter (fun a => !(s.domainOf d).contains (devOfAgent a)) } else s1
  s2.raiseEvent d 64 0 0 0x24 [if minimal then 1 else 0, reason, failed, x.regs.fatal]

/-- START (R394): a power-on or reset runs a start, which ends with the reason of Table 12; for reasons 0 and 2 the boot ROM's check has the
last word (R393). -/
def execStart (d : Nat) (reason : Byte) (s : State) : Host.Outcome State Fault Refusal :=
  .next (
    if 7 < reason.toNat then s
    else
      let s1 := if (s.dev d).up then (s.wipe d).modDev d Dev.afterReset else s
      s1.endStart d reason.toNat)

/-- START_TIMEOUT (R394): the firmware has not reported ready within 2 s, so the start under way fails with reason 6. -/
def execStartTimeout (d : Nat) (s : State) : Host.Outcome State Fault Refusal :=
  .next (if (s.dev d).up then s else s.endStart d 6)

/-- THERMAL_SHUTDOWN (R25, R367). -/
def execThermalShutdown (d die : Nat) (s : State) : Host.Outcome State Fault Refusal :=
  .next (if (s.dev d).up then s.deviceFatal d 1 (die % 4) else s)

/-- WATCHDOG_EXPIRY (R367). During a start it fails the start with reason 7 (Table 12). -/
def execWatchdogExpiry (d : Nat) (s : State) : Host.Outcome State Fault Refusal :=
  .next (if (s.dev d).up then s.deviceFatal d 6 0 else s.endStart d 7)

/-- CAP_CHANGE (R24): each change of the cap raises POWER_LIMIT. -/
def execCapChange (d : Nat) (cap : BitVec 3) (s : State) : Host.Outcome State Fault Refusal :=
  .next (
    if !(s.dev d).up || (s.dev d).regs.cap = cap.toNat then s
    else ((s.modDev d (fun x => { x with regs := { x.regs with cap := cap.toNat } })).repoint d).raiseEvent d 64 0 0 0x20 [cap.toNat])

/-- POINT_STABLE (R304): a change of the point in force has become stable; launches that waited for it may be placed. -/
def execPointStable (d : Nat) (s : State) : Host.Outcome State Fault Refusal :=
  .next (s.modDev d (fun x => { x with
    regs := { x.regs with want := none }
    launches := x.launches.map (fun (e : Nat × Launch) => if e.2.st == .voting then (e.1, { e.2 with st := .placing }) else e) }))

end Sys2Proof.Machine
end

