-- ==== Sys2Proof/Machine/HostLink.lean ====
section
/-! DEFINITION. The host link: BAR0 with the bring-up registers (R391, R392, R395), the apertures BAR2 and BAR4 (R17), push windows
(R297 to R299) and MSI-X signals of event queues (R390). -/

namespace Sys2Proof.Machine

/-! ### Bring-up registers (R395, Table 14) -/

/-- One byte into the reflected CRC-32 of IEEE 802.3. -/
def crcByte (c : BitVec 32) (b : Byte) : BitVec 32 :=
  (List.range 8).foldl (fun (c : BitVec 32) _ => if c.getLsbD 0 then (c >>> 1) ^^^ 0xEDB88320#32 else c >>> 1) (c ^^^ b.zeroExtend 32)

/-- The 72-byte defect map (R49): bit m of the string is core m of the device. -/
def Dev.defectMap (x : Dev) : List Byte :=
  (List.range 72).map (fun i => BitVec.ofNat 8 ((List.range 8).foldl (fun n k => if x.fused.contains (8 * i + k) then n + 2 ^ k else n) 0))

/-- The defect-map signature (R49). -/
def Dev.signature (x : Dev) : Nat :=
  let c := ((x.defectMap.foldl crcByte (BitVec.allOnes 32)) ^^^ BitVec.allOnes 32).toNat
  if c = 0xFFFFFFFF then 0xFFFFFFFE else c

/-- A link's two counters as one register. -/
def linkWord (t : Tab (Nat × Nat)) (i : Nat) : Nat := let c := tabGetD t i (0, 0); c.1 % 2 ^ 32 + c.2 % 2 ^ 32 * 2 ^ 32

/-- The 8 bytes of BAR0 from an offset of the bring-up registers that is a multiple of 8. -/
def State.reg64 (s : State) (d off : Nat) : Nat :=
  let x := s.dev d
  let r := x.regs
  if off < 0x4048 then ofBytes ((x.defectMap.drop (off - 0x4000)).take 8)
  else if off = 0x4048 then x.signature
  else if off = 0x4050 then r.fatal + r.fatalDie * 2 ^ 8
  else if off = 0x4058 then (if r.minimal then 1 else 0) + r.reason * 2 ^ 8 + r.failed * 2 ^ 16
  else if off = 0x4060 then x.ns
  else if off = 0x4068 then r.point + r.cap * 2 ^ 8 + r.force * 2 ^ 16
  else if off = 0x4070 then r.interval
  else if off = 0x4078 then r.scrub
  else if off = 0x4080 then r.swapMask.toNat
  else if off = 0x4088 then domainNumber d + (s.domainOf d).foldl (fun n v => n + 2 ^ (8 + domainNumber v)) 0 + (if 1 < (s.domainOf d).length then 2 ^ 16 else 0)
  else if off = 0x4090 then r.rsvBase
  else if off = 0x4098 then r.rsvSize
  else if off = 0x40A0 then r.ceLimit
  else if off = 0x40A8 then r.linkLimit
  else if 0x4100 ≤ off ∧ off < 0x4180 then (r.wayMask.getD ((off - 0x4100) / 8) 0).toNat
  else if 0x4200 ≤ off ∧ off < 0x4320 then
    (List.range 16).foldl (fun n i => n + (s.coreAt (576 * d + 2 * (off - 0x4200) + i)).fenced.toNat * 16 ^ i) 0
  else if 0x5000 ≤ off ∧ off < 0x6800 then linkWord r.hbmLinks ((off - 0x5000) / 8)
  else if 0x6800 ≤ off ∧ off < 0x6820 then linkWord r.d2dLinks ((off - 0x6800) / 8)
  else if 0x6840 ≤ off ∧ off < 0x6900 then linkWord r.devLinks ((off - 0x6840) / 8)
  else if 0x6900 ≤ off ∧ off < 0x6960 then tabGetD r.ceCount ((off - 0x6900) / 8) 0
  else 0

/-- Number of bits set. -/
def ones (m : BitVec 16) : Nat := ((List.range 16).filter (fun i => m.getLsbD i)).length

/-- A context record of the device is valid. -/
def Dev.anyValid (x : Dev) : Bool := x.ctxs.any (fun e => (e.2.getD 0 0).getLsbD 0)

/-- Write a register's field; what breaks its limits, and read-only registers, are discarded (R395). -/
def State.putReg (s : State) (d off v : Nat) : State :=
  let put := fun (f : Regs → Regs) => s.modDev d (fun x => { x with regs := f x.regs })
  let locked := (s.dev d).anyValid
  if off = 0x4068 then (put (fun r => { r with point := v % 8 })).repoint d
  else if off = 0x4070 then (let n := v % 2 ^ 17; if 256 ≤ n ∧ n ≤ 65536 then put (fun r => { r with interval := n }) else s)
  else if off = 0x4078 then (let n := v % 2 ^ 16; if n ≤ 8760 then put (fun r => { r with scrub := n }) else s)
  else if off = 0x4080 then (let m := BitVec.ofNat 16 v; if locked || decide (8 < ones m) then s else put (fun r => { r with swapMask := m }))
  else if off = 0x40A0 then put (fun r => { r with ceLimit := v % 2 ^ 32 })
  else if off = 0x40A8 then put (fun r => { r with linkLimit := v % 2 ^ 32 })
  else if 0x4100 ≤ off ∧ off < 0x4180 then
    (if locked then s else put (fun r => { r with wayMask := r.wayMask.set ((off - 0x4100) / 8) (BitVec.ofNat 16 v) }))
  else s

/-- A host access to a bring-up register: aligned 4 or 8 bytes. -/
def State.regWrite (s : State) (d off n v : Nat) : State :=
  if (n != 4 && n != 8) || off % n != 0 then s
  else
    let base := off / 8 * 8
    let old := s.reg64 d base
    let v := v % 256 ^ n
    s.putReg d base (if n = 8 then v else if off % 8 = 0 then old / 2 ^ 32 * 2 ^ 32 + v else v * 2 ^ 32 + old % 2 ^ 32)

/-! ### Push windows (R297, R298) -/

/-- Whether a slot holds a complete record. -/
def Window.complete (w : Window) (k : Nat) : Bool := (List.range 64).all (fun i => (tabGet w.bytes (64 * k + i)).isSome)
/-- 256 less the complete records not yet consumed. -/
def Window.free (w : Window) : Nat := 256 - ((List.range 256).filter w.complete).length

def State.window (s : State) (d c : Nat) : Window := tabGetD (s.dev d).wins c {}
def State.setWindow (s : State) (d c : Nat) (w : Window) : State := s.modDev d (fun x => { x with wins := tabSet x.wins c w })

/-- A host write to a push window: bytes of complete slots are discarded, with one event for each such slot. The window of a context that
is not valid takes nothing. -/
def State.windowWrite (s : State) (d c off : Nat) (data : List Byte) : State :=
  if !s.ctxValid d c then s
  else
    let w := s.window d c
    let at_ := (data.zipIdx.map (fun (b, i) => (off + i, b))).filter (fun x => decide (x.1 < 0x4000))
    let over_ := ((at_.map (fun x => x.1 / 64)).filter w.complete).dedup
    let bytes := (at_.filter (fun x => !w.complete (x.1 / 64))).foldl (fun t x => tabSet t x.1 x.2) w.bytes
    over_.foldl (fun (t : State) k => t.raiseEvent d c 0 0 0x03 [k]) (s.setWindow d c { w with bytes := bytes, mirror := true })

/-- PUSH_WINDOW_WRITE (R297). -/
def execPushWindowWrite (d c off : Nat) (data : List Byte) (s : State) : Host.Outcome State Fault Refusal :=
  .next (if (s.dev d).up then s.windowWrite d c off data else s)

/-- A name that no warp has: the management core's and the host's own channel operations. -/
def coreWarp (d : Nat) : WarpId := { wg := { dev := d, launch := 2 ^ 20, index := 0 }, warp := 0 }

/-- A channel operation of the management core on a launch channel of a context. -/
def coreChop (d c : Nat) (kind : ChKind) (h : DWord) (rcd : List Byte) : ChOp :=
  { id := 0, w := coreWarp d, ctx := c, dev := d, kind := kind, handle := h, rcd := rcd, srctag := 0, sc := .dv, rel := .done, acq := false,
    acqSt := .none, loc := .issued, pc := 0, launch := true }

/-- The slot is consumed: its byte record is cleared and n rises. -/
def Window.consume (w : Window) : Window :=
  { w with bytes := w.bytes.filter (fun e => e.1 / 64 != w.n % 256), n := w.n + 1, mirror := true }

/-- PUSH_WINDOW_CONSUME (R297, R299): the next complete slot in order is pushed with the host's earlier writes performed; the window
stalls while ring and overflow queue are full. A push that meets a fault is consumed and pushes nothing. -/
def execPushWindowConsume (d c : Nat) (s : State) : Host.Outcome State Fault Refusal :=
  .next (s.orWait (
    let w := s.window d c
    let k := w.n % 256
    if !(s.dev d).up || !s.ctxValid d c || !w.complete k then s
    else
      let rcd := (List.range 64).map (fun i => tabGetD w.bytes (64 * k + i) 0)
      let h := s.ctxWord d c (8 + bits (ofBytes rcd) 56 3)
      if h = 0 then (s.setWindow d c w.consume).raiseEvent d c 0 0 0x02 [0, 3, k]
      else
        let o := coreChop d c (.push false) (BitVec.ofNat 64 h) rcd
        match (if chHandleOk o.handle then s.chanPlace o (chVa o.handle) 64 else .error 1) with
        | .error _ => s.setWindow d c w.consume
        | .ok key =>
          match s.pushHome o key with
          | (_, .full) => s
          | (t, .ok) => t.setWindow d c w.consume
          | (t, .fault _) => t.setWindow d c w.consume))

/-- FREE_COUNT_UPDATE (R298): the merged free count reaches the host. -/
def execFreeCountUpdate (d c : Nat) (s : State) : Host.Outcome State Fault Refusal :=
  .next (
    let w := s.window d c
    if !w.mirror || !s.ctxValid d c then s
    else (s.hostStore d (s.ctxWord d c 6) 4 w.free).setWindow d c { w with mirror := false })

/-- MSI_X_SIGNAL (R390): one signal for the records written inside the merge window. -/
def execMsixSignal (d q : Nat) (s : State) : Host.Outcome State Fault Refusal :=
  .next (match tabGet (s.dev d).evqs q with
  | some e => if e.signal then (s.modDev d (fun x => { x with evqs := tabSet x.evqs q { e with signal := false } })).msi d e.vec else s
  | none => s)

/-! ### BAR0 (Table 13) -/

/-- Replace `n` bytes of a number of 8 bytes from byte `o`. -/
def putBytes (old o n v : Nat) : Nat := old % 256 ^ o + v % 256 ^ n * 256 ^ o + old / 256 ^ (o + n) * 256 ^ (o + n)

/-- A byte of BAR0 as the host reads it; push windows and unlisted offsets read as zero. -/
def State.bar0Byte (s : State) (d off : Nat) : Byte :=
  let x := s.dev d
  if off < 0x80 then tabGetD x.mbox off 0
  else if 0x1000 ≤ off ∧ off < 0x2000 then BitVec.ofNat 8 (x.dbgWord ((off - 0x1000) / 4) / 256 ^ (off % 4))
  else if 0x2000 ≤ off ∧ off < 0x2208 then BitVec.ofNat 8 ((tabGetD x.evqs ((off - 0x2000) / 8) {}).consumed / 256 ^ (off % 8))
  else if 0x4000 ≤ off ∧ off < 0x7000 then BitVec.ofNat 8 (s.reg64 d (off / 8 * 8) / 256 ^ (off % 8))
  else 0

/-- Bytes of the debug mailbox that the host writes (R392). -/
def dbgHost (o : Nat) : Bool := decide (o < 4 ∨ (0x40 ≤ o ∧ o < 0x800))

/-- One byte of a host write to BAR0 outside the bring-up registers and the push windows (R390 to R392). -/
def Dev.bar0Put (x : Dev) (off : Nat) (b : Byte) : Dev :=
  if off < 0x40 then { x with mbox := tabSet x.mbox off b, mboxIn := (x.mboxIn ++ [off]).dedup }
  else if 0x1000 ≤ off ∧ off < 0x2000 then (if dbgHost (off - 0x1000) then { x with dbg := memSet x.dbg (off - 0x1000) b } else x)
  else if 0x2000 ≤ off ∧ off < 0x2208 then
    let q := (off - 0x2000) / 8
    let e := tabGetD x.evqs q {}
    { x with evqs := tabSet x.evqs q { e with consumed := putBytes e.consumed (off % 8) 1 b.toNat } }
  else x

/-- A host write to BAR0 (Table 13). The bring-up registers take only accesses of 4 or 8 bytes (R395); the last byte of a mailbox command
lets the management core take it (R391). -/
def State.bar0Write (s : State) (d off : Nat) (data : List Byte) : State :=
  if 0x4000 ≤ off ∧ off < 0x7000 then s.regWrite d off data.length (ofBytes data)
  else if 0x1000000 ≤ off ∧ off < 0x1100000 then s.windowWrite d ((off - 0x1000000) / 0x4000) (off % 0x4000) data
  else
    let t := s.modDev d (fun x => data.zipIdx.foldl (fun x bi => x.bar0Put (off + bi.2) bi.1) x)
    if off < 0x40 && (t.dev d).mboxIn.length = 64 then t.soon (.mailbox d) else t

/-- REGISTER_WRITE (R395): a host write to BAR0. -/
def execRegisterWrite (d off size : Nat) (v : DWord) (s : State) : Host.Outcome State Fault Refusal :=
  .next (if (s.dev d).up then s.bar0Write d off (bytesOf (min size 8) v.toNat) else s)

/-! ### BAR2 and BAR4 (R17) -/

/-- The home key of a byte of an aperture; none where reads are zero and writes are discarded. -/
def State.apertureKey (s : State) (d bar o : Nat) : Option Nat :=
  let r := (s.dev d).regs
  if 2 ^ 40 ≤ o ∨ (r.rsvBase ≤ o ∧ o < r.rsvBase + r.rsvSize) then none else (homeOfPa d o (bar = 4)).filter s.powered

/-- The host as the source of an access (R17, R234): no context, agent 0xFE in a MEM_ERROR, charged to nobody. DESIGN CHOICE (log 116): what it
fills in L2 is filled as for a context 64, whose record is all zeros, in the ways of class 0; R351 speaks only of contexts' fills. -/
def hostWho (d : Nat) : Who := { dev := d, ctx := none, agent := hostAgent, pay := 64 }

/-- HOST_WRITE (R17): each block of the write is performed at its home. Over BAR0 it is a write to what Table 13 lays there. -/
def execHostWrite (d bar off : Nat) (data : List Byte) (s : State) : Host.Outcome State Fault Refusal :=
  .next (s.orWait (
    if !(s.dev d).up then s
    else if bar = 0 then s.bar0Write d off data
    else if bar != 2 && bar != 4 then s
    else
      let bytes := data.zipIdx.filterMap (fun (b, i) => (s.apertureKey d bar (off + i)).map (fun k => (k, b)))
      let blocks := (bytes.map (fun x => blockOf x.1)).dedup
      blocks.foldl (fun (t : State) b =>
        let mine := bytes.filter (fun x => blockOf x.1 = b)
        t.hwrNow b (mine.foldl (fun (v : BitVec 512) x => v ||| (BitVec.ofNat 512 (x.2.toNat * 256 ^ (x.1 % 64)))) 0)
          (mine.foldl (fun (m : BitVec 64) x => m ||| maskAt (x.1 % 64) 1) 0) none (hostWho d)) s))

/-- HOST_READ (R17): what the host link returns; a poisoned or uncorrectable block reads as all ones with the poisoned-data indication. The
bring-up registers answer also while the device is not up, so that a failed start can be read (R394, R395). -/
def execHostRead (d bar off n : Nat) (s : State) : Host.Outcome State Fault Refusal :=
  .next (s.orWait (
    let give := fun (s : State) (l : List Byte) (p : Bool) => s.modDev d (fun x => { x with hread := l, hpoison := p })
    if !(s.dev d).up && !(bar = 0 && decide (0x4000 ≤ off) && decide (off + n ≤ 0x7000)) then s
    else if bar = 0 then give s ((List.range n).map (fun i => s.bar0Byte d (off + i))) false
    else if bar != 2 && bar != 4 then s
    else
      let keys := (List.range n).map (fun i => s.apertureKey d bar (off + i))
      let blocks := (keys.filterMap (fun k => k.map blockOf)).dedup
      let (t, got) := blocks.foldl (fun (acc : State × Tab HomeData) b =>
        let (t, r) := acc.1.hrdNow b (hostWho d)
        (t, tabSet acc.2 b r)) (s, [])
      let byte := fun (k : Option Nat) => match k with
        | none => (0 : Byte)
        | some k => match tabGet got (blockOf k) with | some (.ok (x, _)) => blockByte x (k % 64) | _ => 0xFF
      give t (keys.map byte) (got.any (fun e => match e.2 with | .ok _ => false | .error _ => true))))

end Sys2Proof.Machine
end

