-- ==== Sys2Proof/Machine/Manage.lean ====
section
/-! DEFINITION. The management commands of the mailbox (R343, R391): context table, TLB invalidation, imports, pre-emption, event queues,
debugging, firmware, reset and attestation. -/

namespace Sys2Proof.Machine

/-! ### Commands and responses (R391, Table 11) -/

def cmdWord (c : Cmd) : Nat → Nat
  | 1 => c.w1.toNat | 2 => c.w2.toNat | 3 => c.w3.toNat | 4 => c.w4.toNat | 5 => c.w5.toNat | 6 => c.w6.toNat | 7 => c.w7.toNat | _ => 0

/-- No bit outside the masks of w1 to w7 is set, nor a reserved bit of w0. -/
def cmdLegal (c : Cmd) (masks : List DWord) : Bool :=
  c.hi = 0 && ([c.w1, c.w2, c.w3, c.w4, c.w5, c.w6, c.w7].zipIdx).all (fun x => x.1 &&& ~~~(masks.getD x.2 0) = 0)

/-- The context, the first parameter of most commands. -/
def cmdCtx (c : Cmd) : Nat := c.w1.toNat % 64

/-- The response of a command: 0 done, 1 refused, and a result; vector 0 is signalled after it. -/
def State.respond (s : State) (d code tag status result : Nat) : State :=
  let bytes := bytesOf 8 (code + tag * 2 ^ 16 + status * 2 ^ 32) ++ bytesOf 8 result
  (s.modDev d (fun x => { x with mbox := bytes.zipIdx.foldl (fun (t : Tab Byte) bi => tabSet t (0x40 + bi.2) bi.1) x.mbox })).msi d 0

/-- Carry out a command: refused with no change when a reserved bit is set or `f` refuses it. A device that is down, or that has not yet
answered a command, takes none. The firmware's own commands have no response (R343). -/
def State.command (s : State) (c : Cmd) (code : Nat) (masks : List DWord) (f : State → Option State) : Host.Outcome State Fault Refusal :=
  .next (s.orWait (
    let answer := fun (t : State) (status : Nat) => if c.fw then t else t.respond c.dev code c.tag.toNat status 0
    if !(s.dev c.dev).up || (s.dev c.dev).inval.isSome then s
    else match (if cmdLegal c masks then f s else none) with
      | none => answer s 1
      | some t => answer t 0))

def allBits : DWord := BitVec.allOnes 64

/-! ### The context table (R342, R343) -/

/-- A record image keeps to Table 1 of the isolation chapter. -/
def recordOk (l : List Nat) : Bool :=
  let w := fun (i : Nat) => l.getD i 0
  let depth := [bits (w 17) 0 32, bits (w 17) 32 32, bits (w 18) 0 32, bits (w 18) 32 32]
  bits (w 0) 8 8 = 0 && bits (w 0) 48 16 = 0 && bits (w 1) 0 13 = 0 && bits (w 1) 40 24 = 0 && bits (w 2) 0 7 = 0 && bits (w 2) 49 15 = 0
    && decide (w 3 ≤ 65536) && bits (w 4) 0 6 = 0 && bits (w 4) 49 15 = 0 && bits (w 5) 32 32 = 0 && bits (w 6) 0 2 = 0
    && bits (w 7) 0 7 = 0 && bits (w 7) 49 15 = 0 && bits (w 19) 0 16 = 0 && bits (w 19) 49 15 = 0 && bits (w 20) 32 32 = 0
    && depth.all (fun n => decide (1 ≤ n ∧ n < 2 ^ 31)) && (List.range 11).all (fun i => w (21 + i) = 0)

/-- The firmware's own read of device memory at a PA of an interleaved frame (log 117); none where the PA names no readable byte. -/
def State.firmwareRead (s : State) (d pa n : Nat) : State × Option (List Byte) :=
  (List.range n).foldl (fun (acc : State × Option (List Byte)) i =>
    match acc.2, homeOfPa d (pa + i) false with
    | some l, some key =>
      (match acc.1.hrdNow (blockOf key) { dev := d, ctx := none, agent := 4 * d, pay := 64 } with
       | (t, .ok (x, _)) => (t, some (l ++ [blockByte x (key % 64)]))
       | (t, .error _) => (t, none))
    | _, _ => (acc.1, none)) (s, some [])

/-- The record image that a CTX_WRITE names: at a host PA, or at a device PA when the firmware issues it (R343). -/
def State.ctxImage (s : State) (c : Cmd) : State × Option (List Nat) :=
  if c.fw then
    match s.firmwareRead c.dev (cmdWord c 2) 256 with
    | (t, some l) => (t, some ((List.range 32).map (fun i => ofBytes ((l.drop (8 * i)).take 8))))
    | (t, none) => (t, none)
  else (s, some ((List.range 32).map (fun i => s.hostLoad c.dev (cmdWord c 2 + 8 * i) 8)))

/-- CTX_WRITE (R343): a context that becomes valid starts with an empty push window and empty buckets. -/
def execCtxWrite (c : Cmd) (s : State) : Host.Outcome State Fault Refusal :=
  s.command c 1 [0x3F, allBits] (fun s =>
    let d := c.dev
    match s.ctxImage c with
    | (_, none) => none
    | (s, some img) =>
    if !recordOk img then none
    else
      let born := img.getD 0 0 % 2 = 1 && !s.ctxValid d (cmdCtx c)
      let s1 := s.modDev d (fun x => { x with
        ctxs := tabSet x.ctxs (cmdCtx c) (img.map (BitVec.ofNat 64))
        wins := if born then tabErase x.wins (cmdCtx c) else x.wins })
      some (if born then (List.range 4).foldl (fun (t : State) i => t.modDie (4 * d + i) (fun x => { x with level := tabErase x.level (cmdCtx c) })) s1 else s1))

/-- CTX_DESTROY (R343, R368): the kill, then Valid is cleared. -/
def execCtxDestroy (c : Cmd) (s : State) : Host.Outcome State Fault Refusal :=
  s.command c 2 [0x3F] (fun s =>
    if !s.ctxValid c.dev (cmdCtx c) then some s
    else some ((s.kill c.dev (cmdCtx c) true (fun _ => true) 1).modDev c.dev (fun x => { x with
      ctxs := tabSet x.ctxs (cmdCtx c) ((tabGetD x.ctxs (cmdCtx c) []).modify 0 (fun w => w &&& ~~~1#64)) })))

/-! ### TLB_INVAL (R349) -/

/-- The first and last byte of an entry's page, and of a range. -/
def TlbEntry.lo (e : TlbEntry) : Nat := e.page * pageBytes e.size
def TlbEntry.overlaps (e : TlbEntry) (lo hi : Nat) : Bool := decide (e.lo < hi) && decide (lo < e.lo + pageBytes e.size)

/-- L1 entries of a core that an invalidation of [lo, hi) drops: those that overlap it, and those that overlap a page at its edges that the
filter says is held. -/
def Core.invHit (c : Core) (ctx lo hi : Nat) (e : TlbEntry) : Bool :=
  e.ctx = ctx && (e.overlaps lo hi || [0, 1, 2].any (fun z => [lo, hi - 1].any (fun a =>
    let p := a / pageBytes z
    bloomHit c.bloom (bloomKey ctx z p) && e.overlaps (p * pageBytes z) ((p + 1) * pageBytes z))))

/-- A core drops the L1 entries that an invalidation of [lo, hi) hits, or for `all` clears its filter and drops every entry, so that none is
left that the filter does not show (R349, R350; DESIGN CHOICE, log 115). -/
def Core.inval (c : Core) (ctx : Nat) (all : Bool) (lo hi : Nat) : Core :=
  if all then { c with tlb := [], bloom := 0 } else { c with tlb := c.tlb.filter (fun e => !c.invHit ctx lo hi e) }

/-- Drop entries of a context on a device. -/
def State.invalidate (s : State) (d ctx : Nat) (all : Bool) (lo hi : Nat) : State :=
  let hitL2 := fun (e : TlbEntry) => e.ctx = ctx && (all || e.overlaps lo hi)
  { s with
    clusters := s.clusters.map (fun (x : Nat × Cluster) => if x.1 / 144 = d then (x.1, { x.2 with tlb := x.2.tlb.filter (fun e => !hitL2 e) }) else x)
    cores := s.cores.map (fun (x : Nat × Core) => if devOfCore x.1 = d then (x.1, x.2.inval ctx all lo hi) else x) }

/-- Operations of a context's warps on a device that have gone through translation and are not performed yet: accesses, barrier updates and
monitor requests, and channel operations on their way to their home (R349). `via` says of a core whether an operation of it counts that was
translated through the entries of a kind; one whose translated addresses are several counts with every entry (DESIGN CHOICE, log 75). -/
def State.translated (s : State) (d ctx : Nat) (via : Nat → (TlbEntry → Bool) → Bool) : List Nat :=
  let mine := fun (w : WarpId) (through : TlbEntry → Bool) => w.wg.dev = d && s.ctxOf w = ctx && via (s.coreOf w) through
  (s.accs.filter (fun a => !a.held && a.parts.any (fun p => match p.loc with
      | .spad .. | .pad _ => false
      | .view .. | .decoded .. => mine a.w (fun _ => true)
      | _ => mine a.w (fun e => p.sh || e.hits ctx (a.addrs.getD p.lane 0))))).map (·.id)
    ++ (s.upds.filter (fun u => !u.done && !u.ticket && (match u.bar, u.kind with
        | _, .fired _ => false
        | _, .mon .. => mine u.w (fun _ => true)
        | _, .monx .. => mine u.w (fun _ => true)
        | .home _, _ => mine u.w (fun e => e.hits ctx u.va)
        | _, _ => false))).map (·.id)
    ++ (s.chops.filter (fun o => match o.loc with
        | .held .. | .forwarded _ => mine o.w (fun e => e.hits ctx (chVa o.handle))
        | _ => false)).map (·.id)

/-- L1 entries that a core drops. -/
def State.droppedTlb (s t : State) (core : Nat) : List TlbEntry := (s.coreAt core).tlb.filter (fun e => !(t.coreAt core).tlb.contains e)

/-- The pending TLB_INVAL completes once every operation it waits for has been performed. -/
def State.endInval (s : State) (d : Nat) : State :=
  match (s.dev d).inval with
  | none => s
  | some v =>
    if (s.translated d v.ctx (fun _ _ => true)).any (fun i => v.accs.contains i) then s
    else
      let t := s.modDev d (fun x => { x with inval := none })
      match v.resp with
      | some r => t.respond d 3 (bits r.toNat 16 16) 0 0
      | none => t

/-- TLB_INVAL (R349): the entries are dropped, and the command completes when every core has answered: at once where it dropped none, otherwise
once every access that it translated through an entry dropped has been performed. -/
def execTlbInval (c : Cmd) (s : State) : Host.Outcome State Fault Refusal :=
  if c.hi != 0 || !cmdLegal c [0x1FF, allBits, allBits] || bits (cmdWord c 1) 6 2 = 3 || !(s.dev c.dev).up || (s.dev c.dev).inval.isSome then
    s.command c 3 [] (fun _ => none)
  else
    let n := cmdWord c 3
    let t := s.invalidate c.dev (cmdCtx c) (bits (cmdWord c 1) 8 1 = 1 || decide (256 < n)) (cmdWord c 2) (cmdWord c 2 + n * pageBytes (bits (cmdWord c 1) 6 2))
    .next ((t.modDev c.dev (fun x => { x with
      inval := some { ctx := (cmdCtx c), accs := s.translated c.dev (cmdCtx c) (fun core through => (s.droppedTlb t core).any through),
                      resp := if c.fw then none else some (BitVec.ofNat 64 (3 + c.tag.toNat * 2 ^ 16)) } })).endInval c.dev)

/-! ### Imports, event queues (R348, R390) -/

/-- IMPORT_WRITE (R348). -/
def execImportWrite (c : Cmd) (s : State) : Host.Outcome State Fault Refusal :=
  s.command c 4 [0xFF, 0x7FFFFFF, allBits, allBits] (fun s =>
    let w := cmdWord c 2
    let e : Import := { fabric := bits w 1 1 = 1, device := bits w 2 12, srcCtx := bits w 14 6, acctCtx := bits w 20 6, writable := bits w 26 1 = 1,
                        base := cmdWord c 3, len := cmdWord c 4 }
    some (s.modDev c.dev (fun x => { x with
      imports := if w % 2 = 1 then tabSet x.imports (cmdWord c 1 % 256) e else tabErase x.imports (cmdWord c 1 % 256) })))

/-- EVQ_WRITE (R390). -/
def execEvqWrite (c : Cmd) (s : State) : Host.Outcome State Fault Refusal :=
  s.command c 6 [0x7FF0F7F, allBits, allBits] (fun s =>
    let q := cmdWord c 1 % 128
    let k := bits (cmdWord c 1) 8 4
    if 64 < q ∨ k < 4 ∨ cmdWord c 2 % 64 ≠ 0 ∨ cmdWord c 3 % 8 ≠ 0 then none
    else some (s.modDev c.dev (fun x => { x with
      evqs := tabSet x.evqs q { ring := cmdWord c 2, k := k, vec := bits (cmdWord c 1) 16 11, mirror := cmdWord c 3 } })))

/-! ### Pre-emption (R357, R358) -/

/-- Change the state of the workgroups of a cluster group that are not gone. -/
def State.setCg (s : State) (g : CgId) (f : Wg → Wg) : State :=
  { s with wgs := s.wgs.map (fun h => if h.id.dev = g.dev && h.id.launch = g.launch && h.cg = g.cg then f h else h) }
def State.cgWgs (s : State) (g : CgId) : List Wg := s.wgs.filter (fun h => h.id.dev = g.dev && h.id.launch = g.launch && h.cg = g.cg)

/-- A group enters Stopping: its warps stop at the next issue-group boundary, and sleeping time stands still (R359, R381), but for a
handler with traps masked, which goes on. -/
def State.stopCg (s : State) (g : CgId) : State :=
  (s.setCg g (fun h => if h.st == .running || h.st == .draining then
      { h with st := .stopping, warps := h.warps.map (fun x => if x.done || (x.handler && x.masked) then x else x.freeze (s.cycle g.dev)) } else h)).setPg g .stopping

/-- Withdraw the context's bind records that stand in the slot tables of a cluster set; their groups are placed again later, those of
Restore records from their images (R357, R358). -/
def State.withdraw (s : State) (d ctx : Nat) (clusters : List Nat) : State :=
  let mine := fun (b : Bind) => (match s.launch? d (bits b.w0.toNat 0 10) with | some l => l.ctx = ctx | none => false)
  clusters.foldl (fun (t : State) k =>
    let gone := (t.cluster k).slots.filter mine
    (gone.filter (fun b => bits b.w1.toNat 63 1 = 0)).foldl (fun (t : State) b =>
      let e := bits b.w0.toNat 0 10
      match t.launch? d e with
      | some l => t.setLaunch d e { l with again := insertBy id (bits b.w0.toNat 16 32) l.again }
      | none => t) (if gone.isEmpty then t else t.modCluster k (fun c => { c with slots := c.slots.filter (fun b => !mine b) }))) s

/-- Cluster groups of a context resident on a cluster set. -/
def State.groupsOn (s : State) (d ctx : Nat) (clusters : List Nat) : List CgId :=
  ((s.wgs.filter (fun g => g.id.dev = d && g.ctx = ctx && g.resident && clusters.contains (clusterOfCore g.core))).map
    (fun g => ({ dev := d, launch := g.id.launch, cg := g.cg } : CgId))).dedup

/-- The pre-emption state in which a new command finds a cluster group. -/
def State.pgState (s : State) (g : CgId) : PgSt :=
  if (s.cgWgs g).any (fun h => h.st == .saving) then .saving
  else if (s.cgWgs g).any (fun h => h.st == .stopping) then .stopping else .draining

/-- PREEMPT (R357): drain, swap or kill. -/
def execPreempt (c : Cmd) (s : State) : Host.Outcome State Fault Refusal :=
  s.command c 5 [0x33F, allBits, allBits, 0xFFFF, 0xFFFFFFFF] (fun s =>
    let d := c.dev
    let mode := bits (cmdWord c 1) 8 2
    if mode = 3 ∨ !s.ctxValid d (cmdCtx c) then none
    else
      let set := cmdWord c 2 + cmdWord c 3 * 2 ^ 64 + cmdWord c 4 * 2 ^ 128
      let clusters := ((List.range 144).filter (fun i => set.testBit i)).map (fun i => 144 * d + i)
      let w20 := s.ctxWord d (cmdCtx c) 20
      let pick := fun (x y z : Nat) => 1000 * (if x != 0 then x else if y != 0 then y else z)
      let s1 := s.withdraw d (cmdCtx c) clusters
      let groups := s1.groupsOn d (cmdCtx c) clusters
      let p : Preempt := {
        ctx := cmdCtx c, mode := mode, clusters := clusters,
        drainNs := pick (bits (cmdWord c 5) 0 16) (bits w20 0 16) 200, swapNs := pick (bits (cmdWord c 5) 16 16) (bits w20 16 16) 50,
        groups := groups.map (fun g => { cg := g, st := s1.pgState g, since := s1.clock d }) }
      let s2 := s1.modDev d (fun x => { x with preempts := x.preempts ++ [p] })
      some (match mode with
        | 0 => (groups.foldl (fun (t : State) g => t.setCg g (fun h => if h.st == .running then { h with st := .draining } else h)) s2).settlePre d
        | 1 => (groups.foldl (fun (t : State) g => if (s1.cgWgs g).any (fun h => h.st == .saving || h.st == .stopping) then t else t.stopCg g) s2).settlePre d
        | _ => (s2.kill d (cmdCtx c) false (fun k => clusters.contains k) 2).settlePre d))

/-! ### Debugging, firmware, reset, identity (R374, R392, R393) -/

/-- A double-faulted warp enters the handler again: handler mode, traps masked, bit [2] of `%hstat`; its frame is unchanged. -/
def Warp.reenter (x : Warp) (pc : Nat) : Warp :=
  { x with hstat := hstatDebug x.hstat, mask := ~~~x.exited, stack := [], pfx := none, park := [], pc := pc, halt := none, ptrap := none,
           checked := true }

/-- DBG_RESUME (R374, R392): refused when no such warp has double-faulted, or its context names no usable handler. -/
def execDbgResume (c : Cmd) (s : State) : Host.Outcome State Fault Refusal :=
  s.command c 7 [0x3FFFFF] (fun s =>
    let d := c.dev
    let core := 576 * d + 144 * bits (cmdWord c 1) 6 2 + bits (cmdWord c 1) 8 8
    let i := bits (cmdWord c 1) 16 6
    match s.wgs.find? (fun g => g.id.dev = d && g.ctx = (cmdCtx c) && g.core = core && g.halted && g.owner = some i && g.resident) with
    | none => none
    | some g =>
      match s.usableHandler g i with
      | none => none
      | some pc =>
        some (((s.modWg g.id (fun g => { g with halted := false })).modWarp { wg := g.id, warp := i } (fun x => x.reenter pc)).modDev d
          (fun x => { x with dbgOwner := some (cmdCtx c) })))

/-- FW_STAGE (R393): an image that passes the boot ROM's checks is written to flash, and minimal mode ends with the next start. -/
def execFwStage (c : Cmd) (s : State) : Host.Outcome State Fault Refusal :=
  s.command c 8 [0, allBits, allBits] (fun s =>
    let img := bytesOf (cmdWord c 3) (s.hostLoad c.dev (cmdWord c 2) (cmdWord c 3))
    if !Config.imageValid img || decide (Config.imageVersion img < Config.fusedMinimum) then none
    else some (s.modDev c.dev (fun x => { x with
      fw := { x.fw with staged := some (Config.imageDigest img, Config.imageVersion img), signed := true }
      regs := if x.regs.minimal then { x.regs with failed := 0 } else x.regs })))

/-- RESET (R367): a device-fatal reset; bit [0] clears the failed-start count. -/
def execReset (c : Cmd) (s : State) : Host.Outcome State Fault Refusal :=
  s.command c 9 [1] (fun s =>
    let t := s.deviceFatal c.dev 7 0
    some (if cmdWord c 1 % 2 = 1 then t.modDev c.dev (fun x => { x with regs := { x.regs with failed := 0 } }) else t))

/-- ATTEST (R393): the identity key's signature over nonce, digest, mode and reason. -/
def execAttest (c : Cmd) (s : State) : Host.Outcome State Fault Refusal :=
  s.command c 10 [0, allBits, allBits] (fun s =>
    let x := s.dev c.dev
    let nonce := bytesOf 64 (s.hostLoad c.dev (cmdWord c 2) 64)
    let answer := ofBytes ((List.range 256).map (Config.attestation c.dev nonce x.fw.running x.regs.minimal x.regs.reason))
    some (s.hostStore c.dev (cmdWord c 3) 256 answer))

end Sys2Proof.Machine
end

