-- ==== Sys2Proof/Machine/Admit.lean ====
section
/-! DEFINITION. The management core's launch path (R43 to R50, R300 to R305), dispatch (R306 to R308), warps' first and last steps (R28 to
R30) and the fetch of code lines (R54). -/

namespace Sys2Proof.Machine

/-! ### Reads of the management core (R301) -/

/-- Bytes inside one block at a VA of a context, read at their home; none when they cannot be read. -/
def State.coreRead (s : State) (d ctx va n : Nat) : State × Option (List Byte) :=
  if 2 ^ 49 ≤ va then (s, none)
  else
  let s := s.walked (4 * d) d ctx va
  match s.translate d ctx va with
    | .error _ => (s, none)
    | .ok p =>
      match p.place, p.key with
      | .host pa, _ => (s, some (bytesOf n (s.hostLoad d pa n)))
      | .memory .., some key =>
        if !s.admitted d ctx p n false then (s, none)
        else match s.readHomeBytes key n (s.whoFor d ctx (4 * d) (blockOf key)) with
          | (t, .ok l) => (t, some l)
          | (t, .error _) => (t, none)
      | _, _ => (s, none)

/-- Bytes as 64-bit words. -/
def wordsOf (l : List Byte) : List DWord := (List.range (l.length / 8)).map (fun i => BitVec.ofNat 64 (ofBytes ((l.drop (8 * i)).take 8)))

/-! ### Kernel descriptors (R43, R45, R50) -/

/-- The fields checked of every descriptor: version, reserved bits, and those of the variant table. -/
def kdFormOk (kd : List DWord) : Bool :=
  let f := fieldAt kd
  let present := f 2 2 % 2 = 1
  f 0 2 = 1 && f 2 2 / 2 = 0 && f 0x10 2 / 512 = 0 && bits (f 0x12 2) 7 1 = 0 && bits (f 0x12 2) 15 1 = 0
    && f 0x32 2 = 0 && f 0x34 4 = 0 && f 0x38 8 = 0 && f 0x28 8 % 16 = 0
    && (if present then f 0x30 2 != 0 else f 0x30 2 = 0 && f 0x28 8 = 0)

def kdRegs (kd : List DWord) : Nat := fieldAt kd 0x10 2 % 512
def kdWMin (kd : List DWord) : Nat := fieldAt kd 0x12 2 % 128
def kdWMax (kd : List DWord) : Nat := bits (fieldAt kd 0x12 2) 8 7
def kdSpad (kd : List DWord) : Nat := fieldAt kd 0x14 4
def kdPriv (kd : List DWord) : Nat := fieldAt kd 0x18 2
def kdAcc (kd : List DWord) : Nat := fieldAt kd 0x1A 2 % 16
def kdMaps (kd : List DWord) : Nat := bits (fieldAt kd 0x1A 2) 4 5
def kdTiles (kd : List DWord) : Nat := bits (fieldAt kd 0x1A 2) 9 7
def kdCode (kd : List DWord) : Nat := fieldAt kd 8 8
def kdEntry (kd : List DWord) : Nat := fieldAt kd 4 4
def kdData (kd : List DWord) : Nat := fieldAt kd 0x20 8
def kdVariants (kd : List DWord) : Bool := fieldAt kd 2 2 % 2 = 1

/-- Live cores of a cluster (R22), and the most that a cluster of the device has; in minimal mode only die 0 runs (R394). -/
def Dev.liveCores (x : Dev) (c : Nat) : Nat := ((List.range 4).filter (fun k => !x.fused.contains (4 * c + k))).length
def Dev.mostLive (x : Dev) : Nat := (List.range (if x.regs.minimal then 36 else 144)).foldl (fun n c => max n (x.liveCores c)) 0

/-- R45 and R21 for a launch record against the chosen descriptor. -/
def launchOk (x : Dev) (lr kd : List DWord) : Bool :=
  let w := wordOf lr
  let wn := bits (w 0) 43 7
  let g := bits (w 1) 43 3
  kdFormOk kd && !kdVariants kd && kdCode kd % 64 = 0 && decide (1 ≤ kdRegs kd ∧ kdRegs kd ≤ 256)
    && decide (1 ≤ kdWMin kd ∧ kdWMin kd ≤ kdWMax kd ∧ kdWMax kd ≤ 64)
    && kdSpad kd % 2048 = 0 && decide (kdSpad kd ≤ 524288) && decide (kdPriv kd ≤ 2048) && decide (kdAcc kd ≤ 8) && decide (kdMaps kd ≤ 16)
    && decide (kdTiles kd ≤ 64) && decide (fieldAt kd 0x1C 4 ≤ 65536)
    && bits (w 0) 63 1 = 0 && bits (w 1) 51 13 = 0 && bits (w 2) 46 18 = 0 && [4, 5, 6, 7].all (fun i => bits (w i) 61 2 = 0)
    && decide (kdWMin kd ≤ wn ∧ wn ≤ kdWMax kd) && decide (1 ≤ g ∧ g ≤ 4) && decide (g ≤ x.mostLive)
    && decide (kdSpad kd + 256 * kdPriv kd * wn ≤ 524288) && decide (kdRegs kd * ((wn + 3) / 4) ≤ 512)
    && decide (bits (w 3) 0 20 * bits (w 3) 20 16 * bits (w 3) 36 12 ≤ 2 ^ 32)

/-- Why a launch is refused: reason, and the VA that could not be read. -/
abbrev Refused := Nat × Option Nat

/-- Every entry of a variant table: signature, selector, reserved bits, descriptor VA. -/
def State.variants (s : State) (d ctx va : Nat) : Nat → State × Except Refused (List (Nat × Nat × Nat × Nat))
  | 0 => (s, .ok [])
  | n + 1 =>
    match s.variants d ctx va n with
    | (t, .error e) => (t, .error e)
    | (t, .ok l) =>
      match t.coreRead d ctx (va + 16 * n) 16 with
      | (u, none) => (u, .error (4, some (va + 16 * n)))
      | (u, some b) => (u, .ok (l ++ [(ofBytes (b.take 4), ofBytes ((b.drop 4).take 2), ofBytes ((b.drop 6).take 2), ofBytes ((b.drop 8).take 8))]))

/-- R50: a table's choice for a selector and signature. -/
def pickVariant (l : List (Nat × Nat × Nat × Nat)) (sel sig : Nat) : Option Nat :=
  match l.find? (fun e => e.2.1 = sel && e.1 = sig) with
  | some e => some e.2.2.2
  | none => (l.find? (fun e => e.2.1 = sel && e.1 = 0xFFFFFFFF)).map (fun e => e.2.2.2)

def State.readKd (s : State) (d ctx va : Nat) : State × Except Refused (List DWord) :=
  match s.coreRead d ctx va 64 with
  | (t, some b) => (t, .ok (wordsOf b))
  | (t, none) => (t, .error (4, some va))

/-- The choice of the descriptor (R50). DESIGN CHOICE (log 78): an entry whose KD VA is not a multiple of 64 refuses the launch as a nonzero
reserved bit does, whether or not the choice would reach it. -/
def State.chooseKd (s : State) (d ctx : Nat) (lr : List DWord) : State × Except Refused (List DWord) :=
  match s.readKd d ctx (bits (wordOf lr 0) 0 43 * 64) with
  | (t, .error e) => (t, .error e)
  | (t, .ok kd) =>
    if !kdVariants kd then (t, .ok kd)
    else if !kdFormOk kd then (t, .error (1, none))
    else match t.variants d ctx (fieldAt kd 0x28 8) (fieldAt kd 0x30 2) with
      | (u, .error e) => (u, .error e)
      | (u, .ok l) =>
        if l.any (fun e => e.2.2.1 != 0 || e.2.2.2 % 64 != 0) then (u, .error (1, none))
        else match pickVariant l (bits (wordOf lr 3) 48 16) (u.dev d).signature with
          | none => (u, .error (2, none))
          | some va => u.readKd d ctx va

/-- The checks of an admitted launch before its dependencies (R301). -/
def State.checkLaunch (s : State) (d ctx : Nat) (lr : List DWord) : State × Except Refused (List DWord) :=
  if bits (wordOf lr 0) 50 6 != ctx then (s, .error (1, none))
  else match s.chooseKd d ctx lr with
    | (t, .error e) => (t, .error e)
    | (t, .ok kd) => if launchOk (t.dev d) lr kd then (t, .ok kd) else (t, .error (1, none))

/-- One LAUNCH_REFUSED event (R301, Table 10). -/
def State.refuseLaunch (s : State) (d ctx seq lrVa : Nat) (r : Refused) : State :=
  s.raiseEvent d ctx 0 0 0x02 ([seq, r.1, lrVa] ++ (match r.2 with | some va => [va] | none => []))

/-! ### Dependencies and votes (R302 to R304) -/

/-- A launch whose dependencies are met: an empty grid completes (R303); otherwise it votes and waits for a stable point (R304). -/
def State.launchMet (s : State) (d e : Nat) (l : Launch) : State :=
  let s := s.dropTickets d e
  if l.wgs = 0 then ((s.completionWord d l).completion d l 0 4 0).dropLaunch d e
  else
    let vote := if bits (wordOf l.lr 0) 62 1 = 1 then some (bits (wordOf l.lr 0) 59 3) else none
    let t := (s.setLaunch d e { l with metAt := some (s.clock d), vote := vote, watch := [], st := .voting }).repoint d
    if (t.dev d).regs.want.isSome then t else t.setLaunch d e { l with metAt := some (s.clock d), vote := vote, watch := [], st := .placing }

/-- Read a launch's dependencies in word order: whether all are met, the phase words, or why it is refused. All of them are read at each
check, a later one also while an earlier one is unmet, as R302 asks all four at the same time (DESIGN CHOICE, log 127: R301 waits on each in
turn). -/
def State.readDeps (s : State) (d : Nat) (l : Launch) : State × Except Refused (Bool × List Nat) :=
  [4, 5, 6, 7].foldl (fun (acc : State × Except Refused (Bool × List Nat)) i =>
    match acc with
    | (t, .error e) => (t, .error e)
    | (t, .ok (met, ws)) =>
      let w := wordOf l.lr i
      if bits w 63 1 = 0 then (t, .ok (met, ws))
      else
        let va := bits w 0 45 * 16
        let t := t.walked (4 * d) d l.ctx va
        match t.translate d l.ctx va with
        | .error _ => (t, .error (4, some va))
        | .ok p =>
          match p.place, p.key with
          | .memory _ v _, some key =>
            if v != d then (t, .error (1, none))
            else match t.coreRead d l.ctx va 16 with
              | (u, none) => (u, .error (4, some va))
              | (u, some b) => (u, .ok (met && metBy (ofBytes (b.take 2)) (bits w 45 16), ws ++ [key / 8]))
          | _, _ => (t, .error (1, none))) (s, .ok (true, []))

/-- The tickets of a launch for its phase words. -/
def State.depTickets (s : State) (d e : Nat) : List Ticket :=
  (List.range 4).flatMap (fun v => ((s.die (4 * d + v)).monQ.filter (fun k => k.launch = some (d, e))))

/-- Keep the management core's monitor on a phase word armed: it stays, takes the slot that its ticket was offered or a free one, or gets a
ticket (R302, R337). -/
def State.watchWord (s : State) (d e w : Nat) : State :=
  let a := agentOfBlock (w / 8)
  let armed := fun (t : State) => match t.launch? d e with | some l => t.setLaunch d e { l with watch := l.watch ++ [w] } | none => t
  match s.launch? d e with
  | none => s
  | some l =>
    if l.watch.contains w then s
    else match (s.die a).monQ.find? (fun k => k.launch = some (d, e) && k.op = w) with
      | some k => if k.offered.isSome then armed (s.modDie a (fun x => { x with monQ := x.monQ.erase k })) else s
      | none =>
        if s.monSlots a < 4096 && (s.die a).monQ.isEmpty then armed s
        else s.modDie a (fun x => { x with monQ := x.monQ ++ [{ op := w, offered := none, launch := some (d, e) }] })

/-- The epochs that the acquire of met dependencies has still to drain: the core sits on die 0, so it receives the records of the lazy
releases to phase words with homes there (R240, R257, R302). -/
def State.depRecords (s : State) (d : Nat) (ws : List Nat) : List (Nat × Nat) :=
  ((ws.filter (fun w => agentOfBlock (w / 8) = 4 * d)).flatMap (fun w => (s.lineRecords (w / 8)).map (fun r => (576 * d + r.core, r.epoch)))).filter
    (fun e => !s.epochDrained e.1 e.2)

/-- Check a launch's dependencies: refused, met once the acquire's drains are answered, or its monitors armed again (R302). -/
def State.checkDeps (s : State) (d e : Nat) (l : Launch) : State :=
  match s.readDeps d l with
  | (t, .error r) => (t.dropLaunch d e).refuseLaunch d l.ctx l.seq l.lrVa r
  | (t, .ok (true, ws)) =>
    match t.depRecords d ws with
    | [] => t.launchMet d e l
    | es => es.foldl (fun (t : State) x => t.askDrain x.1 x.2) t
  | (t, .ok (false, ws)) => ws.foldl (fun (t : State) w => t.watchWord d e w) t

/-- DEPENDENCY_CHECK (R301, R302): a monitor of a waiting launch has fired, one of its tickets has been offered a slot, a barrier that it
waits for has become POISON, or the drains of its acquire are answered. -/
def execDependencyCheck (d e : Nat) (s : State) : Host.Outcome State Fault Refusal :=
  .next (s.orWait (match s.launch? d e with
  | some l =>
    let n := ([4, 5, 6, 7].filter (fun i => bits (wordOf l.lr i) 63 1 = 1)).length
    let ks := s.depTickets d e
    if l.st == .waiting && !l.ended && (decide (l.watch.length + ks.length < n) || ks.any (fun k => k.offered.isSome)
        || l.watch.any (fun w => (s.hall (w / 8)).isPoison)) then s.checkDeps d e l else s
  | none => s))

/-! ### Admission (R300, R301) -/

/-- The descriptor that the management core finds on a launch channel that holds a record. -/
def State.waitingOn (s : State) (d c p : Nat) : Option (ChOp × Nat × ChDesc) :=
  let h := BitVec.ofNat 64 (s.ctxWord d c (8 + p))
  if h = 0 || !chHandleOk h || !s.ctxValid d c then none
  else
    let o := coreChop d c (.popTry false false 0 0) h []
    match s.chanPlace o (chVa h) 64 with
    | .error _ => none
    | .ok key =>
      match s.peekHome (blockOf key) with
      | .error _ => none
      | .ok (x, _) =>
        let dsc := (List.range 8).map (fun i => x.toNat / 2 ^ (64 * i) % 2 ^ 64)
        if (descFault o dsc).isSome || descCount dsc = 0 then none else some (o, key, dsc)

/-- 5 ms (R300). -/
def ageNs : Nat := 5000000

/-- Both tests of R300, step 2: launches whose dependencies have been met for 5 ms, and channels whose oldest record was pushed 5 ms ago. -/
def State.ageing (s : State) (d : Nat) : State :=
  let now := s.clock d
  let old := (List.range 64).flatMap (fun c => if !s.ctxValid d c then [] else (List.range 8).filterMap (fun p =>
    match s.waitingOn d c p with
    | some (_, key, _) => (match tabGetD (s.die (agentOfKey key)).age key [] with
        | t :: _ => if t + ageNs ≤ s.clock (devOfAgent (agentOfKey key)) then some (8 * c + p) else none
        | [] => none)
    | none => none))
  s.modDev d (fun x => { x with
    launches := x.launches.map (fun (e : Nat × Launch) => (e.1, { e.2 with aged := (match e.2.metAt with | some t => decide (t + ageNs ≤ now) | none => false) }))
    agedCh := old })

/-- LAUNCH_AGEING (R300). -/
def execLaunchAgeing (d : Nat) (s : State) : Host.Outcome State Fault Refusal := .next (if (s.dev d).up then s.ageing d else s)

/-- Channel of a context that is served at a priority: its own of that priority, or at 7 its highest aged one. -/
def State.servedAt (s : State) (d c q : Nat) : Option Nat :=
  if !s.ctxValid d c then none
  else if (s.waitingOn d c q).isSome then some q
  else if q = 7 then [6, 5, 4, 3, 2, 1, 0].find? (fun p => (s.dev d).agedCh.contains (8 * c + p) && (s.waitingOn d c p).isSome)
  else none

/-- The channel to pop: highest priority first, contexts round-robin within it: priority served, context, channel. -/
def State.nextChannel (s : State) (d : Nat) : Option (Nat × Nat × Nat) :=
  [7, 6, 5, 4, 3, 2, 1, 0].findSome? (fun q =>
    let last := (s.dev d).rr.getD q 63
    ((List.range 64).map (fun i => (last + 1 + i) % 64)).findSome? (fun c => (s.servedAt d c q).map (fun p => (q, c, p))))

/-- A free entry of the 1,024. -/
def Dev.freeEntry (x : Dev) : Option Nat := (List.range 1024).find? (fun e => (tabGet x.launches e).isNone)

/-- LAUNCH_ADMIT (R300, R301): pop one record, give it its `%seq`, check it, and begin to wait on its dependencies. A ring slot that cannot be
translated or read leaves the record where it is, and its channel chosen, while a channel with an unreadable or faulty descriptor takes no
part (DESIGN CHOICE, log 128: R300 states neither case). -/
def execLaunchAdmit (d : Nat) (s : State) : Host.Outcome State Fault Refusal :=
  .next (s.orWait (
    if !(s.dev d).up then s
    else
      let s := s.ageing d
      match (s.dev d).freeEntry, s.nextChannel d with
      | some e, some (q, c, p) =>
        match s.waitingOn d c p with
        | none => s
        | some (o, key, dsc) =>
          match s.takeRecord o key dsc with
          | (t, dsc', .got rcd _) =>
            let slotVa := ringVa dsc 64 (descHead dsc)
            let seq := (t.dev d).seqNext
            let t1 := (t.writeDesc o key dsc').modDev d (fun x => { x with
              seqNext := (x.seqNext + 1) % 2 ^ 32
              rr := (List.range 8).map (fun i => if i = q then c else x.rr.getD i 63) })
            let lr := wordsOf rcd
            match t1.checkLaunch d c lr with
            | (u, .error r) => u.refuseLaunch d c seq slotVa r
            | (u, .ok kd) =>
              let l : Launch := {
                seq := seq, ctx := c, prio := p, lr := lr, kd := kd, lrVa := slotVa, st := .waiting, metAt := none, nextCg := 0, ended := false,
                cgLeft := [], dgLeft := [], grid := 0, vote := none, watch := [], again := [], dgDie := [], aged := false }
              (u.setLaunch d e l).checkDeps d e l
          | (_, _, _) => s
      | _, _ => s))

/-! ### Placement (R27, R305) -/

/-- The management core writes no bind record of a context on a cluster set under pre-emption (R358). -/
def State.blockedOn (s : State) (d ctx k : Nat) : Bool := (s.dev d).preempts.any (fun p => p.ctx = ctx && p.clusters.contains k)

/-- A bind record (Table 2). -/
def mkBind (e cg first m : Nat) (cores quads : List Nat) (restore : Bool) : Bind :=
  let put := fun (l : List Nat) => (List.range m).foldl (fun n k => n + l.getD k 0 % 4 * 4 ^ k) 0
  { w0 := BitVec.ofNat 64 (e % 1024 + cg % 2 ^ 32 * 2 ^ 16)
    w1 := BitVec.ofNat 64 (first % 2 ^ 32 + m % 8 * 2 ^ 32 + put cores * 2 ^ 40 + put quads * 2 ^ 48 + (if restore then 2 ^ 63 else 0)) }

/-- Workgroups of cluster group `cg` (R26). -/
def Launch.groupSize (l : Launch) (cg : Nat) : Nat := min l.g (l.wgs - l.g * cg)

/-- The cores named for the `m` workgroups of a cluster group on a cluster are distinct live cores (R21, R22, R27). -/
def State.coresOk (s : State) (d k m : Nat) (cores : List Nat) : Bool :=
  let l := cores.take m
  l.length = m && l.dedup.length = m && l.all (fun c => !(s.dev d).fused.contains (4 * (k % 144) + c))

/-- Write the bind record of the next cluster group of a launch, and set its counters (R46). A choice of cores that breaks R27 places
nothing. -/
def State.placeNext (s : State) (d e : Nat) (l : Launch) (p : Placing) : State :=
  let k := 144 * d + 36 * p.die + p.cluster
  let fresh := l.again.isEmpty
  let cg := l.again.headD l.nextCg
  let dg := cg / 36
  let m := l.groupSize cg
  if l.cgs ≤ cg || (match tabGet l.dgDie dg with | some die => die != p.die | none => false) || !s.coresOk d k m (p.cores.map (·.toNat)) then s
  else
    let b := mkBind e cg (l.g * cg) m (p.cores.map (·.toNat)) (p.quads.map (·.toNat)) false
    let dgs := (l.cgs + 35) / 36
    let l1 := { l with
      grid := if fresh && cg = 0 then dgs else l.grid
      cgLeft := if fresh then tabSet l.cgLeft cg m else l.cgLeft
      dgLeft := if fresh && cg % 36 = 0 then tabSet l.dgLeft dg (min 36 (l.cgs - cg)) else l.dgLeft
      dgDie := tabSet l.dgDie dg p.die
      nextCg := if fresh then cg + 1 else l.nextCg
      again := l.again.drop 1 }
    (s.setLaunch d e l1).modCluster k (fun c => { c with slots := c.slots ++ [b] })

/-- Write the Restore record of a swapped cluster group: same die, core positions and quadrants (R362). -/
def State.placeRestore (s : State) (d e : Nat) (l : Launch) (p : Placing) (cg : Nat) : State :=
  let k := 144 * d + 36 * p.die + p.cluster
  let gs := sortBy (fun g => g.id.index) (s.cgWgs { dev := d, launch := e, cg := cg })
  let same := !gs.isEmpty && gs.all (fun g => g.st == .swapped && agentOfCore g.core = 4 * d + p.die)
    && gs.map (fun g => g.pos) = (p.cores.take gs.length).map (·.toNat) && gs.map (fun g => g.q0) = (p.quads.take gs.length).map (·.toNat)
  let b := mkBind e cg (l.g * cg) gs.length (gs.map (fun g => g.pos)) (gs.map (fun g => g.q0)) true
  if !same || !s.coresOk d k gs.length (p.cores.map (·.toNat)) || s.clusters.any (fun c => c.2.slots.any (fun r => c.1 / 144 = d && r.w0 = b.w0 && bits r.w1.toNat 63 1 = 1)) then s
  else s.modCluster k (fun c => { c with slots := c.slots ++ [b] })

/-- The priority a launch is placed with: its channel's, or 7 once it has aged (R300). -/
def Launch.rank (l : Launch) : Nat := if l.aged then 7 else l.prio

/-- The next cluster group of a launch may be placed on a cluster now: on one die for each die group, the first at a stable point (R304, R305). -/
def State.placeable (s : State) (d k die : Nat) (l : Launch) : Bool :=
  let cg := l.again.headD l.nextCg
  l.st == .placing && !l.ended && !(l.cgLeft.isEmpty && (s.dev d).regs.want.isSome) && decide (cg < l.cgs)
    && (match tabGet l.dgDie (cg / 36) with | some v => v == die | none => true) && !s.blockedOn d l.ctx k

/-- LAUNCH_PLACE (R300, R305): the firmware places one cluster group of an admitted launch, in increasing index, while the slot table has
room and no launch of a higher priority can be placed there; or it writes the Restore record of a swapped group, also of a launch that has
ended (R363). -/
def execLaunchPlace (d e : Nat) (p : Placing) (s : State) : Host.Outcome State Fault Refusal :=
  .next (match s.launch? d e with
  | none => s
  | some l =>
    let k := 144 * d + 36 * p.die + p.cluster
    let s := s.ageing d
    let l := (s.launch? d e).getD l
    if p.cluster ≥ 36 || (if (s.dev d).regs.minimal then 1 else 4) ≤ p.die || s.blockedOn d l.ctx k || 32 ≤ (s.cluster k).slots.length then s
    else match p.restore with
      | some cg => s.placeRestore d e l p cg
      | none =>
        if !s.placeable d k p.die l || (s.dev d).launches.any (fun o => decide (l.rank < o.2.rank) && s.placeable d k p.die o.2) then s
        else s.placeNext d e l p)

/-! ### Dispatch (R306 to R308) -/

/-- A bind record keeps to Table 2. -/
def bindOk (x : Dev) (cluster : Nat) (b : Bind) : Bool :=
  let v := b.w0.toNat
  let w := b.w1.toNat
  match tabGet x.launches (v % 1024) with
  | none => false
  | some l =>
    let cg := bits v 16 32
    let m := bits w 32 3
    let pos := (List.range m).map (fun k => bits w (40 + 2 * k) 2)
    bits v 10 6 = 0 && bits v 48 16 = 0 && bits w 35 5 = 0 && bits w 56 7 = 0 && decide (cg < l.cgs) && bits w 0 32 = l.g * cg % 2 ^ 32
      && m = l.groupSize cg && decide (1 ≤ m ∧ m ≤ 4) && pos.dedup.length = m && pos.all (fun k => !x.fused.contains (4 * (cluster % 144) + k))
      && bits w (40 + 2 * m) (8 - 2 * m) = 0 && bits w (48 + 2 * m) (8 - 2 * m) = 0

/-- Number of warps of a workgroup on each quadrant, of those that still live. -/
def warpsOn (q0 : Nat) (live : List Nat) (q : Nat) : Nat := (live.filter (fun i => (q0 + i) % 4 = q)).length

/-- What a workgroup asks of its core (Table 6). -/
structure Need where
  live  : List Nat
  q0    : Nat
  regs  : Nat
  spad  : Nat
  acc   : Nat
  maps  : Nat
  tiles : Nat
deriving DecidableEq, Repr

def Wg.live (g : Wg) : List Nat := (g.warps.zipIdx.filter (fun x => !x.1.done)).map (·.2)
def Wg.need (g : Wg) : Need :=
  { live := g.live, q0 := g.q0, regs := g.regs, spad := g.spadSize, acc := g.accN, maps := g.mapN, tiles := g.tileN }

/-- The totals of Table 6 hold on a core with one more workgroup. -/
def State.room (s : State) (core : Nat) (n : Need) : Bool :=
  let held := s.wgs.filter (fun g => g.core = core && g.st != .swapped && g.st != .killed)
  let sum := fun (f : Need → Nat) => held.foldl (fun a g => a + f g.need) (f n)
  decide (sum (·.spad) ≤ 524288) && decide (sum (·.acc) ≤ 8) && decide (sum (·.maps) ≤ 16) && decide (sum (·.tiles) ≤ 64)
    && (List.range 4).all (fun q => decide (sum (fun m => warpsOn m.q0 m.live q) ≤ 16) && decide (sum (fun m => m.regs * warpsOn m.q0 m.live q) ≤ 512))

/-- Give each live warp of a workgroup the first free slot of its quadrant. -/
def State.seat (s : State) (g : Wg) : State :=
  g.live.foldl (fun (t : State) i =>
    t.modCore g.core (fun c => c.modQuad (quadOf g i) (fun (q : Quad) =>
      match (List.range 16).find? (fun n => (tabGet q.slots n).isNone) with
      | some n => { q with slots := tabSet q.slots n { wg := g.id, warp := i } }
      | none => q))) s

/-- A warp at its creation (R28). -/
def newWarp (pc args : Nat) : Warp :=
  { pc := pc, s := [(0, BitVec.ofNat 32 args), (1, BitVec.ofNat 32 (args / 2 ^ 32))] }

/-- A workgroup at its creation (R26, R28). -/
def newWg (d e : Nat) (l : Launch) (i core q0 : Nat) : Wg :=
  { id := { dev := d, launch := e, index := i }, ctx := l.ctx, seq := l.seq,
    x := if l.x = 0 then 0 else i % l.x, y := if l.x * l.y = 0 then 0 else i / l.x % l.y, z := if l.x * l.y = 0 then 0 else i / (l.x * l.y),
    cg := if l.g = 0 then 0 else i / l.g, core := core, q0 := q0, regs := kdRegs l.kd, spadN := kdSpad l.kd, priv := kdPriv l.kd,
    accN := kdAcc l.kd, mapN := kdMaps l.kd, tileN := kdTiles l.kd, code := kdCode l.kd, data := kdData l.kd, st := .running, halted := false,
    owner := none, left := l.w,
    warps := List.replicate l.w (newWarp (5 * (kdCode l.kd / 64) + kdEntry l.kd) (bits (wordOf l.lr 1) 0 43 * 64)),
    spad := [], hdrs := [], spadErr := [], acc := List.replicate (kdAcc l.kd) [], maps := [], tiles := [], panels := [], mq := [], img := none }

/-- Seat workgroups on their cores; what their warps load is no older than the pop of their launch and its acquire: the cores drop the clean
copies in their L1 (R302, R309; DESIGN CHOICE, log 108). -/
def State.seatAll (s : State) (gs : List Wg) : State :=
  gs.foldl (fun (t : State) g => (t.seat g).dropClean g.core (fun _ => true)) s

/-- BIND_STEP (R307, R308): the head record of a cluster's slot table; none of a context on a set from which it is being driven (R358). -/
def execBindStep (agent cluster : Nat) (s : State) : Host.Outcome State Fault Refusal :=
  .next (
    let k := 36 * agent + cluster
    let d := devOfAgent agent
    if 36 ≤ cluster then s
    else match (s.cluster k).slots with
      | [] => s
      | b :: rest =>
        let x := s.dev d
        match bindOk x k b, tabGet x.launches (b.w0.toNat % 1024) with
        | true, some l =>
          let e := b.w0.toNat % 1024
          let w := b.w1.toNat
          let m := bits w 32 3
          let at_ := fun (i : Nat) => (4 * k + bits w (40 + 2 * i) 2, bits w (48 + 2 * i) 2)
          let s1 := s.modCluster k (fun c => { c with slots := rest })
          if s.blockedOn d l.ctx k then s
          else if bits w 63 1 = 0 then
            let gs := (List.range m).map (fun i => newWg d e l (l.g * bits (b.w0.toNat) 16 32 + i) (at_ i).1 (at_ i).2)
            if !gs.all (fun g => s.room g.core g.need) then s
            else State.seatAll { s1 with wgs := s1.wgs ++ gs } gs
          else
            let cg : CgId := { dev := d, launch := e, cg := bits (b.w0.toNat) 16 32 }
            let gs := s.cgWgs cg
            if gs.isEmpty || !gs.all (fun g => g.st == .swapped && s.room (4 * k + g.pos) g.need) then s
            else
              let t := s1.setCg cg (fun g => { g with st := .restoring, core := 4 * k + g.pos })
              t.seatAll (t.cgWgs cg)
        | _, _ => s.deviceFatal d 2 (agent % 4))

/-! ### First and last steps of a warp -/

/-- WARP_RETIRE (R30, R46). -/
def execWarpRetire (w : WarpId) (s : State) : Host.Outcome State Fault Refusal := .next (s.orWait (s.retire w))

/-- A line as L2 or memory delivers it to a core, its parity not checked; none when it cannot be read. The request is held while its context
has no tokens (R356). -/
def State.rawLine (s : State) (core ctx va : Nat) : State × Except TrapInfo (Option (BitVec 512)) :=
  let s := s.warm core ctx [va]
  match s.translateAt core ctx va with
  | .error f => (s, .error (pageTrap va f))
  | .ok p =>
    match p.place, p.key with
    | .memory _ v _, some key =>
      let who := s.whoFor (devOfCore core) ctx (agentOfCore core) (blockOf key)
      if v != devOfCore core then (s, .error (pageTrap va (2, p.lvl)))
      else if s.throttled (blockOf key) who then (s.await .off, .ok none)
      else match s.hrdNow (blockOf key) who with
        | (t, .error _) => (t, .ok none)
        | (t, .ok (x, _)) => (t, .ok (some x))
    | _, _ => (s, .error (pageTrap va (2, p.lvl)))

/-- A copy of a line with soft errors, if its parity is right (R54). -/
def goodCopy (raw : Option (BitVec 512)) (err : BitVec 512) : Option (BitVec 512) :=
  (raw.map (· ^^^ err)).filter parityOk

/-- Fetch a line for a core: the copy of one of its instruction buffers, which no store reaches (R55), or of L2 or memory; a copy with a
parity error is discarded and the line fetched from L2 or memory once (R54). -/
def State.fetchLine (s : State) (core ctx va : Nat) (err1 err2 : BitVec 512) : State × Except TrapInfo (BitVec 512) :=
  let first := match (s.coreAt core).ibCopy 0 ctx (va / 64) with
    | some e => (s, Except.ok (some e.bits))
    | none => s.rawLine core ctx va
  match first with
  | (t, .error e) => (t, .error e)
  | (t, .ok raw) =>
    match goodCopy raw err1 with
    | some l => (t, .ok l)
    | none =>
      match t.rawLine core ctx va with
      | (u, .error e) => (u, .error e)
      | (u, .ok raw) => (u, match goodCopy raw err2 with | some l => .ok l | none => .error (trapAt tFetchParity va []))

/-- LINE_FETCH (R54): the line of a warp's next slot arrives in its quadrant's buffer, if it is not there. `err1` and `err2` are the
soft errors of the two copies. A line that no translation reaches, or whose two copies both fail, traps at the slot and is not buffered; a PC
past R53's limit is no target (log 28). -/
def execLineFetch (w : WarpId) (err1 err2 : BitVec 512) (s : State) : Host.Outcome State Fault Refusal :=
  .next (match s.wg w.wg, s.warp w with
  | some g, some x =>
    if !g.resident || x.done then s
    else if maxPc < x.pc then (if x.mayIssue g then s.takeTrap w (trapOf tBadTarget) else s)
    else
      let va := lineVa x.pc
      if s.buffered g w.warp x then s
      else s.orWait (match s.fetchLine g.core g.ctx va err1 err2 with
        | (t, .error e) => if x.mayIssue g then t.takeTrap w e else t
        | (t, .ok l) => t.modCore g.core (fun c => c.modQuad (quadOf g w.warp) (fun (q : Quad) =>
            { q with ibuf := { ctx := g.ctx, line := va / 64, bits := l } :: q.ibuf })))
  | _, _ => s)

/-- ILLEGAL_OPCODE (R72): a slot whose opcode is not listed. -/
def execIllegalOpcode (_op : Byte) (s : State) : Host.Outcome State Fault Refusal :=
  match s.current with
  | none => .fault .noWarp
  | some c => .next (s.takeTrap c.w (trapOf tIllegalOpcode))

end Sys2Proof.Machine
end

