-- ==== Sys2Proof/Machine/Isolation.lean ====
section
/-! DEFINITION. Pre-emption with save and restore of cluster groups (R166, R358 to R362) and the token refill (R355, R356). -/

namespace Sys2Proof.Machine

/-! ### Deadlines (R358) -/

/-- The pre-emptions of a device that hold a group in a state whose deadline has passed. -/
def State.overdue (s : State) (g : CgId) (st : PgSt → Bool) (limit : Preempt → Nat) : List Preempt :=
  (s.dev g.dev).preempts.filter (fun p => p.groups.any (fun x => x.cg = g && st x.st && decide (x.since + limit p ≤ s.clock g.dev)))

/-- DRAIN_DEADLINE (R358): the group goes on to Stopping. -/
def execDrainDeadline (g : CgId) (s : State) : Host.Outcome State Fault Refusal :=
  .next (if (s.overdue g (· == .draining) (·.drainNs)).isEmpty then s else s.stopCg g)

/-- SWAP_DEADLINE (R358, R368): the context is killed on the clusters of the pre-emption. -/
def execSwapDeadline (g : CgId) (s : State) : Host.Outcome State Fault Refusal :=
  .next (match s.overdue g (fun st => st == .stopping || st == .saving) (·.swapNs) with
  | [] => s
  | p :: _ => (s.kill g.dev p.ctx false (fun k => p.clusters.contains k) 3))

/-! ### Saving (R359, R360) -/

/-- A warp of a workgroup lets the save begin: its pending results have returned, but for those that wait for a handler's TRET (R375), and it
is in no handler with traps masked, unless its workgroup is halted (R374). -/
def State.mayLeave (s : State) (g : Wg) (x : Warp) (now : Nat) : Bool :=
  x.done || ((g.halted || !(x.handler && x.masked)) && !x.pend.any (fun e => e.live now && !(e.due.isNone && s.accs.any (fun a => a.id = e.op && a.held))
    && !(e.due.isNone && x.frame.acc = some e.op)))

/-- The sequencer state word of a workgroup whose entries have just left the queue (R166, Table 6): [16] is 1 only when one of them was
running. DESIGN CHOICE (log 113): [21:17] counts up to 16 when none was running; Table 6 gives it 0 to 15, behind a running one. -/
def Wg.sequencerWord (g : Wg) : Nat :=
  match g.mq with
  | [] => 0
  | e :: rest => if e.running then e.next % 65536 + 65536 + rest.length % 32 * 2 ^ 17 else g.mq.length % 32 * 2 ^ 17

/-- The group's matrix entries leave their core's queue in order, with the state word; one that was running is kept with its next step
(R166). -/
def State.unqueue (s : State) (g : CgId) : State :=
  (s.cgWgs g).foldl (fun (t : State) h =>
    let mine := (t.coreAt h.core).mq.filter (fun e => e.w.wg = h.id)
    (t.modCore h.core (fun c => { c with mq := c.mq.filter (fun e => e.w.wg != h.id) })).modWg h.id (fun h =>
      { h with mq := mine.map (fun e => { e with running := false, resumed := e.running || e.resumed }),
               seqw := BitVec.ofNat 64 { h with mq := mine }.sequencerWord })) s

/-- SAVE_START (R359): every condition holds, and the image begins to be written. -/
def execSaveStart (g : CgId) (s : State) : Host.Outcome State Fault Refusal :=
  .next (
    let gs := (s.cgWgs g).filter (fun h => h.st != .retired)
    if gs.isEmpty || !gs.all (fun h => h.st == .stopping && h.warps.all (fun x => s.mayLeave h x (s.cycle g.dev))) then s
    else
      let frozen := s.setCg g (fun h => { h with st := .saving, warps := h.warps.map (fun x =>
        if x.done then x else (x.writeBack (s.cycle g.dev)).freeze (s.cycle g.dev)) })
      (frozen.unqueue g).modDev g.dev (fun x => { x with preempts := x.preempts.map (fun (p : Preempt) =>
        { p with groups := p.groups.map (fun (y : PGroup) => if y.cg = g && y.st == .stopping then { y with st := .saving } else y) }) }))

/-- Bytes of a group's image (R360): mapped registers, partition and sideband, accumulator tiles. -/
def Wg.imageBytes (g : Wg) : Nat :=
  g.warps.foldl (fun n x => n + 256 * x.v.length) 0 + g.spadSize + g.spadSize / 16 + 16384 * g.accN

/-- A warp in its image: one parked by WAITCNT is saved with its PC at the WAITCNT (R400, Table 8; log 129). -/
def Warp.saved (x : Warp) : Warp :=
  if !x.done && x.park.any (fun p => match p with | .cnt .. => true | _ => false) then { x with pc := x.pc - 1, behind := true } else x
/-- The saved warp again as it ran. -/
def Warp.unsaved (x : Warp) : Warp := if x.behind then { x with pc := x.pc + 1, behind := false } else x

/-- SAVE_COMPLETE (R360, R361): the group is Swapped, its core places are free. Each workgroup's image goes to the swap ways of the slice, or
to the HBM swap area, which is written (R352); `bad` is an uncorrectable error while it is written, which kills the context (R385). What the
group's stores have left in its cores' L1 goes to its homes, where its warps find it after restore (DESIGN CHOICE, log 114). -/
def execSaveComplete (g : CgId) (bad : Bool) (s : State) : Host.Outcome State Fault Refusal :=
  .next (s.orWait (
    let gs := s.cgWgs g
    match gs.find? (fun h => h.st == .saving) with
    | none => s
    | some h =>
      let k := clusterOfCore h.core
      let n := gs.foldl (fun n x => n + x.imageBytes) 0
      if bad then s.kill g.dev h.ctx true (fun _ => true) 5
      else
        let fits := s.swapFits k h.ctx n
        let s0 := gs.foldl (fun (t : State) x => t.flushNow x.core) s
        let s1 := if fits then s0 else s0.spill k h.ctx n
        if (s1.cgWgs g).isEmpty then s1
        else
          let s2 := gs.foldl (fun (t : State) x => t.freeSlots x (fun w => w.wg = x.id)) s1
          let s3 := if fits then s2.modCluster k (fun c => { c with swapUse := tabSet c.swapUse h.ctx (tabGetD c.swapUse h.ctx 0 + n) }) else s2
          let s4 := s3.setCg g (fun x => { x with
            st := .swapped, img := some { slice := k, bytes := x.imageBytes, area := !fits }, redir := some x.core, warps := x.warps.map Warp.saved })
          (s4.setPg g .swapped).settlePre g.dev))

/-- A parked FENCE repeats its waits after restore (R359). -/
def State.refence (s : State) (w : WarpId) : Park → Park
  | .fence o sc _ => .fence o sc (if sc == .wp then .ready else .accs (s.fenceWaits w o))
  | p => p

/-- A warp after restore: its fences wait again, and its sleep goes on unless it stays halted (R362, R381). -/
def State.restored (s : State) (g : Wg) (i now : Nat) (x : Warp) : Warp :=
  let y := x.unsaved.mapPark (s.refence { wg := g.id, warp := i })
  if g.halted || y.halt.isSome then y else y.thaw now

/-- A workgroup after restore: its tile entries and the warps that wait on them are tested again; its PIN panels are still in the buffer after
a restore to the same core, and every other will be reloaded when first used (R354, R362). Traps that came while it was swapped halt it (R373). -/
def State.restoredWg (s : State) (now : Nat) (g : Wg) : Wg :=
  let pinned := if g.redir == some g.core then s.pinHeld g else []
  let h := { g with
    st := if g.left = 0 then .retired else .running
    mq := [], img := none, redir := none
    warps := g.warps.zipIdx.map (fun (xi : Warp × Nat) => s.restored g xi.2 now xi.1) }
  let h := (h.withTiles (h.tiles.map (fun (e : Nat × Tile) => (e.1, e.2.tested (h.spadRead e.2.bar 2))))).dropPanels pinned
  if h.warps.any (fun x => !x.done && x.dq != []) then { h with warps := h.warps.map (Warp.haltNow now) } else h

/-- RESTORE_COMPLETE (R166, R362): every item is loaded, the matrix entries join the tail of their cores' queues once there is room, and the
warps run, or take the traps that wait. The image's room is freed on the slice that held it; an image in the HBM swap area is read there. `bad`,
or an upset of the image, makes it unreadable (R385). -/
def execRestoreComplete (g : CgId) (bad : Bool) (s : State) : Host.Outcome State Fault Refusal :=
  .next (s.orWait (
    let gs := s.cgWgs g
    match gs.find? (fun h => h.st == .restoring) with
    | none => s
    | some h =>
      if bad || gs.any (fun x => x.img.any (·.bad)) then s.kill g.dev h.ctx true (fun _ => true) 5
      else if gs.any (fun x => 16 < (s.coreAt x.core).mq.length + x.mq.length) then s
      else
        let now := s.cycle g.dev
        let s0 := gs.foldl (fun (t : State) x => match x.img with
          | some i => if i.area then t.unspill i.slice h.ctx i.bytes else t
          | none => t) s
        if (s0.cgWgs g).isEmpty then s0
        else
          let s1 := gs.foldl (fun (t : State) x => (t.modCore x.core (fun c => { c with mq := c.mq ++ x.mq })).dropClean x.core (fun _ => true)) s0
          let s2 := s1.setCg g (s1.restoredWg now)
          let s3 := gs.foldl (fun (t : State) x => t.freeImage x) s2
          gs.foldl (fun (t : State) x => t.pump x.id) s3))

/-! ### Token refill (R356) -/

/-- A context's bucket on a die. -/
structure Bucket where
  ctx   : Nat
  w     : Nat
  depth : Int
  level : Int
deriving DecidableEq, Repr

def Bucket.open_ (b : Bucket) : Bool := decide (b.level < b.depth)

/-- One token each, in increasing context, while tokens last. -/
def giveOnes : List Bucket → Nat → List Bucket × Nat
  | [], t => ([], t)
  | b :: bs, t =>
    if 0 < b.w ∧ b.open_ ∧ 0 < t then let (r, u) := giveOnes bs (t - 1); ({ b with level := b.level + 1 } :: r, u)
    else let (r, u) := giveOnes bs t; (b :: r, u)

/-- The loop of R356; `fuel` bounds the passes. -/
def shareOut : Nat → List Bucket → Nat → List Bucket × Nat
  | 0, l, t => (l, t)
  | fuel + 1, l, t =>
    let s := l.filter (fun b => decide (0 < b.w) && b.open_)
    if t = 0 ∨ s.isEmpty then (l, t)
    else
      let w := s.foldl (fun n b => n + b.w) 0
      let give := fun (b : Bucket) => if 0 < b.w ∧ b.open_ then min (t * b.w / w) (b.depth - b.level).toNat else 0
      let sum := l.foldl (fun n b => n + give b) 0
      if sum = 0 then giveOnes l t
      else shareOut fuel (l.map (fun b => { b with level := b.level + give b })) (t - sum)

/-- What is left goes to contexts of weight 0. -/
def giveRest : List Bucket → Nat → List Bucket
  | [], _ => []
  | b :: bs, t =>
    if b.w = 0 ∧ b.open_ then
      let g := min t (b.depth - b.level).toNat
      { b with level := b.level + g } :: giveRest bs (t - g)
    else b :: giveRest bs t

/-- Tenths of a GHz of an operating point (R23, Table 5). -/
def clockOf (p : Nat) : Nat := [8, 12, 16, 19, 21, 23, 25, 27].getD p 27

/-- Tokens a die shares out every 1,024 cycles: HBM bytes in that time at the point in force, over 64; minimal mode has one stack. -/
def Dev.budget (x : Dev) : Nat := (if x.regs.minimal then 327680 else 983040) / clockOf x.regs.force

/-- Buckets of the valid contexts on a die. -/
def State.buckets (s : State) (agent : Nat) : List Bucket :=
  let d := devOfAgent agent
  let i := agent % 4
  ((List.range 64).filter (s.ctxValid d)).map (fun c =>
    { ctx := c, w := bits (s.ctxWord d c 16) (16 * i) 16, depth := bits (s.ctxWord d c (17 + i / 2)) (32 * (i % 2)) 32,
      level := tabGetD (s.die agent).level c 0 })

/-- TOKEN_REFILL (R356): once in each period of 1,024 cycles. -/
def execTokenRefill (agent : Nat) (s : State) : Host.Outcome State Fault Refusal :=
  .next (
    let d := devOfAgent agent
    if !(s.dev d).up || s.cycle d / 1024 ≤ (s.die agent).refill then s
    else
      let (l, t) := shareOut 256 (s.buckets agent) (s.dev d).budget
      s.modDie agent (fun x => { x with refill := x.refill + 1, level := (giveRest l t).foldl (fun v b => tabSet v b.ctx b.level) x.level }))

end Sys2Proof.Machine
end

