-- ==== Sys2Proof/Machine/Upkeep.lean ====
section
/-! DEFINITION. Soft errors (R382, R385, R386), patrol scrub (R382), scratchpad repair (R387) and link recovery (R388). -/

namespace Sys2Proof.Machine

/-! ### Soft errors of the arrays (R382, R385, R386) -/

/-- Dirty data of a context is lost: the home block becomes POISON with reason 4, its replicas go, and MEM_ERROR is raised (R385). -/
def State.lostDirty (s : State) (dev ctx b : Nat) : State :=
  let a := agentOfBlock b
  (((s.replicas.filter (fun r => repBlock r.1 = b)).foldl (fun (t : State) r => t.dropRep (repAgent r.1) b) s).setHall b (.poison 4)).raiseEvent
    dev ctx (a % 4) (a % 4) 0x04 [keyOfBlock b, 0xFF, 4]

/-- An uncorrectable error in core state of a warp: a double fault of its workgroup with STATE_UNCORRECTABLE and detail 5 (R374, R385). A trap
in progress in the workgroup is the first of the two, and its warp the faulting one (DESIGN CHOICE, log 123). -/
def State.warpLost (s : State) (w : WarpId) : State :=
  match s.wg w.wg, s.warp w with
  | some g, some x =>
    if !g.resident || g.halted || x.done then s
    else
      match g.warps.zipIdx.find? (fun y => y.1.handler && !y.1.done) with
      | some (_, i) =>
        let v : WarpId := { wg := w.wg, warp := i }
        (s.modWarp v (fun y => { y with frame := { y.frame with info := 5 :: y.frame.info.drop 1 } })).takeTrap v (trapAt tStateUncorrectable 0 [5])
      | none => s.takeTrap w (trapAt tStateUncorrectable 0 [5])
  | _, _ => s

/-- A live core's bank: 512 data banks and 32 check banks. -/
def State.hasBank (s : State) (core bank : Nat) : Bool :=
  (s.dev (devOfCore core)).up && decide (bank < 544) && !(s.dev (devOfCore core)).fused.contains (core % 576)

/-- A bank of the core that holds a workgroup has been retired: nothing is read from it any more (R387). -/
def State.bankRetired (s : State) (g : WgId) (bank : Nat) : Bool :=
  match s.wg g with
  | some h => h.resident && tabGet (s.coreAt h.core).banks bank == some .retired
  | none => false

/-- Move.upset: a soft error of an array. Clean copies are dropped and fetched again, dirty ones are lost (R385). -/
def State.upset (s : State) : Upset → State
  | .hbm b data side =>
    -- HBM's copy of a block with merged writes in L2 is stale
    if (s.l2At (agentOfBlock b) b).any (fun e => e.dirty.getLsbD (b % 2)) then s
    else let e := s.err b; s.setErr b { data := e.data ^^^ data, side := e.side ^^^ side }
  | .l1 core b =>
    match tabGet (s.coreAt core).l1 b with
    | none => s
    | some x =>
      let t := s.modCore core (fun c => { c with l1 := tabErase c.l1 b })
      if x.dirty = 0 then t else t.lostDirty (devOfCore core) x.ctx b
  | .l2 b =>
    match s.l2At (agentOfBlock b) b with
    | none => s
    | some e =>
      let t := s.l2Drop (agentOfBlock b) b
      let q := tabGetD e.by_ (b % 2) (devOfAgent (agentOfBlock b), e.ctx)
      if e.dirty.getLsbD (b % 2) then t.lostDirty q.1 q.2 b else t
  | .replica agent b =>
    match s.rep? agent b with
    | none => s
    | some r => if r.dirty then s.lostDirty (devOfAgent agent) r.ctx b else s.dropRep agent b
  | .tag b => (s.l2Drop (agentOfBlock b) b).tagLost b
  | .panel g off => s.modPanel g off (fun p => { p with here := false })
  | .backing g off => s.modPanel g off (fun p => { p with bad := true })
  | .warp w => s.warpLost w
  | .image g => s.modWg g (fun h => { h with img := h.img.map (fun i => { i with bad := true }) })
  | .spad g word lanes =>
    if lanes = 0 || s.bankRetired g (word % 512) then s
    else s.modWg g (fun h => if 4 * word < h.spadSize then { h with spadErr := tabSet h.spadErr word (tabGetD h.spadErr word 0 ||| lanes) } else h)
  | .check g row bank lanes =>
    if lanes = 0 || 32 ≤ bank || s.bankRetired g (512 + bank) then s
    else s.modWg g (fun h => { h with checkErr := tabSet h.checkErr (32 * row + bank) (tabGetD h.checkErr (32 * row + bank) 0 ||| lanes) })
  | .stuck core bank => if s.hasBank core bank then s.modCore core (fun c => { c with stuck := bank :: c.stuck.filter (· != bank) }) else s
  | .device agent => if (s.dev (devOfAgent agent)).up then s.deviceFatal (devOfAgent agent) 5 (agent % 4) else s

/-! ### Patrol scrub (R382) -/

/-- PATROL_SCRUB: a block is rewritten as its codes deliver it; an uncorrectable one becomes POISON with the data reason, unless HBM's copy is
stale, and its event waits until the block is touched. -/
def execPatrolScrub (b : Nat) (s : State) : Host.Outcome State Fault Refusal :=
  .next (
    if !(s.dev (devOfAgent (agentOfBlock b))).up || (s.dev (devOfAgent (agentOfBlock b))).regs.scrub = 0 then s
    else
      let t := s.tagRead b
      match t.hall b, t.decoded b with
      | .poison _, _ => t
      | h, .bad =>
        (match h with
         | .home | .shared1 _ | .sharedN _ | .excl _ => State.setHall { t with scrubbed := b :: t.scrubbed.filter (· != b) } b (.poison 4)
         | _ => t)
      | _, .ok x h c =>
        let u := (t.relabel b x h).clearErr b
        if c then u.corrected b else u)

/-! ### Scratchpad banks (R386, R387) -/

/-- SPAD_REPAIR goes to the context of a workgroup on the core, or the one that used it last. -/
def State.spadRepair (s : State) (core bank what : Nat) : State :=
  let ctx := match s.wgs.find? (fun g => g.core = core && g.resident) with | some g => g.ctx | none => (s.coreAt core).lastCtx
  let die := agentOfCore core % 4
  s.raiseEvent (devOfCore core) ctx die die 0x0D [dieLocalCore core, bank, what]

/-- A bank is failed: 8 corrected errors within 2^24 cycles, or an error that survived a rewrite (R387). -/
def Core.bankFailed (c : Core) (now bank : Nat) : Bool :=
  decide (8 ≤ ((tabGetD c.ceBank bank []).filter (fun t => decide (now < t + 2 ^ 24))).length) || c.stuck.contains bank

/-- A rebuilt bank's failing words have been recomputed from their rows and rewritten, but for those that their rows cannot give (R386, R387). -/
def Wg.rebuilt (g : Wg) (bank : Nat) : Wg :=
  if bank < 512 then { g with spadErr := g.spadErr.filter (fun e => !(e.1 % 512 = bank && !g.lostWord e)) }
  else { g with checkErr := g.checkErr.filter (fun c => c.1 % 32 != bank - 512) }

/-- The bank of a core is rebuilt, or from now on served by reconstruction: its failing words fail no more. -/
def State.mendBank (s : State) (core bank : Nat) : State :=
  { s with wgs := s.wgs.map (fun g => if g.core = core && g.resident then g.rebuilt bank else g) }

/-- SPAD_BANK_FAILURE: a failed bank is rebuilt; one that fails again is retired, and its words are served by reconstruction: one more failing
word of a row is still corrected. Values do not change. -/
def execSpadBankFailure (core bank : Nat) (s : State) : Host.Outcome State Fault Refusal :=
  .next (
    if !s.hasBank core bank || !(s.coreAt core).bankFailed (s.cycle (devOfCore core)) bank then s
    else
      let set := fun (s : State) (v : BankSt) => s.modCore core (fun c => { c with
        banks := tabSet c.banks bank v, ceBank := tabErase c.ceBank bank, stuck := c.stuck.filter (· != bank) })
      match tabGet (s.coreAt core).banks bank with
      | none => (set s .rebuilding).spadRepair core bank 0
      | some .retired => s
      | some _ => (((set s .retired).mendBank core bank).spadRepair core bank 0).spadRepair core bank 2)

/-- SPAD_REBUILD_COMPLETE. -/
def execSpadRebuildComplete (core bank : Nat) (s : State) : Host.Outcome State Fault Refusal :=
  .next (match tabGet (s.coreAt core).banks bank with
  | some .rebuilding =>
    let t := s.modCore core (fun c => { c with banks := tabSet c.banks bank .rebuilt })
    (t.mendBank core bank).spadRepair core bank 1
  | _ => s)

/-! ### Links (R388) -/

/-- Saturating 32-bit count. -/
def sat32 (n : Nat) : Nat := min (n + 1) (2 ^ 32 - 1)

def Regs.links (r : Regs) : LinkClass → Tab (Nat × Nat)
  | .hbm => r.hbmLinks | .d2d => r.d2dLinks | .device => r.devLinks
def Regs.setLinks (r : Regs) (k : LinkClass) (t : Tab (Nat × Nat)) : Regs :=
  match k with | .hbm => { r with hbmLinks := t } | .d2d => { r with d2dLinks := t } | .device => { r with devLinks := t }

/-- Class codes of LINK_ERROR, and the number of links of a class. -/
def linkCode : LinkClass → Nat | .hbm => 0 | .d2d => 1 | .device => 2
def linkCount : LinkClass → Nat | .hbm => 768 | .d2d => 4 | .device => 24

/-- One LINK_ERROR event (Table 10). -/
def State.linkError (s : State) (d : Nat) (k : LinkClass) (i : Nat) (down : Bool) : State :=
  let c := tabGetD ((s.dev d).regs.links k) i (0, 0)
  s.raiseEvent d 64 0 0 0x21 [linkCode k, i, c.1, c.2, if down then 1 else 0]

/-- LINK_TRANSFER_ERROR: the CRC error and the replay are counted; the count that reaches the limit raises LINK_ERROR. -/
def execLinkTransferError (d : Nat) (k : LinkClass) (i : Nat) (s : State) : Host.Outcome State Fault Refusal :=
  .next (
    if !(s.dev d).up || linkCount k ≤ i || (k == .device && (s.dev d).regs.linksDown.contains i) then s
    else
      let c := tabGetD ((s.dev d).regs.links k) i (0, 0)
      let n := sat32 c.1
      let t := s.modDev d (fun x => { x with regs := x.regs.setLinks k (tabSet (x.regs.links k) i (n, sat32 c.2)) })
      if n = (s.dev d).regs.linkLimit && c.1 != n then t.linkError d k i false else t)

/-- The die of an HBM pseudo-channel or a die pair. -/
def linkDie (k : LinkClass) (i : Nat) : Nat := match k with | .hbm => i / 192 % 4 | .d2d => [0, 2, 0, 1].getD i 0 | .device => 0

/-- LINK_REPLAY_EXHAUSTED: a pseudo-channel retrains, a read completes as source 4 (that of an engine, a barrier, a walk or the host when
its event takes place), a write leaves POISON with reason 5; a die-to-die link retrains; a device link is taken down. -/
def execLinkReplayExhausted (d : Nat) (k : LinkClass) (i : Nat) (rd : Option Nat) (b : Nat) (s : State) : Host.Outcome State Fault Refusal :=
  .next (
    if !(s.dev d).up || linkCount k ≤ i then s
    else
      let retrain := s.modDev d (fun x => { x with regs := { x.regs with retrain := x.regs.retrain ++ [(k, i)] } })
      match k with
      | .d2d => retrain
      | .device =>
        if (s.dev d).regs.linksDown.contains i then s
        else (s.modDev d (fun x => { x with regs := { x.regs with linksDown := i :: x.regs.linksDown } })).linkError d k i true
      | .hbm =>
        if devOfAgent (agentOfBlock b) != d then s
        else match rd, rd.bind s.acc? with
          | none, _ => if (retrain.hall b).isPoison then retrain else retrain.setHall b (.poison 5)
          | some acc, some a =>
            if a.rel != .done then s
            else retrain.loseParts acc (fun p => match p.loc with
              | .l1 _ key | .home key => blockOf key = b && (match a.kind with | .store | .hdrStore => false | _ => true)
              | .decoded key .. => blockOf key = b
              | _ => false) 4 0
          | some _, none => { retrain with cut := b :: retrain.cut.filter (· != b) })

/-- LINK_RETRAIN_END: a failure is device-fatal. -/
def execLinkRetrainEnd (d : Nat) (k : LinkClass) (i : Nat) (ok : Bool) (s : State) : Host.Outcome State Fault Refusal :=
  .next (
    if !(s.dev d).regs.retrain.contains (k, i) then s
    else if ok then s.modDev d (fun x => { x with regs := { x.regs with retrain := x.regs.retrain.erase (k, i) } })
    else s.deviceFatal d (match k with | .hbm => 3 | _ => 4) (linkDie k i))

end Sys2Proof.Machine
end

