-- ==== Sys2Proof/Machine/Dispatch.lean ====
section
/-! DEFINITION. The dispatch of instructions, events and commands to their meanings: one arm for each constructor. -/

namespace Sys2Proof.Machine

def exec (i : Instr) (s : State) : Host.Outcome State Fault Refusal :=
  match i with
  | .nop x1 => Sys2Proof.Machine.execNop x1 s
  | .bra x1 x2 x3 x4 => Sys2Proof.Machine.execBra x1 x2 x3 x4 s
  | .brx x1 x2 => Sys2Proof.Machine.execBrx x1 x2 s
  | .brd x1 x2 x3 x4 x5 => Sys2Proof.Machine.execBrd x1 x2 x3 x4 x5 s
  | .join x1 => Sys2Proof.Machine.execJoin x1 s
  | .call x1 x2 x3 => Sys2Proof.Machine.execCall x1 x2 x3 s
  | .ret x1 x2 => Sys2Proof.Machine.execRet x1 x2 s
  | .exit x1 => Sys2Proof.Machine.execExit x1 s
  | .pred x1 x2 x3 x4 x5 => Sys2Proof.Machine.execPred x1 x2 x3 x4 x5 s
  | .yield x1 => Sys2Proof.Machine.execYield x1 s
  | .launch x1 x2 => Sys2Proof.Machine.execLaunch x1 x2 s
  | .iadd x1 => Sys2Proof.Machine.execIadd x1 s
  | .iadd3 x1 x2 => Sys2Proof.Machine.execIadd3 x1 x2 s
  | .iaddc x1 x2 x3 x4 => Sys2Proof.Machine.execIaddc x1 x2 x3 x4 s
  | .isub x1 => Sys2Proof.Machine.execIsub x1 s
  | .ineg x1 => Sys2Proof.Machine.execIneg x1 s
  | .iabs x1 => Sys2Proof.Machine.execIabs x1 s
  | .imul x1 => Sys2Proof.Machine.execImul x1 s
  | .imulhi x1 => Sys2Proof.Machine.execImulhi x1 s
  | .imad x1 => Sys2Proof.Machine.execImad x1 s
  | .imad64 x1 => Sys2Proof.Machine.execImad64 x1 s
  | .imin x1 => Sys2Proof.Machine.execImin x1 s
  | .imax x1 => Sys2Proof.Machine.execImax x1 s
  | .isad x1 => Sys2Proof.Machine.execIsad x1 s
  | .icmp x1 x2 x3 x4 x5 x6 => Sys2Proof.Machine.execIcmp x1 x2 x3 x4 x5 x6 s
  | .pick x1 x2 x3 => Sys2Proof.Machine.execPick x1 x2 x3 s
  | .plog x1 x2 x3 x4 x5 x6 => Sys2Proof.Machine.execPlog x1 x2 x3 x4 x5 x6 s
  | .shl x1 => Sys2Proof.Machine.execShl x1 s
  | .shr x1 => Sys2Proof.Machine.execShr x1 s
  | .sar x1 => Sys2Proof.Machine.execSar x1 s
  | .shf x1 x2 x3 => Sys2Proof.Machine.execShf x1 x2 x3 s
  | .logt x1 x2 => Sys2Proof.Machine.execLogt x1 x2 s
  | .popc x1 => Sys2Proof.Machine.execPopc x1 s
  | .clz x1 => Sys2Proof.Machine.execClz x1 s
  | .brev x1 => Sys2Proof.Machine.execBrev x1 s
  | .bfe x1 => Sys2Proof.Machine.execBfe x1 s
  | .bfi x1 => Sys2Proof.Machine.execBfi x1 s
  | .bsel x1 => Sys2Proof.Machine.execBsel x1 s
  | .lea x1 x2 => Sys2Proof.Machine.execLea x1 x2 s
  | .lea64 x1 x2 => Sys2Proof.Machine.execLea64 x1 x2 s
  | .idp4 x1 x2 => Sys2Proof.Machine.execIdp4 x1 x2 s
  | .idp2 x1 x2 => Sys2Proof.Machine.execIdp2 x1 x2 s
  | .mov x1 => Sys2Proof.Machine.execMov x1 s
  | .movi x1 x2 x3 => Sys2Proof.Machine.execMovi x1 x2 x3 s
  | .p2v x1 x2 => Sys2Proof.Machine.execP2v x1 x2 s
  | .v2p x1 x2 x3 x4 => Sys2Proof.Machine.execV2p x1 x2 x3 x4 s
  | .fadd x1 => Sys2Proof.Machine.execFadd x1 s
  | .fmul x1 => Sys2Proof.Machine.execFmul x1 s
  | .ffma x1 => Sys2Proof.Machine.execFfma x1 s
  | .fmin x1 x2 => Sys2Proof.Machine.execFmin x1 x2 s
  | .fmax x1 x2 => Sys2Proof.Machine.execFmax x1 x2 s
  | .fcmp x1 x2 x3 x4 x5 => Sys2Proof.Machine.execFcmp x1 x2 x3 x4 x5 s
  | .frnd x1 => Sys2Proof.Machine.execFrnd x1 s
  | .fclass x1 => Sys2Proof.Machine.execFclass x1 s
  | .fdp2 x1 => Sys2Proof.Machine.execFdp2 x1 s
  | .hadd2 x1 => Sys2Proof.Machine.execHadd2 x1 s
  | .hmul2 x1 => Sys2Proof.Machine.execHmul2 x1 s
  | .hfma2 x1 => Sys2Proof.Machine.execHfma2 x1 s
  | .hmin2 x1 x2 => Sys2Proof.Machine.execHmin2 x1 x2 s
  | .hmax2 x1 x2 => Sys2Proof.Machine.execHmax2 x1 x2 s
  | .frcp x1 => Sys2Proof.Machine.execFrcp x1 s
  | .frsq x1 => Sys2Proof.Machine.execFrsq x1 s
  | .fsqrt x1 => Sys2Proof.Machine.execFsqrt x1 s
  | .fex2 x1 => Sys2Proof.Machine.execFex2 x1 s
  | .flg2 x1 => Sys2Proof.Machine.execFlg2 x1 s
  | .fsin x1 => Sys2Proof.Machine.execFsin x1 s
  | .fcos x1 => Sys2Proof.Machine.execFcos x1 s
  | .ftanh x1 => Sys2Proof.Machine.execFtanh x1 s
  | .cvt x1 => Sys2Proof.Machine.execCvt x1 s
  | .cvtp x1 => Sys2Proof.Machine.execCvtp x1 s
  | .cvt8 x1 => Sys2Proof.Machine.execCvt8 x1 s
  | .qblk x1 x2 x3 => Sys2Proof.Machine.execQblk x1 x2 x3 s
  | .dqblk x1 => Sys2Proof.Machine.execDqblk x1 s
  | .shfl x1 x2 x3 x4 x5 x6 => Sys2Proof.Machine.execShfl x1 x2 x3 x4 x5 x6 s
  | .vote x1 x2 x3 x4 x5 => Sys2Proof.Machine.execVote x1 x2 x3 x4 x5 s
  | .ballot x1 x2 x3 x4 => Sys2Proof.Machine.execBallot x1 x2 x3 x4 s
  | .redux x1 x2 x3 x4 x5 x6 x7 => Sys2Proof.Machine.execRedux x1 x2 x3 x4 x5 x6 x7 s
  | .scan x1 x2 x3 x4 x5 x6 x7 x8 => Sys2Proof.Machine.execScan x1 x2 x3 x4 x5 x6 x7 x8 s
  | .matchLanes x1 x2 x3 x4 x5 => Sys2Proof.Machine.execMatchLanes x1 x2 x3 x4 x5 s
  | .ld x1 => Sys2Proof.Machine.execLd x1 s
  | .st x1 => Sys2Proof.Machine.execSt x1 s
  | .lds x1 => Sys2Proof.Machine.execLds x1 s
  | .sts x1 => Sys2Proof.Machine.execSts x1 s
  | .ldhdr x1 => Sys2Proof.Machine.execLdhdr x1 s
  | .sthdr x1 => Sys2Proof.Machine.execSthdr x1 s
  | .atom x1 => Sys2Proof.Machine.execAtom x1 s
  | .atoms x1 => Sys2Proof.Machine.execAtoms x1 s
  | .cas x1 => Sys2Proof.Machine.execCas x1 s
  | .cass x1 => Sys2Proof.Machine.execCass x1 s
  | .red x1 => Sys2Proof.Machine.execRed x1 s
  | .fence x1 x2 x3 => Sys2Proof.Machine.execFence x1 x2 x3 s
  | .pref x1 x2 x3 x4 => Sys2Proof.Machine.execPref x1 x2 x3 x4 s
  | .cctl x1 x2 x3 => Sys2Proof.Machine.execCctl x1 x2 x3 s
  | .vinv x1 x2 => Sys2Proof.Machine.execVinv x1 x2 s
  | .resid x1 x2 x3 x4 => Sys2Proof.Machine.execResid x1 x2 x3 x4 s
  | .chinit x1 x2 x3 x4 x5 x6 x7 x8 => Sys2Proof.Machine.execChinit x1 x2 x3 x4 x5 x6 x7 x8 s
  | .push x1 x2 x3 x4 x5 x6 x7 => Sys2Proof.Machine.execPush x1 x2 x3 x4 x5 x6 x7 s
  | .popTry x1 x2 x3 x4 x5 x6 x7 x8 x9 => Sys2Proof.Machine.execPopTry x1 x2 x3 x4 x5 x6 x7 x8 x9 s
  | .popWait x1 x2 x3 x4 x5 x6 x7 x8 x9 => Sys2Proof.Machine.execPopWait x1 x2 x3 x4 x5 x6 x7 x8 x9 s
  | .cpy x1 x2 => Sys2Proof.Machine.execCpy x1 x2 s
  | .cpyx x1 x2 x3 x4 x5 x6 => Sys2Proof.Machine.execCpyx x1 x2 x3 x4 x5 x6 s
  | .waitcnt x1 x2 x3 => Sys2Proof.Machine.execWaitcnt x1 x2 x3 s
  | .binit x1 x2 x3 => Sys2Proof.Machine.execBinit x1 x2 x3 s
  | .arrive x1 x2 x3 x4 x5 x6 x7 => Sys2Proof.Machine.execArrive x1 x2 x3 x4 x5 x6 x7 s
  | .expect x1 x2 x3 x4 x5 x6 => Sys2Proof.Machine.execExpect x1 x2 x3 x4 x5 x6 s
  | .wait x1 x2 x3 x4 x5 x6 => Sys2Proof.Machine.execWait x1 x2 x3 x4 x5 x6 s
  | .twait x1 x2 x3 => Sys2Proof.Machine.execTwait x1 x2 x3 s
  | .mon x1 x2 x3 x4 => Sys2Proof.Machine.execMon x1 x2 x3 x4 s
  | .monx x1 x2 x3 x4 => Sys2Proof.Machine.execMonx x1 x2 x3 x4 s
  | .tbind x1 x2 x3 x4 => Sys2Proof.Machine.execTbind x1 x2 x3 x4 s
  | .trel x1 x2 x3 => Sys2Proof.Machine.execTrel x1 x2 x3 s
  | .tstat x1 x2 x3 => Sys2Proof.Machine.execTstat x1 x2 x3 s
  | .mapdef x1 x2 x3 x4 => Sys2Proof.Machine.execMapdef x1 x2 x3 x4 s
  | .tmma x1 x2 x3 x4 x5 x6 x7 x8 => Sys2Proof.Machine.execTmma x1 x2 x3 x4 x5 x6 x7 x8 s
  | .tmmas x1 x2 x3 x4 x5 x6 => Sys2Proof.Machine.execTmmas x1 x2 x3 x4 x5 x6 s
  | .wbld x1 x2 x3 x4 x5 x6 x7 => Sys2Proof.Machine.execWbld x1 x2 x3 x4 x5 x6 x7 s
  | .wbinv x1 x2 x3 => Sys2Proof.Machine.execWbinv x1 x2 x3 s
  | .accz x1 x2 => Sys2Proof.Machine.execAccz x1 x2 s
  | .accld x1 x2 x3 x4 x5 => Sys2Proof.Machine.execAccld x1 x2 x3 x4 x5 s
  | .accst x1 x2 x3 x4 x5 x6 x7 => Sys2Proof.Machine.execAccst x1 x2 x3 x4 x5 x6 x7 s
  | .accsc x1 x2 x3 x4 x5 => Sys2Proof.Machine.execAccsc x1 x2 x3 x4 x5 s
  | .accadd x1 x2 x3 x4 x5 x6 => Sys2Proof.Machine.execAccadd x1 x2 x3 x4 x5 x6 s
  | .accrd x1 x2 x3 x4 x5 x6 => Sys2Proof.Machine.execAccrd x1 x2 x3 x4 x5 x6 s
  | .accwr x1 x2 x3 x4 x5 x6 x7 => Sys2Proof.Machine.execAccwr x1 x2 x3 x4 x5 x6 x7 s
  | .convn x1 x2 => Sys2Proof.Machine.execConvn x1 x2 s
  | .ttest x1 x2 => Sys2Proof.Machine.execTtest x1 x2 s
  | .trap x1 x2 => Sys2Proof.Machine.execTrap x1 x2 s
  | .tret x1 => Sys2Proof.Machine.execTret x1 s
  | .sysrd x1 x2 x3 x4 => Sys2Proof.Machine.execSysrd x1 x2 x3 x4 s
  | .syswr x1 x2 x3 x4 => Sys2Proof.Machine.execSyswr x1 x2 x3 x4 s
  | .bkpt x1 x2 => Sys2Proof.Machine.execBkpt x1 x2 s
  | .evt x1 x2 x3 => Sys2Proof.Machine.execEvt x1 x2 x3 s
  | .sleep x1 x2 => Sys2Proof.Machine.execSleep x1 x2 s
  | .ctxWrite x1 => Sys2Proof.Machine.execCtxWrite x1 s
  | .ctxDestroy x1 => Sys2Proof.Machine.execCtxDestroy x1 s
  | .tlbInval x1 => Sys2Proof.Machine.execTlbInval x1 s
  | .importWrite x1 => Sys2Proof.Machine.execImportWrite x1 s
  | .preempt x1 => Sys2Proof.Machine.execPreempt x1 s
  | .evqWrite x1 => Sys2Proof.Machine.execEvqWrite x1 s
  | .dbgResume x1 => Sys2Proof.Machine.execDbgResume x1 s
  | .fwStage x1 => Sys2Proof.Machine.execFwStage x1 s
  | .reset x1 => Sys2Proof.Machine.execReset x1 s
  | .attest x1 => Sys2Proof.Machine.execAttest x1 s
  | .registerWrite x1 x2 x3 x4 => Sys2Proof.Machine.execRegisterWrite x1 x2 x3 x4 s
  | .hostWrite x1 x2 x3 x4 => Sys2Proof.Machine.execHostWrite x1 x2 x3 x4 s
  | .hostRead x1 x2 x3 x4 => Sys2Proof.Machine.execHostRead x1 x2 x3 x4 s
  | .pushWindowWrite x1 x2 x3 x4 => Sys2Proof.Machine.execPushWindowWrite x1 x2 x3 x4 s
  | .pushWindowConsume x1 x2 => Sys2Proof.Machine.execPushWindowConsume x1 x2 s
  | .launchAdmit x1 => Sys2Proof.Machine.execLaunchAdmit x1 s
  | .launchAgeing x1 => Sys2Proof.Machine.execLaunchAgeing x1 s
  | .dependencyCheck x1 x2 => Sys2Proof.Machine.execDependencyCheck x1 x2 s
  | .pointStable x1 => Sys2Proof.Machine.execPointStable x1 s
  | .launchPlace x1 x2 x3 => Sys2Proof.Machine.execLaunchPlace x1 x2 x3 s
  | .bindStep x1 x2 => Sys2Proof.Machine.execBindStep x1 x2 s
  | .warpRetire x1 => Sys2Proof.Machine.execWarpRetire x1 s
  | .lineFetch x1 x2 x3 => Sys2Proof.Machine.execLineFetch x1 x2 x3 s
  | .resultWriteback x1 => Sys2Proof.Machine.execResultWriteback x1 s
  | .loadComplete x1 => Sys2Proof.Machine.execLoadComplete x1 s
  | .storeAck x1 => Sys2Proof.Machine.execStoreAck x1 s
  | .warpWake x1 => Sys2Proof.Machine.execWarpWake x1 s
  | .sleepExpiry x1 => Sys2Proof.Machine.execSleepExpiry x1 s
  | .yieldExpiry x1 => Sys2Proof.Machine.execYieldExpiry x1 s
  | .matrixEntryStart x1 => Sys2Proof.Machine.execMatrixEntryStart x1 s
  | .tmmaStep x1 => Sys2Proof.Machine.execTmmaStep x1 s
  | .wbldStep x1 => Sys2Proof.Machine.execWbldStep x1 s
  | .matrixEntryComplete x1 => Sys2Proof.Machine.execMatrixEntryComplete x1 s
  | .touchstoneRun x1 x2 => Sys2Proof.Machine.execTouchstoneRun x1 x2 s
  | .copyTake x1 x2 => Sys2Proof.Machine.execCopyTake x1 x2 s
  | .copyComplete x1 x2 => Sys2Proof.Machine.execCopyComplete x1 x2 s
  | .copyAbort x1 x2 => Sys2Proof.Machine.execCopyAbort x1 x2 s
  | .convnTake x1 => Sys2Proof.Machine.execConvnTake x1 s
  | .convnComplete x1 => Sys2Proof.Machine.execConvnComplete x1 s
  | .routerArrival x1 => Sys2Proof.Machine.execRouterArrival x1 s
  | .pairingExpiry x1 => Sys2Proof.Machine.execPairingExpiry x1 s
  | .chinitHome x1 => Sys2Proof.Machine.execChinitHome x1 s
  | .channelPushHome x1 => Sys2Proof.Machine.execChannelPushHome x1 s
  | .channelPopHome x1 => Sys2Proof.Machine.execChannelPopHome x1 s
  | .channelAck x1 => Sys2Proof.Machine.execChannelAck x1 s
  | .channelDelivery x1 => Sys2Proof.Machine.execChannelDelivery x1 s
  | .barrierInitUpdate x1 => Sys2Proof.Machine.execBarrierInitUpdate x1 s
  | .barrierArrival x1 => Sys2Proof.Machine.execBarrierArrival x1 s
  | .barrierExpectation x1 => Sys2Proof.Machine.execBarrierExpectation x1 s
  | .barrierCredit x1 => Sys2Proof.Machine.execBarrierCredit x1 s
  | .monitorArm x1 => Sys2Proof.Machine.execMonitorArm x1 s
  | .monxHome x1 => Sys2Proof.Machine.execMonxHome x1 s
  | .ticketClaim x1 x2 => Sys2Proof.Machine.execTicketClaim x1 x2 s
  | .ticketExpiry x1 x2 => Sys2Proof.Machine.execTicketExpiry x1 x2 s
  | .rds x1 x2 => Sys2Proof.Machine.execRds x1 x2 s
  | .rdx x1 x2 => Sys2Proof.Machine.execRdx x1 x2 s
  | .upg x1 x2 => Sys2Proof.Machine.execUpg x1 x2 s
  | .wbk x1 x2 x3 => Sys2Proof.Machine.execWbk x1 x2 x3 s
  | .hrd x1 x2 => Sys2Proof.Machine.execHrd x1 x2 s
  | .hwr x1 x2 => Sys2Proof.Machine.execHwr x1 x2 s
  | .invalidate x1 x2 => Sys2Proof.Machine.execInvalidate x1 x2 s
  | .recall x1 x2 => Sys2Proof.Machine.execRecall x1 x2 s
  | .forward x1 x2 => Sys2Proof.Machine.execForward x1 x2 s
  | .drainRequest x1 => Sys2Proof.Machine.execDrainRequest x1 s
  | .drainAnswer x1 => Sys2Proof.Machine.execDrainAnswer x1 s
  | .serialisationRequest x1 => Sys2Proof.Machine.execSerialisationRequest x1 s
  | .viewLineRequest x1 x2 => Sys2Proof.Machine.execViewLineRequest x1 x2 s
  | .vdDrop x1 x2 => Sys2Proof.Machine.execVdDrop x1 x2 s
  | .pageWalk x1 x2 x3 => Sys2Proof.Machine.execPageWalk x1 x2 x3 s
  | .lostAgentTimeout x1 x2 => Sys2Proof.Machine.execLostAgentTimeout x1 x2 s
  | .deferredTrapReport x1 => Sys2Proof.Machine.execDeferredTrapReport x1 s
  | .siblingHalt x1 => Sys2Proof.Machine.execSiblingHalt x1 s
  | .drainDeadline x1 => Sys2Proof.Machine.execDrainDeadline x1 s
  | .swapDeadline x1 => Sys2Proof.Machine.execSwapDeadline x1 s
  | .saveStart x1 => Sys2Proof.Machine.execSaveStart x1 s
  | .saveComplete x1 x2 => Sys2Proof.Machine.execSaveComplete x1 x2 s
  | .restoreComplete x1 x2 => Sys2Proof.Machine.execRestoreComplete x1 x2 s
  | .tokenRefill x1 => Sys2Proof.Machine.execTokenRefill x1 s
  | .capChange x1 x2 => Sys2Proof.Machine.execCapChange x1 x2 s
  | .thermalShutdown x1 x2 => Sys2Proof.Machine.execThermalShutdown x1 x2 s
  | .watchdogExpiry x1 => Sys2Proof.Machine.execWatchdogExpiry x1 s
  | .start x1 x2 => Sys2Proof.Machine.execStart x1 x2 s
  | .startTimeout x1 => Sys2Proof.Machine.execStartTimeout x1 s
  | .patrolScrub x1 => Sys2Proof.Machine.execPatrolScrub x1 s
  | .spadBankFailure x1 x2 => Sys2Proof.Machine.execSpadBankFailure x1 x2 s
  | .spadRebuildComplete x1 x2 => Sys2Proof.Machine.execSpadRebuildComplete x1 x2 s
  | .linkTransferError x1 x2 x3 => Sys2Proof.Machine.execLinkTransferError x1 x2 x3 s
  | .linkReplayExhausted x1 x2 x3 x4 x5 => Sys2Proof.Machine.execLinkReplayExhausted x1 x2 x3 x4 x5 s
  | .linkRetrainEnd x1 x2 x3 x4 => Sys2Proof.Machine.execLinkRetrainEnd x1 x2 x3 x4 s
  | .illegalOpcode x1 => Sys2Proof.Machine.execIllegalOpcode x1 s
  | .msixSignal x1 x2 => Sys2Proof.Machine.execMsixSignal x1 x2 s
  | .freeCountUpdate x1 x2 => Sys2Proof.Machine.execFreeCountUpdate x1 x2 s

end Sys2Proof.Machine
end

