-- ==== Sys2Proof/Machine/Issue.lean ====
section
/-! DEFINITION. The issue stage (R56, R57, R310, R311), the moves of the agenda, the clock (R23, R34), and placing a word where the next
step fetches it. -/

namespace Sys2Proof.Machine

/-! ### Issue groups (R56, R57) -/

/-- Pipe classes (Table 2 of the encoding chapter). -/
inductive Pipe where
  | vector | uniform | memory | branch | engine | alone
deriving DecidableEq, Repr

/-- The class of a slot, which its opcode and U bit fix. -/
def pipeOf (w : BitVec 96) : Pipe :=
  let op := (w.extractLsb' 0 8).toNat
  if op = 0x09 then .alone
  else if op < 0x10 then .branch
  else if op < 0x60 then (if w.getLsbD 9 then .uniform else .vector)
  else if op < 0x80 then .memory
  else if op < 0xB0 then .engine
  else .alone

/-- The other instruction of a pair whose one is in the vector class. -/
def pairable : Pipe → Bool | .uniform | .memory | .branch | .engine => true | _ => false

/-- Slots i and i + 1 of a line form an honoured template pair (R57). -/
def honoured (l : BitVec 512) (i : Nat) : Bool :=
  let a := pipeOf (slotBits l i)
  let b := pipeOf (slotBits l (i + 1))
  decide (i < 4) && templateBit l i && ((a == .vector && pairable b) || (b == .vector && pairable a)) && a != .branch
    && !(slotBits l i).getLsbD 8

/-- The group at a slot needs the vector pipe. -/
def vectorGroup (l : BitVec 512) (i : Nat) : Bool :=
  pipeOf (slotBits l i) == .vector || (honoured l i && pipeOf (slotBits l (i + 1)) == .vector)

/-! ### One slot of a warp -/

/-- Transfers may leave the PC where it is. -/
def jumps : Instr → Bool | .bra .. | .brx .. | .call .. | .ret .. | .brd .. => true | _ => false

/-- What a slot makes of its warp: the instruction it decodes to, or the trap of its encoding (R54); an unlisted opcode comes before every
fault of the encoding (R72). DESIGN CHOICE (log 135): a nonzero reserved bit of the line raises the trap at every slot decoded from it, also after
a handler has returned past the first. -/
def slotInstr (l : BitVec 512) (i : Nat) : Except TrapInfo Instr :=
  match decodeSlot (slotBits l i) with
  | .ok (.illegalOpcode op) => .ok (.illegalOpcode op)
  | .ok x => if lineReserved l then .error (trapOf tIllegalEncoding) else .ok x
  | .error _ => .error (trapOf tIllegalEncoding)

/-- Execute slot `i` of a line for a warp. -/
def State.trySlot (s : State) (w : WarpId) (l : BitVec 512) (i : Nat) : Host.Outcome State Fault Refusal :=
  match slotInstr l i with
  | .error t => .next (s.takeTrap w t)
  | .ok x => exec x { s with cur := some w }

/-- The line that holds a warp's next slot, in its buffer. -/
def State.lineOf (s : State) (g : Wg) (w : Nat) (x : Warp) : Option IbLine :=
  ((s.coreAt g.core).quad (quadOf g w)).ibuf.find? (fun e => e.ctx = g.ctx && e.line = x.pc / 5)

/-- The slot has executed and the warp goes on to the next one. -/
def State.wentOn (s t : State) (w : WarpId) : Bool :=
  match s.wg w.wg, s.warp w, t.wg w.wg, t.warp w with
  | some g, some x, some h, some y => y.pc = x.pc + 1 && y.hstat = x.hstat && y.ptrap = x.ptrap && h.halted = g.halted
  | _, _, _, _ => false

/-- Something holds a slot at issue (R310): its execution would leave the warp as it is, or one of its accesses must wait (log 101). -/
def State.holdsSlot (s : State) (w : WarpId) (l : BitVec 512) (i : Nat) : Bool :=
  match slotInstr l i with
  | .error _ => false
  | .ok x => match s.trySlot w l i with
    | .next t => t.stall || (!jumps x && t.warp w == s.warp w && (t.wg w.wg).map (·.halted) == (s.wg w.wg).map (·.halted))
    | _ => false

/-- Nothing holds a warp's next group at issue, and a halted warp has skid left for it (R310, R370). -/
def State.canIssue (s : State) (w : WarpId) (x : Warp) (l : BitVec 512) (i : Nat) : Bool :=
  let pair := honoured l i
  !(pair && (match x.halt with | some h => decide (7 ≤ h.skid) | none => false))
    && !s.holdsSlot w l i
    && !(pair && (match s.trySlot w l i with
      | .next t => s.wentOn t w && t.holdsSlot w l (i + 1)
      | _ => false))

/-- The other warps of a warp's quadrant that something holds at issue (R310). -/
def State.heldBeside (s : State) (w : WarpId) : List WarpId :=
  match s.wg w.wg with
  | none => []
  | some g =>
    ((((s.coreAt g.core).quad (quadOf g w.warp)).slots.map (·.2)).filter (· != w)).filter (fun o =>
      match s.wg o.wg, s.warp o with
      | some h, some x => (match s.lineOf h o.warp x with | some e => !s.canIssue o x e.bits (slotOf x.pc) | none => false)
      | _, _ => false)

/-- What the stage notes for an instruction before it executes: for a YIELD, which warps something holds at issue (R319). -/
def State.noted (s : State) (w : WarpId) : Instr → State
  | .yield _ => { s with heldNow := s.heldBeside w }
  | _ => s

/-- Execute slot `i` of a line for a warp as the stage issues it. -/
def State.runSlot (s : State) (w : WarpId) (l : BitVec 512) (i : Nat) : Host.Outcome State Fault Refusal :=
  match slotInstr l i with
  | .error t => .next (s.takeTrap w t)
  | .ok x => match exec x { s.noted w x with cur := some w } with
    | .next t => .next { t with cur := none, heldNow := [] }
    | r => r

/-! ### The issue stage (R311) -/

/-- The first of some warp slots after a pointer, wrapping. -/
def firstAfter (p : Nat) (l : List (Nat × WarpId)) : Option (Nat × WarpId) :=
  match l.find? (fun e => decide (p < e.1)) with
  | some e => some e
  | none => l.head?

/-- Eligible warps of a quadrant whose next group is of one kind. -/
def State.ready (s : State) (core q now : Nat) (vec : Bool) : List (Nat × WarpId) :=
  (s.eligible core q now).filter (fun e =>
    match s.wg e.2.wg, s.warp e.2 with
    | some g, some x =>
      match s.lineOf g e.2.warp x with
      | some e' => vectorGroup e'.bits (slotOf x.pc) == vec && s.canIssue e.2 x e'.bits (slotOf x.pc)
      | none => false
    | _, _ => false)

/-- The warp that the stage issues in this cycle, with its slot and whether its group is a vector group. -/
def State.pick (s : State) (core q : Nat) : Option (Nat × WarpId × Bool) :=
  let c := (s.coreAt core).quad q
  let now := s.cycle (devOfCore core)
  if c.last = some now then none
  else
    match (if c.vfree ≤ now then firstAfter c.vptr (s.ready core q now true) else none) with
    | some e => some (e.1, e.2, true)
    | none => (firstAfter c.nptr (s.ready core q now false)).map (fun e => (e.1, e.2, false))

/-- A group of a warp has issued: the YIELDs that wait for it (R319). -/
def State.issuedGroup (s : State) (core : Nat) (w : WarpId) : State :=
  if s.wgs.any (fun g => g.core = core && g.warps.any (fun x => x.yield.isSome)) then
    { s with wgs := s.wgs.map (fun (g : Wg) => if g.core = core then
        { g with warps := g.warps.map (fun (x : Warp) => { x with yield := x.yield.map (fun (y : Yield) => { y with others := y.others.filter (· != w) }) }) }
      else g) }
  else s

/-- Where the stage issues nothing: what the first eligible warp whose slot would find a block busy waits for, such as a walk of its
addresses (R262, R345). -/
def State.heldWalk (s : State) (core q : Nat) : Hold :=
  ((s.eligible core q (s.cycle (devOfCore core))).findSome? (fun e =>
    match s.wg e.2.wg, s.warp e.2 with
    | some g, some x => match s.lineOf g e.2.warp x with
      | some b => match s.trySlot e.2 b.bits (slotOf x.pc) with
        | .next t => if t.stall then some t.hold else none
        | _ => none
      | none => none
    | _, _ => none)).getD .none

/-- Issue the next slot of a warp: the check of a kernel's entry slot (R52), then the instruction. The second slot of an honoured pair
follows at once. -/
def State.issueWarpSlot (s : State) (w : WarpId) : Host.Outcome State Fault Refusal :=
  match s.wg w.wg, s.warp w with
  | some g, some x =>
    match s.lineOf g w.warp x with
    | some e =>
      let l := e.bits
      let i := slotOf x.pc
      if !x.checked && !legalSlot l i then .next (s.takeTrap w (trapOf tBadTarget))
      else
        let s1 := if x.checked then s else s.modWarp w (fun x => { x with checked := true })
        match s1.runSlot w l i with
        | .next t => .next (if honoured l i && s1.wentOn t w then t.soon (.second w l) else t.pump w.wg)
        | r => r
    | none => .next s
  | _, _ => .next s

/-- The second slot of an honoured pair, of the line that held the first (R57). -/
def State.issueSecond (s : State) (w : WarpId) (l : BitVec 512) : Host.Outcome State Fault Refusal :=
  match s.warp w with
  | some x =>
    match s.runSlot w l (slotOf x.pc) with
    | .next t => .next (t.pump w.wg)
    | r => r
  | none => .next s

/-- One cycle of a quadrant's issue stage. -/
def State.issueStage (s : State) (core q : Nat) : Host.Outcome State Fault Refusal :=
  match s.pick core q with
  | none => .next { s with hold := s.heldWalk core q }
  | some (n, w, vec) =>
    let now := s.cycle (devOfCore core)
    let s1 := s.modCore core (fun c => c.modQuad q (fun (x : Quad) =>
      { x with last := some now, vptr := if vec then n else x.vptr, nptr := if vec then x.nptr else n, vfree := if vec then now + 4 else x.vfree }))
    (s1.issuedGroup core w).issueWarpSlot w

/-! ### The moves -/

/-- The counts of a domain's live devices stay within 1 µs of one another (R34). -/
def State.aligned (s : State) (d ns : Nat) : Bool :=
  !(s.dev d).up || (s.domainOf d).all (fun e => e = d || !(s.dev e).up || decide (ns ≤ (s.dev e).ns + 1000))

/-- One cycle of a device: `%clock` counts nanoseconds whatever the point in force (R23, R34). A device that is 1 µs ahead of another waits. -/
def State.tickDev (s : State) (d : Nat) : State :=
  let f := clockOf (s.dev d).regs.force
  let ns := (s.dev d).ns + ((s.dev d).frac + 10) / f
  if s.aligned d ns then s.modDev d (fun x => { x with cycle := x.cycle + 1, ns := ns, frac := (x.frac + 10) % f }) else s

/-- The device whose cycle passes when nothing else moves: of the domain's live devices the one that is furthest behind. -/
def State.behind (s : State) : Nat :=
  match s.domain.filter (fun d => (s.dev d).up) with
  | [] => s.domain.headD 0
  | d :: rest => rest.foldl (fun a e => if (s.dev e).ns < (s.dev a).ns then e else a) d

/-- The release or acquire work of whatever operation has a number, a RESID's next line, or the merge of a write-back into an owned replica. -/
def State.advanceOp (s : State) (id : Nat) : State :=
  match s.acc? id with
  | some a => match a.kind with | .resid .. => s.residStep a | _ => s.advanceAcc a
  | none =>
    match s.upd? id with
    | some u => s.advanceUpd u
    | none =>
      match s.chop? id with
      | some o => s.advanceChop o
      | none => s.mergeOwned id

/-- The command whose 64 bytes stand in the mailbox. -/
def State.mailWord (s : State) (d i : Nat) : Nat := ofBytes ((List.range 8).map (fun k => tabGetD (s.dev d).mbox (8 * i + k) 0))
def State.mailCmd (s : State) (d : Nat) : Cmd :=
  let w := fun (i : Nat) => BitVec.ofNat 64 (s.mailWord d i)
  { dev := d, tag := (w 0).extractLsb' 16 16, hi := (w 0).extractLsb' 32 32, w1 := w 1, w2 := w 2, w3 := w 3, w4 := w 4, w5 := w 5, w6 := w 6, w7 := w 7 }

/-- The command of a code (R391, Table 11). -/
def commandOf (code : Nat) (c : Cmd) : Option Instr :=
  match code with
  | 1 => some (.ctxWrite c) | 2 => some (.ctxDestroy c) | 3 => some (.tlbInval c) | 4 => some (.importWrite c) | 5 => some (.preempt c)
  | 6 => some (.evqWrite c) | 7 => some (.dbgResume c) | 8 => some (.fwStage c) | 9 => some (.reset c) | 10 => some (.attest c) | _ => none

/-- The management core takes a complete command, or finishes the TLB_INVAL under way (R349, R391). -/
def State.takeMail (s : State) (d : Nat) : Host.Outcome State Fault Refusal :=
  if !(s.dev d).up then .next s
  else if (s.dev d).inval.isSome then .next (s.endInval d)
  else if (s.dev d).mboxIn.length != 64 then .next s
  else
    let c := s.mailCmd d
    let code := s.mailWord d 0 % 65536
    let s1 := s.modDev d (fun x => { x with mboxIn := [] })
    match commandOf code c with
    | some i => exec i s1
    | none => .next (s1.respond d code c.tag.toNat 1 0)

/-- What one move of the machine does. -/
def State.moveNow (s : State) : Move → Host.Outcome State Fault Refusal
  | .tick d => .next (s.tickDev d)
  | .issue core q => s.issueStage core q
  | .second w l => s.issueSecond w l
  | .act i => exec i s
  | .perform a p => .next (s.performPart a p)
  | .fillL1 core b => .next (s.fillFromReplica core b)
  | .advance id => .next (s.advanceOp id)
  | .fenceStep w => .next (s.fenceMove w)
  | .evictL1 core b => .next (s.evictL1 core b)
  | .upset u => .next (s.upset u)
  | .copyRead id e => .next (s.copyRead id e)
  | .copyWrite id u => .next (s.copyStep id u)
  | .convElem id => .next (s.convStep id)
  | .mailbox d => s.takeMail d
  | .takeQueued g => .next (s.pump g)

/-- What a move has come to, `s` being the state before it and `t` the state it has made. A move that need not wait leaves the chains it stood
in; one that must wait does nothing but stand in the chain of the block it has found busy (R262; log 101). -/
def State.moved (s : State) (m : Move) (t : State) : State :=
  match t.hold with
  | .none => State.forget { t with mover := none } m
  | .off => s
  | .chain b req k again => s.queueMove b req k (again.getD m)

/-- One move of the machine. -/
def State.move (s : State) (m : Move) : Host.Outcome State Fault Refusal :=
  let s := { s with hold := .none, mover := none }
  match { s with mover := some m }.moveNow m with
  | .next t => .next (s.moved m t)
  | r => r

/-- The next move of the agenda; with none, a cycle of the device that is furthest behind passes. -/
def State.nextMove (s : State) : Host.Outcome State Fault Refusal :=
  match s.agenda with
  | [] => s.move (.tick s.behind)
  | m :: rest => { s with agenda := rest }.move m

/-! ### Placing a word (log 3) -/

/-- The workgroup that stands for a loaded program of one line: one warp on quadrant 0 of core 0, with every resource a kernel can ask for. -/
def loadedWg : Wg :=
  { id := { dev := 0, launch := 0, index := 0 }, ctx := 0, seq := 0, x := 0, y := 0, z := 0, cg := 0, core := 0, q0 := 0, regs := 256,
    spadN := 524288, priv := 0, accN := 8, mapN := 16, tileN := 64, code := 0, data := 0, st := .running, halted := false, owner := none, left := 1,
    warps := [newWarp 0 0], spad := [], hdrs := [], spadErr := [], acc := List.replicate 8 [], maps := [], tiles := [], panels := [], mq := [], img := none }

/-- A line with one slot, a legal target, and nothing else (R51). -/
def lineOfSlot (w : Nat) : BitVec 512 := BitVec.ofNat 512 (w % 2 ^ 96 + 2 ^ 480)

/-- The state whose next move issues a slot as the first instruction of a loaded program. -/
def State.placeWord (s : State) (nbits w : Nat) : State :=
  let g := loadedWg
  let line := lineOfSlot (w % 2 ^ nbits)
  let quad : Quad := { ibuf := [{ ctx := 0, line := 0, bits := line }], slots := [(0, { wg := g.id, warp := 0 })] }
  { s with
    agenda := .issue 0 0 :: s.agenda
    wgs := g :: s.wgs.filter (fun h => h.id != g.id)
    cores := tabSet s.cores 0 { s.coreAt 0 with quads := [quad, (s.coreAt 0).quad 1, (s.coreAt 0).quad 2, (s.coreAt 0).quad 3] } }

end Sys2Proof.Machine
end

