-- ==== Sys2Proof/Machine/Step.lean ====
section
/-! DEFINITION. The step of the machine, and a state whose next step fetches and runs a given word. -/

namespace Sys2Proof.Machine

/-- One step: the next move of the agenda. -/
def step (s : State) : Host.Outcome State Fault Refusal := s.nextMove

/-- `s` with an instruction where the next step fetches it (log 3). -/
def State.withFetchWord (s : State) (nbits w : Nat) : State := s.placeWord nbits w

end Sys2Proof.Machine
end

