-- ==== Sys2Proof/WellFormed.lean ====
section
/-! DEFINITION. Well-formed instructions: those the encoding rules of the spec accept in a slot (R58 to R72 and the
encoding rule of each instruction). -/

namespace Sys2Proof

/-- An instruction that a slot can hold. The rules themselves stand in `Instr.accepts`. -/
abbrev WellFormed (i : Instr) : Prop := i.accepts = true

end Sys2Proof
end

