-- ==== Sys2Proof/Safety.lean ====
section
/-! DEFINITION. The terms the claims use: safe runs, the canonical form of memory, when a warp instruction issues, what its issue may
change. -/

namespace Sys2Proof.Machine

/-! ### Runs -/

/-- `n` steps from a state meet no fault and no refusal. -/
def SafeRun (n : Nat) (s : State) : Prop := ∃ t, Host.Core.run Sys2Proof.core n s = .next t

/-- HBM and host memory are in canonical form. -/
def Canonical (s : State) : Prop := Memory.wf s.hbm = true ∧ Memory.wf s.host = true

/-! ### Homes at rest -/

/-- No request for the block is at its home, its copy in HBM has no soft error, and no agent of the domain is lost. -/
structure Quiet (s : State) (b : Nat) : Prop where
  free : ∀ t ∈ s.txns, t.block ≠ b
  sound : tabGet s.errs b = none
  all : s.lost = []

/-- The bytes of a block in HBM are those of `x`, and every byte of HBM outside the block is as in `s`. -/
def BlockHolds (s t : State) (b : Nat) (x : BitVec 512) : Prop :=
  (∀ i, i < 64 → memGet t.hbm (64 * b + i) = x.extractLsb' (8 * i) 8) ∧
  ∀ a, a < 64 * b ∨ 64 * b + 64 ≤ a → memGet t.hbm a = memGet s.hbm a

/-! ### When a warp instruction issues -/

/-- The warp `c` is selected, and nothing keeps an instruction with these dependences from its own effect: no forbidden prefix covers it, a
lane runs it, none of its sources is pending, and its destinations fit the reserve and the pool (R36, R37, R66, R69, R72). -/
structure Ready (s : State) (c : Ctx) (m : Mode) (d : Deps) : Prop where
  selected : s.current = some c
  allowed : c.x.pfx = none ∨ m.cover = true
  runs : (if m.once then c.x.runs else c.x.lanes != 0) = true
  settled : d.reads.any (c.x.pending c.now) = false
  reserve : c.x.overReserve c.g.regs d.lasts d.dsts = false
  pool : d.dsts = [] ∨ s.poolEmpty c d = false

/-- Executing `i` changes the warp `c` and nothing else of the machine; its new record has property `P`. -/
def Changes (i : Instr) (s : State) (c : Ctx) (P : Warp → Prop) : Prop :=
  ∃ f : Warp → Warp, exec i s = .next (s.modWarp c.w f) ∧ P (f c.x)

/-! ### What an instruction leaves of its warp -/

/-- The same traps wait; the skid of each counts the instructions issued since its report (R372). -/
def SameTraps (x y : Warp) : Prop := y.dq.map (fun t => { t with skid := 0 }) = x.dq.map (fun t => { t with skid := 0 })

/-- Everything but registers, predicates, pending table, PC, prefix, halt and park is as before: mask, exited lanes, divergence stack,
counters, `%hstat`, fault frame, replacement and scratch registers, waiting traps. -/
def SameRest (x y : Warp) : Prop :=
  { y with pc := x.pc, pfx := x.pfx, pend := x.pend, park := x.park, halt := x.halt, dq := x.dq, v := x.v, s := x.s, p := x.p, k := x.k } = x ∧
  SameTraps x y

/-- What the issue of an instruction does to the rest of its warp (R66, R69, R370): its own parks come first, and a switch marker parks it
while a register is pending; a halt in progress counts one more instruction and stops the warp at eight; a prefix in progress counts down and
ends with its last instruction. -/
def Stepped (now : Nat) (sw : Bool) (own : List Park) (x y : Warp) : Prop :=
  y.park = (if sw && y.busy now then [.sw] else []) ++ own ++ x.park ∧
  y.halt = x.halt.map (fun h => { skid := h.skid + 1, stopped := h.stopped || decide (8 ≤ h.skid + 1) }) ∧
  y.pfx = match x.pfx with
    | none => none
    | some p => if p.remaining ≤ 1 then none else some { p with remaining := p.remaining - 1, thenLeft := p.thenLeft - 1 }

/-- Vector registers but `vs` read as before, last-read bits unmap `lasts` (R68), and uniform registers but `ss` read as before. -/
def SameRegs (x y : Warp) (lasts vs ss : List Nat) : Prop :=
  (∀ r, r ∉ vs → y.readV r = (x.unmap lasts).readV r) ∧ ∀ r, r ∉ ss → y.readS r = x.readS r

/-- Every predicate but those listed reads as before. -/
def SamePreds (x y : Warp) (qs : List PReg) : Prop := ∀ q, q ∉ qs → y.predMask q = x.predMask q

/-- The vector registers and the uniform registers of a destination of `n` registers. -/
def vecsOf (n : Nat) : Dst → List Nat | .v r => (List.range n).map (fun j => r.toNat + j) | .s _ => []
def unisOf (n : Nat) : Dst → List Nat | .s r => (List.range n).map (fun j => r.toNat + j) | .v _ => []

/-- A register is pending until a cycle (R65, R67). -/
def DueAt (y : Warp) (r : PendReg) (due : Nat) : Prop := ∃ e ∈ y.pend, e.reg = r ∧ e.due = some due ∧ e.old = false

/-- The lanes `m` of a vector destination hold `val j l`, its other lanes keep what they held after last-read unmapping, a uniform
destination holds `val j 0`; each register is pending until `due`. -/
def Wrote (x y : Warp) (m : LaneMask) (lasts : List Nat) (d : Dst) (n due : Nat) (val : Nat → Nat → Word) : Prop :=
  match d with
  | .v r => ∀ j, j < n → DueAt y (.v (r.toNat + j)) due ∧
      ∀ l, l < 64 → (y.readV (r.toNat + j)).getD l 0 = if m.getLsbD l then val j l else ((x.unmap lasts).readV (r.toNat + j)).getD l 0
  | .s r => ∀ j, j < n → DueAt y (.s (r.toNat + j)) due ∧ y.readS (r.toNat + j) = val j 0

/-- `i` issues as an instruction with the register destination `d` of `n` registers and latency `lat` (2 for the uniform form): register
`j` of it receives word `j` of `val`, the PC advances by one slot, and nothing else of the machine changes. -/
def RegResult (i : Instr) (sw : Bool) (d : Dst) (n lat : Nat) (srcs : Deps) (val : Warp → Nat → List Word) : Prop :=
  ∀ s c, Ready s c { once := isUniform d, sw := sw } (srcs.join (Deps.dst n d)) →
    Changes i s c (fun y =>
      Wrote c.x y c.x.lanes srcs.lasts d n (c.now + if isUniform d then 2 else lat) (fun j l => (val c.x l).getD j 0) ∧
      SameRegs c.x y srcs.lasts (vecsOf n d) (unisOf n d) ∧ SamePreds c.x y [] ∧ SameRest c.x y ∧
      Stepped c.now sw [] c.x y ∧ y.pc = c.x.pc + 1)

/-- The same for a predicate destination: the active lanes of a p register, or the one bit of a k register in the uniform form (R107). -/
def PredResult (i : Instr) (sw uniform : Bool) (q : PReg) (lat : Nat) (srcs : Deps) (val : Warp → Nat → Bool) : Prop :=
  q.okDst uniform = true → ∀ s c, Ready s c { once := uniform, sw := sw } srcs →
    Changes i s c (fun y =>
      (match q with
        | .p r => DueAt y (.p r.toNat) (c.now + lat) ∧
            ∀ l, l < 64 → y.predAt q l = if c.x.lanes.getLsbD l then val c.x l else c.x.predAt q l
        | .k r => DueAt y (.k r.toNat) (c.now + 2) ∧ ∀ l, l < 64 → y.predAt q l = val c.x 0) ∧
      SameRegs c.x y srcs.lasts [] [] ∧ SamePreds c.x y [q] ∧ SameRest c.x y ∧
      Stepped c.now sw [] c.x y ∧ y.pc = c.x.pc + 1)

end Sys2Proof.Machine
end

