-- ==== Sys2Proof/Certificates/Slice0/Obligations.lean ====
section
/-! DEFINITION. The statements about the model, for the provers. Each names the rules of spec/ it rests on. -/

open Sys2Proof Sys2Proof.Machine

/-! ### Integer, bit and address instructions (chapter 5) -/

/-- The value an integer operand is read as (R104): the pair, register or immediate under the type of the instruction. -/
abbrev Claims.int (o : Alu) (x : Warp) (a : Src) (l : Nat) : Int := opnd o.ty (x.operand o.ty a l)

/-- A register result that is an exact integer written through `fit` (R104). -/
abbrev Claims.IntResult (i : Instr) (o : Alu) (lat : Nat) (srcs : Deps) (r : Warp → Nat → Int) : Prop :=
  RegResult i o.sw o.d (tyRegs o.ty) lat srcs (fun x l => words2 (fit o.ty (r x l) o.sat))

/-- R108, R110, R113: sums, differences, products, minimum and maximum are exact integers written through `fit`; the completion and the
frame of IADD, IADD3, ISUB, INEG, IABS, IMUL, IMULHI, IMAD, IMAD64, IMIN, IMAX. -/
def Obligations.IntegerArithmetic : Prop := ∀ o : Alu,
  Claims.IntResult (.iadd o) o 8 (deps2 o) (fun x l => Claims.int o x o.a l + Claims.int o x o.b l) ∧
  Claims.IntResult (.isub o) o 8 (deps2 o) (fun x l => Claims.int o x o.a l - Claims.int o x o.b l) ∧
  (∀ negc, Claims.IntResult (.iadd3 o negc) o 8 (deps3 o) (fun x l =>
    Claims.int o x o.a l + Claims.int o x o.b l + (if negc then -1 else 1) * Claims.int o x o.c l)) ∧
  Claims.IntResult (.ineg o) o 8 (Deps.src (tyRegs o.ty) o.a) (fun x l => - Claims.int o x o.a l) ∧
  Claims.IntResult (.iabs o) o 8 (Deps.src (tyRegs o.ty) o.a) (fun x l => |Claims.int o x o.a l|) ∧
  Claims.IntResult (.imul o) o 12 (deps2 o) (fun x l => Claims.int o x o.a l * Claims.int o x o.b l) ∧
  Claims.IntResult (.imad o) o 12 (deps3 o) (fun x l => Claims.int o x o.a l * Claims.int o x o.b l + Claims.int o x o.c l) ∧
  RegResult (.imulhi o) o.sw o.d 1 12 (deps2 o) (fun x l =>
    [BitVec.ofInt 32 (Claims.int o x o.a l * Claims.int o x o.b l / 2 ^ 32)]) ∧
  RegResult (.imad64 o) o.sw o.d 2 12 ((deps2 o).join (Deps.src 2 o.c)) (fun x l =>
    words2 (BitVec.ofInt 64 (Claims.int o x o.a l * Claims.int o x o.b l) + x.lane64 o.c l)) ∧
  (o.sat = false → Claims.IntResult (.imin o) o 8 (deps2 o) (fun x l => min (Claims.int o x o.a l) (Claims.int o x o.b l)) ∧
    Claims.IntResult (.imax o) o 8 (deps2 o) (fun x l => max (Claims.int o x o.a l) (Claims.int o x o.b l)))

/-- R104: `fit` writes a value of the type that is the clamped integer under `.sat` and otherwise equals it modulo 2 to the width; an 8-, 16-
or 32-bit result fills its 32-bit register, sign-extended for a signed type and zero-extended otherwise. -/
abbrev Claims.FitClampsOrWraps : Prop := ∀ (t : Ty) (y : Int) (sat : Bool), t.isInt = true →
  tyMin t ≤ opnd t (fit t y sat) ∧ opnd t (fit t y sat) ≤ tyMax t ∧
  (sat = true → opnd t (fit t y sat) = max (tyMin t) (min (tyMax t) y)) ∧
  (sat = false → (opnd t (fit t y sat) - y) % (2 ^ t.width : Nat) = 0) ∧
  (t.width ≠ 64 → (if tySigned t then ((lo32 (fit t y sat)).toInt = opnd t (fit t y sat)) else ((lo32 (fit t y sat)).toNat : Int) = opnd t (fit t y sat)))

/-- R109: IADDC writes the sum and the carry-out of 32-bit naturals, b complemented under `.sub`, with the carry-in predicate, or 1 under
`.sub` and 0 otherwise; nothing else changes. -/
abbrev Claims.AddWithCarry : Prop := ∀ (o : Alu) (sub : Bool) (q : PReg) (cin : Option PReg), WellFormed (.iaddc o sub q cin) →
  ∀ s c, Ready s c { once := isUniform o.d, sw := o.sw }
    (((deps2 o).join (match cin with | some p => Deps.pred p | none => {})).join (Deps.dst 1 o.d)) →
  let due := c.now + if isUniform o.d then 2 else 8
  let sum := fun (l : Nat) => (c.x.lane o.a l).toNat + (if sub then ~~~(c.x.lane o.b l) else c.x.lane o.b l).toNat
    + (if (match cin with | some p => c.x.predAt p l | none => sub) then 1 else 0)
  Changes (.iaddc o sub q cin) s c (fun y =>
    Wrote c.x y c.x.lanes (deps2 o).lasts o.d 1 due (fun _ l => BitVec.ofNat 32 (sum l)) ∧
    (∀ l, l < 64 → y.predAt q l = if isUniform o.d then decide (2 ^ 32 ≤ sum 0) else if c.x.lanes.getLsbD l then decide (2 ^ 32 ≤ sum l) else c.x.predAt q l) ∧
    DueAt y (match q with | .p r => .p r.toNat | .k r => .k r.toNat) due ∧
    SameRegs c.x y (deps2 o).lasts (vecsOf 1 o.d) (unisOf 1 o.d) ∧ SamePreds c.x y [q] ∧ SameRest c.x y ∧
    Stepped c.now o.sw [] c.x y ∧ y.pc = c.x.pc + 1)

/-- R107, R109: clamping, wrapping and carries. -/
def Obligations.CarriesAndFit : Prop := Claims.FitClampsOrWraps ∧ Claims.AddWithCarry

/-- R117, R118: shifts are not reduced modulo the width: SHL and SHR give 0 and SAR the sign from the width on; SHF shifts {c, a} by the
count modulo 32, or at most 32 under `.clamp`. -/
def Obligations.Shifts : Prop := ∀ o : Alu,
  (WellFormed (.shl o) → RegResult (.shl o) o.sw o.d (tyRegs o.ty) 8 (depsCount o) (fun x l =>
    if o.ty.is64 then words2 (x.operand o.ty o.a l <<< (x.lane o.b l).toNat) else [x.lane o.a l <<< (x.lane o.b l).toNat])) ∧
  (WellFormed (.shr o) → RegResult (.shr o) o.sw o.d (tyRegs o.ty) 8 (depsCount o) (fun x l =>
    if o.ty.is64 then words2 (x.operand o.ty o.a l >>> (x.lane o.b l).toNat) else [x.lane o.a l >>> (x.lane o.b l).toNat])) ∧
  (WellFormed (.sar o) → RegResult (.sar o) o.sw o.d (tyRegs o.ty) 8 (depsCount o) (fun x l =>
    if o.ty.is64 then words2 ((x.operand o.ty o.a l).sshiftRight (x.lane o.b l).toNat) else [(x.lane o.a l).sshiftRight (x.lane o.b l).toNat])) ∧
  (∀ right clamp, RegResult (.shf o right clamp) o.sw o.d 1 8 (deps111 o) (fun x l =>
    let n := if clamp then min (x.lane o.b l).toNat 32 else (x.lane o.b l).toNat % 32
    let v : DWord := x.lane o.c l ++ x.lane o.a l
    [if right then (v >>> n).extractLsb' 0 32 else (v <<< n).extractLsb' 32 32]))

/-- R119, R120: LOGT looks each bit up in its table with the a bit least significant; POPC counts the 1 bits; CLZ counts the 0 bits above
the highest 1; BREV reverses the bits of the type's width. -/
abbrev Claims.BitLogic : Prop := ∀ o : Alu,
  (∀ table, RegResult (.logt o table) o.sw o.d 1 8 (deps111 o) (fun x l => [laneLogt table (x.lane o.a l) (x.lane o.b l) (x.lane o.c l)])) ∧
  (∀ (table : Byte) (a b c : Word) (j : Nat), j < 32 → (laneLogt table a b c).getLsbD j =
    table.getLsbD ((if a.getLsbD j then 1 else 0) + (if b.getLsbD j then 2 else 0) + (if c.getLsbD j then 4 else 0))) ∧
  RegResult (.popc o) o.sw o.d 1 8 (Deps.src (tyRegs o.ty) o.a) (fun x l =>
    [BitVec.ofNat 32 (((List.range o.ty.width).filter (fun i => (x.operand o.ty o.a l).getLsbD i)).length)]) ∧
  (WellFormed (.clz o) → RegResult (.clz o) o.sw o.d 1 8 (Deps.src (tyRegs o.ty) o.a) (fun x l =>
    [BitVec.ofNat 32 (((List.range o.ty.width).reverse.takeWhile (fun i => !(x.operand o.ty o.a l).getLsbD i)).length)])) ∧
  (WellFormed (.brev o) → RegResult (.brev o) o.sw o.d (tyRegs o.ty) 8 (Deps.src (tyRegs o.ty) o.a) (fun x l =>
    if o.ty.is64 then words2 (x.operand o.ty o.a l).reverse else [(x.lane o.a l).reverse]))

/-- R121, R122, R123: BFE, BFI and BSEL; bit by bit for BFE without sign and for BFI. -/
abbrev Claims.BitFields : Prop := ∀ o : Alu,
  RegResult (.bfe o) o.sw o.d 1 8 (depsCount o) (fun x l => [laneBfe (tySigned o.ty) (x.lane o.a l) (x.lane o.b l)]) ∧
  RegResult (.bfi o) o.sw o.d 1 8 (deps111 o) (fun x l => [laneBfi (x.lane o.a l) (x.lane o.b l) (x.lane o.c l)]) ∧
  RegResult (.bsel o) o.sw o.d 1 8 (deps111 o) (fun x l => [laneBsel (x.lane o.a l) (x.lane o.b l) (x.lane o.c l)]) ∧
  (∀ (a b : Word) (i : Nat), i < 32 → (laneBfe false a b).getLsbD i = (decide (i < fieldLen b) && a.getLsbD (fieldPos b + i))) ∧
  (∀ (a b : Word) (i : Nat), 0 < fieldLen b → i < 32 → fieldPos b + fieldLen b ≤ 32 →
    (laneBfe true a b).getLsbD i = a.getLsbD (fieldPos b + min i (fieldLen b - 1))) ∧
  (∀ (a b c : Word) (i : Nat), i < 32 → (laneBfi a b c).getLsbD i =
    if fieldPos b ≤ i ∧ i < fieldPos b + fieldLen b then a.getLsbD (i - fieldPos b) else c.getLsbD i) ∧
  (∀ (a b c : Word) (i : Nat), i < 4 →
    let x : Byte := ((c ++ a : DWord) >>> (8 * (b.toNat / 2 ^ (3 * i) % 8))).setWidth 8
    let m := b.toNat / 2 ^ (2 * i + 12) % 4
    (laneBsel a b c).extractLsb' (8 * i) 8 = if m = 0 then x else if m = 1 then (if x.getLsbD 7 then 0xFF else 0) else if m = 2 then 0 else 0xFF)

/-- R119 to R123: bit logic and bit fields. -/
def Obligations.BitOperations : Prop := Claims.BitLogic ∧ Claims.BitFields

/-- R111, R112, R124, R125, R126 (P2V), R115: packed differences, dot products, scaled addresses, moves, selection. -/
def Obligations.DotsAddressesMoves : Prop := ∀ o : Alu,
  RegResult (.isad o) o.sw o.d 1 12 (deps111 o) (fun x l =>
    let n := o.ty.width
    let e := fun (a : Src) i => elemInt (x.lane a l) n i (tySigned o.ty)
    [lo32 (fit .n32 (((x.lane o.c l).toNat : Int) + ((List.range (32 / n)).map (fun i => |e o.a i - e o.b i|)).sum) o.sat)]) ∧
  (∀ bs, RegResult (.idp4 o bs) o.sw o.d 1 12 (deps111 o) (fun x l =>
    [lo32 (fit .s32 ((x.lane o.c l).toInt + ((List.range 4).map (fun i =>
      elemInt (x.lane o.a l) 8 i (tySigned o.ty) * elemInt (x.lane o.b l) 8 i bs)).sum) o.sat)]) ∧
    RegResult (.idp2 o bs) o.sw o.d 1 12 (deps111 o) (fun x l =>
    [lo32 (fit .s32 ((x.lane o.c l).toInt + ((List.range 2).map (fun i =>
      elemInt (x.lane o.a l) 16 i (tySigned o.ty) * elemInt (x.lane o.b l) 16 i bs)).sum) o.sat)])) ∧
  (∀ sh : BitVec 5, RegResult (.lea o sh) o.sw o.d 1 8 (deps2 o) (fun x l => [x.lane o.a l + x.lane o.b l <<< sh.toNat]) ∧
    (WellFormed (.lea64 o sh) → RegResult (.lea64 o sh) o.sw o.d 2 8 ((Deps.src 2 o.a).join (Deps.src 1 o.b)) (fun x l =>
      words2 (x.lane64 o.a l + (if o.ty == .s32 then (x.lane o.b l).signExtend 64 else (x.lane o.b l).zeroExtend 64) <<< sh.toNat)))) ∧
  RegResult (.mov o) o.sw o.d (tyRegs o.ty) 8 (Deps.src (tyRegs o.ty) o.b) (fun x l => [x.laneAt 0 o.b l, x.laneAt 1 o.b l]) ∧
  (∀ sw d w, RegResult (.movi sw d w) sw d 1 8 {} (fun _ _ => [w])) ∧
  (∀ inv c, WellFormed (.pick o inv c) → RegResult (.pick o inv c) o.sw o.d (tyRegs o.ty) 8 ((deps2 o).join (Deps.pred c)) (fun x l =>
    let a := if x.predAt c l != inv then o.a else o.b
    if o.ty.is64 then words2 (x.operand o.ty a l) else [x.lane a l])) ∧
  (∀ sw d, RegResult (.p2v sw d) sw (.v d) 1 8 { reads := allPreds } (fun x l => [predWord x l])) ∧
  (∀ (x : Warp) (l i : Nat), i < 32 → (predWord x l).getLsbD i =
    if i < 8 then x.predAt (.p (BitVec.ofNat 3 i)) l else if i < 12 then x.k.getLsbD (i - 8) else false)

/-- R114, R116, R133: comparisons and predicate logic write one predicate. -/
def Obligations.PredicateResults : Prop :=
  (∀ (o : Alu) cmp comb inv q c, WellFormed (.icmp o cmp comb inv q c) →
    PredResult (.icmp o cmp comb inv q c) o.sw (isUniform o.d) q 8 ((deps2 o).join (if comb == .none then {} else Deps.pred c)) (fun x l =>
      let t := match cmp with
        | .eq => decide (Claims.int o x o.a l = Claims.int o x o.b l) | .ne => decide (Claims.int o x o.a l ≠ Claims.int o x o.b l)
        | .lt => decide (Claims.int o x o.a l < Claims.int o x o.b l) | .le => decide (Claims.int o x o.a l ≤ Claims.int o x o.b l)
        | .gt => decide (Claims.int o x o.b l < Claims.int o x o.a l) | .ge => decide (Claims.int o x o.b l ≤ Claims.int o x o.a l)
      let w := (x.predAt c l ^^ inv)
      match comb with | .none => t | .and => t && w | .or => t || w | .xor => t ^^ w)) ∧
  (∀ (o : FOp) cmp comb q c, WellFormed (.fcmp o cmp comb q c) →
    PredResult (.fcmp o cmp comb q c) o.sw (isUniform o.d) q 8 ((fdeps2 o).join (if comb == .none then {} else Deps.pred c)) (fun x l =>
      combine comb (cmpFlt cmp (x.lane o.a l) (x.lane o.b l)) (x.predAt c l))) ∧
  (∀ sw d a b c table, PredResult (.plog sw d a b c table) sw d.isK d 8 (((Deps.pred a).join (Deps.pred b)).join (Deps.pred c)) (fun x l =>
      table.getLsbD ((if x.predAt a l then 1 else 0) + (if x.predAt b l then 2 else 0) + (if x.predAt c l then 4 else 0))))

/-- R133, Table 2: an ordered comparison is false and an unordered one true when an operand is NaN; each `u` comparison is the ordered one or
unordered; −0 equals +0. -/
abbrev Claims.FloatComparisons : Prop := ∀ a b : Word,
  let un : Bool := (decodeFp32 a).isNan || (decodeFp32 b).isNan
  cmpFlt .nan a b = un ∧ cmpFlt .num a b = !un ∧
  (un = true → cmpFlt .eq a b = false ∧ cmpFlt .ne a b = false ∧ cmpFlt .lt a b = false ∧ cmpFlt .le a b = false ∧ cmpFlt .gt a b = false ∧ cmpFlt .ge a b = false) ∧
  cmpFlt .equ a b = (un || cmpFlt .eq a b) ∧ cmpFlt .neu a b = (un || cmpFlt .ne a b) ∧ cmpFlt .ltu a b = (un || cmpFlt .lt a b) ∧
  cmpFlt .leu a b = (un || cmpFlt .le a b) ∧ cmpFlt .gtu a b = (un || cmpFlt .gt a b) ∧ cmpFlt .geu a b = (un || cmpFlt .ge a b) ∧
  (un = false → cmpFlt .ne a b = !cmpFlt .eq a b ∧ cmpFlt .ge a b = !cmpFlt .lt a b ∧ cmpFlt .le a b = !cmpFlt .gt a b ∧
    cmpFlt .le a b = (cmpFlt .lt a b || cmpFlt .eq a b) ∧ cmpFlt .gt a b = cmpFlt .lt b a) ∧
  cmpFlt .eq 0x80000000 0 = true

/-! ### Floating-point, conversion and cross-lane instructions (chapter 6) -/

/-- A source with its modifiers (R130): decoded, its magnitude taken under abs, negated under neg. -/
abbrev Claims.src (f : Fmt) (neg abs : Bool) (code : Nat) : Xreal :=
  let x := decodeElem f (xzero false) code
  let y := if abs then x.abs else x
  if neg then y.neg else y

/-- A two- or three-source result of one register. -/
abbrev Claims.Flt (i : Instr) (o : FOp) (srcs : Deps) (r : Warp → Nat → Word) : Prop := RegResult i o.sw o.d 1 8 srcs (fun x l => [r x l])

/-- R131, R136: FADD, FMUL, FFMA and FDP2 compute an exact result and round it once into FP32. -/
def Obligations.FloatArithmetic : Prop := ∀ o : FOp,
  let a := fun (x : Warp) l => Claims.src .fp32 o.na o.aa (x.lane o.a l).toNat
  let b := fun (x : Warp) l => Claims.src .fp32 o.nb o.ab (x.lane o.b l).toNat
  let c := fun (x : Warp) l => Claims.src .fp32 o.nc o.ac (x.lane o.c l).toNat
  let out := fun (r : Xreal) => BitVec.ofNat 32 (roundTo .fp32 r o.rm false)
  let h := fun (neg abs : Bool) (w : Word) (i : Nat) => Claims.src (fltFmt o.ty) neg abs (w.toNat / 65536 ^ i)
  Claims.Flt (.fadd o) o (fdeps2 o) (fun x l => out (sumX o.rm [a x l, b x l])) ∧
  Claims.Flt (.fmul o) o (fdeps2 o) (fun x l => out ((a x l).mul (b x l))) ∧
  Claims.Flt (.ffma o) o (fdeps3 o) (fun x l => out (sumX o.rm [(a x l).mul (b x l), c x l])) ∧
  Claims.Flt (.fdp2 o) o (fdeps3 o) (fun x l => out (sumX o.rm
    [(h o.na o.aa (x.lane o.a l) 0).mul (h o.nb o.ab (x.lane o.b l) 0), (h o.na o.aa (x.lane o.a l) 1).mul (h o.nb o.ab (x.lane o.b l) 1), c x l]))

/-- An exact value as a rational number; 0 for what is not finite. -/
abbrev Claims.rat : Xreal → ℚ
  | .fin s n d e => (if s then -1 else 1) * n / d * (2 : ℚ) ^ e
  | _ => 0

/-- R134: FRND of a finite value is an integer with the value's sign, the nearest one on the side of the mode, under `.rn` the nearest with
ties to even; an infinity is returned unchanged, and NaN gives the canonical NaN. -/
abbrev Claims.RoundsIntegral : Prop := ∀ (rm : Rm) (a : Word),
  let v := Claims.rat (decodeFp32 a)
  let r := laneFrnd rm a
  ((decodeFp32 a).isNan = true → r = 0x7FC00000) ∧ (∀ s, decodeFp32 a = .inf s → r = a) ∧
  ((decodeFp32 a).isFin = true → (decodeFp32 r).isFin = true ∧ r.getLsbD 31 = a.getLsbD 31 ∧ ∃ k : ℤ, Claims.rat (decodeFp32 r) = k ∧
    match rm with
    | .rd => (k : ℚ) ≤ v ∧ v < k + 1
    | .ru => v ≤ (k : ℚ) ∧ (k : ℚ) < v + 1
    | .rz => |(k : ℚ)| ≤ |v| ∧ |v| < |(k : ℚ)| + 1
    | .rn => |v - k| ≤ 1 / 2 ∧ (|v - k| = 1 / 2 → k % 2 = 0))

/-- R135: the bit of FCLASS for each kind of value: sign, exponent field and fraction field. -/
abbrev Claims.ClassBits : Prop := ∀ a : Word,
  let neg := a.getLsbD 31
  let e := (a.extractLsb' 23 8).toNat
  let m := (a.extractLsb' 0 23).toNat
  let bit := fun i => (laneFclass a).getLsbD i = true
  (bit 0 ↔ neg = true ∧ e = 255 ∧ m = 0) ∧ (bit 7 ↔ neg = false ∧ e = 255 ∧ m = 0) ∧
  (bit 1 ↔ neg = true ∧ 1 ≤ e ∧ e ≤ 254) ∧ (bit 6 ↔ neg = false ∧ 1 ≤ e ∧ e ≤ 254) ∧
  (bit 2 ↔ neg = true ∧ e = 0 ∧ m ≠ 0) ∧ (bit 5 ↔ neg = false ∧ e = 0 ∧ m ≠ 0) ∧
  (bit 3 ↔ a = 0x80000000) ∧ (bit 4 ↔ a = 0) ∧
  (bit 8 ↔ e = 255 ∧ m ≠ 0 ∧ a.getLsbD 22 = false) ∧ (bit 9 ↔ e = 255 ∧ a.getLsbD 22 = true) ∧
  ∃ i, i < 10 ∧ laneFclass a = BitVec.ofNat 32 (2 ^ i)

/-- R132, R134, R135: FMIN and FMAX return one operand unchanged or the canonical NaN; FRND rounds to an integral value; FCLASS writes the one
bit of its operand's class. -/
def Obligations.FloatSelectRoundClass : Prop := ∀ o : FOp,
  (∀ nan, Claims.Flt (.fmin o nan) o (fdeps2 o) (fun x l => BitVec.ofNat 32 (minMaxCode .fp32 false nan (x.lane o.a l).toNat (x.lane o.b l).toNat)) ∧
    Claims.Flt (.fmax o nan) o (fdeps2 o) (fun x l => BitVec.ofNat 32 (minMaxCode .fp32 true nan (x.lane o.a l).toNat (x.lane o.b l).toNat))) ∧
  Claims.Flt (.frnd o) o (Deps.src 1 o.a) (fun x l => laneFrnd o.rm (x.lane o.a l)) ∧
  Claims.Flt (.fclass o) o (Deps.src 1 o.a) (fun x l => laneFclass (x.lane o.a l)) ∧
  (∀ (mx nan : Bool) (a b : Word),
    let na := (decodeFp32 a).isNan
    let nb := (decodeFp32 b).isNan
    let r : Word := BitVec.ofNat 32 (minMaxCode .fp32 mx nan a.toNat b.toNat)
    (nan = true ∧ (na || nb) = true → r = 0x7FC00000) ∧ (na = true ∧ nb = true → r = 0x7FC00000) ∧
    (nan = false ∧ na = true ∧ nb = false → r = b) ∧ (nan = false ∧ na = false ∧ nb = true → r = a) ∧
    (na = false ∧ nb = false → (r = a ∨ r = b) ∧ if mx then cmpFlt .ge r a = true ∧ cmpFlt .ge r b = true else cmpFlt .le r a = true ∧ cmpFlt .le r b = true)) ∧
  (∀ a : Word, (laneFclass a).getLsbD 8 = true ∨ (laneFclass a).getLsbD 9 = true ↔ (decodeFp32 a).isNan = true) ∧
  Claims.RoundsIntegral ∧ Claims.ClassBits

/-- R137: the packed instructions apply the FP32 operation to each half on its own; half 0 of the result does not depend on half 1 of any
source. -/
def Obligations.PackedHalves : Prop := ∀ o : FOp,
  let f := fltFmt o.ty
  let half := fun (w : Word) (i : Nat) => (w.extractLsb' (16 * i) 16).toNat
  let join := fun (g : Nat → Nat) => (BitVec.ofNat 16 (g 1) ++ BitVec.ofNat 16 (g 0) : Word)
  let a := fun (x : Warp) l i => Claims.src f o.na o.aa (half (x.lane o.a l) i)
  let b := fun (x : Warp) l i => Claims.src f o.nb o.ab (half (x.lane o.b l) i)
  let c := fun (x : Warp) l i => Claims.src f o.nc o.ac (half (x.lane o.c l) i)
  Claims.Flt (.hadd2 o) o (fdeps2 o) (fun x l => join (fun i => roundTo f (sumX o.rm [a x l i, b x l i]) o.rm false)) ∧
  Claims.Flt (.hmul2 o) o (fdeps2 o) (fun x l => join (fun i => roundTo f ((a x l i).mul (b x l i)) o.rm false)) ∧
  Claims.Flt (.hfma2 o) o (fdeps3 o) (fun x l => join (fun i => roundTo f (sumX o.rm [(a x l i).mul (b x l i), c x l i]) o.rm false)) ∧
  (∀ nan, Claims.Flt (.hmin2 o nan) o (fdeps2 o) (fun x l => join (fun i => minMaxCode f false nan (half (x.lane o.a l) i) (half (x.lane o.b l) i))) ∧
    Claims.Flt (.hmax2 o nan) o (fdeps2 o) (fun x l => join (fun i => minMaxCode f true nan (half (x.lane o.a l) i) (half (x.lane o.b l) i))))

/-- `c` is the root of `y` correctly rounded into FP32 (R88, R89): the root lies between `c` and its neighbour on the side that the mode
rounds from, and under `.rn` between the middles of `c` and its two neighbours. Stated of the squares. -/
abbrev Claims.RoundsRoot (rm : Rm) (y : ℚ) (c : Word) : Prop :=
  let v := fun (w : Word) => Claims.rat (decodeFp32 w)
  1 ≤ c.toNat ∧ c.toNat < 0x7F7FFFFF ∧ match rm with
    | .rz | .rd => v c ^ 2 ≤ y ∧ y < v (c + 1) ^ 2
    | .ru => v (c - 1) ^ 2 < y ∧ y ≤ v c ^ 2
    | .rn => ((v (c - 1) + v c) / 2) ^ 2 < y ∧ y < ((v c + v (c + 1)) / 2) ^ 2

/-- R138: FRCP of a finite value that is not 0 is its exact reciprocal rounded once; FSQRT and FRSQ of a finite positive value are correctly
rounded under every mode. FEX2 of an integer and FLG2 of a power of two are exact. -/
abbrev Claims.ElementaryRounding : Prop :=
  (∀ (rm : Rm) (a : Word) s n d e, decodeFp32 a = .fin s n d e → n ≠ 0 → elemCode .rcp rm a = BitVec.ofNat 32 (roundTo .fp32 (.fin s d n (-e)) rm false)) ∧
  (∀ (rm : Rm) (a : Word), a.getLsbD 31 = false → (decodeFp32 a).isFin = true → (decodeFp32 a).isZero = false →
    Claims.RoundsRoot rm (Claims.rat (decodeFp32 a)) (elemCode .sqrt rm a) ∧ Claims.RoundsRoot rm (1 / Claims.rat (decodeFp32 a)) (elemCode .rsq rm a)) ∧
  (∀ n : Int, -149 ≤ n → n ≤ 127 → elemCode .ex2 .rn (roundFp32 (xint n) .rn) = roundFp32 (xdyadic false 1 n) .rn ∧
    elemCode .lg2 .rn (roundFp32 (xdyadic false 1 n) .rn) = roundFp32 (xint n) .rn)

/-- R138: the elementary functions write the FP32 code of their value after 24 cycles, FRCP, FRSQ and FSQRT correctly rounded; Table 3's
special inputs and the rule's exact cases. The precision that the model computes the other five with is its own choice (log 12). -/
def Obligations.ElementaryFunctions : Prop := Claims.ElementaryRounding ∧
  (∀ o : FOp, let r := fun (e : ElemFn) (x : Warp) (l : Nat) => [elemCode e o.rm (x.lane o.a l)]
    RegResult (.frcp o) o.sw o.d 1 24 (Deps.src 1 o.a) (r .rcp) ∧ RegResult (.frsq o) o.sw o.d 1 24 (Deps.src 1 o.a) (r .rsq) ∧
    RegResult (.fsqrt o) o.sw o.d 1 24 (Deps.src 1 o.a) (r .sqrt) ∧ RegResult (.fex2 o) o.sw o.d 1 24 (Deps.src 1 o.a) (r .ex2) ∧
    RegResult (.flg2 o) o.sw o.d 1 24 (Deps.src 1 o.a) (r .lg2) ∧ RegResult (.fsin o) o.sw o.d 1 24 (Deps.src 1 o.a) (r .sin) ∧
    RegResult (.fcos o) o.sw o.d 1 24 (Deps.src 1 o.a) (r .cos) ∧ RegResult (.ftanh o) o.sw o.d 1 24 (Deps.src 1 o.a) (r .tanh)) ∧
  (∀ (e : ElemFn) (rm : Rm) (a : Word), (decodeFp32 a).isNan = true → elemCode e rm a = 0x7FC00000) ∧
  (∀ (rm : Rm) (a : Word), a.getLsbD 31 = true → (decodeFp32 a).isZero = false →
    elemCode .rsq rm a = 0x7FC00000 ∧ elemCode .sqrt rm a = 0x7FC00000 ∧ elemCode .lg2 rm a = 0x7FC00000) ∧
  (∀ rm : Rm, elemCode .rcp rm 0 = 0x7F800000 ∧ elemCode .rcp rm 0x80000000 = 0xFF800000 ∧ elemCode .rsq rm 0x80000000 = 0xFF800000 ∧
    elemCode .sqrt rm 0x80000000 = 0x80000000 ∧ elemCode .ex2 rm 0x80000000 = 0x3F800000 ∧ elemCode .lg2 rm 0 = 0xFF800000 ∧
    elemCode .sin rm 0x80000000 = 0x80000000 ∧ elemCode .cos rm 0 = 0x3F800000 ∧ elemCode .tanh rm 0xFF800000 = 0xBF800000 ∧
    elemCode .sin rm 0x7F800000 = 0x7FC00000 ∧ elemCode .ex2 rm 0xFF800000 = 0)

/-- R140, R141: a widening conversion is exact, and no rounding gives E2M1 the code 0b1000. -/
abbrev Claims.WidensExactly : Prop :=
  (∀ (f : Fmt) (c : Nat), f ∈ [Fmt.bf16, .fp16, .e5m2, .e4m3, .e3m4, .e2m1] → ∀ rm,
    let x := decodeElem f (xzero false) c
    let y := fun (g : Fmt) => decodeElem g (xzero false) (roundTo g x rm false)
    ((y .fp32).isNan = x.isNan ∧ (y .fp32).isFin = x.isFin ∧ (y .fp32).isNeg = x.isNeg ∧ Claims.rat (y .fp32) = Claims.rat x) ∧
    (f ≠ .bf16 → f ≠ .fp16 → ∀ g ∈ [Fmt.bf16, .fp16], (y g).isNan = x.isNan ∧ (y g).isFin = x.isFin ∧ (y g).isNeg = x.isNeg ∧ Claims.rat (y g) = Claims.rat x)) ∧
  ∀ (v : Xreal) rm sat, roundTo .e2m1 v rm sat ≠ 8

/-- Largest finite value of a block format (Table 2 of the formats chapter). -/
abbrev Claims.maxOf : Fmt → ℚ
  | .e5m2 => 57344 | .e4m3 => 448 | .e3m4 => 31 / 2 | .e2m1 => 6 | .fp16 => 65504 | _ => (2 - 1 / 128) * 2 ^ 127

/-- R143, R144: the scale of a block is the smallest code, under `.pow2` with a zero fraction, whose value reaches the largest magnitude over
the format's largest value, or the largest such code when none does, and 1.0 for a block of zeros; each active element is divided by it and
rounded; under `.spc` the quotient with the largest error, the lowest on ties, becomes the special value, and every element that it serves
better takes code 0b1000. -/
abbrev Claims.QuantBlock : Prop := ∀ (f : Fmt) (rm : Rm) (sat pow2 spc : Bool) (els : List (Option Word)),
  f ∈ [Fmt.bf16, .fp16, .e5m2, .e4m3, .e3m4, .e2m1] → (spc = true → f = .e2m1 ∧ rm = .rn) →
  let q := qblkBlock f rm sat pow2 spc els
  let fin := fun (w : Word) => (decodeFp32 w).isFin = true
  let v := fun (w : Word) => Claims.rat (decodeFp32 w)
  let sc := hdrScale q.2
  let val := fun (k : Nat) => Claims.rat ((sc16Value k).getD .nan)
  let s := val sc
  let base := fun (w : Word) => roundTo f ((decodeFp32 w).div ((sc16Value sc).getD .nan)) rm sat
  let err := fun (w : Word) => |v w / s - Claims.rat (decodeElem f (xzero false) (base w))|
  q.1.length = els.length ∧ hdrFmt q.2 = f.code ∧
  ((∀ w, some w ∈ els → fin w → v w = 0) → sc = 0x7F00) ∧
  (∀ m, some m ∈ els → fin m → v m ≠ 0 → (∀ w, some w ∈ els → fin w → |v w| ≤ |v m|) →
    let may := fun (k : Nat) => 0x0100 ≤ k ∧ k ≤ 0xFFFE ∧ (pow2 = true → k % 256 = 0)
    may sc ∧ (|v m| / Claims.maxOf f ≤ s ∨ sc = if pow2 then 0xFF00 else 0xFFFE) ∧ ∀ k, may k → k < sc → val k < |v m| / Claims.maxOf f) ∧
  (∀ (i : Nat), els[i]? = some none → q.1[i]? = some none) ∧
  (spc = false ∨ (∀ w, some w ∈ els → fin w → err w = 0) →
    hdrSpecial q.2 = 0 ∧ ∀ (i : Nat) w, els[i]? = some (some w) → q.1[i]? = some (some (base w))) ∧
  (spc = true → ∀ (j : Nat) b, els[j]? = some (some b) → fin b → err b ≠ 0 →
    (∀ (i : Nat) w, els[i]? = some (some w) → fin w → err w ≤ err b ∧ (i < j → err w < err b)) →
    let sp := roundTo .e4m3 ((decodeFp32 b).div ((sc16Value sc).getD .nan)) .rn true
    hdrSpecial q.2 = sp ∧ ∀ (i : Nat) w, els[i]? = some (some w) →
      q.1[i]? = some (some (if (decodeFp32 w).isFin = true ∧ |v w / s - Claims.rat (decodeElem .e4m3 .nan sp)| < err w then 8 else base w)))

/-- R139, R140, R141, R145, R142 to R144: the conversions and block quantisation write their groups of registers, each element placed as
Tables 4 to 6 say; what QBLK chooses, and what a malformed header gives DQBLK. That CVTP's cross form honours `.sat` is the model's reading
(log 39, DEDUCED). -/
def Obligations.Conversions : Prop := ∀ o : Cv,
  RegResult (.cvt o) o.sw o.d (tyRegs o.td) 8 (Deps.src (tyRegs o.ts) o.a) (fun x l =>
    let v := x.operand o.ts o.a l
    words2 (if o.ts.isInt then (if o.td.isInt then fit o.td (opnd o.ts v) o.sat else BitVec.ofNat 64 (roundTo (fltFmt o.td) (xint (opnd o.ts v)) o.rm o.sat))
      else let r := decodeElem (fltFmt o.ts) (xzero false) v.toNat
        if o.td.isInt then fit o.td (toIntClamped r o.rm (tyMin o.td) (tyMax o.td)) false else BitVec.ofNat 64 (roundTo (fltFmt o.td) r o.rm (o.sat && o.td != .f32)))) ∧
  (WellFormed (.cvtp o) → RegResult (.cvtp o) o.sw o.d (if o.td == .f32 then 2 else 1) 8 ((Deps.src 1 o.a).join (if o.packs then Deps.src 1 o.b else {})) (fun x l =>
    let r := fun (v : Xreal) => roundTo (fltFmt o.td) v o.rm o.sat
    let half := fun i => decodeElem (fltFmt o.ts) (xzero false) ((x.lane o.a l).extractLsb' (16 * i) 16).toNat
    let two := fun (p q : Nat) => (BitVec.ofNat 16 q ++ BitVec.ofNat 16 p : Word)
    if o.ts = .f32 then [two (r (decodeFp32 (x.lane o.a l))) (r (decodeFp32 (x.lane o.b l)))]
    else if o.td = .f32 then [BitVec.ofNat 32 (r (half 0)), BitVec.ofNat 32 (r (half 1))] else [two (r (half 0)) (r (half 1))])) ∧
  (WellFormed (.cvt8 o) → cvt8In o * (32 / (fltFmt o.ts).width) = cvt8Out o * (32 / (fltFmt o.td).width) ∧
    RegResult (.cvt8 o) o.sw o.d (cvt8Out o) 8 (Deps.src (cvt8In o) o.a) (fun x l =>
      let ws := (fltFmt o.ts).width
      let wd := (fltFmt o.td).width
      let code := fun i => roundTo (fltFmt o.td) (decodeElem (fltFmt o.ts) (xzero false) ((x.laneAt (i / (32 / ws)) o.a l).extractLsb' (ws * (i % (32 / ws))) ws).toNat) o.rm o.sat
      (List.range (cvt8Out o)).map (fun j => BitVec.ofNat 32 ((List.range (32 / wd)).map (fun k => code (j * (32 / wd) + k) * 2 ^ (wd * k))).sum))) ∧
  RegResult (.dqblk o) o.sw o.d (if o.td == .e2m1 then 2 else 1) 16 ((Deps.src 1 o.a).join (Deps.src 1 o.b)) (fun x l =>
    (List.range (if o.td == .e2m1 then 2 else 1)).map (fun i =>
      let f := fltFmt o.td
      BitVec.ofNat 32 (roundTo .fp32 (blockValue (x.lane o.b l) f ((x.lane o.a l).toNat / (2 ^ f.width) ^ i % 2 ^ f.width)).1 o.rm o.sat))) ∧
  (∀ pow2 spc, WellFormed (.qblk o pow2 spc) → RegResult (.qblk o pow2 spc) o.sw o.d 2 16 (Deps.src (if o.td == .e2m1 then 2 else 1) o.a) (fun x l =>
    let el := fun j i => if x.lanes.getLsbD j then some (x.laneAt i o.a j) else none
    let els := if o.td = .e2m1 then (List.range 128).map (fun k => el (k / 2) (k % 2)) else
      if o.td.isHalf then (List.range 32).map (fun k => el (l / 32 * 32 + k) 0) else (List.range 64).map (fun k => el k 0)
    let q := qblkBlock (fltFmt o.td) o.rm o.sat pow2 spc els
    let code := fun k => (q.1.getD k none).getD 0
    [if o.td = .e2m1 then BitVec.ofNat 32 (code (2 * l) + 16 * code (2 * l + 1)) else BitVec.ofNat 32 (code (if o.td.isHalf then l % 32 else l)), q.2])) ∧
  Claims.QuantBlock ∧ Claims.WidensExactly ∧
  (∀ (h : Word) (f : Fmt) (c : Nat), f.isFloat = true → ((hdrFmt h ≠ 0 ∧ hdrFmt h ≠ f.code) ∨ (hdrFmt h = f.code ∧ sc16Value (hdrScale h) = none)) →
    ∀ rm sat, roundTo .fp32 (blockValue h f c).1 rm sat = 0x7FC00000)

/-- R139, Table of float to integer: a conversion to an integer type gives a value of the type, 0 for NaN. -/
abbrev Claims.FloatToInteger : Prop := ∀ (o : Cv) (a : DWord), o.ts.isWideFloat = true → o.td.isInt = true →
  tyMin o.td ≤ opnd o.td (laneCvt o a) ∧ opnd o.td (laneCvt o a) ≤ tyMax o.td ∧
  ((decodeElem (fltFmt o.ts) (xzero false) a.toNat).isNan = true → laneCvt o a = 0)

/-- R133, R139: comparisons of floating-point values and their conversion to integers. -/
def Obligations.FloatComparisonsAndIntegers : Prop := Claims.FloatComparisons ∧ Claims.FloatToInteger

/-- R149, R150: the reduction word: an exact sum written through `fit`, or rounded once; the least or greatest value under the type; the bits
of all, any, or an odd number of the values; the identity where no lane takes part. -/
abbrev Claims.Reductions : Prop :=
  (∀ (ty : Ty) rm sat (vs : List Word), vs ≠ [] → (ty = .n32 ∨ ty = .s32) →
    let n := fun (w : Word) => if ty = .s32 then w.toInt else (w.toNat : Int)
    reduceWords ty .add rm sat vs = lo32 (fit ty (vs.map n).sum sat) ∧
    (∃ m ∈ vs, reduceWords ty .min rm sat vs = m ∧ ∀ w ∈ vs, n m ≤ n w) ∧ (∃ m ∈ vs, reduceWords ty .max rm sat vs = m ∧ ∀ w ∈ vs, n w ≤ n m)) ∧
  (∀ rm sat (vs : List Word), vs ≠ [] → reduceWords .f32 .add rm sat vs = BitVec.ofNat 32 (roundTo .fp32 (sumX rm (vs.map decodeFp32)) rm false)) ∧
  (∀ rm sat (vs : List Word), (∃ w ∈ vs, (decodeFp32 w).isNan = false) →
    (∃ m ∈ vs, reduceWords .f32 .min rm sat vs = m ∧ ∀ w ∈ vs, (decodeFp32 w).isNan = false → cmpFlt .le m w = true) ∧
    (∃ m ∈ vs, reduceWords .f32 .max rm sat vs = m ∧ ∀ w ∈ vs, (decodeFp32 w).isNan = false → cmpFlt .ge m w = true)) ∧
  (∀ rm sat (vs : List Word), 2 ≤ vs.length → (∀ w ∈ vs, (decodeFp32 w).isNan = true) →
    reduceWords .f32 .min rm sat vs = 0x7FC00000 ∧ reduceWords .f32 .max rm sat vs = 0x7FC00000) ∧
  (∀ (ty : Ty) rm sat (vs : List Word) (i : Nat), vs ≠ [] → i < 32 →
    (reduceWords ty .and rm sat vs).getLsbD i = vs.all (fun w => w.getLsbD i) ∧ (reduceWords ty .or rm sat vs).getLsbD i = vs.any (fun w => w.getLsbD i) ∧
    (reduceWords ty .xor rm sat vs).getLsbD i = decide ((vs.countP (fun w => w.getLsbD i)) % 2 = 1)) ∧
  ∀ rm sat, (∀ ty, reduceWords ty .add rm sat [] = 0 ∧ reduceWords ty .and rm sat [] = 0xFFFFFFFF ∧ reduceWords ty .or rm sat [] = 0 ∧ reduceWords ty .xor rm sat [] = 0) ∧
    reduceWords .n32 .min rm sat [] = 0xFFFFFFFF ∧ reduceWords .n32 .max rm sat [] = 0 ∧ reduceWords .s32 .min rm sat [] = 0x7FFFFFFF ∧
    reduceWords .s32 .max rm sat [] = 0x80000000 ∧ reduceWords .f32 .min rm sat [] = 0x7F800000 ∧ reduceWords .f32 .max rm sat [] = 0xFF800000

/-- R147 to R151: what SHFL, BALLOT, REDUX, SCAN and MATCH write in each active lane. -/
def Obligations.CrossLane : Prop :=
  (∀ sw (k : BitVec 3) mode d a b, RegResult (.shfl sw k mode d a b) sw (.v d) 1 16 ((Deps.src 1 a).join (Deps.src 1 b)) (fun x l =>
    let w := 2 ^ k.toNat
    let base := l / w * w
    let n := (x.lane b l).toNat
    [x.lane a (match mode with
      | .idx => base + n % w
      | .up => if n ≤ l % w then l - n else l
      | .down => if l % w + n < w then l + n else l
      | .xor => base + ((l % w) ^^^ (n % w)))])) ∧
  (∀ sw inv d q, RegResult (.ballot sw inv d q) sw (.v d) 2 16 (Deps.pred q) (fun x _ =>
    words2 (x.lanes &&& (if inv then ~~~(x.predMask q) else x.predMask q)))) ∧
  (∀ sw ty op rm sat d a, RegResult (.redux sw ty op rm sat d a) sw (.v d) 1 16 (Deps.src 1 a) (fun x _ =>
    [reduceWords ty op rm sat ((lanesOf x.lanes).map (x.lane a))])) ∧
  (∀ sw ty op rm sat excl d a, RegResult (.scan sw ty op rm sat excl d a) sw (.v d) 1 16 (Deps.src 1 a) (fun x l =>
    [reduceWords ty op rm sat (((lanesOf x.lanes).filter (fun j => if excl then decide (j < l) else decide (j ≤ l))).map (x.lane a))])) ∧
  (∀ sw ty all d a, RegResult (.matchLanes sw ty all d a) sw (.v d) 2 16 (Deps.src (tyRegs ty) a) (fun x l =>
    let same := laneBits x.lanes (fun j => x.operand ty a j == x.operand ty a l)
    words2 (if all then (if same = x.lanes then x.lanes else 0) else same))) ∧ Claims.Reductions

/-- R148, R126: VOTE writes one predicate with the vote of the active lanes; V2P writes the predicates of its mask from a register's bits and
leaves every other predicate, every inactive lane and every k register. -/
def Obligations.VotesAndPredicateMoves : Prop :=
  (∀ sw mode inv d q s c, Ready s c { once := false, sw := sw } (Deps.pred q) →
    Changes (.vote sw mode inv d q) s c (fun y =>
      let t := fun l => (c.x.predAt q l ^^ inv)
      let all := (lanesOf c.x.lanes).all t
      let any := (lanesOf c.x.lanes).any t
      let v := match mode with | .all => all | .any => any | .uni => all || !any
      (∀ l, l < 64 → y.predAt d l = if d.isK || c.x.lanes.getLsbD l then v else c.x.predAt d l) ∧
      DueAt y (match d with | .p r => .p r.toNat | .k r => .k r.toNat) (c.now + 16) ∧
      SameRegs c.x y [] [] [] ∧ SamePreds c.x y [d] ∧ SameRest c.x y ∧ Stepped c.now sw [] c.x y ∧ y.pc = c.x.pc + 1)) ∧
  (∀ sw a m (mask : Byte) s c, Ready s c { once := false, sw := sw } (Deps.src 1 (.v a m)) →
    Changes (.v2p sw a m mask) s c (fun y =>
      (∀ (r : BitVec 3) l, l < 64 → y.predAt (.p r) l =
        if mask.getLsbD r.toNat && c.x.lanes.getLsbD l then ((c.x.readV a.toNat).getD l 0).getLsbD r.toNat else c.x.predAt (.p r) l) ∧
      (∀ r : BitVec 3, mask.getLsbD r.toNat = true → DueAt y (.p r.toNat) (c.now + 8)) ∧
      SameRegs c.x y (srcLasts 1 (.v a m)) [] [] ∧ y.k = c.x.k ∧ SameRest c.x y ∧ Stepped c.now sw [] c.x y ∧ y.pc = c.x.pc + 1))

/-! ### Control flow, prefixes, system instructions (chapters 3, 12, 15) -/

/-- The PC moves to `n`, and nothing else of the warp changes but the skid of a halt in progress and of the traps that wait, and a switch
marker's park. -/
abbrev Claims.Moved (now : Nat) (sw : Bool) (x y : Warp) (n : Nat) : Prop :=
  { y with pc := x.pc, halt := x.halt, park := x.park, dq := x.dq } = x ∧ SameTraps x y ∧ Stepped now sw [] x y ∧ y.pc = n

/-- R319, R69, R381: NOP changes only the PC; PRED reads its predicate once and starts a prefix of m + e instructions; YIELD waits for
exactly the other warps of its quadrant that are eligible as it issues, at most 64 cycles (the warps that something holds at issue are those
that the issue stage has noted in the state, log 36); SLEEP parks the warp for n cycles, whose count stands still in a halt. -/
abbrev Claims.NopPredYieldSleep : Prop :=
  (∀ sw s c, Ready s c { once := true, sw := sw } {} → Changes (.nop sw) s c (fun y =>
    SameRegs c.x y [] [] [] ∧ SamePreds c.x y [] ∧ SameRest c.x y ∧ Stepped c.now sw [] c.x y ∧ y.pend = c.x.pend ∧ y.pc = c.x.pc + 1)) ∧
  (∀ sw q inv m e s c, Ready s c { once := true, cover := false, sw := sw } (Deps.pred q) → Changes (.pred sw q inv m e) s c (fun y =>
    y.pfx = some { remaining := m.toNat + e.toNat, thenLeft := m.toNat, base := c.x.mask, cond := if inv then ~~~(c.x.predMask q) else c.x.predMask q } ∧
    SameRegs c.x y [] [] [] ∧ SamePreds c.x y [] ∧ SameRest c.x y ∧ Stepped c.now sw [] c.x { y with pfx := c.x.pfx } ∧ y.pend = c.x.pend ∧
    y.pc = c.x.pc + 1)) ∧
  (∀ sw s c, Ready s c { once := true, sw := sw } {} → Changes (.yield sw) s c (fun y =>
    (∃ l, y.yield = some { others := l, until_ := c.now + 64 } ∧
      ∀ w, w ∈ l ↔ w ≠ c.w ∧ ∃ n, (n, w) ∈ s.eligible c.core (quadOf c.g c.w.warp) c.now) ∧
    SameRest c.x { y with yield := c.x.yield } ∧ Stepped c.now sw [] c.x y ∧ SameRegs c.x y [] [] [] ∧ SamePreds c.x y [] ∧ y.pc = c.x.pc + 1)) ∧
  (∀ sw (n : BitVec 20) s c, Ready s c { once := true, sw := sw } {} → Changes (.sleep sw n) s c (fun y =>
    Stepped c.now sw [if c.x.halt.isSome then .slept n.toNat else .sleep (c.now + n.toNat)] c.x y ∧
    SameRegs c.x y [] [] [] ∧ SamePreds c.x y [] ∧ SameRest c.x y ∧ y.pc = c.x.pc + 1))

/-- R69: an instruction that a prefix covers runs on the path's lanes where the condition is true for the first m instructions, and where it
is false for the others; the prefix ends after m + e instructions. -/
abbrev Claims.PrefixSides : Prop :=
  (∀ sw q inv (m e : BitVec 4), WellFormed (.pred sw q inv m e) → 1 ≤ m.toNat + e.toNat ∧ m.toNat + e.toNat ≤ 8) ∧
  ∀ (x : Warp) (p : Prefix), x.pfx = some p →
  (0 < p.thenLeft → x.lanes = p.base &&& p.cond) ∧ (p.thenLeft = 0 → x.lanes = p.base &&& ~~~p.cond) ∧
  (∀ now sw jump, let y := x.advance now sw jump true
    (p.remaining ≤ 1 → y.pfx = none) ∧
    (1 < p.remaining → y.pfx = some { remaining := p.remaining - 1, thenLeft := p.thenLeft - 1, base := p.base, cond := p.cond }))

/-- R69, R319, R381: NOP, YIELD, SLEEP and PRED with the sides of its prefix. -/
def Obligations.PlainControl : Prop := Claims.NopPredYieldSleep ∧ Claims.PrefixSides

/-- R315, R316: BRA, BRX, RET and CALL move the whole path to a checked target: an offset from the instruction's own slot, or a slot index
from the kernel's code (the handler's in handler mode). A condition that is false moves to the next slot. CALL writes the slot index of the
slot after it. A target that is not legal raises the trap of its check with nothing changed. -/
abbrev Claims.Branches : Prop :=
  (∀ sw cond (inv : Bool) (off : Word) s c, Ready s c (ctl sw) (match cond with | some k => Deps.pred (.k k) | none => {}) →
    let taken : Bool := match cond with | none => true | some k => c.x.k.getLsbD k.toNat ^^ inv
    (taken = false → Changes (.bra sw cond inv off) s c (fun y => Claims.Moved c.now sw c.x y (c.x.pc + 1))) ∧
    (∀ n, taken = true → s.checkTarget c.g c.w.warp ((c.x.pc : Int) + off.toInt) = .ok n → Changes (.bra sw cond inv off) s c (fun y => Claims.Moved c.now sw c.x y n)) ∧
    (∀ t, taken = true → s.checkTarget c.g c.w.warp ((c.x.pc : Int) + off.toInt) = .error t → exec (.bra sw cond inv off) s = .next (s.takeTrap c.w t))) ∧
  (∀ sw a s c, Ready s c (ctl sw) (Deps.uni a.toNat 1) →
    let index : Int := ((s.codeBase c + (c.x.readS a.toNat).toNat : Nat) : Int)
    (∀ n, s.checkTarget c.g c.w.warp index = .ok n → Changes (.brx sw a) s c (fun y => Claims.Moved c.now sw c.x y n) ∧ Changes (.ret sw a) s c (fun y => Claims.Moved c.now sw c.x y n)) ∧
    (∀ t, s.checkTarget c.g c.w.warp index = .error t → exec (.brx sw a) s = .next (s.takeTrap c.w t) ∧ exec (.ret sw a) s = .next (s.takeTrap c.w t))) ∧
  (∀ sw d (off : Word) s c, Ready s c (ctl sw) {} →
    (∀ n, s.checkTarget c.g c.w.warp ((c.x.pc : Int) + off.toInt) = .ok n → Changes (.call sw d off) s c (fun y =>
      y.pc = n ∧ y.readS d.toNat = BitVec.ofInt 32 ((c.x.pc : Int) + 1 - (s.codeBase c : Int)) ∧ y.pending c.now (.s d.toNat) = false ∧
      SameRegs c.x y [] [] [d.toNat] ∧ SamePreds c.x y [] ∧ SameRest c.x y ∧ Stepped c.now sw [] c.x y)) ∧
    (∀ t, s.checkTarget c.g c.w.warp ((c.x.pc : Int) + off.toInt) = .error t → exec (.call sw d off) s = .next (s.takeTrap c.w t)))

/-- R52, R53: a target outside the 49-bit address space, or whose slot the line word does not mark, is BAD_TARGET; a marked slot of a line
that the quadrant can fetch is accepted. -/
abbrev Claims.TargetCheck : Prop := ∀ (s : State) (g : Wg) (w : Nat) (n : Int),
  (n < 0 ∨ (maxPc : Int) < n → s.checkTarget g w n = .error (trapOf tBadTarget)) ∧
  (∀ l : BitVec 512, 0 ≤ n → n ≤ (maxPc : Int) → s.lineFor g w (64 * (n.toNat / 5)) = .ok l →
    s.checkTarget g w n = if l.getLsbD (480 + n.toNat % 5) then .ok n.toNat else .error (trapOf tBadTarget))

/-- R52, R53, R316: transfers of control and the check of their targets. -/
def Obligations.BranchesAndTargets : Prop := Claims.Branches ∧ Claims.TargetCheck

/-- R318: a path that has ended goes on with the pending path of the top entry, or with what the entry left parked, or with the entry below;
each entry that is passed sets the PC, and a warp with no entry left has no lane. -/
abbrev Claims.Resumes : Prop :=
  (∀ pc, resume pc [] = (0, pc, [])) ∧
  ∀ pc (e : DivEntry) rest, resume pc (e :: rest) =
    if e.pmask ≠ 0 then (e.pmask, e.ppc, { e with pmask := 0 } :: rest) else if e.rmask ≠ 0 then (e.rmask, e.rpc, rest) else resume e.rpc rest

/-- R317, R318: BRD splits the mask and pushes one entry, the fall-through lanes first; JOIN runs the pending path, or rejoins, or goes on to
the entry below; EXIT marks the active lanes as exited, takes them out of the whole stack and goes on as JOIN does; JOIN on an empty stack
and EXIT in handler mode raise ILLEGAL_STATE, a seventeenth entry DIVERGE_DEPTH. -/
def Obligations.Divergence : Prop := Claims.Resumes ∧
  (∀ sw q inv (rejoin : BitVec 14) (off : Word) s c target rpc, Ready s c (ctl sw) (match q with | .k k => Deps.pred (.k k) | .p _ => {}) →
    (∀ r, q = .p r → c.x.pend.any (fun e => e.reg = .p r.toNat && e.live c.now && (e.lanes &&& c.x.mask) != 0) = false) →
    s.checkTarget c.g c.w.warp ((c.x.pc : Int) + off.toInt) = .ok target → s.checkTarget c.g c.w.warp ((c.x.pc : Int) + rejoin.toInt) = .ok rpc →
    let cond := if inv then ~~~(c.x.predMask q) else c.x.predMask q
    let taken := c.x.mask &&& cond
    let fall := c.x.mask &&& ~~~cond
    (c.x.stack.length < 16 → Changes (.brd sw q inv rejoin off) s c (fun y =>
      y.mask = (if fall ≠ 0 then fall else taken) ∧ y.pc = (if fall ≠ 0 then c.x.pc + 1 else target) ∧
      y.stack = { rpc := rpc, rmask := c.x.mask, pmask := if fall ≠ 0 then taken else 0, ppc := target } :: c.x.stack ∧
      SameRegs c.x y [] [] [] ∧ SamePreds c.x y [] ∧ SameRest c.x { y with mask := c.x.mask, stack := c.x.stack } ∧ Stepped c.now sw [] c.x y)) ∧
    (16 ≤ c.x.stack.length → exec (.brd sw q inv rejoin off) s = .next (s.takeTrap c.w (trapOf tDivergeDepth)))) ∧
  (∀ sw s c, Ready s c (ctl sw) {} →
    (c.x.stack = [] → exec (.join sw) s = .next (s.takeTrap c.w (trapOf tIllegalState))) ∧
    (∀ e rest, c.x.stack = e :: rest → e.pmask ≠ 0 → Changes (.join sw) s c (fun y =>
      y.mask = e.pmask ∧ y.pc = e.ppc ∧ y.stack = { e with pmask := 0 } :: rest ∧
      SameRegs c.x y [] [] [] ∧ SamePreds c.x y [] ∧ SameRest c.x { y with mask := c.x.mask, stack := c.x.stack } ∧ Stepped c.now sw [] c.x y)) ∧
    (∀ e rest, c.x.stack = e :: rest → e.pmask = 0 → e.rmask ≠ 0 → Changes (.join sw) s c (fun y =>
      y.mask = e.rmask ∧ y.pc = e.rpc ∧ y.stack = rest ∧
      SameRegs c.x y [] [] [] ∧ SamePreds c.x y [] ∧ SameRest c.x { y with mask := c.x.mask, stack := c.x.stack } ∧ Stepped c.now sw [] c.x y)) ∧
    (∀ e rest, c.x.stack = e :: rest → e.pmask = 0 → e.rmask = 0 → Changes (.join sw) s c (fun y =>
      (y.mask, y.pc, y.stack) = resume e.rpc rest ∧
      SameRegs c.x y [] [] [] ∧ SamePreds c.x y [] ∧ SameRest c.x { y with mask := c.x.mask, stack := c.x.stack } ∧ Stepped c.now sw [] c.x y))) ∧
  (∀ sw s c, Ready s c (ctl sw) {} →
    (c.x.handler = true → exec (.exit sw) s = .next (s.takeTrap c.w (trapOf tIllegalState))) ∧
    (c.x.handler = false → Changes (.exit sw) s c (fun y =>
      y.exited = c.x.exited ||| c.x.mask ∧
      (y.mask, y.pc, y.stack) = resume c.x.pc (c.x.stack.map (fun e => { e with rmask := e.rmask &&& ~~~c.x.mask, pmask := e.pmask &&& ~~~c.x.mask })) ∧
      (∀ e ∈ y.stack, e.rmask &&& c.x.mask = 0 ∧ e.pmask &&& c.x.mask = 0) ∧ y.mask &&& c.x.mask = 0 ∧
      SameRegs c.x y [] [] [] ∧ SamePreds c.x y [] ∧ SameRest c.x { y with mask := c.x.mask, stack := c.x.stack, exited := c.x.exited } ∧ Stepped c.now sw [] c.x y)))

/-- R72, R376, R377: TRAP, BKPT and an unlisted opcode raise their traps, TRAP and BKPT with their code in the frame's detail words; S on TRAP or BKPT
parks nothing (the model's choice, log 111: R66 does not say what an S on an instruction that traps does). -/
def Obligations.TrappingInstructions : Prop :=
  (∀ sw (code : BitVec 16) s c, Ready s c { once := true, sw := sw } {} →
    exec (.trap sw code) s = .next (s.takeTrap c.w { code := 0x0A, deferred := false, info := [code.setWidth 32] }) ∧
    exec (.bkpt sw code) s = .next (s.takeTrap c.w { code := 0x0B, deferred := false, info := [code.setWidth 32] })) ∧
  (∀ opc s c, s.current = some c → exec (.illegalOpcode opc) s = .next (s.takeTrap c.w { code := 0x01, deferred := false }))

/-- R371, R372: the warp `y` in handler mode at slot `pc`, entered from `x` for the trap `t`: every lane that has not exited runs, with an
empty stack, no prefix and no park; registers and counters are as before; the frame holds the code, the resume PC `at_`, the mask, the prefix
`p` with its counts in the status word, the stack, the park with a SLEEP's time left, and the trap's own fields. A prefix counts at most 8
instructions, its `then` side no more than all of them. -/
abbrev Claims.Entered (x y : Warp) (t : TrapInfo) (now at_ pc : Nat) (p : Option Prefix) : Prop :=
  y.handler = true ∧ y.masked = true ∧ y.pc = pc ∧ y.mask = ~~~x.exited ∧ y.exited = x.exited ∧ y.stack = [] ∧ y.pfx = none ∧ y.park = [] ∧
  y.v = x.v ∧ y.s = x.s ∧ y.p = x.p ∧ y.k = x.k ∧ y.ops = x.ops ∧ y.pend = x.pend ∧ y.fscr = x.fscr ∧
  y.frame.code = t.code ∧ y.frame.pc = BitVec.ofNat 64 (pcWord at_) ∧ y.frame.mask = x.mask ∧ y.frame.stack = x.stack ∧ y.frame.pfx = p ∧
  y.frame.park = (if x.halt.isSome then x.park else x.park.map (fun k => match k with | .sleep u => .slept (u - now) | k => k)) ∧
  y.frame.addr = BitVec.ofNat 64 t.addr ∧ y.frame.base = BitVec.ofNat 64 t.base ∧ y.frame.lanes = t.lanes ∧
  (∀ i, i < 4 → y.frame.info.getD i 0 = t.info.getD i 0) ∧
  y.frame.stat.extractLsb' 0 8 = BitVec.ofNat 8 t.code ∧ y.frame.stat.getLsbD 8 = t.deferred ∧ y.frame.stat.getLsbD 9 = false ∧
  y.frame.stat.extractLsb' 18 6 = 0 ∧ (p = none → y.frame.stat.extractLsb' 24 40 = 0) ∧
  ∀ q, p = some q → q.remaining ≤ 8 → q.thenLeft ≤ q.remaining →
    y.frame.stat.extractLsb' 24 4 = BitVec.ofNat 4 q.remaining ∧ y.frame.stat.extractLsb' 28 4 = BitVec.ofNat 4 q.thenLeft ∧
    y.frame.stat.extractLsb' 32 32 = 0

/-- The trapping warp's workgroup is in its handler: every other warp is done or halted (R370). -/
abbrev Claims.SiblingsHalted (t : State) (w : WarpId) : Prop :=
  ∃ h, t.wg w.wg = some h ∧ h.owner = some w.warp ∧
    ∀ (i : Nat) (y : Warp), i ≠ w.warp → h.warps[i]? = some y → y.done = true ∨ y.halt.isSome = true ∨ y.handler = true

/-- All that a trap leaves as it was: memory, devices, cores and accesses. -/
abbrev Claims.SameMachine (s t : State) : Prop := t.hbm = s.hbm ∧ t.host = s.host ∧ t.devs = s.devs ∧ t.cores = s.cores ∧ t.accs = s.accs

/-- R370 to R373: with a usable handler and no other trap in its workgroup, a precise trap puts its warp into handler mode at the handler's
entry, with the resume PC at the instruction, or behind it for TRAP and BKPT; the siblings are halted. A deferred trap enters in the same way
where its warp is parked, with the next unissued slot as its resume PC and the access's PC in the frame; a warp that runs stops first, the
report waiting on it, and is entered once it has stopped, with the instructions it issued meanwhile as its skid. -/
def Obligations.TrapEntry : Prop := ∀ (s : State) (w : WarpId) (t : TrapInfo) (g : Wg) (x : Warp) (pc : Nat),
  s.wg w.wg = some g → s.warp w = some x → x.done = false → x.handler = false → t.code ≠ tStateUncorrectable →
  g.st = .running → g.owner = none → g.halted = false → (∀ (i : Nat) (y : Warp), i ≠ w.warp → g.warps[i]? = some y → y.dq = [] ∧ y.ptrap = none) →
  s.usableHandler g w.warp = some pc →
  let now := s.cycle w.wg.dev
  let past : Bool := t.code = tSwTrap || t.code = tBreakpoint
  (t.deferred = false → x.dq = [] → x.ptrap = none → ∃ y, (s.takeTrap w t).warp w = some y ∧
    Claims.Entered x y t now (if past then x.pc + 1 else x.pc) pc (if past then x.pfx.bind Prefix.next else x.pfx) ∧ y.dq = [] ∧
    y.frame.stat.extractLsb' 10 8 = BitVec.ofNat 8 (if x.dqOver then 8 else 0) ∧
    Claims.SiblingsHalted (s.takeTrap w t) w ∧ Claims.SameMachine s (s.takeTrap w t)) ∧
  (t.deferred = true → x.dq = [] → x.ptrap = none → x.halt = none → x.park ≠ [] → t.skid = 0 → ∃ y, (s.takeTrap w t).warp w = some y ∧
    Claims.Entered x y t now x.pc pc x.pfx ∧ y.frame.apc = t.apc.map (fun a => BitVec.ofNat 64 (pcWord a)) ∧ y.dq = [] ∧
    y.frame.stat.extractLsb' 10 8 = BitVec.ofNat 8 (if x.dqOver then 8 else 0) ∧
    Claims.SiblingsHalted (s.takeTrap w t) w ∧ Claims.SameMachine s (s.takeTrap w t)) ∧
  (t.deferred = true → x.dq = [] → x.ptrap = none → x.halt = none → x.park = [] → ∃ y, (s.takeTrap w t).warp w = some y ∧
    y = { x with dq := [t], halt := some { skid := 0, stopped := false } } ∧ Claims.SameMachine s (s.takeTrap w t)) ∧
  (∀ rest h, t.deferred = true → x.dq = t :: rest → x.ptrap = none → x.halt = some h → rest.length ≤ 3 → ∃ u y, exec (.siblingHalt w) s = .next u ∧ u.warp w = some y ∧
    Claims.Entered x y t now x.pc pc x.pfx ∧ y.frame.apc = t.apc.map (fun a => BitVec.ofNat 64 (pcWord a)) ∧ y.dq = rest ∧
    y.frame.stat.extractLsb' 10 3 = BitVec.ofNat 3 rest.length ∧ y.frame.stat.getLsbD 13 = x.dqOver ∧
    y.frame.stat.extractLsb' 14 4 = BitVec.ofNat 4 (min t.skid 8) ∧ (∃ h, u.wg w.wg = some h ∧ h.owner = some w.warp) ∧ Claims.SameMachine s u)

/-- R378: TRET outside handler mode raises ILLEGAL_STATE; with a frame it cannot restore it raises TRET_FAULT; otherwise, with no trap
waiting in the workgroup, it restores mask, PC and stack from the frame, leaves handler mode, clears the trap mask and releases the siblings. -/
def Obligations.TrapReturn : Prop := ∀ (sw : Bool) (s : State) (c : Ctx), Ready s c { once := true, cover := false, raw := true, sw := sw } {} →
  (c.x.handler = false → exec (.tret sw) s = .next (s.takeTrap c.w { code := 0x08, deferred := false })) ∧
  (c.x.handler = true → tretOk c.x.frame.stat c.x.frame.pc c.x.frame.pfx.isSome = false →
    exec (.tret sw) s = .next (s.takeTrap c.w { code := 0x30, deferred := false })) ∧
  (c.x.handler = true → tretOk c.x.frame.stat c.x.frame.pc c.x.frame.pfx.isSome = true → (∀ y ∈ c.g.warps, y.dq = [] ∧ y.ptrap = none) →
    ∃ t y h, exec (.tret sw) s = .next t ∧ t.warp c.w = some y ∧ t.wg c.w.wg = some h ∧
      y.handler = false ∧ y.masked = false ∧ y.pc = pcOfWord c.x.frame.pc ∧ y.mask = c.x.frame.mask &&& ~~~c.x.exited ∧ y.stack = c.x.frame.stack ∧
      y.exited = c.x.exited ∧ y.p = c.x.p ∧ y.k = c.x.k ∧ h.owner = none ∧ (∀ z ∈ h.warps, z.halt = none) ∧
      t.hbm = s.hbm ∧ t.host = s.host ∧ t.devs = s.devs)

/-- R379, R33: SYSRD writes the special register's value with latency 4, a 64-bit one to a pair; the frame registers outside handler mode, and
the debug mailbox without its ownership, raise ILLEGAL_STATE. -/
abbrev Claims.SpecialRegisterRead : Prop := ∀ (sw : Bool) (d : Dst) (reg : Byte) (i : BitVec 10) (s : State) (c : Ctx),
  let n := if sysWide reg.toNat then 2 else 1
  Ready s c { once := true, sw := sw } (Deps.dst n d) →
  ((17 ≤ reg.toNat ∧ reg.toNat ≤ 28) → c.x.handler = false → exec (.sysrd sw d reg i) s = .next (s.takeTrap c.w { code := 0x08, deferred := false })) ∧
  (reg = 29 → (s.dev c.dev).dbgOwner ≠ some c.ctx → exec (.sysrd sw d reg i) s = .next (s.takeTrap c.w { code := 0x08, deferred := false })) ∧
  (s.sysIllegal c reg.toNat false = false → Changes (.sysrd sw d reg i) s c (fun y =>
    Wrote c.x y c.x.lanes [] d n (c.now + 4) (fun j l => (s.sysValue c reg.toNat i.toNat l).extractLsb' (32 * j) 32) ∧
    SameRegs c.x y [] (vecsOf n d) (unisOf n d) ∧ SamePreds c.x y [] ∧ SameRest c.x y ∧ Stepped c.now sw [] c.x y ∧ y.pc = c.x.pc + 1)) ∧
  (∀ l, s.sysValue c 0 0 l = BitVec.ofNat 64 (64 * c.w.warp + l) ∧ s.sysValue c 1 0 l = BitVec.ofNat 64 l ∧ s.sysValue c 2 0 l = BitVec.ofNat 64 c.w.warp ∧
    s.sysValue c 8 0 l = BitVec.ofNat 64 c.dev ∧ s.sysValue c 9 0 l = BitVec.ofNat 64 c.ctx ∧ s.sysValue c 10 0 l = BitVec.ofNat 64 (s.dev c.dev).ns ∧
    s.sysValue c 16 0 l = c.x.hstat.zeroExtend 64 ∧ s.sysValue c 17 0 l = c.x.frame.stat &&& 0xFF03FFFF ∧ s.sysValue c 18 0 l = c.x.frame.pc)

/-- R379: SYSWR changes only the register it names: of `%hstat` only bit 1; a word of the debug mailbox but not its owner word, any other word of it
too (log 50, read from R392). -/
abbrev Claims.SpecialRegisterWrite : Prop := ∀ (sw : Bool) (a : Src) (reg : Byte) (i : BitVec 10) (s : State) (c : Ctx),
  WellFormed (.syswr sw a reg i) → Ready s c { once := true, sw := sw } (Deps.src (if sysWide reg.toNat then 2 else 1) a) →
  (16 ≤ reg.toNat ∧ reg.toNat ≤ 28 → c.x.handler = false → exec (.syswr sw a reg i) s = .next (s.takeTrap c.w { code := 0x08, deferred := false })) ∧
  (s.sysIllegal c reg.toNat true = false → reg ≠ 29 → Changes (.syswr sw a reg i) s c (fun y =>
    y.hstat = (if reg = 16 then (c.x.hstat &&& ~~~2) ||| (c.x.lane a 0 &&& 2) else c.x.hstat) ∧
    y.frame = { c.x.frame with
      stat := if reg = 17 then c.x.lane64 a 0 else c.x.frame.stat
      pc := if reg = 18 then c.x.lane64 a 0 else c.x.frame.pc
      mask := if reg = 23 then c.x.lane64 a 0 else c.x.frame.mask } ∧
    (∀ j, tabGetD y.fscr j 0 = if reg = 27 ∧ j = i.toNat then c.x.lane a 0 else tabGetD c.x.fscr j 0) ∧
    (∀ j l, l < 64 → (tabGetD y.frep j zeroLanes).getD l 0 =
      if reg = 26 ∧ j = i.toNat ∧ c.x.lanes.getLsbD l = true then c.x.lane a l else (tabGetD c.x.frep j zeroLanes).getD l 0) ∧
    SameRegs c.x y [] [] [] ∧ SamePreds c.x y [] ∧ y.mask = c.x.mask ∧ y.exited = c.x.exited ∧ y.stack = c.x.stack ∧ y.ops = c.x.ops ∧ y.pc = c.x.pc + 1)) ∧
  (reg = 29 → (s.dev c.dev).dbgOwner = some c.ctx → ∃ t, exec (.syswr sw a reg i) s = .next t ∧
    (Memory.wf (s.dev c.dev).dbg = true → i.toNat ≠ 2 → (t.dev c.dev).dbgWord i.toNat = (c.x.lane a 0).toNat) ∧
    (i.toNat = 2 → t.devs = s.devs) ∧ t.hbm = s.hbm ∧ t.host = s.host)

/-- R379: reads and writes of the special registers. -/
def Obligations.SpecialRegisters : Prop := Claims.SpecialRegisterRead ∧ Claims.SpecialRegisterWrite

/-! ### Memory instructions (chapters 8, 9, 10) -/

/-- All of memory is as before: HBM with its side state, host memory, every partition, every L1, every replica. -/
abbrev Claims.SameMemory (s t : State) : Prop :=
  t.hbm = s.hbm ∧ t.host = s.host ∧ t.blocks = s.blocks ∧ t.replicas = s.replicas ∧ t.cores = s.cores ∧
  (∀ g, (t.wg g).map (·.spad) = (s.wg g).map (·.spad)) ∧ ∀ g, (t.wg g).map (·.hdrs) = (s.wg g).map (·.hdrs)

/-- Registers of an access's destination. -/
abbrev Claims.dsts (n : Nat) : Option Dst → List PendReg | some d => dstRegs n d | none => []

/-- A block's copy in HBM has no soft error, and no agent holds newer data of it. -/
abbrev Claims.Settled (s : State) (b : Nat) : Prop := tabGet s.errs b = none ∧ match s.hall b with | .mod _ | .owned _ => False | _ => True

/-- What the translation of an access's addresses leaves as it was (R345, R349): workgroups, accesses and reports; every byte of HBM in a
sound block that no agent owns; and everything, where the core's L1 TLB holds each address. -/
abbrev Claims.WalksKeep : Prop := ∀ (s : State) (c : Ctx) (lanes : List Nat) (addr : Nat → Nat),
  let u := s.warmFor c lanes addr
  u.wgs = s.wgs ∧ u.accs = s.accs ∧ u.reports = s.reports ∧
  (∀ a, Claims.Settled s (a / 64) → memGet u.hbm a = memGet s.hbm a) ∧
  ((∀ l ∈ lanes, addr l < 2 ^ 49 → (s.coreAt c.core).tlb.any (fun e => e.hits c.ctx (addr l)) = true) → u = s)

/-- The state once the addresses of an access have been translated: only addresses of the global space are, and only once no check that comes
before translation fails (R184, R212). -/
abbrev Claims.translated (s : State) (c : Ctx) (q : Req) (lanes : List Nat) (addr : Nat → Nat) : State :=
  if q.sp = .gl ∧ s.earlyTrap c q lanes addr = none then s.warmFor c lanes addr else s

/-- An access instruction puts one access in flight when its class has room: its parts are those of the checks of R212 on the translated
addresses, its counter rises by one, its destination becomes pending, the PC advances, memory and every register value are as the translation
leaves them (R213, R219). A check that fails raises its trap with nothing else changed; one that comes before any translation (R184) leaves no
walk behind either. -/
abbrev Claims.AccessIssued (i : Instr) (sw once : Bool) (deps : Deps) (q : Req) (adr : Addr) (dst : Option Dst) (val : Ctx → Nat → Nat) : Prop :=
  ∀ s c, Ready s c { once := once, sw := sw } deps → c.x.full q.cls = false →
    let lanes := lanesOf (if once then 1 else c.x.lanes)
    let addr := fun l => c.address q.sp adr l
    let u := Claims.translated s c q lanes addr
    (∀ t, s.earlyTrap c q lanes addr = some t → exec i s = .next (s.takeTrap c.w t)) ∧
    (∀ t, u.checkAccess c q lanes addr (val c) = .error t → exec i s = .next (u.takeTrap c.w t)) ∧
    (∀ parts, u.checkAccess c q lanes addr (val c) = .ok (parts, []) → ∃ t a y, exec i s = .next t ∧ t.accs = u.accs ++ [a] ∧ t.warp c.w = some y ∧
      a.id = u.nextId + 1 ∧ a.w = c.w ∧ a.kind = q.kind ∧ a.cls = q.cls ∧ a.dst = dst ∧ a.size = q.size ∧ a.str = q.str ∧ a.parts = parts ∧
      a.lost = none ∧ a.fault = none ∧ a.held = false ∧
      (∀ k, y.cnt k = c.x.cnt k + if k = q.cls then 1 else 0) ∧ (∀ r ∈ Claims.dsts ((q.size + 3) / 4) dst, y.pending c.now r = true) ∧
      SameRegs c.x y deps.lasts [] [] ∧ SamePreds c.x y [] ∧ y.mask = c.x.mask ∧ y.stack = c.x.stack ∧ y.frame = c.x.frame ∧ y.hstat = c.x.hstat ∧
      y.pc = c.x.pc + 1 ∧ Claims.SameMemory u t ∧ t.devs = u.devs)

/-- What a load or store asks for, and what an atomic asks for. -/
abbrev Claims.ldReq (o : MemOp) (space : Space) : Req :=
  { kind := .load o.sext, cls := .load, sp := space, size := o.size.bytes, str := o.str, hint := o.hint, write := false }
abbrev Claims.stReq (o : MemOp) (space : Space) : Req :=
  { kind := .store, cls := .store, sp := space, size := o.size.bytes, str := o.str, hint := o.hint, write := true }
abbrev Claims.regs (o : MemOp) : Nat := (o.size.bytes + 3) / 4

/-- R210 to R219: the issue of LD, LDS, ST and STS. -/
abbrev Claims.LoadStoreIssue : Prop := ∀ o : MemOp,
  Claims.AccessIssued (.ld o) o.sw (isUniform o.d) ((Deps.src (addrRegs o.sp) o.adr.base).join (Deps.dst (Claims.regs o) o.d))
    (Claims.ldReq o o.sp) o.adr (some o.d) (fun _ _ => 0) ∧
  Claims.AccessIssued (.lds o) o.sw (isUniform o.d) ((Deps.src 1 o.adr.base).join (Deps.dst (Claims.regs o) o.d))
    (Claims.ldReq o .sp) o.adr (some o.d) (fun _ _ => 0) ∧
  Claims.AccessIssued (.st o) o.sw (isUniform o.d) ((Deps.src (addrRegs o.sp) o.adr.base).join { reads := dstRegs (Claims.regs o) o.d })
    (Claims.stReq o o.sp) o.adr none (fun c l => c.groupAt o.d (Claims.regs o) l) ∧
  Claims.AccessIssued (.sts o) o.sw (isUniform o.d) ((Deps.src 1 o.adr.base).join { reads := dstRegs (Claims.regs o) o.d })
    (Claims.stReq o .sp) o.adr none (fun c l => c.groupAt o.d (Claims.regs o) l)

/-- R227, R228: LDHDR and STHDR act on the 64-byte block of the address, whatever its alignment in it, and refuse HOST pages. -/
abbrev Claims.HeaderIssue : Prop := ∀ o : MemOp,
  Claims.AccessIssued (.ldhdr o) o.sw (isUniform o.d) ((Deps.src (addrRegs o.sp) o.adr.base).join (Deps.dst 1 o.d))
    { kind := .hdrLoad, cls := .load, sp := o.sp, size := 4, str := o.str, hint := o.hint, write := false, align := false, noHost := true, block := true }
    o.adr (some o.d) (fun _ _ => 0) ∧
  Claims.AccessIssued (.sthdr o) o.sw (isUniform o.d) ((Deps.src (addrRegs o.sp) o.adr.base).join { reads := dstRegs 1 o.d })
    { kind := .hdrStore, cls := .store, sp := o.sp, size := 4, str := o.str, hint := o.hint, write := true, align := false, noHost := true, block := true }
    o.adr none (fun c l => c.groupAt o.d 1 l)

/-- R217, R227, R228: loads, stores and header accesses at issue. -/
def Obligations.LoadsStoresAndHeaders : Prop := Claims.WalksKeep ∧ Claims.LoadStoreIssue ∧ Claims.HeaderIssue

/-- R220 to R223: ATOM, ATOMS, CAS and CASS return the old value, counted in LOAD; RED returns nothing, counted in STORE; all refuse HOST
pages. -/
def Obligations.AtomicIssue : Prop := ∀ o : AtomI,
  let n := if o.ty.is64 then 2 else 1
  let q := fun (space : Space) (cas ret : Bool) =>
    ({ kind := .atom cas o.ty o.op ret, cls := if ret then .load else .store, sp := space, size := 4 * n, str := .strong o.o o.sc, write := true, noHost := true } : Req)
  let srcs := fun (space : Space) (cas : Bool) => ((Deps.src (addrRegs space) o.adr.base).join (Deps.src n o.b)).join (if cas then Deps.src n o.c else {})
  Claims.AccessIssued (.atom o) o.sw false ((srcs .gl false).join (Deps.dst n (.v o.d))) (q .gl false true) o.adr (some (.v o.d)) (fun _ _ => 0) ∧
  Claims.AccessIssued (.atoms o) o.sw false ((srcs .sp false).join (Deps.dst n (.v o.d))) (q .sp false true) o.adr (some (.v o.d)) (fun _ _ => 0) ∧
  Claims.AccessIssued (.cas o) o.sw false ((srcs .gl true).join (Deps.dst n (.v o.d))) (q .gl true true) o.adr (some (.v o.d)) (fun _ _ => 0) ∧
  Claims.AccessIssued (.cass o) o.sw false ((srcs .sp true).join (Deps.dst n (.v o.d))) (q .sp true true) o.adr (some (.v o.d)) (fun _ _ => 0) ∧
  Claims.AccessIssued (.red o) o.sw false (srcs .gl false) (q .gl false false) o.adr none (fun _ _ => 0)

/-- R184, R211, R212: the first checks of an access, in order. A lane at 2^49 or above raises ADDR_RANGE; otherwise a lane that is not a
multiple of the size raises MISALIGNED; the trap names the first failing lane's address (the model's choice, log 97) and the mask of all failing lanes (log 44). -/
def Obligations.AccessChecks : Prop := ∀ (s : State) (c : Ctx) (q : Req) (lanes : List Nat) (addr val : Nat → Nat),
  let wide := fun l => q.sp != .sp && decide (2 ^ 49 ≤ addr l)
  let odd := fun l => q.align && addr l % q.size != 0
  (∀ l, lanes.find? wide = some l → s.checkAccess c q lanes addr val = .error
    { code := 0x10, deferred := false, addr := addr l, lanes := maskOf (fun i => lanes.contains i && wide i) }) ∧
  (∀ l, lanes.find? wide = none → lanes.find? odd = some l → s.checkAccess c q lanes addr val = .error
    { code := 0x11, deferred := false, addr := addr l, lanes := maskOf (fun i => lanes.contains i && odd i) }) ∧
  (∀ parts refused, s.checkAccess c q lanes addr val = .ok (parts, refused) → ∀ l ∈ lanes, wide l = false ∧ odd l = false)

/-- R39, R40, R185, R217: a scratchpad access within the issuer's own partition reaches exactly the bytes at its local addresses: one part
for up to 8 bytes, in lane order. -/
abbrev Claims.ScratchpadParts : Prop := ∀ (s : State) (c : Ctx) (q : Req) (lanes : List Nat) (addr val : Nat → Nat),
  q.sp = .sp → q.block = false → 0 < q.size → q.size ≤ 8 →
  (∀ l ∈ lanes, addr l % q.size = 0 ∧ addr l < 0x80000 ∧ addr l + q.size ≤ c.g.spadSize) →
  s.checkAccess c q lanes addr val = .ok (lanes.map (fun l =>
    { lane := l, idx := 0, n := q.size, loc := .spad c.g.id (addr l) true, val := val l % 256 ^ q.size, done := false, sh := false }), [])

/-- R214, R221: performing the one part that is left of an access in a 64-byte block of a partition: a load takes the bytes and leaves them, a
store puts its bytes, an atomic leaves its new value and takes the old one; every other byte of the partition, and every other partition, HBM
and host memory, is as before. -/
abbrev Claims.ScratchpadPerform : Prop := ∀ (s : State) (a : Acc) (i : Nat) (p : Part) (g : WgId) (off : Nat) (own : Bool) (h : Wg),
  s.acc? a.id = some a → a.parts[i]? = some p → p.loc = .spad g off own → p.done = false → a.rel = .done → s.blocked a p = false →
  s.wg g = some h → h.spadErr = [] → Memory.wf h.spad = true →
  a.parts.filter (fun r => !r.done && (match r.loc with | .spad h' o _ => h' = g && o / 64 = off / 64 | _ => false)) = [p] →
  (match a.kind with | .load _ | .store | .atom .. => True | _ => False) →
  let t := s.performPart a.id i
  let old := memRead h.spad off p.n
  let new := match a.kind with | .store => p.val % 256 ^ p.n | .atom .. => a.newValue p.lane old % 256 ^ p.n | _ => old
  ∃ h' b, t.wg g = some h' ∧ t.acc? a.id = some b ∧ memRead h'.spad off p.n = new ∧
    (∀ x, x < off ∨ off + p.n ≤ x → memGet h'.spad x = memGet h.spad x) ∧ Memory.wf h'.spad = true ∧
    (b.parts[i]?).map (·.done) = some true ∧ (a.kind ≠ .store → (b.parts[i]?).map (·.val) = some old) ∧
    (∀ k, k ≠ g → (t.wg k).map (·.spad) = (s.wg k).map (·.spad)) ∧ t.hbm = s.hbm ∧ t.host = s.host

/-- R190, R217: scratchpad accesses, from their parts to their performance. -/
def Obligations.ScratchpadAccesses : Prop := Claims.ScratchpadParts ∧ Claims.ScratchpadPerform

/-- R220, R221: the value an atomic leaves, for every operation and type of Table 3. -/
def Obligations.AtomicValues : Prop := ∀ (a : Acc) (lane m : Nat) (ty : Ty) (op : AtomOp) (ret : Bool),
  let b := a.b.getD lane 0
  let x := BitVec.ofNat 64 m
  (a.kind = .atom true ty op ret → m < 2 ^ 64 → a.newValue lane m = if m = b.toNat then (a.c.getD lane 0).toNat else m) ∧
  (a.kind = .atom false ty op ret → ty = .n64 ∨ ty = .s64 → a.newValue lane m = (match op with
    | .add => x + b | .and => x &&& b | .or => x ||| b | .xor => x ^^^ b
    | .min => if opnd ty b < opnd ty x then b else x | .max => if opnd ty x < opnd ty b then b else x | _ => b : DWord).toNat) ∧
  (a.kind = .atom false ty op ret → ty = .n32 ∨ ty = .s32 →
    let u := x.setWidth 32
    let v := b.setWidth 32
    a.newValue lane m = (match op with
      | .add => u + v | .and => u &&& v | .or => u ||| v | .xor => u ^^^ v | .exch => v
      | .min => if ty = .s32 then (if v.slt u then v else u) else (if v.ult u then v else u)
      | .max => if ty = .s32 then (if u.slt v then v else u) else (if u.ult v then v else u)
      | .inc => if v.toNat ≤ u.toNat then 0 else u + 1
      | .dec => if u = 0 ∨ v.toNat < u.toNat then v else u - 1 : Word).toNat) ∧
  (a.kind = .atom false .f32 op ret →
    let u := x.setWidth 32
    let v := b.setWidth 32
    let r : Word := BitVec.ofNat 32 (a.newValue lane m)
    a.newValue lane m < 2 ^ 32 ∧
    (op = .add → r = BitVec.ofNat 32 (roundTo .fp32 (sumX .rn [decodeFp32 u, decodeFp32 v]) .rn false)) ∧
    (op = .min ∨ op = .max →
      let nu := (decodeFp32 u).isNan
      let nv := (decodeFp32 v).isNan
      (nu = true ∧ nv = true → r = 0x7FC00000) ∧ (nu = true ∧ nv = false → r = v) ∧ (nu = false ∧ nv = true → r = u) ∧
      (nu = false ∧ nv = false → (r = u ∨ r = v) ∧
        (if op = .max then cmpFlt .ge r u = true ∧ cmpFlt .ge r v = true else cmpFlt .le r u = true ∧ cmpFlt .le r v = true) ∧
        ((decodeFp32 u).isZero = true → (decodeFp32 v).isZero = true → r.getLsbD 31 =
          if op = .max then u.getLsbD 31 && v.getLsbD 31 else u.getLsbD 31 || v.getLsbD 31))))

/-- R224 to R226: FENCE parks its warp until the fence is complete: at `.wp` at once, otherwise after the accesses of Table 4; nothing else of
the machine changes. Loads that a trap holds are left out (the model's reading, log 52). -/
abbrev Claims.FenceParks : Prop := ∀ sw o sc s c, Ready s c { once := true, sw := sw } {} → Changes (.fence sw o sc) s c (fun y =>
  Stepped c.now sw [.fence o sc (if sc = .wp then .ready else
    .accs ((s.accs.filter (fun a => a.w = c.w && a.covered && !a.held && (o != .acq || a.cls == .load))).map (·.id)
      ++ (s.upds.filter (fun u => u.w = c.w && u.cls.isSome && (o != .acq || u.cls == some .load))).map (·.id)))] c.x y ∧
  SameRegs c.x y [] [] [] ∧ SamePreds c.x y [] ∧ SameRest c.x y ∧ y.pc = c.x.pc + 1)

/-- An instruction that waits for a completion of its own, counted in STORE: its access is last in the list. -/
abbrev Claims.Waits (s : State) (c : Ctx) (t : State) (kind : AccKind) (rel : Rel) : Prop :=
  ∃ a y, t.accs = s.accs ++ [a] ∧ a.id = s.nextId + 1 ∧ a.w = c.w ∧ a.kind = kind ∧ a.rel = rel ∧ a.parts = [] ∧ a.pc = c.x.pc ∧
    t.warp c.w = some y ∧ y.cnt .store = c.x.cnt .store + 1 ∧ y.pc = c.x.pc + 1

/-- R230, R232, R380: CCTL `.ib` empties the instruction buffers of its core and leaves all else; the other forms wait for the warp's
earlier accesses, `.wb` and `.inv` with the lines that the lanes name, whose addresses are checked as a load's; VINV starts the release of
FENCE.rel.dm and the drop in every agent of the domain; EVT starts the release of FENCE.rel.dv and keeps its payload. Memory is as the
translation leaves it when they issue. -/
abbrev Claims.CacheControlAndEvents : Prop :=
  (∀ sw adr s c, Ready s c { once := false, sw := sw } {} → ∃ t, exec (.cctl sw .ib adr) s = .next t ∧
    (∀ q, q < 4 → ((t.coreAt c.core).quads.getD q {}).ibuf = []) ∧ t.hbm = s.hbm ∧ t.host = s.host ∧ t.accs = s.accs ∧
    (∀ k, (t.coreAt k).l1 = (s.coreAt k).l1) ∧ ∃ y, t.warp c.w = some y ∧ y.pc = c.x.pc + 1) ∧
  (∀ sw adr (drop : Bool) s c, Ready s c { once := false, sw := sw } {} → c.x.full .store = false →
    ∃ t, exec (.cctl sw (if drop then .invall else .wball) adr) s = .next t ∧
      Claims.Waits s c t (.cctl none drop) (.accs .wg false (s.earlier c.w (s.nextId + 1))) ∧ Claims.SameMemory s t) ∧
  (∀ sw adr (drop : Bool) s c, Ready s c { once := false, sw := sw } (Deps.src 2 adr.base) → c.x.full .store = false →
    let lanes := lanesOf c.x.lanes
    let addr := fun l => c.address .gl adr l
    let q : Req := { kind := .probe, cls := .store, sp := .gl, size := 1, str := .weak, write := false, align := false }
    let u := Claims.translated s c q lanes addr
    (∀ e, u.checkAccess c q lanes addr (fun _ => 0) = .error e → exec (.cctl sw (if drop then .inv else .wb) adr) s = .next (u.takeTrap c.w e)) ∧
    ∀ ps rf, u.checkAccess c q lanes addr (fun _ => 0) = .ok (ps, rf) → ∃ t, exec (.cctl sw (if drop then .inv else .wb) adr) s = .next t ∧
      Claims.Waits u c t (.cctl (some (ps.filterMap (fun p => p.loc.key?.map lineOfKey)).dedup) drop) (.accs .wg false (u.earlier c.w (u.nextId + 1))) ∧
      Claims.SameMemory u t) ∧
  (∀ sw x s c, Ready s c { once := true, sw := sw } (match x with | .reg r => Deps.uni r.toNat 1 | _ => {}) → c.x.full .store = false →
    ∃ t, exec (.vinv sw x) s = .next t ∧ Claims.SameMemory s t ∧
      Claims.Waits s c t (.vinv (match x with | .reg r => some ((c.x.readS r.toNat).toNat % 65536) | .id k => some k.toNat | .all => none) (s.agentsOf c.dev)) (.todo .dm false)) ∧
  (∀ sw a ty s c, Ready s c { once := true, sw := sw } (Deps.uni a.toNat 2) → c.x.full .store = false →
    ∃ t, exec (.evt sw a ty) s = .next t ∧ Claims.SameMemory s t ∧
      Claims.Waits s c t (.evt ty.toNat (c.x.readS (a.toNat + 1) ++ c.x.readS a.toNat)) (.todo .dv false))

/-- R229, R231: PREF never traps and starts no access, its lines being filled as it issues (the model's choice, log 51); RESID starts one access
with every line of its ranges that is homed on this device, which applies a line in each step that its context has tokens for. A line present in its
home slice takes the class and the context. Neither instruction changes a partition, or a byte of HBM in a settled block. -/
abbrev Claims.PrefetchAndResidency : Prop :=
  (∀ sw hint l2 adr s c, Ready s c { once := false, sw := sw } (Deps.src 2 adr.base) →
    ∃ t y, exec (.pref sw hint l2 adr) s = .next t ∧ t.warp c.w = some y ∧ y.pc = c.x.pc + 1 ∧ y.ops = c.x.ops ∧ t.accs = s.accs ∧
      SameRegs c.x y (srcLasts 2 adr.base) [] [] ∧ SamePreds c.x y [] ∧
      (∀ a, Claims.Settled s (a / 64) → memGet t.hbm a = memGet s.hbm a) ∧ ∀ g, (t.wg g).map (·.spad) = (s.wg g).map (·.spad)) ∧
  (∀ sw cls adr len s c, Ready s c { once := false, sw := sw } ((Deps.src 2 adr.base).join (Deps.src 1 len)) → c.x.full .store = false →
    let lanes := lanesOf c.x.lanes
    let addr := fun l => c.address .gl adr l
    let u := s.warmFor c lanes addr
    ((∃ l ∈ lanes, 2 ^ 49 ≤ addr l) → ∃ x : TrapInfo, x.code = 0x10 ∧ x.deferred = false ∧ (∃ l ∈ lanes, 2 ^ 49 ≤ addr l ∧ x.addr = addr l) ∧
      exec (.resid sw cls adr len) s = .next (s.takeTrap c.w x)) ∧
    ((∀ l ∈ lanes, addr l < 2 ^ 49) → ∃ t lines, exec (.resid sw cls adr len) s = .next t ∧ Claims.Waits u c t (.resid cls lines false) .done ∧
      (∀ a, Claims.Settled s (a / 64) → memGet t.hbm a = memGet s.hbm a) ∧ (∀ g, (t.wg g).map (·.spad) = (s.wg g).map (·.spad)) ∧
      ∀ n, n ∈ lines ↔ ∃ l ∈ lanes, ∃ v k, addr l / 128 * 128 ≤ v ∧ v < addr l + (c.x.lane len l).toNat ∧ 0 < (c.x.lane len l).toNat ∧ v % 128 = 0 ∧
        u.lineAt c v = some k ∧ devOfAgent (agentOfKey k) = c.dev ∧ n = lineOfKey k)) ∧
  (∀ (s : State) (a : Acc) (g : Wg) cls line more limit e rest, s.agenda = .advance a.id :: rest → s.acc? a.id = some a →
    a.kind = .resid cls (line :: more) limit → s.wg a.w.wg = some g → cls ≠ .pin → s.l2At (agentOfKey (128 * line)) (2 * line) = some e →
    s.throttled (2 * line) (s.whoFor a.w.wg.dev g.ctx (agentOfCore g.core) (2 * line)) = false →
    ∃ t, step s = .next t ∧ t.l2At (agentOfKey (128 * line)) (2 * line) = some { e with cls := cls, ctx := g.ctx } ∧
      t.acc? a.id = some { a with kind := .resid cls more limit } ∧ t.hbm = s.hbm ∧ t.wgs = s.wgs)

/-- R225, R229 to R232, R380: FENCE, CCTL, VINV, EVT, PREF and RESID. A fence waits for no load that is held for its trap (the model's reading,
log 52); PREF fills its lines at the instant it issues (the model's choice, log 51). -/
def Obligations.FencesHintsAndEvents : Prop := Claims.FenceParks ∧ Claims.CacheControlAndEvents ∧ Claims.PrefetchAndResidency

/-- R213: a load whose parts are all done writes its destination lanes, which stop being pending unless a later write took them, and leaves
the flight; a store whose parts are performed leaves it, and a RESID once it has applied every line (R231). R375: a load with lost lanes is held and reports MEM_UNCORRECTABLE for them, with the
address of the lowest (that address is the model's choice, log 105). All leave memory as it is. -/
def Obligations.LoadAndStoreComplete : Prop := ∀ (s : State) (a : Acc) (g : Wg) (x : Warp),
  s.acc? a.id = some a → s.wg a.w.wg = some g → s.warp a.w = some x → a.rel = .done → (∀ p ∈ a.parts, p.done = true) → a.fault = none →
  (a.cls = .load → a.held = false → a.acq = .none → a.lost = none → ∃ t y, exec (.loadComplete a.id) s = .next t ∧ t.acc? a.id = none ∧
    t.warp a.w = some y ∧ (∀ e ∈ y.pend, e.op = a.id → e.due.isSome = true ∨ e.old = true) ∧
    (∀ r : BitVec 8, a.dst = some (.v r) → 0 < a.size → a.size ≤ 4 → x.mapped r.toNat = true → (∃ e, x.pend.find? (fun e => e.reg = .v r.toNat && e.op = a.id && e.due.isNone) = some e ∧
        ∀ l, l < 64 → (y.readV r.toNat).getD l 0 = if a.lanes.getLsbD l && e.lanes.getLsbD l then a.word l 0 else (x.readV r.toNat).getD l 0) ∨
      x.pend.find? (fun e => e.reg = .v r.toNat && e.op = a.id && e.due.isNone) = none ∧ y.readV r.toNat = x.readV r.toNat) ∧
    Claims.SameMemory s t ∧ t.devs = s.devs) ∧
  (a.cls = .store → (match a.kind with | .store | .hdrStore | .atom .. | .resid _ [] _ | .cctl .. => True | _ => False) →
    ∃ t, exec (.storeAck a.id) s = .next t ∧ t.acc? a.id = none ∧ Claims.SameMemory s t ∧ t.devs = s.devs) ∧
  (∀ cls line more limit, a.kind = .resid cls (line :: more) limit → exec (.storeAck a.id) s = .next s) ∧
  (∀ m : Lost, a.cls = .load → a.held = false → a.acq = .none → a.lost = some m → ∃ t, exec (.loadComplete a.id) s = .next t ∧
    t.acc? a.id = some { a with held := true } ∧ (∃ r ∈ t.reports, r.w = a.w ∧ r.t.code = 0x18 ∧ r.t.lanes = m.lanes ∧ r.t.apc = some a.pc ∧
      r.t.info = [BitVec.ofNat 32 m.source, BitVec.ofNat 32 m.reason] ∧ ∀ l ls, lanesOf m.lanes = l :: ls → r.t.addr = a.addrs.getD l 0) ∧
    Claims.SameMemory s t ∧ t.devs = s.devs)

/-! ### Homes, replicas, drains and views (chapters 8, 10) -/

/-- Every replica but the one of an agent and block is as before. -/
abbrev Claims.OtherReps (s t : State) (agent b : Nat) : Prop := ∀ k, k ≠ repKey agent b → tabGet t.replicas k = tabGet s.replicas k

/-- A replica is as before, or has been evicted for a line that a fill brought in: a clean one is gone, a dirty one waits, with the context
that pays for it, for its WBK (R261, R353, R355). -/
abbrev Claims.KeptRep (s t : State) (k : Nat) : Prop :=
  tabGet t.replicas k = tabGet s.replicas k ∨ ∃ r, tabGet s.replicas k = some r ∧
    if r.dirty then ∃ c, tabGet t.replicas k = some { r with evict := some c } else tabGet t.replicas k = none

/-- The header that a sideband stands for: a format code of 0 makes the block untyped (R95). -/
abbrev Claims.hdrOf (h : Word) : Word := if hdrFmt h = 0 then 0 else h

/-- A request that comes to a home at rest. -/
abbrev Claims.request (s : State) (b : Nat) (k : ReqKind) (agent acc : Nat) : Txn :=
  { block := b, kind := k, req := agent, acc := acc, started := false, bcast := false, waits := [], arrived := s.cycle (devOfAgent (agentOfBlock b)) }

/-- An ownership request stands alone at its home, came in an earlier cycle and has not started; the block is sound and no agent is lost. -/
structure Claims.Stands (s : State) (b : Nat) (k : ReqKind) (agent acc : Nat) (x : Txn) : Prop where
  there : x ∈ s.txns
  alone : ∀ t ∈ s.txns, t.block = b → t = x
  its : x.block = b ∧ x.kind = k ∧ x.req = agent ∧ x.acc = acc
  fresh : x.started = false ∧ x.waits = [] ∧ x.bcast = false
  later : x.arrived < s.cycle (devOfAgent (agentOfBlock b))
  sound : tabGet s.errs b = none
  all : s.lost = []

/-- R259 to R261, R351, Table 8: a read of a block that no agent owns dirty. RDS gives the asking agent, whose slice has a way for it, a clean
replica of HBM's bytes and header and adds it to the hallmark's sharers; HRD hands the bytes to the access and keeps the hallmark. A block
with a dirty owner is forwarded from that owner first. HBM is as before. -/
abbrev Claims.SharedReads : Prop := ∀ (s : State) (b : Nat), Quiet s b → agentOfBlock b < 2 ^ 14 →
  (∀ agent a, agent / 32 = agentOfBlock b / 32 → agent ≠ agentOfBlock b → s.rep? agent b = none → s.demand agent b = some a → s.throttled b (s.whoOf a.w b) = false →
    (∀ h h', (match s.hall b with
        | .home => h' = Hall.shared1 agent
        | .shared1 o => o ≠ agent ∧ h' = .sharedN (sharerBit (agentOfBlock b) o ||| sharerBit (agentOfBlock b) agent)
        | .excl o => o ≠ agent ∧ h' = .sharedN (sharerBit (agentOfBlock b) o ||| sharerBit (agentOfBlock b) agent)
        | .sharedN m => h' = .sharedN (m ||| sharerBit (agentOfBlock b) agent)
        | _ => False) → h = s.hall b → s.cut.contains b = false →
      (s.l2At agent b).isSome = true ∨ (s.wayFor agent (lineOfBlock b) (s.usableWays (devOfAgent agent) ((s.whoOf a.w b).ctx.getD 0))).isSome = true →
      ∃ t, exec (.rds agent b) s = .next t ∧
      t.rep? agent b = some { bytes := s.blockBytes b, hdr := (s.block b).sideband, ctx := (s.whoOf a.w b).ctx.getD 0 } ∧ t.hall b = h' ∧
      (∀ k, k ≠ repKey agent b → Claims.KeptRep s t k) ∧ t.hbm = s.hbm ∧ t.accs = s.accs ∧ t.txns = s.txns) ∧
    (∀ o, o ≠ agent → s.hall b = .mod o ∨ s.hall b = .owned o → ∃ t x, exec (.rds agent b) s = .next t ∧ x ∈ t.txns ∧ x.block = b ∧
      x.kind = .rds ∧ x.req = agent ∧ x.started = true ∧ x.waits = [(o, .forward agent)] ∧ t.hall b = s.hall b ∧ t.replicas = s.replicas ∧ t.hbm = s.hbm)) ∧
  (∀ a p sx k, s.acc? a.id = some a → a.kind = .load sx → a.parts = [p] → p.done = false → p.sh = false → p.loc = .home k → blockOf k = b →
    a.rel = .done → s.blocked a p = false → s.throttled b (s.whoOf a.w b) = false → s.lineClean (s.coreOf a.w) (keyOfBlock b) = (s, true) →
    s.cut.contains b = false → (match s.hall b with | .home | .shared1 _ | .sharedN _ | .excl _ => True | _ => False) →
    ∃ t a', exec (.hrd a.id b) s = .next t ∧ t.acc? a.id = some a' ∧
      a'.parts = [{ p with val := (s.blockBytes b).toNat / 256 ^ (k % 64) % 256 ^ p.n, sent := true, done := true }] ∧
      t.hall b = s.hall b ∧ (∀ k, Claims.KeptRep s t k) ∧ t.hbm = s.hbm)

/-- R260 to R262, Table 8: requests for ownership. One that comes to a home at rest stands there until a later cycle (the model's choice, log 32). RDX of a block that
nobody else holds then makes the agent its dirty owner, with the waiting write-back merged over its own replica, or over HBM's bytes where it
has none; of a block that another agent holds it first asks that agent to drop its copy, or to send its dirty data home and drop it. UPG
merges over the replica that its exclusive owner has. The write-back is gone; HBM is as before. -/
abbrev Claims.OwnershipRequests : Prop := ∀ (s : State) (b agent : Nat) (w : Wb), agent / 32 = agentOfBlock b / 32 → s.wbsOf agent b = [w] →
  (Quiet s b → s.throttled b (s.whoWb w) = false →
    (agent ≠ agentOfBlock b → (match s.rep? agent b with | some r => r.owned = false | none => True) → ∃ t, exec (.rdx agent b) s = .next t ∧
      t.txns = s.txns ++ [Claims.request s b .rdx agent 0] ∧ t.hall b = s.hall b ∧ t.replicas = s.replicas ∧ t.wbs = s.wbs ∧ t.hbm = s.hbm) ∧
    (∀ r, s.rep? agent b = some r → r.owned = true → r.dirty = false ∨ r.shr = true → ∃ t, exec (.upg agent b) s = .next t ∧
      t.txns = s.txns ++ [Claims.request s b .upg agent 0] ∧ t.hall b = s.hall b ∧ t.replicas = s.replicas ∧ t.wbs = s.wbs ∧ t.hbm = s.hbm)) ∧
  (∀ x, Claims.Stands s b .rdx agent 0 x →
    (s.hall b = .home ∨ s.hall b = .shared1 agent →
      (∀ r, s.rep? agent b = some r → ∃ t, exec (.rdx agent b) s = .next t ∧
        t.rep? agent b = some { r with bytes := mergeBytes r.bytes w.bytes w.mask, owned := true, dirty := true, shr := false, ctx := w.ctx } ∧
        t.hall b = .mod agent ∧ t.wbs = s.wbs.filter (fun x => x.id != w.id) ∧ Claims.OtherReps s t agent b ∧ t.hbm = s.hbm) ∧
      (s.rep? agent b = none → s.cut.contains b = false → ∃ t, exec (.rdx agent b) s = .next t ∧
        t.rep? agent b = some { bytes := mergeBytes (s.blockBytes b) w.bytes w.mask, hdr := (s.block b).sideband, owned := true, dirty := true, ctx := w.ctx } ∧
        t.hall b = .mod agent ∧ t.wbs = s.wbs.filter (fun x => x.id != w.id) ∧ (∀ k, k ≠ repKey agent b → Claims.KeptRep s t k) ∧ t.hbm = s.hbm)) ∧
    (∀ o k, o ≠ agent → (match s.hall b with | .shared1 p | .excl p => p = o ∧ k = WaitKind.inv | .mod p => p = o ∧ k = .recallDrop | _ => False) →
      ∃ t, exec (.rdx agent b) s = .next t ∧ { x with started := true, waits := [(o, k)], since := s.clock (devOfAgent (agentOfBlock b)) } ∈ t.txns ∧
        t.hall b = s.hall b ∧ t.replicas = s.replicas ∧ t.wbs = s.wbs ∧ t.hbm = s.hbm)) ∧
  (∀ x r, Claims.Stands s b .upg agent 0 x → s.rep? agent b = some r → s.hall b = .excl agent →
    ∃ t, exec (.upg agent b) s = .next t ∧
      t.rep? agent b = some { r with bytes := mergeBytes r.bytes w.bytes w.mask, owned := true, dirty := true, shr := false, ctx := w.ctx } ∧
      t.hall b = .mod agent ∧ t.wbs = s.wbs.filter (fun x => x.id != w.id) ∧ Claims.OtherReps s t agent b ∧ t.hbm = s.hbm)

/-- R260, R261: requests for a shared copy and for ownership. -/
def Obligations.ReadAndOwnershipRequests : Prop := Claims.SharedReads ∧ Claims.OwnershipRequests

/-- R233, R260 to R262: writes at the home. WBK puts the owner's bytes and header into HBM, and keeps the replica clean with hallmark EXCL or
drops it with hallmark HOME. HWR comes to a home at rest and stands there until a later cycle (the model's choice, log 32); it then puts exactly the bytes of a store's
part into HBM and leaves the hallmark HOME and the header as it was. Every other byte of HBM is as before. -/
def Obligations.HomeWrites : Prop := ∀ (s : State) (b : Nat), Memory.wf s.hbm = true →
  (∀ agent r (drop : Bool), Quiet s b → s.rep? agent b = some r → r.dirty = true → s.hall b = .mod agent →
    drop = true ∨ s.repPlaced agent b = true → ∃ t, exec (.wbk agent b drop) s = .next t ∧
    BlockHolds s t b r.bytes ∧ (t.block b).sideband = Claims.hdrOf r.hdr ∧ t.hall b = (if drop then .home else .excl agent) ∧
    t.rep? agent b = (if drop then none else some { r with dirty := false, shr := false, owned := true }) ∧ Claims.OtherReps s t agent b ∧
    Memory.wf t.hbm = true) ∧
  (∀ a p k, s.acc? a.id = some a → a.kind = .store → a.parts = [p] → p.done = false → p.sh = false → p.loc = .home k → blockOf k = b →
    k % 64 + p.n ≤ 64 → a.rcd = none →
    (Quiet s b → a.rel = .done → s.blocked a p = false → s.throttled b (s.whoOf a.w b) = false → s.lineClean (s.coreOf a.w) (keyOfBlock b) = (s, true) →
      ∃ t, exec (.hwr a.id b) s = .next t ∧ t.txns = s.txns ++ [Claims.request s b .hwr (agentOfCore (s.coreOf a.w)) a.id] ∧
        t.hall b = s.hall b ∧ t.acc? a.id = some { a with parts := [{ p with sent := true }] } ∧ t.replicas = s.replicas ∧ t.hbm = s.hbm) ∧
    (∀ x, Claims.Stands s b .hwr (agentOfCore (s.coreOf a.w)) a.id x → p.sent = true → s.hall b = .home →
      ∃ t a', exec (.hwr a.id b) s = .next t ∧ t.acc? a.id = some a' ∧ a'.parts = [{ p with done := true }] ∧
        memRead t.hbm k p.n = p.val % 256 ^ p.n ∧ (∀ x, x < k ∨ k + p.n ≤ x → memGet t.hbm x = memGet s.hbm x) ∧
        t.hall b = .home ∧ (t.block b).sideband = (s.block b).sideband ∧ t.replicas = s.replicas ∧ Memory.wf t.hbm = true))

/-- R260, R261: an agent answers what a home asks of it. An invalidated replica is gone; a recalled one has sent its dirty bytes home and is
clean, or gone; the data of a forwarded one goes to the request, and the replica stays, shared. The home waits for it no longer. -/
def Obligations.HomeAnswers : Prop := ∀ (s : State) (b agent : Nat) (t : Txn) (k : WaitKind),
  s.txns.find? (fun x => x.block = b && x.started) = some t → (agent, k) ∈ t.waits → (∀ w ∈ t.waits, w.1 = agent → w.2 = k) →
  Memory.wf s.hbm = true →
  let left := t.waits.filter (fun w => w != (agent, k))
  let told := fun (u : State) => { t with waits := left } ∈ u.txns ∧ t ∉ u.txns
  (k = .inv → ∃ u, exec (.invalidate agent b) s = .next u ∧ told u ∧ u.rep? agent b = none ∧ Claims.OtherReps s u agent b ∧ u.hbm = s.hbm) ∧
  (k = .recallDrop → ∀ r, s.rep? agent b = some r → r.dirty = true → ∃ u, exec (.recall agent b) s = .next u ∧ told u ∧ u.rep? agent b = none ∧
    BlockHolds s u b r.bytes ∧ (u.block b).sideband = Claims.hdrOf r.hdr ∧ Claims.OtherReps s u agent b) ∧
  (k = .recallKeep → ∀ r, s.rep? agent b = some r → r.dirty = true → ∃ u, exec (.recall agent b) s = .next u ∧ told u ∧
    u.rep? agent b = some { r with dirty := false, shr := false, owned := match s.hall b with | .mod _ => true | _ => false } ∧
    BlockHolds s u b r.bytes ∧ (u.block b).sideband = Claims.hdrOf r.hdr ∧ Claims.OtherReps s u agent b) ∧
  (∀ dest r, k = .forward dest → s.rep? agent b = some r → ∃ u, exec (.forward agent b) s = .next u ∧
    { t with waits := left, fwd := some (r.bytes, r.hdr) } ∈ u.txns ∧ t ∉ u.txns ∧
    u.rep? agent b = some { r with shr := true } ∧ Claims.OtherReps s u agent b ∧ u.hbm = s.hbm)

/-- R256, R257: a drain starts the write-back of every dirty block of the asked epoch or an older one, whose bytes it takes, waits for the
write-backs of those epochs that are under way too, and once its homes have
acknowledged them the oldest closed epochs with nothing left to write back are closed no longer. R258: a parked FENCE.sc takes its place in
the order S, after its drains and before its drop. R265: a home that has waited 2 ms declares an agent lost, waits for it no longer and
discards its requests that have not started. -/
def Obligations.DrainsFencesAndLostAgents : Prop := ∀ (s : State),
  (∀ (d : Drain) older sig newer, s.drains.find? (fun e => e.id = d.id) = some d → d.wbs = none →
    (s.coreAt d.core).closed = older ++ (d.epoch, sig) :: newer → (∀ e ∈ older, e.1 ≠ d.epoch) →
    let asked := fun (n : Nat) => n = d.epoch ∨ ∃ e ∈ older, e.1 = n
    ∃ t ids, exec (.drainRequest d.id) s = .next t ∧ { d with wbs := some ids } ∈ t.drains ∧ t.hbm = s.hbm ∧
      (∀ w ∈ s.wbs, w.core = d.core → asked w.epoch → w.id ∈ ids) ∧
      ∀ b x, s.l1Block d.core b = some x → x.dirty ≠ 0 → asked x.epoch → t.l1Block d.core b = some { x with dirty := 0 } ∧
        ∃ w ∈ t.wbs, w.core = d.core ∧ w.block = b ∧ w.bytes = x.bytes ∧ w.mask = x.dirty ∧ w.id ∈ ids) ∧
  (∀ (d : Drain) ids l r, s.drains.find? (fun e => e.id = d.id) = some d → d.wbs = some ids → (∀ w ∈ s.wbs, w.id ∉ ids) →
    (s.coreAt d.core).closed = l ++ r → (∀ e ∈ l, s.epochLive d.core e.1 = false) → (∀ e, r.head? = some e → s.epochLive d.core e.1 = true) →
    ∃ t, exec (.drainAnswer d.id) s = .next t ∧ (t.coreAt d.core).closed = r ∧ (∀ e ∈ t.drains, e.id ≠ d.id) ∧
      (t.coreAt d.core).l1 = (s.coreAt d.core).l1 ∧ t.hbm = s.hbm ∧ t.wbs = s.wbs) ∧
  (∀ w x o sc, s.warp w = some x → x.park = [.fence o sc .serial] → ∃ t, exec (.serialisationRequest w) s = .next t ∧
    t.scOrder = s.scOrder ++ [{ w := w, sc := sc }] ∧
    t.warp w = some { x with park := [.fence o sc .drop] } ∧ t.hbm = s.hbm) ∧
  (∀ b agent x, x ∈ s.txns → x.block = b → x.started = true → x.since + 2000000 ≤ s.clock (devOfAgent (agentOfBlock b)) →
    x.waits.any (fun w => w.1 = agent) = true → ∃ t, exec (.lostAgentTimeout b agent) s = .next t ∧ agent ∈ t.lost ∧ (∀ a ∈ s.lost, a ∈ t.lost) ∧
      (∀ y ∈ t.txns, (∀ w ∈ y.waits, w.1 ≠ agent) ∧ (y.started = true ∨ y.req ≠ agent)) ∧ (t.die (agentOfBlock b)).evSeq = (s.die (agentOfBlock b)).evSeq + 1 ∧
      t.replicas = s.replicas ∧ t.hbm = s.hbm)

/-- R196, R200, R232, R345, R349: a view unit replaces a part of a shadow line by the parts of its base elements; a plain one-dimensional
view maps element q to base + q * stride elements. VD_DROP drops a context's descriptors from an agent. A completed walk fills both TLBs and
changes no byte of HBM in a settled block. -/
def Obligations.ViewsAndWalks : Prop := ∀ (s : State),
  (∀ (a : Acc) (g : Wg) (p : Part) vid off va v t u ps, s.acc? a.id = some a → s.wg a.w.wg = some g → a.parts = [p] → p.loc = .view vid off va →
    p.done = false → a.rel = .done → (∀ e ∈ s.accs, e.w = a.w → a.id ≤ e.id) → (∀ x ∈ s.upds, x.w ≠ a.w) →
    let r : ViewReq := { dev := a.w.wg.dev, ctx := g.ctx, agent := agentOfCore g.core, id := vid, va := va, line := off / 128 * 128, write := a.writes }
    (∀ k, s.viewUnit r = some k → s.throttled (blockOf (mkKey k.1 (k.2 * 2 ^ 36))) (s.whoFor r.dev r.ctx r.agent (blockOf (mkKey k.1 (k.2 * 2 ^ 36)))) = false) →
    s.viewOpen r a = (t, .ok v) → t.viewPieces r v off p.n (match a.kind with | .hdrLoad | .hdrStore => true | _ => false) = (u, .ok ps) → u.acc? a.id = some a →
    (match a.kind with | .atom .. => ∀ x ∈ ps, ∀ n, x.2.2 ≠ .pad n | _ => True) → u.stall = false →
    ∃ z a', exec (.viewLineRequest a.id (va / 128)) s = .next z ∧ z.acc? a.id = some a' ∧
      a'.parts = ps.map (fun x => { p with idx := p.idx + x.1, n := x.2.1, loc := x.2.2, val := p.val / 256 ^ x.1 % 256 ^ x.2.1, sh := true, keep := !v.blockPreserving }) ∧ z.hbm = u.hbm) ∧
  (∀ (r : ViewReq) (v : VD) q, v.rank = 1 → v.wins = 0 → v.idxW = 0 → v.perm 0 = 0 → v.tlog 0 = 0 → v.m0 = 0 → v.m1 = 0 → v.sigma 0 = 1 → q < v.ext 0 →
    s.viewElem r v q = (s, .ok (.bit (8 * v.base + v.width * (q * v.stride 0))))) ∧
  (∀ (a : Acc) vid agents agent, s.acc? a.id = some a → a.kind = .vinv vid agents → a.rel = .done → agent ∈ agents →
    ∃ t a', exec (.vdDrop a.id agent) s = .next t ∧ t.acc? a.id = some a' ∧ a'.kind = .vinv vid (agents.filter (fun x => x != agent)) ∧
      (t.die agent).vds = (s.die agent).vds.filter (fun e => !(e.1.1 = a.w.wg.dev * 64 + s.ctxOf a.w && (vid = none || vid = some e.1.2))) ∧ t.hbm = s.hbm) ∧
  (∀ core ctx va leaf size u, s.fusedCore core = false → ({ s with mover := some (.act (.pageWalk core ctx va)) } : State).walkNow (agentOfCore core) (devOfCore core) ctx va = (u, .ok (leaf, size)) → u.stall = false →
    ∃ t, exec (.pageWalk core ctx va) s = .next t ∧
    let e : TlbEntry := { ctx := ctx, size := size, page := va / pageBytes size, leaf := BitVec.ofNat 64 leaf }
    e ∈ (t.coreAt core).tlb ∧ e ∈ (t.cluster (clusterOfCore core)).tlb ∧ t.hbm = u.hbm ∧ t.wgs = s.wgs ∧
    ∀ a, Claims.Settled s (a / 64) → memGet t.hbm a = memGet s.hbm a)

/-! ### Barriers, tiles, monitors, tickets and the wait unit (chapter 13) -/

/-- A barrier instruction puts one update in flight, counted in its class, with the result registers pending; a check of its operand that
fails raises its trap. `pre` is the translation of its global address. Memory is as that leaves it, every register value as before. -/
abbrev Claims.UpdIssued (i : Instr) (sw : Bool) (deps : Deps) (k : CntClass) (rel : Rel) (d n : Nat) (pre : State → Ctx → State)
    (place : State → Ctx → Except TrapInfo (UpdKind × Nat × BarLoc)) : Prop :=
  ∀ s c, Ready s c (sysMode sw) deps → c.x.full k = false →
    let v := pre s c
    (∀ t, place v c = .error t → exec i s = .next (v.takeTrap c.w t)) ∧
    (∀ kind va bar, place v c = .ok (kind, va, bar) → ∃ t u y, exec i s = .next t ∧ t.upds = v.upds ++ [u] ∧ u.id = v.nextId + 1 ∧ u.w = c.w ∧ u.kind = kind ∧
      u.bar = bar ∧ u.va = va ∧ u.cls = some k ∧ u.rel = rel ∧ u.done = false ∧ u.pc = c.x.pc ∧ t.warp c.w = some y ∧
      (∀ j, y.cnt j = c.x.cnt j + if j = k then 1 else 0) ∧ (∀ j, j < n → y.pending c.now (.s (d + j)) = true) ∧
      SameRegs c.x y [] [] [] ∧ SamePreds c.x y [] ∧ y.mask = c.x.mask ∧ y.frame = c.x.frame ∧ y.pc = c.x.pc + 1 ∧ Claims.SameMemory v t)

/-- The translation of a global barrier's address, and of a watched word's. -/
abbrev Claims.barWalk (adr : BarAddr) (s : State) (c : Ctx) : State :=
  let va := (c.x.pairS adr.a.toNat + adr.off.signExtend 64).toNat
  if adr.gl = true ∧ va < 2 ^ 49 then s.warm c.core c.ctx [va] else s
abbrev Claims.monWalk (a : BitVec 6) (s : State) (c : Ctx) : State :=
  if (c.x.pairS a.toNat).toNat < 2 ^ 49 then s.warm c.core c.ctx [(c.x.pairS a.toNat).toNat] else s

/-- An update of a kind at the place of a barrier operand. -/
abbrev Claims.atBar (adr : BarAddr) (kind : Ctx → UpdKind) (s : State) (c : Ctx) : Except TrapInfo (UpdKind × Nat × BarLoc) :=
  match s.barAt c adr with | .error t => .error t | .ok (va, bar) => .ok (kind c, va, bar)

/-- R328 to R330, R334, R336: the issue of BINIT, ARRIVE, EXPECT, MON and MONX. BINIT traps when the arrival count is 0 or a reserved bit of
its parameter word is set. A barrier operand that is not 16-byte aligned raises MISALIGNED. -/
def Obligations.BarrierIssue : Prop :=
  (∀ sw adr d, Claims.UpdIssued (.binit sw adr d) sw ((barDeps adr).join (Deps.uni d.toNat 2)) .store .done 0 0 (Claims.barWalk adr)
    (fun s c => match s.barAt c adr with
      | .error t => .error t
      | .ok (va, bar) =>
        let p := (c.x.readS d.toNat).toNat
        if p % 65536 = 0 ∨ 2 ^ 17 ≤ p then .error { code := 0x2B, deferred := false, addr := va, info := [4, BitVec.ofNat 32 va] }
        else .ok (.init (p % 65536) (p.testBit 16) (c.x.readS (d.toNat + 1)).toNat, va, bar))) ∧
  (∀ sw rel sc count adr d, Claims.UpdIssued (.arrive sw false rel sc count adr d) sw (barDeps adr) .store
    (if rel then .todo sc false else .done) 0 0 (Claims.barWalk adr) (Claims.atBar adr (fun _ => .arrive (count.toNat + 1) none))) ∧
  (∀ sw rel sc count adr d, Claims.UpdIssued (.arrive sw true rel sc count adr d) sw (barDeps adr) .load
    (if rel then .todo sc false else .done) d.toNat 1 (Claims.barWalk adr) (Claims.atBar adr (fun _ => .arrive (count.toNat + 1) (some d.toNat)))) ∧
  (∀ sw arv rel sc adr d, Claims.UpdIssued (.expect sw arv rel sc adr d) sw ((barDeps adr).join (Deps.uni d.toNat 1)) .store
    (match sc with | some x => if arv && rel then .todo x false else .done | none => .done) 0 0 (Claims.barWalk adr)
    (Claims.atBar adr (fun c => .expect (c.x.readS d.toNat).toNat arv))) ∧
  (∀ sw d a bar, Claims.UpdIssued (.mon sw d a bar) sw (Deps.uni a.toNat 2) .load .done d.toNat 2 (Claims.monWalk a)
    (fun s c => match s.monAt c a bar with | .error t => .error t | .ok (word, loc) => .ok (.mon word d.toNat, bar.toNat, loc))) ∧
  (∀ sw d a bar, Claims.UpdIssued (.monx sw d a bar) sw (Deps.uni a.toNat 2) .load .done d.toNat 1 (Claims.monWalk a)
    (fun s c => match s.monAt c a bar with | .error t => .error t | .ok (word, loc) => .ok (.monx word d.toNat, bar.toNat, loc))) ∧
  (∀ (s : State) c (adr : BarAddr) va, va = (if adr.gl then (c.x.pairS adr.a.toNat + adr.off.signExtend 64).toNat else (c.x.readS adr.a.toNat + adr.off).toNat) →
    (adr.gl = false ∨ va < 2 ^ 49) → va % 16 ≠ 0 → s.barAt c adr = .error { code := 0x11, deferred := false, addr := va })

/-- The park of a WAIT, WAITCNT or TWAIT: `p` comes to the conditions that the warp waits for, and nothing else but the PC has changed. -/
abbrev Claims.Parked (i : Instr) (sw : Bool) (s : State) (c : Ctx) (p : Park) : Prop :=
  Changes i s c (fun y => Stepped c.now sw [p] c.x y ∧ SameRegs c.x y [] [] [] ∧ SamePreds c.x y [] ∧ SameRest c.x y ∧ y.pc = c.x.pc + 1)

/-- A change of tile entries is signalled to the warps that wait on them: what a waiting TWAIT becomes (R327, R333). -/
abbrev Claims.signalled (ts : Tab Tile) (p : Park) : Park :=
  match p with
  | .tile n drained false => .tile n drained (if drained then (tabGetD ts n {}).st != .draining else (tabGetD ts n {}).st == .ready)
  | p => p

/-- The workgroup of a warp has new tile entries: its warps are as before but for that signal, and the issuer's PC advances. -/
abbrev Claims.TilesSet (sw : Bool) (s t : State) (c : Ctx) (ts : Tab Tile) : Prop :=
  (∃ h, t.wg c.w.wg = some h ∧ h.tiles = ts) ∧ Claims.SameMemory s t ∧
  (∀ v, v ≠ c.w → t.warp v = if v.wg = c.w.wg then (s.warp v).map (fun z => z.mapPark (Claims.signalled ts)) else s.warp v) ∧
  ∃ y, t.warp c.w = some y ∧ SameRegs c.x y [] [] [] ∧ SamePreds c.x y [] ∧ SameRest (c.x.mapPark (Claims.signalled ts)) y ∧
    Stepped c.now sw [] (c.x.mapPark (Claims.signalled ts)) y ∧ y.pc = c.x.pc + 1

/-- R294, R331 to R333: WAITCNT, WAIT and TWAIT park their warp. TBIND fills an empty tile entry, which is ready at once if its barrier's
phase is met; TREL takes a ready entry to draining, and with no reader left to empty, or with rearm to the next phase; both signal the change
to the warps that wait on the entries (R327); TSTAT's status word is under way. The states that an instruction does not allow raise TILE_STATE, a number beyond the grant RESOURCE_RANGE.
The model's own: TBIND and TREL read the phase bytes as stored, also where their word is uncorrectable (log 131), and TBIND finds RESOURCE_RANGE before any
fault of its barrier operand (log 132). -/
def Obligations.WaitsAndTiles : Prop :=
  (∀ sw cls (n : BitVec 12) s c, Ready s c (sysMode sw) {} → Claims.Parked (.waitcnt sw cls n) sw s c (.cnt cls n.toNat)) ∧
  (∀ sw (acq : Bool) sc a off d s c, Ready s c (sysMode sw) ((Deps.uni a.toNat 1).join (Deps.uni d.toNat 1)) →
    (∀ va bar, s.barAt c { gl := false, a := a, off := off } = .ok (va, bar) → Claims.Parked (.wait sw acq sc a off d) sw s c
      (.bar bar ((c.x.readS d.toNat).toNat % 65536) (if acq then some sc else none) none)) ∧
    (∀ t, s.barAt c { gl := false, a := a, off := off } = .error t → exec (.wait sw acq sc a off d) s = .next (s.takeTrap c.w t))) ∧
  (∀ sw (drained : Bool) (n : BitVec 6) s c, Ready s c (sysMode sw) {} →
    let e := tabGetD c.g.tiles n.toNat {}
    (n.toNat < c.g.tileN → (drained = true ∨ e.st ≠ .empty) → Claims.Parked (.twait sw drained n) sw s c
      (.tile n.toNat drained (if drained then e.st != .draining else e.st == .ready))) ∧
    (n.toNat < c.g.tileN → drained = false → e.st = .empty → exec (.twait sw drained n) s = .next (s.takeTrap c.w { code := 0x22, deferred := false })) ∧
    (c.g.tileN ≤ n.toNat → exec (.twait sw drained n) s = .next (s.takeTrap c.w { code := 0x07, deferred := false }))) ∧
  (∀ sw (rearm : Bool) (n d a : BitVec 6) s c, c.g.tileN ≤ n.toNat →
    (Ready s c (sysMode sw) ((Deps.uni a.toNat 2).join (Deps.uni d.toNat 2)) → exec (.tbind sw n d a) s = .next (s.takeTrap c.w { code := 0x07, deferred := false })) ∧
    (Ready s c (sysMode sw) {} → exec (.trel sw rearm n) s = .next (s.takeTrap c.w { code := 0x07, deferred := false }) ∧
      exec (.tstat sw n d) s = .next (s.takeTrap c.w { code := 0x07, deferred := false }))) ∧
  (∀ sw (n d a : BitVec 6) s c, Ready s c (sysMode sw) ((Deps.uni a.toNat 2).join (Deps.uni d.toNat 2)) → n.toNat < c.g.tileN →
    let bar := (c.x.readS d.toNat).toNat
    let rho := (c.x.readS (d.toNat + 1)).toNat % 65536
    bar % 16 = 0 → bar + 16 ≤ c.g.spadSize →
    ((tabGetD c.g.tiles n.toNat {}).st ≠ .empty → exec (.tbind sw n d a) s = .next (s.takeTrap c.w { code := 0x22, deferred := false })) ∧
    ((tabGetD c.g.tiles n.toNat {}).st = .empty → ∃ t ts, exec (.tbind sw n d a) s = .next t ∧ Claims.TilesSet sw s t c ts ∧
      tabGet ts n.toNat = some { st := if (memRead c.g.spad bar 2 + 65536 - rho) % 65536 < 32768 then .ready else .filling,
                                 base := c.x.readS a.toNat, len := c.x.readS (a.toNat + 1), bar := bar, rho := rho, rearm := false } ∧
      ∀ m, m ≠ n.toNat → tabGet ts m = tabGet c.g.tiles m)) ∧
  (∀ sw (rearm : Bool) (n : BitVec 6) s c, Ready s c (sysMode sw) {} → n.toNat < c.g.tileN →
    let e := tabGetD c.g.tiles n.toNat {}
    (e.st ≠ .ready → exec (.trel sw rearm n) s = .next (s.takeTrap c.w { code := 0x22, deferred := false })) ∧
    (e.st = .ready → ∃ t ts, exec (.trel sw rearm n) s = .next t ∧ Claims.TilesSet sw s t c ts ∧
      tabGetD ts n.toNat {} = (if s.readers c.w.wg n.toNat ≠ 0 then { e with st := .draining, rearm := rearm }
        else if rearm then { e with st := if (memRead c.g.spad e.bar 2 + 65536 - (e.rho + 1) % 65536) % 65536 < 32768 then .ready else .filling,
                                    rho := (e.rho + 1) % 65536, rearm := false }
        else {}))) ∧
  (∀ sw (n d : BitVec 6) s c, Ready s c (sysMode sw) {} → n.toNat < c.g.tileN →
    let e := tabGetD c.g.tiles n.toNat {}
    ∃ t u y, exec (.tstat sw n d) s = .next t ∧ u ∈ t.upds ∧ u.w = c.w ∧ u.kind = .tstat d.toNat ∧ u.done = true ∧ t.warp c.w = some y ∧
      u.res = some (BitVec.ofNat 64 ((match e.st with | .empty => 0 | .filling => 1 | .ready => 2 | .draining => 3) + (if e.rearm then 4 else 0) +
        s.readers c.w.wg n.toNat % 32 * 8 + e.rho % 65536 * 65536)) ∧
      y.pending c.now (.s d.toNat) = true ∧ SameRegs c.x y [] [] [] ∧ SamePreds c.x y [] ∧ y.ops = c.x.ops ∧ y.pc = c.x.pc + 1 ∧ Claims.SameMemory s t)

/-- A sound block whose only copy is HBM's, with no transaction in progress, on a stack that answers. -/
abbrev Claims.AtHome (s : State) (b : Nat) : Prop :=
  tabGet s.errs b = none ∧ s.lost = [] ∧ s.hall b = .home ∧ s.cut.contains b = false ∧ ∀ t ∈ s.txns, t.block ≠ b

/-- The 16 bytes of a barrier, and when they can be read: no bad word of its partition, or a sound block that is at home. -/
abbrev Claims.barBytes (s : State) : BarLoc → Nat
  | .spad g off => match s.wg g with | some h => memRead h.spad off 16 | none => 0
  | .home key => memRead s.hbm key 16
  | .gone => 0
abbrev Claims.barSound (s : State) : BarLoc → Prop
  | .spad g _ => ∃ h, s.wg g = some h ∧ h.spadErr = [] ∧ Memory.wf h.spad = true
  | .home key => key % 16 = 0 ∧ Claims.AtHome s (key / 64) ∧ Memory.wf s.hbm = true
  | .gone => False

/-- R323: the test after an update. A phase whose arrivals are all in and whose bytes have all landed completes. -/
abbrev Claims.tested (x : Bar) : Bar :=
  if x.exp ≠ 0 ∧ x.pend = 0 ∧ x.b ≤ x.l then
    { phase := (x.phase + 1) % 65536, exp := x.exp, pend := x.exp, keep := x.keep, over_ := x.over_ || decide (x.b < x.l), b := if x.keep then x.b else 0, l := 0 }
  else x

/-- R322 to R324, R330, R335: the updates of a barrier. An initialisation writes the whole object; an arrival takes its count from the pending
arrivals, an expectation adds expected bytes, a credit adds landed bytes, and each is followed by the test. The update then waits for its
acknowledgement only, with the number of the phase that follows as its result; every byte of memory but the barrier's 16 is as before. A
completion is signalled to every warp that waits for it (R327, R331). An arrival or expectation in error leaves the object as it is and
reports BARRIER_FAULT with its reason: 1 uninitialised, 2 excess, 3 overflow; EXPECT.arv makes its expectation first, so that reason 3 is found before
reasons 1 and 2 of its arrival (log 79). -/
def Obligations.BarrierUpdates : Prop := ∀ (s : State) (u : Upd) (x z : Bar),
  s.upd? u.id = some u → s.updReady u = true → s.updHeld u = false → s.stall = false → Claims.barSound s u.bar →
  x = Bar.ofNat (Claims.barBytes s u.bar) →
  let fails := fun (i : Instr) (r : Nat) => ∃ t p, exec i s = .next t ∧ Claims.barBytes t u.bar = Claims.barBytes s u.bar ∧ p ∈ t.reports ∧ p.w = u.w ∧
    p.t.code = 0x2B ∧ p.t.addr = u.va ∧ p.t.info = [BitVec.ofNat 32 r, BitVec.ofNat 32 u.va] ∧ p.t.apc = some u.pc
  let ends := fun (i : Instr) => ∃ t, exec i s = .next t ∧ Bar.ofNat (Claims.barBytes t u.bar) = z ∧
    (u.cls.isSome = true → t.upd? u.id = some { u with done := true, res := some (BitVec.ofNat 64 ((x.phase + 1) % 65536)) }) ∧
    (u.cls = none → t.upd? u.id = none) ∧
    (∀ v y rho acq, s.warp v = some y → Park.bar u.bar rho acq (some false) ∈ y.park → (∀ n k b, u.kind ≠ .init n k b) → (∃ g off, u.bar = .spad g off) →
      z.phase ≠ x.phase → (z.phase + 65536 - rho % 65536) % 65536 < 32768 → ∃ y', t.warp v = some y' ∧ Park.bar u.bar rho acq (some true) ∈ y'.park) ∧
    (∀ a, (match u.bar with | .home key => a < key ∨ key + 16 ≤ a | _ => True) → memGet t.hbm a = memGet s.hbm a) ∧
    (∀ g a, (match u.bar with | .spad h off => g ≠ h ∨ a < off ∨ off + 16 ≤ a | _ => True) →
      (t.wg g).map (fun h => memGet h.spad a) = (s.wg g).map (fun h => memGet h.spad a))
  (∀ n keep bytes, u.kind = .init n keep bytes → n < 65536 → bytes < 2 ^ 32 →
    z = { phase := 0, exp := n, pend := n, keep := keep, over_ := false, b := bytes, l := 0 } → ends (.barrierInitUpdate u.id)) ∧
  (∀ n, ((∃ w, u.kind = .fired w) ∧ n = 1 ∨ ∃ r, u.kind = .arrive n r) → (x.exp = 0 → fails (.barrierArrival u.id) 1) ∧
    (x.exp ≠ 0 → x.pend < n → fails (.barrierArrival u.id) 2)) ∧
  (∀ n arv, u.kind = .expect n arv → (2 ^ 32 ≤ x.b + n → fails (.barrierExpectation u.id) 3) ∧
    (arv = true → x.b + n < 2 ^ 32 → (x.exp = 0 → fails (.barrierExpectation u.id) 1) ∧ (x.exp ≠ 0 → x.pend = 0 → fails (.barrierExpectation u.id) 2))) ∧
  (∀ n, ((∃ w, u.kind = .fired w) ∧ n = 1 ∨ ∃ r, u.kind = .arrive n r) → x.exp ≠ 0 → n ≤ x.pend →
    z = Claims.tested { x with pend := x.pend - n } → ends (.barrierArrival u.id)) ∧
  (∀ n, u.kind = .expect n false → x.b + n < 2 ^ 32 → z = Claims.tested { x with b := x.b + n } → ends (.barrierExpectation u.id)) ∧
  (∀ n, u.kind = .expect n true → x.b + n < 2 ^ 32 → x.exp ≠ 0 → 1 ≤ x.pend →
    z = Claims.tested { x with b := x.b + n, pend := x.pend - 1 } → ends (.barrierExpectation u.id)) ∧
  (∀ n, u.kind = .credit n → z = Claims.tested (if 2 ^ 32 ≤ x.l + n then { x with l := 2 ^ 32 - 1, over_ := true } else { x with l := x.l + n }) →
    ends (.barrierCredit u.id))

/-- R334, R336: MON's arm takes the word's value and adds a monitor to its home die's table in one step, or takes a ticket when the table is
full or has tickets ahead; MONX removes the oldest monitor of its context on the word and barrier, and says whether it found one. R337: a free
slot is offered to the oldest ticket; an offered slot is claimed, by a request that joins its conflict chain, by the MON of a core, which arms
its monitor, and by the check of a launch's dependencies (O50); an offer of more than 4,096 cycles
to a ticket that may lapse goes back to the end of the queue, and no other expires: that of a warp's request for a monitor may lapse only while its
workgroup is away from its core, or once its agent is lost. -/
def Obligations.MonitorsAndTickets : Prop := ∀ (s : State),
  (∀ (u : Upd) word d, s.upd? u.id = some u → u.kind = .mon word d → s.monReady u word = true → u.ticket = false →
    s.throttled (word / 8) (s.whoOf u.w (word / 8)) = false → s.stall = false →
    let a := agentOfBlock (word / 8)
    (s.monSlots a < 4096 → (s.die a).monQ = [] → Claims.AtHome s (word / 8) →
      ∃ t, exec (.monitorArm u.id) s = .next t ∧
        (t.die a).mons = (s.die a).mons ++ [{ word := word, ctx := s.ctxOf u.w, w := u.w, bar := u.bar, va := u.va, pc := u.pc }] ∧
        t.upd? u.id = some { u with done := true, ticket := false, res := some (BitVec.ofNat 64 (memRead s.hbm (8 * word) 8)) } ∧ t.hbm = s.hbm) ∧
    (4096 ≤ s.monSlots a ∨ (s.die a).monQ ≠ [] → ∃ t, exec (.monitorArm u.id) s = .next t ∧ (t.die a).monQ = (s.die a).monQ ++ [{ op := u.id, offered := none }] ∧
        t.upd? u.id = some { u with ticket := true } ∧ (t.die a).mons = (s.die a).mons ∧ t.hbm = s.hbm)) ∧
  (∀ (u : Upd) word d l m r, s.upd? u.id = some u → u.kind = .monx word d → s.monReady u word = true →
    s.throttled (word / 8) (s.whoOf u.w (word / 8)) = false →
    let a := agentOfBlock (word / 8)
    let mine := fun (m : Mon) => m.word = word ∧ m.ctx = s.ctxOf u.w ∧ m.bar = u.bar
    ((s.die a).mons = l ++ m :: r → mine m → (∀ e ∈ l, ¬ mine e) → ∃ t, exec (.monxHome u.id) s = .next t ∧ (t.die a).mons = l ++ r ∧
      t.upd? u.id = some { u with done := true, res := some 1 } ∧ t.hbm = s.hbm) ∧
    ((∀ e ∈ (s.die a).mons, ¬ mine e) → ∃ t, exec (.monxHome u.id) s = .next t ∧ (t.die a).mons = (s.die a).mons ∧
      t.upd? u.id = some { u with done := true, res := some 0 } ∧ t.hbm = s.hbm)) ∧
  (∀ agent r k rest, (s.die agent).queue r = k :: rest →
    let now := s.cycle (devOfAgent agent)
    (k.offered = none → s.slotFree agent r (rest.filter (fun e => e.offered.isSome)) k = true → ∃ t rest', exec (.ticketClaim agent r) s = .next t ∧
      (t.die agent).queue r = { k with offered := some now } :: rest' ∧
      rest'.map (fun e => { e with offered := none }) = rest.map (fun e => { e with offered := none }) ∧ t.hbm = s.hbm ∧ t.txns = s.txns) ∧
    (∀ c x i, k.offered = some c → now ≤ c + 4096 ∨ s.mayLapse k = false → (∀ e ∈ rest, e.offered.isSome = true) → s.stall = false → k.launch = none → r = .chain i → k.txn = some x → ∃ t, exec (.ticketClaim agent r) s = .next t ∧
      (t.die agent).queue r = rest ∧ x ∈ t.txns ∧ (∀ y ∈ s.txns, y ∈ t.txns) ∧ t.hbm = s.hbm) ∧
    (∀ c (u : Upd) word d, k.offered = some c → now ≤ c + 4096 ∨ s.mayLapse k = false → (∀ e ∈ rest, e.offered.isSome = true) → s.stall = false → k.launch = none → r = .monitor →
      s.upd? k.op = some u → u.kind = .mon word d → agentOfBlock (word / 8) = agent → Claims.AtHome s (word / 8) → ∃ t, exec (.ticketClaim agent r) s = .next t ∧
      (t.die agent).monQ = rest ∧ (t.die agent).mons = (s.die agent).mons ++ [{ word := word, ctx := s.ctxOf u.w, w := u.w, bar := u.bar, va := u.va, pc := u.pc }] ∧
      t.upd? u.id = some { u with done := true, ticket := false, res := some (BitVec.ofNat 64 (memRead s.hbm (8 * word) 8)) } ∧ t.hbm = s.hbm) ∧
    (∀ c, k.offered = some c → c + 4096 < now → s.mayLapse k = true → ∃ t, exec (.ticketExpiry agent r) s = .next t ∧
      (t.die agent).queue r = rest ++ [{ k with offered := none }] ∧ t.hbm = s.hbm ∧ t.txns = s.txns) ∧
    ((∀ e ∈ k :: rest, s.mayLapse e = false) → exec (.ticketExpiry agent r) s = .next s) ∧
    (∀ (u : Upd) g, k.launch = none → k.txn = none → s.upd? k.op = some u → s.wg u.w.wg = some g →
      (s.mayLapse k = true ↔ g.resident = false ∨ agentOfCore g.core ∈ s.lost)))

/-- R326, R327, R331, R319, R381, R67: a wait whose condition holds leaves the wait unit; a WAIT reads its barrier once, behind the warp's earlier
accesses that it must follow, and from then on a completion wakes it; one that leaves drops its core's clean copies (the model's choice, log 108), and a WAIT.acq at `.cg` goes on to its acquire; a SLEEP ends when its cycle has come and not before; a YIELD ends; results whose cycle has come are written, with every register as it reads, and TSTAT's word
is delivered. -/
abbrev Claims.WaitUnitEvents : Prop := ∀ (s : State) (w : WarpId) (x : Warp), s.warp w = some x →
  let now := s.cycle w.wg.dev
  (∀ k n, x.park = [.cnt k n] → ∃ t y, exec (.warpWake w) s = .next t ∧ t.warp w = some y ∧ { y with park := x.park } = x ∧
    y.park = if x.cnt k ≤ n then [] else [.cnt k n]) ∧
  (∀ g off rho sc, x.park = [.bar (.spad g off) rho sc none] → (∃ a ∈ s.accs, a.w = w ∧ a.before ((BarLoc.spad g off).clash w.wg) = true) →
    ∃ t, exec (.warpWake w) s = .next t ∧ t.warp w = some x ∧ t.hbm = s.hbm) ∧
  (∀ g off rho sc met h, x.park = [.bar (.spad g off) rho sc met] → s.wg g = some h → h.spadErr = [] → (∀ u ∈ s.upds, u.w ≠ w) →
    (∀ a ∈ s.accs, a.w = w → a.before ((BarLoc.spad g off).clash w.wg) = false) →
    let z := Bar.ofNat (memRead h.spad off 16)
    let holds := match met with | none => z.exp ≠ 0 ∧ (z.phase + 65536 - rho % 65536) % 65536 < 32768 | some m => m = true
    ∃ t y, exec (.warpWake w) s = .next t ∧ t.warp w = some y ∧ { y with park := x.park } = x ∧
      (holds → y.park = (match sc with | some .wp | some .wg | none => [] | some z => [.fence .acq z (.acq (.todo z x.recs))]) ∧
        ∀ b e, t.l1Block (s.coreOf w) b = some e → e.dirty ≠ 0 ∧ e.valid = e.dirty) ∧
      (¬ holds → y.park = [.bar (.spad g off) rho sc (some false)] ∧ t.cores = s.cores)) ∧
  (∀ n drained (met : Bool), x.park = [.tile n drained met] → ∃ t y, exec (.warpWake w) s = .next t ∧ t.warp w = some y ∧
    { y with park := x.park } = x ∧ y.park = if met then [] else [.tile n drained met]) ∧
  (∀ o sc, x.park = [.fence o sc .ready] → ∃ t y, exec (.warpWake w) s = .next t ∧ t.warp w = some y ∧ y = { x with park := [] }) ∧
  (∀ u, x.park = [.sleep u] → ∃ t y, exec (.sleepExpiry w) s = .next t ∧ t.warp w = some y ∧ y = { x with park := if u ≤ now then [] else [.sleep u] }) ∧
  (∀ v, x.yield = some v → ∃ t y, exec (.yieldExpiry w) s = .next t ∧ t.warp w = some y ∧
    y = { x with yield := if v.others = [] ∨ v.until_ ≤ now then none else some v }) ∧
  ((∀ u ∈ s.upds, u.w ≠ w) → ∃ t y, exec (.resultWriteback w) s = .next t ∧ t.warp w = some y ∧ (∀ e ∈ y.pend, e.live now = true) ∧
    (∀ r, y.pending now r = x.pending now r) ∧ SameRegs x y [] [] [] ∧ SamePreds x y [] ∧ y.pc = x.pc ∧ t.hbm = s.hbm) ∧
  (∀ u d v m, s.upds = [u] → u.w = w → u.done = true → u.kind = .tstat d → u.res = some v → m ≠ 0 →
    x.pend = [{ reg := .s d, due := none, op := u.id, ovw := false, old := false, lanes := m }] →
    ∃ t y, exec (.resultWriteback w) s = .next t ∧ t.warp w = some y ∧ y.readS d = v.setWidth 32 ∧ y.pend = [] ∧ t.upds = [] ∧
      SameRegs x y [] [] [d] ∧ SamePreds x y [] ∧ t.hbm = s.hbm)

/-- R30, R46, R54, R72, R209, R370: a warp with nothing left to do retires, and its workgroup counts it, where no home is busy and no token
bucket holds the write-backs of its core; a line arrives in the buffer of a
warp's quadrant, from another buffer of its core or from memory, a copy that fails its parity check is replaced by a second from memory, and two
failures raise FETCH_PARITY and leave no line; a deferred report reaches its warp as a trap; a halted
sibling stops; an opcode that is not listed raises ILLEGAL_OPCODE. -/
abbrev Claims.WarpEvents : Prop := ∀ (s : State),
  (∀ w g x l, s.wg w.wg = some g → s.warp w = some x → g.resident = true → x.mayRetire (s.cycle w.wg.dev) = true → s.launch? w.wg.dev w.wg.launch = some l →
    1 < g.left → s.stall = false → s.txns = [] → agentOfCore g.core ∉ s.lost → (∀ v ∈ s.wbs, v.core = g.core → s.throttled v.block (s.whoWb v) = false) →
    (∀ b e, s.l1Block g.core b = some e → e.dirty ≠ 0 →
      s.throttled b (s.whoFor (devOfCore g.core) e.ctx (agentOfCore g.core) b) = false) → ∃ t h y, exec (.warpRetire w) s = .next t ∧ t.wg w.wg = some h ∧ t.warp w = some y ∧ y.done = true ∧ h.left = g.left - 1 ∧
      h.st = g.st ∧ h.spad = g.spad) ∧
  (∀ w g x (err1 err2 : BitVec 512), s.wg w.wg = some g → s.warp w = some x → g.resident = true → x.done = false → x.pc ≤ maxPc →
    let own := fun (t : State) => ((t.coreAt g.core).quad (quadOf g w.warp)).ibuf.find? (fun e => e.ctx = g.ctx && e.line = x.pc / 5)
    let near := ((s.coreAt g.core).quads.flatMap (·.ibuf)).find? (fun e => e.ctx = g.ctx && e.line = x.pc / 5)
    let gets := fun (u : State) (l : BitVec 512) => ∃ t, exec (.lineFetch w err1 err2) s = .next t ∧ own t = some { ctx := g.ctx, line := x.pc / 5, bits := l } ∧
      t.wgs = u.wgs ∧ t.hbm = u.hbm
    ((own s).isSome = true → exec (.lineFetch w err1 err2) s = .next s) ∧
    (∀ e, own s = none → near = some e → parityOk (e.bits ^^^ err1) = true → s.stall = false → gets s (e.bits ^^^ err1)) ∧
    (∀ u l, own s = none → near = none → s.rawLine g.core g.ctx (lineVa x.pc) = (u, .ok (some l)) →
      (parityOk (l ^^^ err1) = true → u.stall = false → gets u (l ^^^ err1)) ∧
      (∀ v m, parityOk (l ^^^ err1) = false → u.rawLine g.core g.ctx (lineVa x.pc) = (v, .ok (some m)) → v.stall = false →
        (parityOk (m ^^^ err2) = true → gets v (m ^^^ err2)) ∧
        (parityOk (m ^^^ err2) = false → x.mayIssue g = true →
          let r := v.takeTrap w { code := 0x04, deferred := false, addr := lineVa x.pc }
          exec (.lineFetch w err1 err2) s = .next (s.orWait r))))) ∧
  (∀ (r : Report) g x t0, s.reports.find? (fun e => e.id = r.id) = some r → s.wg r.w.wg = some g → s.warp r.w = some x → x.done = false →
    t0 = ({ s with reports := s.reports.filter (fun e => e.id != r.id) } : State) → exec (.deferredTrapReport r.id) s = .next (t0.takeTrap r.w r.t)) ∧
  (∀ w g x h, s.wg w.wg = some g → s.warp w = some x → x.halt = some h → g.owner.isSome = true → ∃ t y, exec (.siblingHalt w) s = .next t ∧
    t.warp w = some y ∧ y = { x with halt := some { h with stopped := true } } ∧ t.hbm = s.hbm) ∧
  (∀ op c, s.current = some c → exec (.illegalOpcode op) s = .next (s.takeTrap c.w { code := 0x01, deferred := false }))

/-- The events of one warp: waking, expiry, write-back, retirement, fetch, halt and traps. -/
def Obligations.WarpAndWaitEvents : Prop := Claims.WaitUnitEvents ∧ Claims.WarpEvents

/-! ### Channels (chapter 11) -/

/-- A channel instruction puts one operation in flight, counted in CHAN, with its destinations pending; a check that fails raises its trap.
`pre` is the translation of an address that the checks need. -/
abbrev Claims.ChopIssued (i : Instr) (sw : Bool) (deps : State → Deps) (sc : Scope) (rel acq launch : Bool)
    (pre : State → Ctx → State) (place : State → Ctx → Except TrapInfo (ChKind × DWord × List Byte × Nat × List Nat)) : Prop :=
  ∀ s c, Ready s c (sysMode sw) (deps s) → c.x.full .chan = false →
    let v := pre s c
    (∀ t, place v c = .error t → exec i s = .next (v.takeTrap c.w t)) ∧
    (∀ kind h rcd tag dsts, place v c = .ok (kind, h, rcd, tag, dsts) → ∃ t y, exec i s = .next t ∧
      t.chops = v.chops ++ [{ id := v.nextId + 1, w := c.w, ctx := c.ctx, dev := c.dev, kind := kind, handle := h, rcd := rcd, srctag := tag, sc := sc,
                              rel := if rel then .todo sc false else .done, acq := acq,
                              acqSt := if acq = true ∧ sc ≠ .wp ∧ sc ≠ .wg then .todo sc [] else .none, loc := .issued, pc := c.x.pc, launch := launch }] ∧
      t.warp c.w = some y ∧ (∀ j, y.cnt j = c.x.cnt j + if j = .chan then 1 else 0) ∧ (∀ r ∈ dsts, y.pending c.now (.s r) = true) ∧
      SameRegs c.x y [] [] [] ∧ SamePreds c.x y [] ∧ y.mask = c.x.mask ∧ y.frame = c.x.frame ∧ y.pc = c.x.pc + 1 ∧ Claims.SameMemory v t)

/-- The trap of a refused channel instruction. -/
abbrev Claims.chFault (r : Nat) : TrapInfo := { code := 0x28, deferred := false, info := [BitVec.ofNat 32 r] }

/-- The first three checks of R274: the handle's form, tag operands on a channel without tags, and the record's registers. -/
abbrev Claims.chCheck (h : DWord) (tagBits : Bool) (d : Option Nat) : Option Nat :=
  let kind := h.toNat / 2 ^ 54 % 4
  let size := h.toNat / 2 ^ 52 % 4
  if h.toNat / 2 ^ 49 % 8 ≠ 0 ∨ h.toNat % 64 ≠ 0 ∨ kind = 3 ∨ size = 3 then some 1
  else if kind ≠ 2 ∧ tagBits = true then some 2
  else match d with
    | some r => if r % (4 * 2 ^ size) ≠ 0 ∨ 64 < r + 4 * 2 ^ size then some 3 else none
    | none => none

/-- R272 to R276, R320: the issue of CHINIT, PUSH, POP.try, POP.wait and LAUNCH: the operands they read, and the traps they raise. -/
def Obligations.ChannelIssue : Prop :=
  (∀ sw rel sc d a b e (off : Word), Claims.ChopIssued (.chinit sw rel sc d a b e off) sw (fun _ => Deps.all [Deps.uni a.toNat 2, Deps.uni b.toNat 1, Deps.uni e.toNat 2])
    sc rel false false
    (fun s c => let va := (c.x.pairS a.toNat + off.signExtend 64).toNat
      if va < 2 ^ 49 ∧ va % 64 = 0 then s.warm c.core c.ctx [va] else s) (fun s c =>
      let va := (c.x.pairS a.toNat + off.signExtend 64).toNat
      let params := (c.x.readS b.toNat).toNat
      let storage := (c.x.pairS e.toNat).toNat
      if 2 ^ 49 ≤ va then .error { code := 0x10, deferred := false, addr := va }
      else if va % 64 ≠ 0 then .error { code := 0x11, deferred := false, addr := va }
      else if (match s.translateAt c.core c.ctx va with | .ok ⟨.host _, _, _⟩ | .ok ⟨.view _ _, _, _⟩ => true | _ => false) = true then
        .error { code := 0x13, deferred := false, addr := va }
      else if chinitOk params storage = false then .error (Claims.chFault 9)
      else .ok (.chinit params storage d.toNat, BitVec.ofNat 64 (params / 16 % 256 * 2 ^ 56 + params % 4 * 2 ^ 54 + params / 4 % 4 * 2 ^ 52 + va),
        [], 0, [d.toNat, d.toNat + 1]))) ∧
  (∀ sw unord rel sc d a b, Claims.ChopIssued (.push sw unord rel sc d a b) sw (fun s => chanDeps s a b (some d)) sc rel false false (fun s _ => s) (fun _ c =>
    let h := c.x.pairS a.toNat
    match Claims.chCheck h unord (some d.toNat) with
    | some r => .error (Claims.chFault r)
    | none => .ok (.push unord, h, c.x.groupBytes d.toNat (16 * 2 ^ (h.toNat / 2 ^ 52 % 4)), if h.toNat / 2 ^ 54 % 4 = 2 then (c.x.readS b.toNat).toNat else 0, []))) ∧
  (∀ sw anysrc anytag acq sc d a b e, Claims.ChopIssued (.popTry sw anysrc anytag acq sc d a b e) sw (fun s => chanDeps s a b none) sc false acq false (fun s _ => s) (fun _ c =>
    let h := c.x.pairS a.toNat
    match Claims.chCheck h (anysrc || anytag) (some d.toNat) with
    | some r => .error (Claims.chFault r)
    | none => .ok (.popTry anysrc anytag d.toNat e.toNat, h, [], if h.toNat / 2 ^ 54 % 4 = 2 then (c.x.readS b.toNat).toNat else 0,
        (List.range (4 * 2 ^ (h.toNat / 2 ^ 52 % 4))).map (fun i => d.toNat + i) ++ [e.toNat, e.toNat + 1]))) ∧
  (∀ sw anysrc anytag acq sc d a b e, Claims.ChopIssued (.popWait sw anysrc anytag acq sc d a b e) sw
    (fun s => (chanDeps s a b none).join ((Deps.uni d.toNat 1).join (Deps.uni e.toNat 1))) sc false acq false (fun s _ => s) (fun s c =>
    let h := c.x.pairS a.toNat
    let land := (c.x.readS d.toNat).toNat
    let bar := (c.x.readS e.toNat).toNat
    match Claims.chCheck h (anysrc || anytag) none with
    | some r => .error (Claims.chFault r)
    | none =>
      if land % 16 ≠ 0 ∨ bar % 16 ≠ 0 then .error (Claims.chFault 4)
      else match s.spadPlace c land (16 * 2 ^ (h.toNat / 2 ^ 52 % 4) + if h.toNat / 2 ^ 54 % 4 = 2 then 16 else 0), s.spadPlace c bar 16 with
        | none, _ => .error { code := 0x12, deferred := false, addr := land }
        | _, none => .error { code := 0x12, deferred := false, addr := bar }
        | some (g, off, _), some (bg, bo, _) =>
          .ok (.popWait anysrc anytag g off (.spad bg bo) bar, h, [], if h.toNat / 2 ^ 54 % 4 = 2 then (c.x.readS b.toNat).toNat else 0, []))) ∧
  (∀ sw (grp : BitVec 2), Claims.ChopIssued (.launch sw grp) sw (fun _ => Deps.uni (16 * grp.toNat) 16) .dv true false true (fun s _ => s) (fun s c =>
    let w0 := (c.x.pairS (16 * grp.toNat)).toNat
    let h := s.ctxWord c.dev c.ctx (8 + w0 / 2 ^ 56 % 8)
    if w0 / 2 ^ 50 % 64 ≠ c.ctx ∨ h = 0 then .error { code := 0x2C, deferred := false }
    else .ok (.push false, BitVec.ofNat 64 h, c.x.groupBytes (16 * grp.toNat) 64, 0, [])))

/-- R278 to R280: an operation that may be sent, once its descriptor's address is translated, meets its match in the router's pairing table: the record goes to the POP and the PUSH is
acknowledged; without a match a matchable operation is held for its window, and any other goes on to the home, as does a held one whose window
has passed. Memory is as the translation leaves it. -/
def Obligations.ChannelRouting : Prop := ∀ (s : State) (o : ChOp), s.chop? o.id = some o →
  (∀ key u, s.maySend o = true → u = s.warmChan o (o.handle.toNat / 64 % 2 ^ 43 * 64) → u.chanPlace o (o.handle.toNat / 64 % 2 ^ 43 * 64) 64 = .ok key →
    devOfAgent (agentOfKey key) = o.dev → (u.lineClean (u.coreOf o.w) key).2 = true → u.throttled (blockOf key) (chWho u o key) = false → u.stall = false →
    (∀ y, (u.pairTable key).find? (fun y => routerMatch o y || routerMatch y o) = some y → s.chop? y.id = some y → y.id ≠ o.id →
      ∃ t p q, exec (.routerArrival o.id) s = .next t ∧ (p, q) = (match o.kind with | .push _ => (o, y) | _ => (y, o)) ∧
        t.chop? q.id = some { q with loc := .delivered (some p.rcd) p.srctag } ∧ t.chop? p.id = some { p with loc := .acked } ∧ t.hbm = u.hbm ∧ t.wgs = s.wgs) ∧
    ((u.pairTable key).find? (fun y => routerMatch o y || routerMatch y o) = none →
      let window := o.handle.toNat / 2 ^ 56 % 256
      (o.mayWait = true → 0 < window → (u.pairTable key).length < 32 → ∃ t n, exec (.routerArrival o.id) s = .next t ∧
        t.chop? o.id = some { o with loc := .held key (u.cycle o.dev + window) n } ∧ t.hbm = u.hbm ∧ t.wgs = s.wgs) ∧
      ((o.mayWait = false ∨ window = 0 ∨ 32 ≤ (u.pairTable key).length) → ∃ t, exec (.routerArrival o.id) s = .next t ∧
        t.chop? o.id = some { o with loc := .forwarded key } ∧ t.hbm = u.hbm ∧ t.wgs = s.wgs))) ∧
  (∀ key e n, o.loc = .held key e n → ∃ t, exec (.pairingExpiry o.id) s = .next t ∧
    t.chop? o.id = some (if e ≤ s.cycle o.dev then { o with loc := .forwarded key } else o) ∧ t.hbm = s.hbm ∧ t.wgs = s.wgs)

/-- The descriptor of a channel in HBM. -/
abbrev Claims.desc (s : State) (key : Nat) : ChDesc := (List.range 8).map (fun i => memRead s.hbm (key + 8 * i) 8)

/-- R269, R272, R282, R283: CHINIT writes the descriptor's eight words; a PUSH at the home of a channel with room, and no receive posted, writes
its record to the ring's tail slot, whose page the core's TLB holds, once the warp's earlier accesses to the slot are over (R242, R247); a POP takes the record of the head slot, or finds the channel empty; a POP.wait of an empty channel is
posted. Head and tail move by one. A PUSH that finds the ring full, or a TAGGED channel, puts its send into the context's overflow queue on the die, head and tail
as they were; with no room there it raises CHANNEL_OVERFLOW. The model's own: the queue is that of the issuing device and context (log 55), and the ring
slot is translated with the issuing device's tables (log 54). -/
def Obligations.ChannelHome : Prop := ∀ (s : State) (o : ChOp) (key : Nat), s.chop? o.id = some o → o.loc = .forwarded key → key % 64 = 0 →
  s.errs = [] → s.lost = [] → s.cut = [] → s.stall = false → s.txns = [] → s.hall (key / 64) = .home → Memory.wf s.hbm = true → (∀ m ∈ (s.die (agentOfKey key)).ovf, m.desc ≠ key) →
  s.postedOf key o.ctx = [] →
  (∀ params storage d, o.kind = .chinit params storage d → storage < 2 ^ 64 → o.ctx < 64 → ∃ t, exec (.chinitHome o.id) s = .next t ∧
    Claims.desc t key = [storage, params % 4096 + 4096 + params / 2 ^ 16 % 2 ^ 16 * 2 ^ 16 + o.ctx * 2 ^ 32, 0, 0, 0, 0, 0, 0] ∧
    t.chop? o.id = some { o with loc := .acked }) ∧
  (∀ k size i, descFault o (Claims.desc s key) = none → chKindOf o.handle ≠ 2 → size = chSize o.handle →
    (i = (if o.kind.isPush then descTail (Claims.desc s key) else descHead (Claims.desc s key))) →
    (∃ g, s.wg o.w.wg = some g ∧ g.resident = true ∧
      (s.coreAt g.core).tlb.any (fun e => e.hits o.ctx (ringVa (Claims.desc s key) size i / 2 ^ 16 * 2 ^ 16)) = true) →
    s.chanPlace o (ringVa (Claims.desc s key) size i) size = .ok k → k / 64 ≠ key / 64 → k % 64 + size ≤ 64 → s.hall (k / 64) = .home →
    (∀ u, o.kind = .push u → o.rcd.length = size → descCount (Claims.desc s key) < descCap (Claims.desc s key) → (s.engOrder o.w o.id k).2 = true → ∃ t, exec (.channelPushHome o.id) s = .next t ∧
      memRead t.hbm k size = ofBytes o.rcd ∧ descTail (Claims.desc t key) = (i + 1) % 2 ^ 32 ∧ descHead (Claims.desc t key) = descHead (Claims.desc s key) ∧
      t.chop? o.id = some { o with loc := .acked }) ∧
    ((match o.kind with | .popTry .. | .popWait .. => True | _ => False) → descCount (Claims.desc s key) ≠ 0 → ∃ t, exec (.channelPopHome o.id) s = .next t ∧
      descHead (Claims.desc t key) = (i + 1) % 2 ^ 32 ∧ descTail (Claims.desc t key) = descTail (Claims.desc s key) ∧
      t.chop? o.id = some { o with loc := .delivered (some (bytesOf size (memRead s.hbm k size))) 0 })) ∧
  (descFault o (Claims.desc s key) = none → chKindOf o.handle ≠ 2 → descCount (Claims.desc s key) = 0 →
    (∀ a b d c, o.kind = .popTry a b d c → ∃ t, exec (.channelPopHome o.id) s = .next t ∧ t.chop? o.id = some { o with loc := .delivered none 0 } ∧ t.hbm = s.hbm) ∧
    (∀ a b g off bar va, o.kind = .popWait a b g off bar va → (s.die (agentOfKey key)).postQ = [] → s.postedOn (agentOfKey key) < 1024 →
      ∃ t n, exec (.channelPopHome o.id) s = .next t ∧ t.chop? o.id = some { o with loc := .posted key n })) ∧
  (∀ u x, o.kind = .push u → s.warp o.w = some x → descFault o (Claims.desc s key) = none → (s.ringReady o key).2 = true →
    (chKindOf o.handle = 2 ∨ descCap (Claims.desc s key) ≤ descCount (Claims.desc s key)) → let a := agentOfKey key
    let n := ((s.die a).ovf.filter (fun m => m.dev = o.dev && m.ctx = o.ctx)).length
    let cap := bits (s.ctxWord o.dev o.ctx 0) 16 16
    (n < cap → ∃ t m, exec (.channelPushHome o.id) s = .next t ∧ m ∈ (t.die a).ovf ∧ m.desc = key ∧ m.rcd = o.rcd ∧ m.srctag = o.srctag ∧
      descHead (Claims.desc t key) = descHead (Claims.desc s key) ∧ descTail (Claims.desc t key) = descTail (Claims.desc s key) ∧
      t.chop? o.id = some { o with loc := .acked }) ∧
    (cap ≤ n → ∃ t, exec (.channelPushHome o.id) s = .next t ∧ t.chop? o.id = none ∧ t.hbm = s.hbm ∧
      ∃ r ∈ t.reports, r.w = o.w ∧ r.t.code = tChannelOverflow ∧ r.t.deferred = true))

/-- The operation of a class has ended for its warp. -/
abbrev Claims.Ended (y : Warp) (k : CntClass) (id : Nat) : Prop := ∀ e ∈ y.ops, e.cls = k → e.id = id → e.ended = true

/-- R275, R276, R284: an acknowledged PUSH or CHINIT ends, CHINIT with its handle in its pair; a POP.try writes the record, 0 or 1 for success
or EMPTY, and the tag; a POP.wait's record lands at its place and credits its barrier, and the operation ends once that credit is made. A status pair within the record group has
its own values there (the model's choice, log 125). -/
def Obligations.ChannelCompletion : Prop := ∀ (s : State) (o : ChOp) (x : Warp), s.chop? o.id = some o → s.warp o.w = some x →
  (∀ u, o.loc = .acked → o.kind = .push u → ∃ t y, exec (.channelAck o.id) s = .next t ∧ t.chop? o.id = none ∧ t.warp o.w = some y ∧
    Claims.Ended y .chan o.id ∧ SameRegs x y [] [] [] ∧ t.hbm = s.hbm) ∧
  (∀ p q d e f, o.loc = .acked → o.kind = .chinit p q d → x.pend = [e, f] → e.reg = .s d → f.reg = .s (d + 1) → e.op = o.id → f.op = o.id →
    e.due = none → f.due = none → e.ovw = false → f.ovw = false → e.lanes ≠ 0 → f.lanes ≠ 0 → ∃ t y, exec (.channelAck o.id) s = .next t ∧ t.chop? o.id = none ∧
      t.warp o.w = some y ∧ y.pairS d = o.handle ∧ y.pend = [] ∧ SameRegs x y [] [] [d, d + 1] ∧ Claims.Ended y .chan o.id ∧ t.hbm = s.hbm) ∧
  (∀ a b d c rcd st, o.kind = .popTry a b d c → o.loc = .delivered rcd st → (rcd = none ∨ o.acqSt = .none) →
    let n := match rcd with | some l => l.length / 4 | none => 0
    (∀ r, (d ≤ r ∧ r < d + n) ∨ r = c ∨ r = c + 1 → ∃ e, x.pend.find? (fun e => e.reg = .s r && e.op = o.id && e.due.isNone) = some e ∧ e.lanes ≠ 0) →
    ∃ t y, exec (.channelDelivery o.id) s = .next t ∧ t.chop? o.id = none ∧ t.warp o.w = some y ∧ y.readS c = (if rcd = none then 1 else 0) ∧
      y.readS (c + 1) = BitVec.ofNat 32 st ∧ (∀ l i, rcd = some l → i < n → d + i ≠ c → d + i ≠ c + 1 → y.readS (d + i) = BitVec.ofNat 32 (ofBytes ((l.drop (4 * i)).take 4))) ∧
      (∀ e ∈ y.pend, e.op = o.id → e.due.isSome = true ∨ e.old = true) ∧ Claims.Ended y .chan o.id ∧ t.hbm = s.hbm) ∧
  (∀ a b g off bar va l st h, o.kind = .popWait a b g off bar va → o.loc = .delivered (some l) st → o.acqSt = .none → s.aheadOf o.w o.id = false → s.wg g = some h → Memory.wf h.spad = true →
    chKindOf o.handle ≠ 2 → ∃ t h' u, exec (.channelDelivery o.id) s = .next t ∧ t.wg g = some h' ∧ memRead h'.spad off l.length = ofBytes l ∧
      (∀ i, i < off ∨ off + l.length ≤ i → memGet h'.spad i = memGet h.spad i) ∧ u ∈ t.upds ∧ u.kind = .credit l.length ∧ u.bar = bar ∧ u.for_ = .pop o.id ∧
      t.chop? o.id = some { o with loc := .acked } ∧ t.hbm = s.hbm) ∧
  (∀ a b g off bar va, o.kind = .popWait a b g off bar va → o.loc = .acked → (∀ u ∈ s.upds, u.for_ ≠ .pop o.id) →
    ∃ t y, exec (.channelDelivery o.id) s = .next t ∧ t.chop? o.id = none ∧ t.warp o.w = some y ∧ Claims.Ended y .chan o.id ∧ SameRegs x y [] [] [] ∧ t.hbm = s.hbm)

/-! ### Copy and convolution engines (chapters 7, 11) -/

/-- An engine command waits in its cluster's pool, counted in its class; nothing else has changed but the PC. -/
abbrev Claims.Pooled (s : State) (c : Ctx) (t : State) (k : CntClass) : Prop :=
  ∃ y, t.warp c.w = some y ∧ (∀ j, y.cnt j = c.x.cnt j + if j = k then 1 else 0) ∧ SameRegs c.x y [] [] [] ∧ SamePreds c.x y [] ∧
    y.mask = c.x.mask ∧ y.frame = c.x.frame ∧ y.pc = c.x.pc + 1 ∧ Claims.SameMemory s t

/-- R285, R286, R291: what CPY and CPYX make of their eight words: a failed check is COPY_FAULT with the command in the frame. -/
abbrev Claims.CopyIssued (i : Instr) (sw : Bool) (deps : Deps) (grp : BitVec 2) (lists : Ctx → Option CopyLists) : Prop :=
  ∀ s c, Ready s c (sysMode sw) ((Deps.uni (16 * grp.toNat) 16).join deps) → c.x.full .copy = false → s.poolCount (clusterOfCore c.core) < 64 →
    let ws : List DWord := (List.range 7).map (fun i => c.x.pairS (16 * grp.toNat + 2 * i)) ++ [ccStamp (dieLocalCore c.core) c.w.warp (c.x.pairS (16 * grp.toNat + 14))]
    let iw := match lists c with | some x => if x.wide then 4 else 2 | none => 2
    let row := (lists c).bind (·.row)
    let col := (lists c).bind (·.col)
    let ok := ccOk ws = true ∧ (∀ v, row = some v ∨ col = some v → v % iw = 0)
    let backed := (ccSrcSp ws = true → s.spadPlace c (ccSrc ws) (elemBytes (ccWs ws)) ≠ none) ∧
      (ccDstSp ws = true → s.spadPlace c (ccDst ws) (elemBytes (ccWd ws)) ≠ none) ∧ (ccCredit ws = true → s.spadPlace c (ccBar ws) 16 ≠ none) ∧
      (∀ v, row = some v → s.spadPlace c v (ccNy ws * iw) ≠ none) ∧ (∀ v, col = some v → s.spadPlace c v (ccNx ws * iw) ≠ none)
    (¬ ok → exec i s = .next (s.takeTrap c.w { code := 0x2A, deferred := false, cmd := ccWords ws })) ∧
    (ok → backed → ∃ t o, exec i s = .next t ∧ t.copies = s.copies ++ [o] ∧ o.id = s.nextId + 1 ∧ o.w = c.w ∧ o.cluster = clusterOfCore c.core ∧
      o.words = ws ∧ o.lists = lists c ∧ o.engine = none ∧ o.next = 0 ∧ o.done = false ∧ o.fault = none ∧ o.pc = c.x.pc ∧ Claims.Pooled s c t .copy)

/-- R285 to R293: CPY and CPYX put their command into the pool. A free engine takes the oldest command of its cluster. An engine reads an
element of a raw copy from a scratchpad byte for byte, in any order of elements, and writes what a destination row, or a run of rows without
a gap, has in one block once its elements are read; the order and the unit of writing are the model's choice (log 60), and that fill bits above the
element's width and any barrier address without the credit bit fail the checks is its reading (log 59). A command whose elements are all written ends, or sends the credit of its bytes first
and ends once that is made; a faulted one ends with its trap. -/
def Obligations.CopyCommands : Prop :=
  (∀ sw grp, Claims.CopyIssued (.cpy sw grp) sw {} grp (fun _ => none)) ∧
  (∀ sw grp d row col wide, Claims.CopyIssued (.cpyx sw grp d row col wide) sw (Deps.uni d.toNat 2) grp (fun c =>
    some { row := if row then some (c.x.readS d.toNat).toNat else none, col := if col then some (c.x.readS (d.toNat + 1)).toNat else none, wide := wide })) ∧
  (∀ (s : State) (o : CopyOp) cluster engine, s.copy? o.id = some o → o.cluster = cluster → o.engine = none → engine < 8 →
    (∀ p ∈ s.copies, p.engine ≠ some (8 * cluster + engine)) → (∀ p ∈ s.copies, p.cluster = cluster → p.engine = none → p ≠ o → o.id < p.id) →
    ∃ t, exec (.copyTake cluster engine) s = .next t ∧ t.copy? o.id = some { o with engine := some (8 * cluster + engine) } ∧ t.hbm = s.hbm ∧ t.wgs = s.wgs) ∧
  (∀ (s : State) (o : CopyOp) c e i j n a g off own (h : Wg), s.copy? o.id = some o → s.copyRuns o = true → o.wants e = true →
    i = e % ccNx o.words → j = e / ccNx o.words → s.stall = false → o.lists = none → ccFs o.words = 0 → ccSrcSp o.words = true →
    n = elemBytes (ccWs o.words) → (wordOf o.words 3 % 2 ^ 32 + i < wordOf o.words 2 % 2 ^ 32) → (wordOf o.words 3 / 2 ^ 32 % 2 ^ 32 + j < wordOf o.words 2 / 2 ^ 32 % 2 ^ 32) →
    a = ccSrc o.words + (wordOf o.words 3 / 2 ^ 32 % 2 ^ 32 + j) * ccSp o.words + (wordOf o.words 3 % 2 ^ 32 + i) * n →
    s.ctxFor o.w = some c → s.spadPlace c a n = some (g, off, own) → s.wg g = some h → h.spadErr = [] →
    let t := s.copyRead o.id e
    t.copy? o.id = some { o with got := tabSet o.got e (memRead h.spad off n) } ∧ t.hbm = s.hbm ∧ t.wgs = s.wgs) ∧
  (∀ (s : State) (o : CopyOp) c u a n g off own (h : Wg), s.copy? o.id = some o → s.copyRuns o = true → u < ccUnits o.words → s.stall = false →
    let es := ccUnitElems o.words u
    es ≠ [] → o.wrote.testBit u = false → (∀ e ∈ es, (tabGet o.got e).isSome = true) → ccDstSp o.words = true → ccDstTyped o.words = false →
    ccUnitAt o.words u = (a, n) → s.ctxFor o.w = some c → s.spadPlace c a n = some (g, off, own) → s.wg g = some h → Memory.wf h.spad = true →
    let t := s.copyStep o.id u
    ∃ h', t.wg g = some h' ∧ memRead h'.spad off n = (es.zipIdx.map (fun e => tabGetD o.got e.1 0 * 2 ^ (e.2 * ccWd o.words))).sum % 256 ^ n ∧
      (∀ x, x < off ∨ off + n ≤ x → memGet h'.spad x = memGet h.spad x) ∧ t.hbm = s.hbm ∧
      t.copy? o.id = some { o with next := o.next + es.length, wrote := o.wrote ||| 2 ^ u, got := es.foldl tabErase o.got }) ∧
  (∀ (s : State) (o : CopyOp) x cluster engine, s.copyOn cluster engine = some o → s.warp o.w = some x →
    let ended := fun (i : Instr) => ∃ t y, exec i s = .next t ∧ t.copy? o.id = none ∧ t.warp o.w = some y ∧ Claims.Ended y .copy o.id ∧ SameRegs x y [] [] [] ∧ t.hbm = s.hbm
    (o.fault = none → ccElems o.words ≤ o.next → o.done = false → ccCredit o.words = false → ended (.copyComplete cluster engine)) ∧
    (o.fault = none → ccElems o.words ≤ o.next → o.done = true → (∀ u ∈ s.upds, u.for_ ≠ .copy o.id) → ended (.copyComplete cluster engine)) ∧
    (∀ c g off own, o.fault = none → ccElems o.words ≤ o.next → o.done = false → ccCredit o.words = true → s.ctxFor o.w = some c →
      s.spadPlace c (ccBar o.words) 16 = some (g, off, own) → ∃ t u, exec (.copyComplete cluster engine) s = .next t ∧ u ∈ t.upds ∧
        u.kind = .credit (ccNx o.words * ccNy o.words * ccWd o.words / 8) ∧ u.bar = .spad g off ∧ u.for_ = .copy o.id ∧ t.copyOn cluster engine = some { o with done := true } ∧
        t.hbm = s.hbm) ∧
    (∀ f, o.fault = some f → ended (.copyAbort cluster engine) ∧ ∃ t, exec (.copyAbort cluster engine) s = .next t ∧
      ∃ r ∈ t.reports, r.w = o.w ∧ r.t = { f with deferred := true }))

/-- R180 to R182: CONVN reads its task of sixteen words and puts it into the pool, or raises MATRIX_FORMAT, for a misaligned
record address too (log 63: R182 names no trap for it), and takes a record at a window address as well (the model's choice, log 109); the cluster's engine takes the oldest task; a task whose outputs are all written ends, or credits its bytes first. -/
def Obligations.ConvolutionTasks : Prop :=
  (∀ sw (a : BitVec 6) s c g off own h, Ready s c (sysMode sw) (Deps.uni a.toNat 1) → c.x.full .conv = false → s.poolCount (clusterOfCore c.core) < 64 →
    s.engineWait c.w none = [] → s.spadPlace c (c.x.readS a.toNat).toNat 64 = some (g, off, own) → s.wg g = some h → h.spadErr = [] →
    let words : List Word := (List.range 16).map (fun i => BitVec.ofNat 32 (memRead h.spad (off + 4 * i) 4))
    ((c.x.readS a.toNat).toNat % 64 ≠ 0 ∨ cvOk words = false → exec (.convn sw a) s = .next (s.takeTrap c.w { code := 0x20, deferred := false })) ∧
    ((c.x.readS a.toNat).toNat % 64 = 0 → cvOk words = true → ∃ t o, exec (.convn sw a) s = .next t ∧ t.convs = s.convs ++ [o] ∧ o.id = s.nextId + 1 ∧ o.w = c.w ∧
      o.words = words ∧ o.cluster = clusterOfCore c.core ∧ o.engine = none ∧ o.next = 0 ∧ o.done = false ∧ o.fault = none ∧ o.pc = c.x.pc ∧
      Claims.Pooled s c t .conv)) ∧
  (∀ (s : State) (o : ConvOp) cluster, s.conv? o.id = some o → o.cluster = cluster → o.engine = none → (∀ p ∈ s.convs, p.engine ≠ some cluster) →
    (∀ p ∈ s.convs, p.cluster = cluster → p.engine = none → p ≠ o → o.id < p.id) →
    ∃ t, exec (.convnTake cluster) s = .next t ∧ t.conv? o.id = some { o with engine := some cluster } ∧ t.hbm = s.hbm ∧ t.wgs = s.wgs) ∧
  (∀ (s : State) (o : ConvOp) x cluster, s.convOn cluster = some o → s.warp o.w = some x → o.fault = none → cvTotal o.words ≤ o.next →
    ((o.done = false ∧ cvCredit o.words = false) ∨ (o.done = true ∧ ∀ u ∈ s.upds, u.for_ ≠ .conv o.id) → ∃ t y, exec (.convnComplete cluster) s = .next t ∧
      t.conv? o.id = none ∧ t.warp o.w = some y ∧ Claims.Ended y .conv o.id ∧ SameRegs x y [] [] [] ∧ t.hbm = s.hbm) ∧
    (∀ c g off own, o.done = false → cvCredit o.words = true → s.ctxFor o.w = some c → s.spadPlace c (cvBar o.words) 16 = some (g, off, own) →
      ∃ t u, exec (.convnComplete cluster) s = .next t ∧ u ∈ t.upds ∧ u.kind = .credit (cvTotal o.words * if cvOutBf o.words then 2 else 4) ∧ u.bar = .spad g off ∧
        u.for_ = .conv o.id ∧ t.convOn cluster = some { o with done := true } ∧ t.hbm = s.hbm))

/-! ### The matrix engine (chapter 7) -/

/-- R153 to R156: a matrix instruction whose queue has room and whose bound tiles are ready puts one entry, with the register values it reads,
at the tail of its core's queue, but before the entries that higher quadrants have issued in the same cycle, counted in MAT; a check that
fails raises its trap. -/
abbrev Claims.Queued (i : Instr) (sw : Bool) (deps : Deps) (op : Ctx → MOp) (dst : Option Dst) : Prop :=
  ∀ s c, Ready s c (sysMode sw) deps → c.x.full .mat = false → (s.coreAt c.core).mq.length < 16 → (∀ e ∈ c.boundTiles (op c), e.st = .ready) →
    (c.inRange (op c) = false → exec i s = .next (s.takeTrap c.w { code := 0x07, deferred := false })) ∧
    (∀ t, c.inRange (op c) = true → (s.entryErr c (op c)).trap = some t → exec i s = .next (s.takeTrap c.w t)) ∧
    (c.inRange (op c) = true → (s.entryErr c (op c)).trap = none → (s.coreAt c.core).fenced = 15 → exec i s = .next (s.takeTrap c.w { code := 0x21, deferred := false })) ∧
    (c.inRange (op c) = true → (s.entryErr c (op c)).trap = none → (s.coreAt c.core).fenced ≠ 15 →
      let higher := fun (x : MEntry) => x.running = false ∧ ∃ q, x.came = some (c.now, q) ∧ quadOf c.g c.w.warp < q
      ∃ t e y before after, exec i s = .next t ∧ (s.coreAt c.core).mq = before ++ after ∧ (t.coreAt c.core).mq = before ++ e :: after ∧
      (∀ x ∈ before, ¬ higher x) ∧ (∀ x, after.head? = some x → higher x) ∧ e.came = some (c.now, quadOf c.g c.w.warp) ∧ e.id = s.nextId + 1 ∧ e.w = c.w ∧ e.op = op c ∧ e.pc = c.x.pc ∧ e.running = false ∧ e.next = 0 ∧ e.test = none ∧
      t.warp c.w = some y ∧ (∀ j, y.cnt j = c.x.cnt j + if j = .mat then 1 else 0) ∧ (∀ r ∈ Claims.dsts 1 dst, y.pending c.now r = true) ∧
      SameRegs c.x y deps.lasts [] [] ∧ SamePreds c.x y [] ∧ y.mask = c.x.mask ∧ y.frame = c.x.frame ∧ y.pc = c.x.pc + 1 ∧ t.hbm = s.hbm ∧ t.host = s.host ∧
      (∀ g, (t.wg g).map (·.spad) = (s.wg g).map (·.spad)) ∧ ∀ g, (t.wg g).map (·.acc) = (s.wg g).map (·.acc))

/-- R162 to R176, R179: the entry that each matrix instruction queues. -/
def Obligations.MatrixIssue : Prop :=
  let uni := fun (c : Ctx) (r : BitVec 6) => (c.x.readS r.toNat).toNat
  (∀ sw (bind : Option (BitVec 6)) m a, Claims.Queued (.mapdef sw bind m a) sw (Deps.uni a.toNat 4)
    (fun c => .mapdef m.toNat [c.x.readS a.toNat, c.x.readS (a.toNat + 1), c.x.readS (a.toNat + 2), c.x.readS (a.toNat + 3)] (bind.map (·.toNat))) none) ∧
  (∀ sw mode (wb : Bool) t ma mb d a, Claims.Queued (.tmma sw mode wb t ma mb d a) sw
    ((if mode = .scale then Deps.uni d.toNat 1 else {}).join (if wb then Deps.uni a.toNat 1 else {}))
    (fun c => .tmma mode (if wb then .inr (uni c a) else .inl mb.toNat) false t.toNat ma.toNat (if mode = .scale then c.x.readS d.toNat else 0)) none) ∧
  (∀ sw mode t ma d a, Claims.Queued (.tmmas sw mode t ma d a) sw ((if mode = .scale then Deps.uni d.toNat 1 else {}).join (Deps.uni a.toNat 1))
    (fun c => .tmma mode (.inr (uni c a)) true t.toNat ma.toNat (if mode = .scale then c.x.readS d.toNat else 0)) none) ∧
  (∀ sw sp (fmt : Byte) m d a (n : BitVec 13), Claims.Queued (.wbld sw sp fmt m d a n) sw ((Deps.uni d.toNat 1).join (if sp = .dense then {} else Deps.uni a.toNat 1))
    (fun c => .wbld sp fmt.toNat m.toNat (uni c d) (if sp = .dense then 0 else uni c a) n.toNat) none) ∧
  (∀ sw (all : Bool) d, Claims.Queued (.wbinv sw all d) sw (if all then {} else Deps.uni d.toNat 1) (fun c => .wbinv (if all then none else some (uni c d))) none) ∧
  (∀ sw t, Claims.Queued (.accz sw t) sw {} (fun _ => .accz t.toNat) none) ∧
  (∀ sw rm sat t m, Claims.Queued (.accld sw rm sat t m) sw {} (fun _ => .accld rm sat t.toNat m.toNat) none) ∧
  (∀ sw rm sat (scl : Bool) t m d, Claims.Queued (.accst sw rm sat scl t m d) sw (if scl then Deps.uni d.toNat 1 else {})
    (fun c => .accst rm sat (if scl then some (uni c d % 65536) else none) t.toNat m.toNat) none) ∧
  (∀ sw rm t a k, Claims.Queued (.accsc sw rm t a k) sw (Deps.src 1 (.v a k)) (fun c => .accsc rm t.toNat c.x.lanes (c.x.readV a.toNat)) none) ∧
  (∀ sw rm row t a k, Claims.Queued (.accadd sw rm row t a k) sw (Deps.src 1 (.v a k)) (fun c => .accadd rm row t.toNat c.x.lanes (c.x.readV a.toNat)) none) ∧
  (∀ sw col t d a (n : Word), Claims.Queued (.accrd sw col t d a n) sw ((Deps.uni a.toNat 1).join (Deps.dst 1 (.v d)))
    (fun c => .accrd col t.toNat (uni c a + n.toNat) d.toNat c.x.lanes) (some (.v d))) ∧
  (∀ sw col t d a k (n : Word), Claims.Queued (.accwr sw col t d a k n) sw ((Deps.uni d.toNat 1).join (Deps.src 1 (.v a k)))
    (fun c => .accwr col t.toNat (uni c d + n.toNat) c.x.lanes (c.x.readV a.toNat)) none) ∧
  (∀ sw d, Claims.Queued (.ttest sw d) sw {} (fun _ => .ttest d.toNat) (some (.s d)))

/-- The code of element q of column j of chunk c of a panel (R168 to R170): its place in a dense record; in a sparse one the value that the
bits below its own in its group's position mask count, and 0 where its bit is clear or the values are used up. -/
abbrev Claims.panelCode (p : Panel) (c j q : Nat) : Nat :=
  let w := widthOf p.fmt
  let num := fun (o n : Nat) => ofBytes ((p.bytes.drop ((64 * c + j) * (4 + recordQ p.sp w) + o)).take n)
  match p.sp with
  | .dense => num 4 (recordQ p.sp w) / 2 ^ (w * q) % 2 ^ w
  | _ =>
    let n := sparseN p.sp
    let start := 4 + q / 16 * (2 + n * w / 8)
    let mask := num start 2
    let k := ((List.range (q % 16)).filter (fun i => mask.testBit i)).length
    if mask.testBit (q % 16) = true ∧ k < n then num (start + 2) (n * w / 8) / 2 ^ (w * k) % 2 ^ w else 0

/-- The header of a panel's record (R168). -/
abbrev Claims.panelHdr (p : Panel) (c j : Nat) : Word := BitVec.ofNat 32 (ofBytes ((p.bytes.drop ((64 * c + j) * (4 + recordQ p.sp (widthOf p.fmt)))).take 4))

/-- The code of an element of a map, and the header it is decoded through (R160). -/
abbrev Claims.mapCode (u : MapUse) (h : Wg) (r x : Nat) : Nat :=
  let a := mapAddr u.words r x
  let v := memRead h.spad (u.off + a.1) (elemBytes (mapW u.words))
  if mapW u.words = 4 then v / 16 ^ a.2 % 16 else v
abbrev Claims.mapHdr (u : MapUse) (h : Wg) (r x : Nat) : Word :=
  if mapTyped u.words then tabGetD h.hdrs ((u.off + (mapAddr u.words r x).1) / 64) 0 else 0

/-- R164: one step of a running TMMA or TMMAS whose operand B gives the column vectors `col`: every element of the tile takes the chunk sum of
its products, the first step from the mode's start. -/
abbrev Claims.TmmaStep (s : State) (core : Nat) (e : MEntry) (g : Wg) (mode : MmaMode) (tt : Nat) (alpha : Word) (a : MapUse) (ha : Wg) (col : Nat → List Xreal) : Prop :=
  ∃ t g', exec (.tmmaStep core) s = .next t ∧ t.wg e.w.wg = some g' ∧ ((t.coreAt core).mq.head?).map (·.next) = some (e.next + 1) ∧
    (t.coreAt core).steps = (s.coreAt core).steps + 1 ∧ t.hbm = s.hbm ∧ g'.spad = g.spad ∧ (∀ k, k ≠ tt → g'.acc.getD k [] = g.acc.getD k []) ∧
    ∀ i j, i < 64 → j < 64 → g'.accAt tt i j = chunkSum
      (if e.next ≠ 0 then decodeFp32 (g.accAt tt i j) else match mode with
        | .acc => decodeFp32 (g.accAt tt i j) | .zero => xzero false | .scale => (decodeFp32 (g.accAt tt i j)).mul (decodeFp32 alpha))
      (List.zipWith Xreal.mul (a.vector ha e.next i).1 (col j))

/-- What a WBLD step appends to its panel (R168, R171): the 64 records of a chunk, of a map's rows with their headers, or as they stand in the
partition; with the format and the number of chunks. -/
abbrev Claims.wbldRecords (s : State) (c : Ctx) (next : Nat) (sp : Sparse) (fmt m src n : Nat) (f chunks : Nat) (recs : List Byte) : Prop :=
  match sp with
  | .dense => ∃ u h, s.mapUse c m false = some u ∧ s.wg u.g = some h ∧ h.spadErr = [] ∧ f = mapFmt u.words ∧ chunks = mapChunks u.words ∧
      let kc := kcOf (mapW u.words)
      let nb := kc * mapW u.words / 8
      recs = (List.range 64).flatMap (fun j => bytesOf 4 (Claims.mapHdr u h j (next * kc)).toNat ++
        bytesOf nb (memRead h.spad (u.off + (mapAddr u.words j (next * kc)).1) nb))
  | _ => let len := 64 * (4 + recordQ sp (widthOf fmt))
      ∃ i o own h, s.spadPlace c src (n * len) = some (i, o, own) ∧ s.wg i = some h ∧ h.spadErr = [] ∧ f = fmt ∧ chunks = n ∧
        recs = bytesOf len (memRead h.spad (o + next * len) len)

/-- R154, R158, R163 to R179, where the queue is not stopping for a save (R166): the head of a queue begins to run, in a later cycle than it came,
or ends in the trap of its second check; a TMMA step adds one chunk's products to all 4,096 elements by the chunk sum, with B from a map or
from a dense or sparse panel in the weight buffer (Table 7 gives FP32 no sparse record); a WBLD step appends one chunk of records to its panel, the last of them where the swap
partition has room for its copy; an entry that runs as one step (ACCZ, ACCLD, ACCST, ACCSC, ACCADD, ACCRD, ACCWR, MAPDEF, WBINV, and TTEST
once its run is over) has its effect and leaves the queue; a touchstone run fences the failing subarrays and starts the step count anew, with
the total at 0 also where only subarrays fail that are fenced already (the model's choice, log 110). -/
def Obligations.MatrixEvents : Prop := ∀ (s : State) (core : Nat) (e : MEntry) (g : Wg) (c : Ctx) (rest : List MEntry), (s.coreAt core).mq = e :: rest → s.wg e.w.wg = some g →
  s.ctxFor e.w = some c → s.mqStops core g = false → s.stall = false →
  (e.running = false → s.engineReady e.before = true → (∀ x, e.came = some x → x.1 ≠ s.cycle (devOfCore core)) → (e.op.isTmma = false ∨ (s.coreAt core).fenced ≠ 15) →
    (e.resumed = true ∨ (s.entryErr c e.op).trap = none) →
    ∃ t, exec (.matrixEntryStart core) s = .next t ∧ (t.coreAt core).mq.head? = some { e with running := true } ∧ t.wgs = s.wgs ∧ t.hbm = s.hbm) ∧
  (∀ mode src sp tt ma alpha a ha, e.op = .tmma mode src sp tt ma alpha → e.running = true → s.touchDue core = false → e.next < s.entrySteps c e.op →
    s.mapUse c ma false = some a → s.wg a.g = some ha → ha.spadErr = [] → tt < g.acc.length →
    (∀ mb b hb, src = .inl mb → s.mapUse c mb false = some b → s.wg b.g = some hb → hb.spadErr = [] →
      Claims.TmmaStep s core e g mode tt alpha a ha (fun j => (b.vector hb e.next j).1)) ∧
    (∀ off p f, src = .inr off → tabGet g.panels off = some p → p.here = true → p.lost = [] → Fmt.ofCode p.fmt = some f →
      (p.sp = .dense ∨ f ≠ .fp32) →
      Claims.TmmaStep s core e g mode tt alpha a ha (fun j => (List.range (kcOf (widthOf p.fmt))).map (fun q =>
        (blockValue (Claims.panelHdr p e.next j) f (Claims.panelCode p e.next j q)).1)))) ∧
  (∀ sp fmt m off src n f chunks recs, e.op = .wbld sp fmt m off src n → e.running = true → e.next < chunks →
    Claims.wbldRecords s c e.next sp fmt m src n f chunks recs →
    let bytes := (if e.next = 0 then [] else match tabGet g.panels off with | some x => x.bytes | none => []) ++ recs
    (e.next + 1 = chunks → s.swapFits (clusterOfCore core) g.ctx (64 + bytes.length) = true) →
    ∃ t g' p, exec (.wbldStep core) s = .next t ∧ t.wg e.w.wg = some g' ∧ tabGet g'.panels off = some p ∧
      p.fmt = f ∧ p.sp = sp ∧ p.c = chunks ∧ p.bytes = bytes ∧ p.here = true ∧ p.area = false ∧ p.bad = false ∧
      ((t.coreAt core).mq.head?).map (·.next) = some (e.next + 1) ∧ t.hbm = s.hbm ∧ g'.acc = g.acc ∧ g'.spad = g.spad) ∧
  (e.running = true → e.scaleErr = false → e.badWord = false →
    let done := fun (t : State) => exec (.matrixEntryComplete core) s = .next t ∧ (t.coreAt core).mq = ((s.coreAt core).mq).filter (fun x => x.id != e.id) ∧ t.hbm = s.hbm ∧
      ∀ x, s.warp e.w = some x → ∃ y, t.warp e.w = some y ∧ Claims.Ended y .mat e.id
    let tile := fun (tt : Nat) (f : Nat → Nat → Word) => tt < g.acc.length → ∃ t g', done t ∧ t.wg e.w.wg = some g' ∧ (∀ i j, i < 64 → j < 64 → g'.accAt tt i j = f i j) ∧
      (∀ k, k ≠ tt → g'.acc.getD k [] = g.acc.getD k []) ∧ g'.spad = g.spad
    (∀ tt, e.op = .accz tt → tile tt (fun _ _ => 0)) ∧
    (∀ rm tt lanes v, e.op = .accsc rm tt lanes v → tile tt (fun i j =>
      if lanes.getLsbD i then roundFp32 ((decodeFp32 (g.accAt tt i j)).mul (decodeFp32 (v.getD i 0))) rm else g.accAt tt i j)) ∧
    (∀ tt n lanes v, e.op = .accwr false tt n lanes v → tile tt (fun i j => if i = n ∧ lanes.getLsbD j = true then v.getD j 0 else g.accAt tt i j)) ∧
    (∀ tt n lanes v, e.op = .accwr true tt n lanes v → tile tt (fun i j => if j = n ∧ lanes.getLsbD i = true then v.getD i 0 else g.accAt tt i j)) ∧
    (∀ rm row tt lanes v, e.op = .accadd rm row tt lanes v → tile tt (fun i j =>
      let l := if row then i else j
      if lanes.getLsbD l then roundFp32 (sumX rm [decodeFp32 (g.accAt tt i j), decodeFp32 (v.getD l 0)]) rm else g.accAt tt i j)) ∧
    (∀ rm sat tt m u h f, e.op = .accld rm sat tt m → s.mapUse c m true = some u → s.wg u.g = some h → h.spadErr = [] → Fmt.ofCode (mapFmt u.words) = some f →
      tile tt (fun i j =>
        let r := if mapMn u.words then j else i
        let x := if mapMn u.words then i else j
        BitVec.ofNat 32 (if f = .fp32 ∧ hdrFmt (Claims.mapHdr u h r x) = 0 then Claims.mapCode u h r x
          else roundTo .fp32 (blockValue (Claims.mapHdr u h r x) f (Claims.mapCode u h r x)).1 rm sat))) ∧
    (∀ rm sat scale tt m u h f, e.op = .accst rm sat scale tt m → (s.entryErr c e.op).trap = none → s.mapUse c m true = some u → s.wg u.g = some h →
      Fmt.ofCode (mapFmt u.words) = some f → Memory.wf h.spad = true →
      let n := elemBytes f.width
      let at_ := fun (i j : Nat) => u.off + (mapAddr u.words (if mapMn u.words then j else i) (if mapMn u.words then i else j)).1
      let val := fun (i j : Nat) => let v := decodeFp32 (g.accAt tt i j); match scale.bind sc16Value with | some sc => v.div sc | none => v
      ∃ t h', done t ∧ t.wg u.g = some h' ∧ h'.acc = h.acc ∧
        (∀ i j, i < 64 → j < 64 → memRead h'.spad (at_ i j) n = roundTo f (val i j) rm sat % 256 ^ n ∧
          tabGetD h'.hdrs (at_ i j / 64) 0 = if mapTyped u.words then mkHdr (scale.getD 0x7F00) 0 f.code else 0) ∧
        ∀ a, (∀ i j, i < 64 → j < 64 → a < at_ i j ∨ at_ i j + n ≤ a) → memGet h'.spad a = memGet h.spad a) ∧
    (∀ col tt n d lanes x p, e.op = .accrd col tt n d lanes → s.warp e.w = some x → x.mapped d = true → x.pend = [p] → p.reg = .v d → p.op = e.id → p.due = none →
      p.ovw = false → ∃ t g' y, done t ∧ t.wg e.w.wg = some g' ∧ g'.acc = g.acc ∧ g'.spad = g.spad ∧ t.warp e.w = some y ∧ y.pend = [] ∧ SameRegs x y [] [d] [] ∧
        ∀ l, l < 64 → (y.readV d).getD l 0 = if (lanes &&& p.lanes).getLsbD l then (if col then g.accAt tt l n else g.accAt tt n l) else (x.readV d).getD l 0) ∧
    (∀ d v x p, e.op = .ttest d → e.test = some v → s.warp e.w = some x → x.pend = [p] → p.reg = .s d → p.op = e.id → p.due = none → p.ovw = false → p.lanes ≠ 0 →
      ∃ t y, done t ∧ t.warp e.w = some y ∧ y.pend = [] ∧ SameRegs x y [] [] [d] ∧ y.readS d = BitVec.ofNat 32 v) ∧
    (∀ m ws b, e.op = .mapdef m ws b → ∃ t g', done t ∧ t.wg e.w.wg = some g' ∧ tabGet g'.maps m = some { words := ws, tile := b } ∧ g'.acc = g.acc ∧ g'.spad = g.spad) ∧
    (e.op = .wbinv none → ∃ t g', done t ∧ t.wg e.w.wg = some g' ∧ g'.panels = [] ∧ g'.acc = g.acc ∧ g'.spad = g.spad) ∧
    (∀ o, e.op = .wbinv (some o) → ∃ t g', done t ∧ t.wg e.w.wg = some g' ∧ tabGet g'.panels o = none ∧ g'.acc = g.acc ∧ g'.spad = g.spad)) ∧
  (∀ failing d, e.op = .ttest d → e.running = true → e.test = none → ∃ t, exec (.touchstoneRun core failing) s = .next t ∧
    (t.coreAt core).fenced = (s.coreAt core).fenced ||| failing ∧ (t.coreAt core).steps = 0 ∧
    (t.coreAt core).mq.head? = some { e with test := some (((s.coreAt core).fenced ||| failing).toNat * 16 + failing.toNat) } ∧ t.wgs = s.wgs ∧ t.hbm = s.hbm) ∧
  (∀ failing, e.op.isTmma = true → s.touchDue core = true → (s.coreAt core).fenced ||| failing ≠ 15 → ∃ t, exec (.touchstoneRun core failing) s = .next t ∧
    (t.coreAt core).fenced = (s.coreAt core).fenced ||| failing ∧ (t.coreAt core).steps = 0 ∧
    (t.coreAt core).total = (if failing &&& ~~~(s.coreAt core).fenced = 0 then 0 else (s.coreAt core).total) ∧ (t.coreAt core).mq = (s.coreAt core).mq ∧ t.wgs = s.wgs ∧ t.hbm = s.hbm)

/-! ### Management commands and host accesses (chapters 14, 16) -/

/-- The response block of the mailbox answers a command with a status and result 0, and vector 0 is signalled (R391). -/
abbrev Claims.Answered (t : State) (c : Cmd) (code status : Nat) : Prop :=
  (List.range 16).map (fun i => tabGetD (t.dev c.dev).mbox (0x40 + i) 0) = bytesOf 8 (code + c.tag.toNat * 2 ^ 16 + status * 2 ^ 32) ++ bytesOf 8 0 ∧
    (t.dev c.dev).msix.head? = some 0

/-- A device that takes a command of the host. -/
abbrev Claims.Takes (s : State) (c : Cmd) : Prop := (s.dev c.dev).up = true ∧ (s.dev c.dev).inval = none ∧ c.fw = false ∧ s.stall = false

/-- No home has a transaction in progress. -/
abbrev Claims.HomesAtRest (s : State) : Prop := s.txns = []

/-- No channel operation is under way and no overflow queue holds a record. -/
abbrev Claims.NoChannelWork (s : State) : Prop := s.chops = [] ∧ ∀ x ∈ s.dies, x.2.ovf = []

/-- R391: a command with a reserved bit set is refused with status 1 and changes nothing else. -/
abbrev Claims.RefusesReserved (i : Cmd → Instr) (code : Nat) (masks : List DWord) : Prop :=
  ∀ s c, Claims.Takes s c → cmdLegal c masks = false → exec (i c) s = .next (s.respond c.dev code c.tag.toNat 1 0) ∧
    Claims.Answered (s.respond c.dev code c.tag.toNat 1 0) c code 1

/-- R342, R343, R348, R349, R390, R391: the table commands. CTX_WRITE copies a record that keeps to its table; CTX_DESTROY ends the context's work
and clears Valid; TLB_INVAL leaves no entry of the context that overlaps the range, or none at all, answers at once when no core has dropped an entry, and not while an
access translated through one dropped is under way;
IMPORT_WRITE and EVQ_WRITE replace one entry. Each answers with status 0; what breaks its table is refused. -/
def Obligations.TableCommands : Prop :=
  Claims.RefusesReserved .ctxWrite 1 [0x3F, allBits] ∧ Claims.RefusesReserved .ctxDestroy 2 [0x3F] ∧
  Claims.RefusesReserved .tlbInval 3 [0x1FF, allBits, allBits] ∧ Claims.RefusesReserved .importWrite 4 [0xFF, 0x7FFFFFF, allBits, allBits] ∧
  Claims.RefusesReserved .evqWrite 6 [0x7FF0F7F, allBits, allBits] ∧
  ∀ (s : State) (c : Cmd), Claims.Takes s c →
  let d := c.dev
  let ctx := c.w1.toNat % 64
  (cmdLegal c [0x3F, allBits] = true → let img := (List.range 32).map (fun i => s.hostLoad d (c.w2.toNat + 8 * i) 8)
    (recordOk img = false → exec (.ctxWrite c) s = .next (s.respond d 1 c.tag.toNat 1 0)) ∧
    (recordOk img = true → ∃ t, exec (.ctxWrite c) s = .next t ∧ Claims.Answered t c 1 0 ∧ (∀ i, i < 32 → t.ctxWord d ctx i = img.getD i 0) ∧
      (∀ k i, k ≠ ctx → t.ctxWord d k i = s.ctxWord d k i) ∧ t.hbm = s.hbm ∧ t.host = s.host ∧ t.wgs = s.wgs)) ∧
  (cmdLegal c [0x3F] = true → s.ctxValid d ctx = true → Claims.HomesAtRest s → ∃ t, exec (.ctxDestroy c) s = .next t ∧ Claims.Answered t c 2 0 ∧ t.ctxValid d ctx = false ∧
    (∀ g ∈ t.wgs, g.id.dev = d → g.ctx ≠ ctx) ∧ ∀ g ∈ s.wgs, ¬(g.id.dev = d ∧ g.ctx = ctx) → g ∈ t.wgs) ∧
  (cmdLegal c [0x1FF, allBits, allBits] = true → c.hi = 0 → bits c.w1.toNat 6 2 ≠ 3 → ∃ t, exec (.tlbInval c) s = .next t ∧ t.hbm = s.hbm ∧ t.wgs = s.wgs ∧
    (∀ k e, (k / 144 = d ∧ e ∈ (t.cluster k).tlb) ∨ (devOfCore k = d ∧ e ∈ (t.coreAt k).tlb) → e.ctx = ctx →
      bits c.w1.toNat 8 1 ≠ 1 ∧ c.w3.toNat ≤ 256 ∧ e.overlaps c.w2.toNat (c.w2.toNat + c.w3.toNat * pageBytes (bits c.w1.toNat 6 2)) = false) ∧
    ((∀ k e, devOfCore k = d → e ∈ (s.coreAt k).tlb → e ∈ (t.coreAt k).tlb) ∨ ((∀ a ∈ s.accs, a.held = true) ∧ s.upds = [] ∧ s.chops = []) →
      Claims.Answered t c 3 0 ∧ (t.dev d).inval = none) ∧
    (∀ a p e k, a ∈ s.accs → a.held = false → p ∈ a.parts → p.loc = .home k → a.w.wg.dev = d → s.ctxOf a.w = ctx → e ∈ (s.coreAt (s.coreOf a.w)).tlb →
      e ∉ (t.coreAt (s.coreOf a.w)).tlb → e.hits ctx (a.addrs.getD p.lane 0) = true → (t.dev d).inval ≠ none)) ∧
  (cmdLegal c [0xFF, 0x7FFFFFF, allBits, allBits] = true → ∃ t, exec (.importWrite c) s = .next t ∧ Claims.Answered t c 4 0 ∧
    tabGet (t.dev d).imports (c.w1.toNat % 256) = (if c.w2.toNat % 2 = 1 then
      some ⟨bits c.w2.toNat 1 1 = 1, bits c.w2.toNat 2 12, bits c.w2.toNat 14 6, bits c.w2.toNat 20 6, bits c.w2.toNat 26 1 = 1, c.w3.toNat, c.w4.toNat⟩ else none) ∧
    (∀ k, k ≠ c.w1.toNat % 256 → tabGet (t.dev d).imports k = tabGet (s.dev d).imports k) ∧ t.hbm = s.hbm ∧ t.host = s.host) ∧
  (cmdLegal c [0x7FF0F7F, allBits, allBits] = true → let q := c.w1.toNat % 128
    let k := bits c.w1.toNat 8 4
    (64 < q ∨ k < 4 ∨ c.w2.toNat % 64 ≠ 0 ∨ c.w3.toNat % 8 ≠ 0 → exec (.evqWrite c) s = .next (s.respond d 6 c.tag.toNat 1 0)) ∧
    (q ≤ 64 → 4 ≤ k → c.w2.toNat % 64 = 0 → c.w3.toNat % 8 = 0 → ∃ t, exec (.evqWrite c) s = .next t ∧ Claims.Answered t c 6 0 ∧
      tabGet (t.dev d).evqs q = some { ring := c.w2.toNat, k := k, vec := bits c.w1.toNat 16 11, mirror := c.w3.toNat } ∧
      (∀ j, j ≠ q → tabGet (t.dev d).evqs j = tabGet (s.dev d).evqs j) ∧ t.hbm = s.hbm ∧ t.host = s.host))

/-- R357, R358, R363, R367, R374, R392, R393: the commands that act on the whole device. PREEMPT makes running groups of the context on the named clusters
Draining, or Stopping, or ends them, and keeps the pre-emption; DBG_RESUME makes the double-faulted warp enter its handler again; FW_STAGE stages
an image that the boot ROM accepts and refuses any other (log 10); RESET resets the device with cause 7; ATTEST writes 256 bytes of signature. The model's
own: PREEMPT's refusal of mode 3 and of an invalid context (log 77), HBM kept by a reset (log 68), and RESET's response, written after it (log 71). -/
def Obligations.DeviceCommands : Prop :=
  Claims.RefusesReserved .preempt 5 [0x33F, allBits, allBits, 0xFFFF, 0xFFFFFFFF] ∧ Claims.RefusesReserved .dbgResume 7 [0x3FFFFF] ∧
  Claims.RefusesReserved .fwStage 8 [0, allBits, allBits] ∧ Claims.RefusesReserved .reset 9 [1] ∧ Claims.RefusesReserved .attest 10 [0, allBits, allBits] ∧
  ∀ (s : State) (c : Cmd), Claims.Takes s c →
  let d := c.dev
  let ctx := c.w1.toNat % 64
  (cmdLegal c [0x33F, allBits, allBits, 0xFFFF, 0xFFFFFFFF] = true →
    let mode := bits c.w1.toNat 8 2
    let named := fun (k : Nat) => k / 144 = d ∧ (c.w2.toNat + c.w3.toNat * 2 ^ 64 + c.w4.toNat * 2 ^ 128).testBit (k % 144) = true
    (mode = 3 ∨ s.ctxValid d ctx = false → exec (.preempt c) s = .next (s.respond d 5 c.tag.toNat 1 0)) ∧
    (mode < 3 → s.ctxValid d ctx = true → (mode = 2 → Claims.NoChannelWork s) → ∃ t, exec (.preempt c) s = .next t ∧ Claims.Answered t c 5 0 ∧ t.hbm = s.hbm ∧
      (∀ i g, s.wg i = some g → g.id.dev = d → g.ctx = ctx → named (clusterOfCore g.core) → g.st = .running →
        (mode = 0 → t.wg i = some { g with st := .draining }) ∧
        (mode = 1 → (∀ h ∈ s.cgWgs { dev := d, launch := g.id.launch, cg := g.cg }, h.st = .running) → ∃ h, t.wg i = some h ∧ h.st = .stopping) ∧
        (mode < 2 → ∃ p ∈ (t.dev d).preempts, p.ctx = ctx ∧ p.mode = mode ∧ ∃ y ∈ p.groups, y.cg = { dev := d, launch := g.id.launch, cg := g.cg })) ∧
      (mode = 2 → ∀ g ∈ t.wgs, g.id.dev = d → g.ctx = ctx → ¬ named (clusterOfCore g.core)))) ∧
  (cmdLegal c [0x3FFFFF] = true →
    let core := 576 * d + 144 * bits c.w1.toNat 6 2 + bits c.w1.toNat 8 8
    let i := bits c.w1.toNat 16 6
    let faulted := fun (g : Wg) => g.id.dev = d ∧ g.ctx = ctx ∧ g.core = core ∧ g.halted = true ∧ g.owner = some i ∧ g.resident = true
    ((∀ g ∈ s.wgs, ¬ faulted g) → exec (.dbgResume c) s = .next (s.respond d 7 c.tag.toNat 1 0)) ∧
    (∀ g x, s.wg g.id = some g → faulted g → (∀ h ∈ s.wgs, faulted h → h = g) → s.warp ⟨g.id, i⟩ = some x →
      (s.usableHandler g i = none → exec (.dbgResume c) s = .next (s.respond d 7 c.tag.toNat 1 0)) ∧
      (∀ pc, s.usableHandler g i = some pc → ∃ t h, exec (.dbgResume c) s = .next t ∧ Claims.Answered t c 7 0 ∧ t.wg g.id = some h ∧ h.halted = false ∧
        t.warp ⟨g.id, i⟩ = some (x.reenter pc) ∧ (t.dev d).dbgOwner = some ctx ∧ t.hbm = s.hbm ∧ t.host = s.host))) ∧
  (cmdLegal c [0, allBits, allBits] = true → let img := bytesOf c.w3.toNat (s.hostLoad d c.w2.toNat c.w3.toNat)
    ∃ t, exec (.fwStage c) s = .next t ∧ t.hbm = s.hbm ∧ t.host = s.host ∧ t.wgs = s.wgs ∧
      if Config.imageValid img = true ∧ Config.fusedMinimum ≤ Config.imageVersion img
      then Claims.Answered t c 8 0 ∧ (t.dev d).fw = { (s.dev d).fw with staged := some (Config.imageDigest img, Config.imageVersion img), signed := true }
      else t = s.respond d 8 c.tag.toNat 1 0) ∧
  (cmdLegal c [1] = true → ∃ t, exec (.reset c) s = .next t ∧ Claims.Answered t c 9 0 ∧ (t.dev d).up = false ∧ (t.dev d).regs.fatal = 7 ∧
    (t.dev d).ctxs = [] ∧ (∀ g ∈ t.wgs, g.id.dev ≠ d) ∧ (∀ k, devOfCore k = d → t.coreAt k = {}) ∧ (c.w1.toNat % 2 = 1 → (t.dev d).regs.failed = 0) ∧
    t.hbm = s.hbm ∧ t.host = s.host) ∧
  (cmdLegal c [0, allBits, allBits] = true → Memory.wf s.host = true → ∃ t, exec (.attest c) s = .next t ∧ Claims.Answered t c 10 0 ∧
    memRead t.host (hostKey d c.w3.toNat) 256 = ofBytes ((List.range 256).map
      (Config.attestation d (bytesOf 64 (s.hostLoad d c.w2.toNat 64)) (s.dev d).fw.running (s.dev d).regs.minimal (s.dev d).regs.reason)) ∧
    (∀ a, a < hostKey d c.w3.toNat ∨ hostKey d c.w3.toNat + 256 ≤ a → memGet t.host a = memGet s.host a) ∧ t.hbm = s.hbm ∧ t.wgs = s.wgs)

/-- R17, R297 to R299, R390, R391, R395: host accesses. A host write of an aperture puts its bytes into HBM at their home and a read returns them; a
register write keeps to its limits; the 64th byte of a command block, also of one written in one access, lets it be taken; a push window takes bytes of slots that are not complete,
and its next complete record is pushed and consumed unless the channel is full; the free count and MSI-X signals reach the host. The model's own: bits above the
interval's field are ignored (log 73), a push that meets a fault is consumed (log 74), and what the host has read stands in `hread` (log 91). -/
def Obligations.HostAccesses : Prop := ∀ (s : State) (d : Nat), (s.dev d).up = true →
  (∀ v : DWord, let n := v.toNat % 2 ^ 17
    if 256 ≤ n ∧ n ≤ 65536 then ∃ t, exec (.registerWrite d 0x4070 8 v) s = .next t ∧ (t.dev d).regs = { (s.dev d).regs with interval := n } ∧ t.hbm = s.hbm ∧ t.wgs = s.wgs
    else exec (.registerWrite d 0x4070 8 v) s = .next s) ∧
  (∀ off n v, (off = 0x4050 ∨ off = 0x4058 ∨ off = 0x4060) → exec (.registerWrite d off n v) s = .next s) ∧
  (∀ off (v : DWord), off + 8 ≤ 0x40 → ∃ t, exec (.registerWrite d off 8 v) s = .next t ∧ (∀ i, i < 8 → tabGetD (t.dev d).mbox (off + i) 0 = v.extractLsb' (8 * i) 8) ∧
    (∀ i, i < off ∨ off + 8 ≤ i → tabGet (t.dev d).mbox i = tabGet (s.dev d).mbox i) ∧ ((t.dev d).mboxIn.length = 64 → Move.mailbox d ∈ t.agenda) ∧ t.hbm = s.hbm) ∧
  (∀ data : List Byte, data.length = 64 → (s.dev d).mboxIn = [] → s.stall = false → ∃ t, exec (.hostWrite d 0 0 data) s = .next t ∧
    (∀ i, i < 64 → tabGetD (t.dev d).mbox i 0 = data.getD i 0) ∧ Move.mailbox d ∈ t.agenda ∧ t.hbm = s.hbm ∧ t.wgs = s.wgs) ∧
  (∀ (bar off : Nat) (data : List Byte) k, (bar = 2 ∨ bar = 4) → data ≠ [] → k % 64 + data.length ≤ 64 → (∀ i, i < data.length → s.apertureKey d bar (off + i) = some (k + i)) →
    Quiet s (blockOf k) → s.hall (blockOf k) = .home → s.cut.contains (blockOf k) = false → s.stall = false → Memory.wf s.hbm = true →
    (∃ t, exec (.hostWrite d bar off data) s = .next t ∧ (∀ i, i < data.length → memGet t.hbm (k + i) = data.getD i 0) ∧
      (∀ a, a < k ∨ k + data.length ≤ a → memGet t.hbm a = memGet s.hbm a) ∧ t.hall (blockOf k) = .home ∧ t.wgs = s.wgs) ∧
    (∃ t, exec (.hostRead d bar off data.length) s = .next t ∧ (t.dev d).hread = (List.range data.length).map (fun i => memGet s.hbm (k + i)) ∧
      (t.dev d).hpoison = false ∧ t.hbm = s.hbm ∧ t.wgs = s.wgs)) ∧
  (∀ c off (data : List Byte), s.ctxValid d c = true → (∀ i, i < data.length → (s.window d c).complete ((off + i) / 64) = false) →
    ∃ t, exec (.pushWindowWrite d c off data) s = .next t ∧ t.hbm = s.hbm ∧ t.host = s.host ∧ (t.window d c).n = (s.window d c).n ∧
      ∀ j, tabGet (t.window d c).bytes j = if off ≤ j ∧ j < off + data.length ∧ j < 0x4000 then some (data.getD (j - off) 0) else tabGet (s.window d c).bytes j) ∧
  (∀ c u key got, let w := s.window d c
    let k := w.n % 256
    let rcd := (List.range 64).map (fun i => tabGetD w.bytes (64 * k + i) 0)
    let h := s.ctxWord d c (8 + bits (ofBytes rcd) 56 3)
    let o := coreChop d c (.push false) (BitVec.ofNat 64 h) rcd
    s.ctxValid d c = true → w.complete k = true → h ≠ 0 → chHandleOk (BitVec.ofNat 64 h) = true → s.chanPlace o (chVa (BitVec.ofNat 64 h)) 64 = .ok key →
    s.pushHome o key = (u, got) → u.stall = false →
    (got = .full → exec (.pushWindowConsume d c) s = .next s) ∧
    (got ≠ .full → ∃ t, exec (.pushWindowConsume d c) s = .next t ∧ t.hbm = u.hbm ∧ (t.window d c).n = w.n + 1 ∧
      (∀ i, i / 64 = k → tabGet (t.window d c).bytes i = none) ∧ ∀ i, i / 64 ≠ k → tabGet (t.window d c).bytes i = tabGet w.bytes i)) ∧
  (∀ q e, tabGet (s.dev d).evqs q = some e → e.signal = true → ∃ t, exec (.msixSignal d q) s = .next t ∧ (t.dev d).msix = e.vec :: (s.dev d).msix ∧
    tabGet (t.dev d).evqs q = some { e with signal := false } ∧ t.hbm = s.hbm ∧ t.host = s.host) ∧
  (∀ c, s.ctxValid d c = true → (s.window d c).mirror = true → Memory.wf s.host = true → ∃ t, exec (.freeCountUpdate d c) s = .next t ∧
    memRead t.host (hostKey d (s.ctxWord d c 6)) 4 = (s.window d c).free ∧
    (∀ a, a < hostKey d (s.ctxWord d c 6) ∨ hostKey d (s.ctxWord d c 6) + 4 ≤ a → memGet t.host a = memGet s.host a) ∧ (t.window d c).mirror = false ∧ t.hbm = s.hbm)

/-! ### The launch path (chapter 12) -/

/-- What an admission has made of the device once the record at the head of the chosen channel is taken: the descriptor written back, the next
sequence number, and the context's turn in the rotation. -/
abbrev Claims.Popped (t : State) (d q c : Nat) (o : ChOp) (key : Nat) (dsc : ChDesc) : State :=
  (t.writeDesc o key dsc).modDev d (fun x => { x with
    seqNext := (x.seqNext + 1) % 2 ^ 32
    rr := (List.range 8).map (fun i => if i = q then c else x.rr.getD i 63) })

/-- A launch record names no dependency. -/
abbrev Claims.NoDeps (lr : List DWord) : Prop := ∀ i ∈ [4, 5, 6, 7], bits (wordOf lr i) 63 1 = 0

/-- R300 to R304: ageing marks a launch whose dependencies have been met for 5 ms; the pop order is by priority; admission takes the record at the head
of the chosen channel, as it stands once the walk for its ring slot is done, gives it the next sequence number, and refuses it with one event or enters
it; with no free entry, or no record, it pops nothing; a waiting launch with no monitor armed reads its dependencies again, all of them (log 127), and
arms one monitor for each phase word while they are unmet and slots are free; it claims the slot that its ticket has been offered; its acquire first drains the
records that the phase words' lines have (R240, R257), and with none left the launch votes or is placed; a stable point lets voting launches be placed.
The model's own: what becomes of an unreadable descriptor or slot (log 128), the unit of the admission (logs 20, 101), and a launch's monitors and
tickets in its die's monitor table (log 93). -/
def Obligations.LaunchAdmission : Prop := ∀ (s : State) (d : Nat), (s.dev d).up = true →
  (∃ t, exec (.launchAgeing d) s = .next t ∧ t.hbm = s.hbm ∧ t.wgs = s.wgs ∧ (t.dev d).regs = (s.dev d).regs ∧
    ∀ e l, s.launch? d e = some l → ∃ b, t.launch? d e = some { l with aged := b } ∧ (b = true ↔ ∃ n, l.metAt = some n ∧ n + 5000000 ≤ s.clock d)) ∧
  (∀ q c p, s.nextChannel d = some (q, c, p) → s.servedAt d c q = some p ∧ c < 64 ∧ ∀ q' c', q < q' → q' ≤ 7 → c' < 64 → s.servedAt d c' q' = none) ∧
  ((s.dev d).freeEntry = none ∨ (s.ageing d).nextChannel d = none → s.stall = false → exec (.launchAdmit d) s = .next (s.ageing d)) ∧
  (∀ e q c p o key dsc t dsc' rcd tag, (s.dev d).freeEntry = some e → (s.ageing d).nextChannel d = some (q, c, p) → (s.ageing d).waitingOn d c p = some (o, key, dsc) →
    (s.ageing d).takeRecord o key dsc = (t, dsc', .got rcd tag) →
    let t1 := Claims.Popped t d q c o key dsc'
    let lr := wordsOf rcd
    (∀ u y, t1.checkLaunch d c lr = (u, .error y) → u.stall = false →
      exec (.launchAdmit d) s = .next (u.refuseLaunch d c (t.dev d).seqNext (ringVa dsc 64 (descHead dsc)) y)) ∧
    (∀ u kd, t1.checkLaunch d c lr = (u, .ok kd) → u.stall = false → Claims.NoDeps lr → bits (wordOf lr 3) 0 20 * bits (wordOf lr 3) 20 16 * bits (wordOf lr 3) 36 12 ≠ 0 →
      ∃ z l, exec (.launchAdmit d) s = .next z ∧ z.launch? d e = some l ∧ l.seq = (t.dev d).seqNext ∧ l.ctx = c ∧ l.prio = p ∧ l.lr = lr ∧ l.kd = kd ∧
        l.lrVa = ringVa dsc 64 (descHead dsc) ∧ l.metAt = some (u.clock d) ∧ l.nextCg = 0 ∧ l.ended = false ∧
        (l.st = .placing ↔ (z.dev d).regs.want = none) ∧ (l.st = .placing ∨ l.st = .voting) ∧ z.hbm = u.hbm)) ∧
  (∀ e q c p o key dsc k v t dsc' got, (s.dev d).freeEntry = some e → (s.ageing d).nextChannel d = some (q, c, p) → (s.ageing d).waitingOn d c p = some (o, key, dsc) → key % 64 = 0 →
    v = (s.ageing d).warmChan o (ringVa dsc 64 (descHead dsc)) → v.errs = [] → v.lost = [] → v.cut = [] → Claims.HomesAtRest v →
    v.hall (key / 64) = .home → v.hall (k / 64) = .home → k % 64 = 0 → k ≠ key → Memory.wf v.hbm = true →
    (∀ m ∈ (v.die (agentOfKey key)).ovf, m.desc ≠ key) → v.chanPlace o (ringVa dsc 64 (descHead dsc)) 64 = .ok k →
    (s.ageing d).takeRecord o key dsc = (t, dsc', got) →
    let t1 := Claims.Popped t d q c o key dsc'
    got = .got ((List.range 64).map (fun i => memGet v.hbm (k + i))) 0 ∧ (t.dev d).seqNext = (v.dev d).seqNext ∧
      descHead (Claims.desc t1 key) = (descHead dsc + 1) % 2 ^ 32 ∧ descTail (Claims.desc t1 key) = descTail dsc ∧
      (t1.dev d).seqNext = ((v.dev d).seqNext + 1) % 2 ^ 32 ∧ (q < 8 → (t1.dev d).rr.getD q 0 = c) ∧ t1.wgs = v.wgs ∧
      (∀ x, x / 64 ≠ key / 64 → memGet t1.hbm x = memGet v.hbm x) ∧ ∀ j, (t1.launch? d j).isSome = (v.launch? d j).isSome) ∧
  (∀ e l, s.launch? d e = some l → l.st = .waiting → l.ended = false → l.watch = [] → s.depTickets d e = [] →
    (∃ i ∈ [4, 5, 6, 7], bits (wordOf l.lr i) 63 1 = 1) →
    (∀ t y, s.readDeps d l = (t, .error y) → t.stall = false → exec (.dependencyCheck d e) s = .next ((t.dropLaunch d e).refuseLaunch d l.ctx l.seq l.lrVa y)) ∧
    (∀ t ws, s.readDeps d l = (t, .ok (false, ws)) → t.stall = false → t.launch? d e = some l → ws.Nodup → (∀ a, (t.die a).monQ = [] ∧ t.monSlots a + ws.length ≤ 4096) →
      ∃ z, exec (.dependencyCheck d e) s = .next z ∧ z.launch? d e = some { l with watch := ws } ∧ z.hbm = t.hbm) ∧
    (∀ t ws r rs, s.readDeps d l = (t, .ok (true, ws)) → t.stall = false → t.depRecords d ws = r :: rs →
      exec (.dependencyCheck d e) s = .next ((r :: rs).foldl (fun (u : State) x => u.askDrain x.1 x.2) t)) ∧
    (∀ t ws, s.readDeps d l = (t, .ok (true, ws)) → t.stall = false → t.depRecords d ws = [] → l.wgs ≠ 0 → ∃ z x, exec (.dependencyCheck d e) s = .next z ∧ z.launch? d e = some x ∧ x.metAt = some (t.clock d) ∧
      x.watch = [] ∧ (x.st = .placing ∨ x.st = .voting) ∧ x.vote = (if bits (wordOf l.lr 0) 62 1 = 1 then some (bits (wordOf l.lr 0) 59 3) else none) ∧ z.hbm = t.hbm)) ∧
  (∀ e l k w t, s.launch? d e = some l → l.st = .waiting → l.ended = false → (s.depTickets d e).any (fun x => x.offered.isSome) = true →
    s.readDeps d l = (t, .ok (false, [w])) → t.stall = false → t.launch? d e = some l → l.watch.contains w = false →
    (t.die (agentOfBlock (w / 8))).monQ.find? (fun x => x.launch = some (d, e) && x.op = w) = some k → k.offered.isSome = true →
    ∃ z, exec (.dependencyCheck d e) s = .next z ∧ z.launch? d e = some { l with watch := l.watch ++ [w] } ∧
      (z.die (agentOfBlock (w / 8))).monQ = (t.die (agentOfBlock (w / 8))).monQ.erase k ∧ z.hbm = t.hbm) ∧
  (∀ l p key v u, (∀ i ∈ [5, 6, 7], bits (wordOf l.lr i) 63 1 = 0) → bits (wordOf l.lr 4) 63 1 = 1 →
    v = s.walked (4 * d) d l.ctx (bits (wordOf l.lr 4) 0 45 * 16) → u = v.walked (4 * d) d l.ctx (bits (wordOf l.lr 4) 0 45 * 16) →
    v.translate d l.ctx (bits (wordOf l.lr 4) 0 45 * 16) = .ok p → u.translate d l.ctx (bits (wordOf l.lr 4) 0 45 * 16) = .ok p → u.admitted d l.ctx p 16 false = true →
    (∃ c x, p.place = .memory c d x) → p.key = some key → key % 16 = 0 → Claims.AtHome u (blockOf key) → Memory.wf u.hbm = true →
    (s.readDeps d l).2 = .ok (metBy (memRead u.hbm key 2) (bits (wordOf l.lr 4) 45 16), [key / 8])) ∧
  (∃ t, exec (.pointStable d) s = .next t ∧ (t.dev d).regs = { (s.dev d).regs with want := none } ∧ t.hbm = s.hbm ∧ t.wgs = s.wgs ∧
    ∀ e l, s.launch? d e = some l → t.launch? d e = some (if l.st = .voting then { l with st := .placing } else l))

/-- The cores that a placement names for the next cluster group are as many as it has workgroups, distinct and live (R27). -/
abbrev Claims.LiveCores (s : State) (d : Nat) (l : Launch) (p : Placing) : Prop :=
  let m := min l.g (l.wgs - l.g * l.nextCg)
  let cores := (p.cores.map (·.toNat)).take m
  cores.length = m ∧ cores.Nodup ∧ ∀ c ∈ cores, 4 * (36 * p.die + p.cluster) + c ∉ (s.dev d).fused

/-- R26 to R28, R300, R305 to R308, R46: placement writes the bind record of the next cluster group and counts its workgroups, unless a launch that
ranks higher, an aged one as if it had priority 7, can be placed there (log 81), and only on distinct live cores (R27); dispatch takes the head record of a
cluster, which needs the room of Table 6 on its cores, and creates each workgroup with its warps at the entry slot and the argument pointer in
s0 and s1. A record that names nothing legal, an entry not admitted too (log 83), is device-fatal with cause 2; one without room, or of a context that is being
driven from the cluster (log 82), waits. -/
def Obligations.LaunchPlacement : Prop := ∀ (s : State) (d : Nat),
  (∀ e l p u, u = s.ageing d → e < 1024 → u.launch? d e = some l → l.ended = false → l.st = .placing → l.again = [] → p.restore = none → p.cluster < 36 →
    p.die < (if (s.dev d).regs.minimal then 1 else 4) → s.blockedOn d l.ctx (144 * d + 36 * p.die + p.cluster) = false →
    (s.cluster (144 * d + 36 * p.die + p.cluster)).slots.length < 32 → (l.cgLeft ≠ [] ∨ (s.dev d).regs.want = none) → l.nextCg < l.cgs → l.cgs ≤ 2 ^ 32 →
    (∀ x, tabGet l.dgDie (l.nextCg / 36) = some x → x = p.die) →
    let k := 144 * d + 36 * p.die + p.cluster
    ((∃ o ∈ (u.dev d).launches, (if l.aged then 7 else l.prio) < (if o.2.aged then 7 else o.2.prio) ∧ u.placeable d k p.die o.2 = true) →
      exec (.launchPlace d e p) s = .next u) ∧
    (¬ Claims.LiveCores s d l p → exec (.launchPlace d e p) s = .next u) ∧
    (Claims.LiveCores s d l p → (∀ o ∈ (u.dev d).launches, (if l.aged then 7 else l.prio) < (if o.2.aged then 7 else o.2.prio) → u.placeable d k p.die o.2 = false) → ∃ t b x, exec (.launchPlace d e p) s = .next t ∧ (t.cluster k).slots = (s.cluster k).slots ++ [b] ∧ bits b.w0.toNat 0 10 = e ∧ bits b.w0.toNat 16 32 = l.nextCg ∧
      bits b.w1.toNat 63 1 = 0 ∧ bits b.w1.toNat 0 32 = l.g * l.nextCg % 2 ^ 32 ∧ t.launch? d e = some x ∧ x.nextCg = l.nextCg + 1 ∧
      tabGet x.cgLeft l.nextCg = some (min l.g (l.wgs - l.g * l.nextCg)) ∧ tabGet x.dgDie (l.nextCg / 36) = some p.die ∧ t.hbm = s.hbm ∧ t.wgs = s.wgs)) ∧
  (∀ agent cluster b rest, cluster < 36 → devOfAgent agent = d → (s.cluster (36 * agent + cluster)).slots = b :: rest →
    let k := 36 * agent + cluster
    let cg := bits b.w0.toNat 16 32
    let e := b.w0.toNat % 1024
    (bindOk (s.dev d) k b = false → exec (.bindStep agent cluster) s = .next (s.deviceFatal d 2 (agent % 4))) ∧
    (∀ l, bindOk (s.dev d) k b = true → s.launch? d e = some l → s.blockedOn d l.ctx k = true → exec (.bindStep agent cluster) s = .next s) ∧
    (∀ l, bindOk (s.dev d) k b = true → s.launch? d e = some l → s.blockedOn d l.ctx k = false → bits b.w1.toNat 63 1 = 0 →
      let gs := (List.range (bits b.w1.toNat 32 3)).map (fun i => newWg d e l (l.g * cg + i) (4 * k + bits b.w1.toNat (40 + 2 * i) 2) (bits b.w1.toNat (48 + 2 * i) 2))
      (gs.any (fun g => !s.room g.core g.need) = true → exec (.bindStep agent cluster) s = .next s) ∧
      (gs.all (fun g => s.room g.core g.need) = true → ∃ t, exec (.bindStep agent cluster) s = .next t ∧ (t.cluster k).slots = rest ∧ t.wgs = s.wgs ++ gs ∧ t.hbm = s.hbm ∧
        (∀ j, j ≠ k → t.cluster j = s.cluster j) ∧
        ∀ g ∈ gs, g.ctx = l.ctx ∧ g.seq = l.seq ∧ g.st = .running ∧ g.warps.length = l.w ∧ g.spad = [] ∧ ∀ x ∈ g.warps, x.pc = 5 * (kdCode l.kd / 64) + kdEntry l.kd ∧
          (x.readS 0).toNat + 2 ^ 32 * (x.readS 1).toNat = bits (wordOf l.lr 1) 0 43 * 64 ∧ x.mask = allLanes ∧ x.exited = 0 ∧ x.hstat = 0)) ∧
    (∀ l, bindOk (s.dev d) k b = true → s.launch? d e = some l → s.blockedOn d l.ctx k = false → bits b.w1.toNat 63 1 = 1 → s.cgWgs { dev := d, launch := e, cg := cg } ≠ [] →
      (∀ g ∈ s.cgWgs { dev := d, launch := e, cg := cg }, g.st = .swapped ∧ s.room (4 * k + g.pos) g.need = true) → ∃ t, exec (.bindStep agent cluster) s = .next t ∧
        (t.cluster k).slots = rest ∧ t.hbm = s.hbm ∧ ∀ i g, s.wg i = some g → g.id.dev = d → g.id.launch = e → g.cg = cg →
          t.wg i = some { g with st := .restoring, core := 4 * k + g.pos }))

/-! ### Pre-emption and isolation (chapter 14) -/

/-- R166, R352, R358 to R362, R385: an overdue drain stops its group; an overdue swap ends the context's work on the clusters; once every warp may
leave, the image is written and the matrix entries leave their queue with the sequencer state word; a saved group, its cores' stores written home, is swapped
with its registers, scratchpad and accumulators kept, its image charged to the slice's swap ways, or written to the HBM swap area where those have no room; a
restored group runs again and its image's room is free. A warp parked by WAITCNT stands in the image with its PC at the WAITCNT (log 129). An uncorrectable
error in the image ends the context. The model's own: the form of the image and of the area (log 85), 16 queued entries with none running (log 113), and
the write of the dirty L1 blocks at SAVE_COMPLETE (log 114). -/
def Obligations.Preemption : Prop := ∀ (s : State) (g : CgId),
  (s.overdue g (· == .draining) (·.drainNs) ≠ [] → ∃ t, exec (.drainDeadline g) s = .next t ∧ t.hbm = s.hbm ∧
    ∀ i h, s.wg i = some h → h ∈ s.cgWgs g → (h.st = .running ∨ h.st = .draining) → ∃ h', t.wg i = some h' ∧ h'.st = .stopping ∧ h'.spad = h.spad ∧ h'.acc = h.acc) ∧
  (∀ p rest, s.overdue g (fun st => st == .stopping || st == .saving) (·.swapNs) = p :: rest → ∃ t, exec (.swapDeadline g) s = .next t ∧
    (Claims.NoChannelWork s → t.hbm = s.hbm) ∧
    (∀ h ∈ t.wgs, h.id.dev = g.dev → h.ctx = p.ctx → clusterOfCore h.core ∉ p.clusters) ∧ (s.die (4 * g.dev)).evSeq < (t.die (4 * g.dev)).evSeq) ∧
  ((s.cgWgs g).any (fun h => h.st != .retired) = true → (∀ h ∈ s.cgWgs g, h.st = .retired ∨ (h.st = .stopping ∧ ∀ x ∈ h.warps, s.mayLeave h x (s.cycle g.dev) = true)) →
    ∃ t, exec (.saveStart g) s = .next t ∧ t.hbm = s.hbm ∧ (∀ h ∈ s.cgWgs g, ∀ e ∈ (t.coreAt h.core).mq, e.w.wg ≠ h.id) ∧
      (∀ i h, s.wg i = some h → h ∈ s.cgWgs g → ∃ h', t.wg i = some h' ∧ h'.st = .saving ∧ h'.spad = h.spad ∧ h'.acc = h.acc ∧ h'.maps = h.maps) ∧
      ∀ h, s.cgWgs g = [h] → s.wg h.id = some h → let mine := (s.coreAt h.core).mq.filter (fun e => e.w.wg = h.id)
        ∃ h', t.wg h.id = some h' ∧ h'.mq = mine.map (fun e => { e with running := false, resumed := e.running || e.resumed }) ∧
          h'.seqw.toNat = (match mine with
            | [] => 0
            | e :: rest => if e.running then e.next % 65536 + 65536 + rest.length % 32 * 2 ^ 17 else (rest.length + 1) % 32 * 2 ^ 17)) ∧
  (∀ h, (s.cgWgs g).find? (fun h => h.st == .saving) = some h →
    (s.stall = false → Claims.NoChannelWork s → ∃ t, exec (.saveComplete g true) s = .next t ∧ ∀ x ∈ t.wgs, x.id.dev = g.dev → x.ctx ≠ h.ctx) ∧
    (∀ n fits u v, n = (s.cgWgs g).foldl (fun n x => n + x.imageBytes) 0 → fits = s.swapFits (clusterOfCore h.core) h.ctx n →
      u = (s.cgWgs g).foldl (fun (t : State) x => t.flushNow x.core) s → v = (if fits then u else u.spill (clusterOfCore h.core) h.ctx n) →
      (s.wbs = [] → s.replicas = [] → (∀ x ∈ s.cgWgs g, s.dirtyBlocks x.core = []) → u.hbm = s.hbm ∧ u.wgs = s.wgs ∧ u.stall = s.stall) ∧
      (v.stall = false → v.cgWgs g ≠ [] → ∃ t, exec (.saveComplete g false) s = .next t ∧ t.hbm = v.hbm ∧
        tabGetD (t.cluster (clusterOfCore h.core)).swapUse h.ctx 0 = tabGetD (v.cluster (clusterOfCore h.core)).swapUse h.ctx 0 + (if fits then n else 0) ∧
        ∀ i x, v.wg i = some x → x ∈ v.cgWgs g → t.wg i = some { x with
          st := .swapped, img := some { slice := clusterOfCore h.core, bytes := x.imageBytes, area := !fits }, redir := some x.core,
          warps := x.warps.map (fun y => if y.done = false ∧ y.park.any (fun p => match p with | .cnt .. => true | _ => false) = true then { y with pc := y.pc - 1, behind := true } else y) }))) ∧
  (∀ h, (s.cgWgs g).find? (fun h => h.st == .restoring) = some h →
    (∀ bad : Bool, (bad = true ∨ ∃ x ∈ s.cgWgs g, ∃ i, x.img = some i ∧ i.bad = true) → s.stall = false → Claims.NoChannelWork s →
      ∃ t, exec (.restoreComplete g bad) s = .next t ∧ ∀ x ∈ t.wgs, x.id.dev = g.dev → x.ctx ≠ h.ctx) ∧
    (∀ v, v = (s.cgWgs g).foldl (fun (t : State) x => match x.img with | some i => if i.area then t.unspill i.slice h.ctx i.bytes else t | none => t) s →
      v.wgs = s.wgs → v.stall = false → (∀ x ∈ s.cgWgs g, ∀ i, x.img = some i → i.bad = false) →
      (∀ x ∈ s.cgWgs g, (s.coreAt x.core).mq.length + x.mq.length ≤ 16) → (∀ x ∈ s.cgWgs g, s.wg x.id = some x ∧ ∀ y ∈ x.warps, y.dq = [] ∧ y.ptrap = none) →
      ((∀ x ∈ s.cgWgs g, ∀ i, x.img = some i → i.area = false) → v = s) ∧
      ∃ t, exec (.restoreComplete g false) s = .next t ∧ t.hbm = v.hbm ∧
        (∀ i, s.cgWgs g = [h] → h.img = some i → i.area = false → tabGetD (t.cluster i.slice).swapUse h.ctx 0 = tabGetD (s.cluster i.slice).swapUse h.ctx 0 - i.bytes) ∧
        ∀ i x, s.wg i = some x → x ∈ s.cgWgs g → ∃ x', t.wg i = some x' ∧
          x'.st = (if x.left = 0 then .retired else .running) ∧ x'.mq = [] ∧ x'.img = none ∧ x'.redir = none ∧ x'.spad = x.spad ∧ x'.acc = x.acc ∧ x'.maps = x.maps ∧
          x'.warps.map (·.v) = x.warps.map (·.v) ∧ x'.warps.map (·.pc) = x.warps.map (fun y => if y.behind then y.pc + 1 else y.pc)))

/-- R355, R356: once in each period of 1,024 cycles a die hands out the tokens of its HBM bandwidth: no bucket falls, none is filled past its depth, and
together they gain no more than the budget. -/
def Obligations.TokenRefill : Prop := ∀ (s : State) (agent : Nat), (s.dev (devOfAgent agent)).up = true →
  (s.cycle (devOfAgent agent) / 1024 ≤ (s.die agent).refill → exec (.tokenRefill agent) s = .next s) ∧
  ((s.die agent).refill < s.cycle (devOfAgent agent) / 1024 → ∃ t, exec (.tokenRefill agent) s = .next t ∧ (t.die agent).refill = (s.die agent).refill + 1 ∧
    t.hbm = s.hbm ∧ t.wgs = s.wgs ∧
    (∀ b ∈ s.buckets agent, b.level ≤ tabGetD (t.die agent).level b.ctx 0 ∧ tabGetD (t.die agent).level b.ctx 0 ≤ max b.level b.depth) ∧
    (s.buckets agent).foldl (fun (n : Int) b => n + (tabGetD (t.die agent).level b.ctx 0 - b.level)) 0 ≤ (s.dev (devOfAgent agent)).budget)

/-! ### Resets, starts and upkeep (chapters 15, 16) -/

/-- R23 to R25, R304, R367, R393, R394: a new cap lowers the point in force (at once, log 72) and raises POWER_LIMIT; a thermal shutdown and a watchdog expiry are
device-fatal with causes 1 and 6, which leave HBM as it was (log 68); a start ends with the reason given, but one that would end well and runs the image in
flash fails when the boot ROM refuses the image, with reason 1 for its signature and 2 for its version, and no start ends with reason 2 whose image is not
below the fused minimum (log 10); a failed start is read in START_STATUS; after three failed starts it is one in minimal mode, where
the recovery firmware runs, the flash keeps its image and the count is kept (log 70); a start that is not ready in 2 s fails with reason 6. -/
def Obligations.ResetsAndStarts : Prop := ∀ (s : State) (d : Nat),
  (∀ cap : BitVec 3, (s.dev d).up = true → (s.dev d).regs.cap ≠ cap.toNat → ∃ t, exec (.capChange d cap) s = .next t ∧ (t.dev d).regs.cap = cap.toNat ∧
    (t.dev d).regs.force ≤ cap.toNat ∧ (t.die (4 * d)).evSeq = (s.die (4 * d)).evSeq + 1 ∧ t.hbm = s.hbm ∧ t.wgs = s.wgs) ∧
  (∀ i cause die, (i = .thermalShutdown d die ∧ cause = 1) ∨ (i = .watchdogExpiry d ∧ cause = 6) → (s.dev d).up = true → ∃ t, exec i s = .next t ∧
    (t.dev d).up = false ∧ (t.dev d).regs.fatal = cause ∧ (cause = 1 → (t.dev d).regs.fatalDie = die % 4) ∧ (t.dev d).ctxs = [] ∧ (t.dev d).msix.head? = some 0 ∧
    (∀ g ∈ t.wgs, g.id.dev ≠ d) ∧ (∀ g ∈ s.wgs, g.id.dev ≠ d → g ∈ t.wgs) ∧ (∀ k, devOfCore k = d → t.coreAt k = {}) ∧ t.hbm = s.hbm ∧ t.host = s.host) ∧
  (∀ (i : Instr) (r : Nat), (s.dev d).up = false → ((∃ b : Byte, i = .start d b ∧ b.toNat = r ∧ r ≤ 7) ∨ (i = .startTimeout d ∧ r = 6) ∨ (i = .watchdogExpiry d ∧ r = 7)) →
    let fw := (s.dev d).fw
    let flash := fw.staged.getD (fw.running, fw.version)
    let minimal := decide (3 ≤ (s.dev d).regs.failed)
    let r0 := if r = 2 ∧ Config.fusedMinimum ≤ (if minimal then Config.recoveryVersion else flash.2) then 0 else r
    let r' := if r0 = 0 ∧ minimal = false then (if fw.signed = false then 1 else if flash.2 < Config.fusedMinimum then 2 else 0) else r0
    ∃ t, exec i s = .next t ∧ (t.dev d).up = decide (r' = 0) ∧ (t.dev d).regs.reason = r' ∧ (t.dev d).regs.minimal = minimal ∧
      (t.dev d).regs.failed = (if r' = 0 ∧ minimal = false then 0 else min 255 ((s.dev d).regs.failed + 1)) ∧
      (t.dev d).fw = (if r' ≠ 0 then (if r' = 1 ∧ minimal = false then { fw with signed := false } else fw)
        else if minimal then { fw with running := Config.recoveryDigest, version := Config.recoveryVersion, staged := some flash }
        else { fw with running := flash.1, version := flash.2, staged := none }) ∧
      (t.die (4 * d)).evSeq = (s.die (4 * d)).evSeq + 1 ∧ t.hbm = s.hbm ∧ t.wgs = s.wgs) ∧
  ((s.dev d).up = false → s.stall = false → ∃ t, exec (.hostRead d 0 0x4058 8) s = .next t ∧ (t.dev d).hpoison = false ∧ t.hbm = s.hbm ∧ t.wgs = s.wgs ∧
    (t.dev d).hread = bytesOf 8 ((if (s.dev d).regs.minimal then 1 else 0) + (s.dev d).regs.reason * 2 ^ 8 + (s.dev d).regs.failed * 2 ^ 16))

/-- A mended bank leaves no failing word that its row can give, and changes nothing else of the workgroups on its core. -/
abbrev Claims.BankMended (s t : State) (core bank : Nat) : Prop :=
  ∀ i g, s.wg i = some g → (¬(g.core = core ∧ g.resident = true) → t.wg i = some g) ∧ (g.core = core → g.resident = true → ∃ l c,
    t.wg i = some { g with spadErr := l, checkErr := c } ∧ (∀ e ∈ l, e.1 % 512 = bank → g.lostWord e = true) ∧ (∀ e ∈ g.spadErr, e.1 % 512 ≠ bank → e ∈ l))

/-- R367, R382, R386 to R388: a scrub rewrites a correctable block with what the code finds, and poisons an uncorrectable one that has no newer copy, whose
event waits for a touch; a bank with eight corrected errors in 2^24 cycles, or one that a rewrite does not clear, is rebuilt and, failing again, retired, each
step with its event, and a rebuild leaves no failing word that its row can give; a transfer error is counted; a link whose replays are used up retrains, a read
it carried is lost and a write leaves poison; a device link goes down; a failed retraining, and an uncorrectable error in a die's own state, is device-fatal.
The model's own: LINK_ERROR when the count equals the limit (log 88), two events at a second bank failure (log 87), the lost read of no access (log 89), a scrub
by the hallmark alone (log 92), and HBM kept by a device-fatal fault (log 68). -/
def Obligations.MemoryAndLinks : Prop := ∀ (s : State) (d : Nat),
  (∀ b e, devOfAgent (agentOfBlock b) = d → (s.dev d).up = true → (s.dev d).regs.scrub ≠ 0 → tabGet s.errs b = some e →
    tagDecode (tagCode (s.block b).tag ^^^ e.side.toNat % 2 ^ 16) = some ((s.block b).tag, false) → (s.hall b).isPoison = false →
    (payloadCheck (s.block b) (s.blockBytes b) e = .bad → (match s.hall b with | .home | .shared1 _ | .sharedN _ | .excl _ => True | _ => False) →
      ∃ t, exec (.patrolScrub b) s = .next t ∧ t.hall b = .poison 4 ∧ b ∈ t.scrubbed ∧ t.hbm = s.hbm) ∧
    (∀ x h c, payloadCheck (s.block b) (s.blockBytes b) e = .ok x h c → Memory.wf s.hbm = true → ∃ t, exec (.patrolScrub b) s = .next t ∧ tabGet t.errs b = none ∧
      BlockHolds s t b x ∧ ((s.block b).typed = true → (t.block b).hdr = h) ∧ t.hall b = s.hall b ∧
      (c = true → tabGetD (t.dev d).regs.ceCount (stackOfKey (keyOfBlock b)) 0 = tabGetD (s.dev d).regs.ceCount (stackOfKey (keyOfBlock b)) 0 + 1))) ∧
  (∀ core bank, devOfCore core = d → s.hasBank core bank = true →
    (8 ≤ ((tabGetD (s.coreAt core).ceBank bank []).filter (fun t => decide (s.cycle d < t + 2 ^ 24))).length ∨ bank ∈ (s.coreAt core).stuck) → let die := agentOfCore core
    (tabGet (s.coreAt core).banks bank = none → ∃ t, exec (.spadBankFailure core bank) s = .next t ∧ tabGet (t.coreAt core).banks bank = some .rebuilding ∧
      (t.die die).evSeq = (s.die die).evSeq + 1 ∧ t.hbm = s.hbm ∧ t.wgs = s.wgs) ∧
    (tabGet (s.coreAt core).banks bank = some .rebuilding ∨ tabGet (s.coreAt core).banks bank = some .rebuilt → ∃ t, exec (.spadBankFailure core bank) s = .next t ∧
      tabGet (t.coreAt core).banks bank = some .retired ∧ (t.die die).evSeq = (s.die die).evSeq + 2 ∧ t.hbm = s.hbm ∧ Claims.BankMended s t core bank)) ∧
  (∀ core bank, tabGet (s.coreAt core).banks bank = some .rebuilding → ∃ t, exec (.spadRebuildComplete core bank) s = .next t ∧
    tabGet (t.coreAt core).banks bank = some .rebuilt ∧ (t.die (agentOfCore core)).evSeq = (s.die (agentOfCore core)).evSeq + 1 ∧ t.hbm = s.hbm ∧
    Claims.BankMended s t core bank) ∧
  ((s.dev d).up = true → ∀ k i, i < linkCount k →
    let c := tabGetD ((s.dev d).regs.links k) i (0, 0)
    (k ≠ .device ∨ i ∉ (s.dev d).regs.linksDown → ∃ t, exec (.linkTransferError d k i) s = .next t ∧
      tabGet ((t.dev d).regs.links k) i = some (min (c.1 + 1) (2 ^ 32 - 1), min (c.2 + 1) (2 ^ 32 - 1)) ∧ t.hbm = s.hbm ∧ t.wgs = s.wgs ∧
      (t.die (4 * d)).evSeq = (s.die (4 * d)).evSeq + (if min (c.1 + 1) (2 ^ 32 - 1) = (s.dev d).regs.linkLimit ∧ c.1 ≠ min (c.1 + 1) (2 ^ 32 - 1) then 1 else 0)) ∧
    (∀ rd b, k = .d2d → ∃ t, exec (.linkReplayExhausted d k i rd b) s = .next t ∧ (t.dev d).regs.retrain = (s.dev d).regs.retrain ++ [(k, i)] ∧ t.hbm = s.hbm ∧ t.wgs = s.wgs) ∧
    (∀ rd b, k = .device → i ∉ (s.dev d).regs.linksDown → ∃ t, exec (.linkReplayExhausted d k i rd b) s = .next t ∧ i ∈ (t.dev d).regs.linksDown ∧
      (t.die (4 * d)).evSeq = (s.die (4 * d)).evSeq + 1 ∧ t.hbm = s.hbm ∧ t.wgs = s.wgs) ∧
    (∀ b, k = .hbm → devOfAgent (agentOfBlock b) = d → (s.hall b).isPoison = false → ∃ t, exec (.linkReplayExhausted d k i none b) s = .next t ∧
      t.hall b = .poison 5 ∧ (k, i) ∈ (t.dev d).regs.retrain ∧ t.hbm = s.hbm ∧ t.wgs = s.wgs) ∧
    (∀ acc b, k = .hbm → devOfAgent (agentOfBlock b) = d → s.acc? acc = none → ∃ t, exec (.linkReplayExhausted d k i (some acc) b) s = .next t ∧
      b ∈ t.cut ∧ t.hall b = s.hall b ∧ (k, i) ∈ (t.dev d).regs.retrain ∧ t.hbm = s.hbm ∧ t.wgs = s.wgs) ∧
    (∀ a b p, k = .hbm → devOfAgent (agentOfBlock b) = d → s.acc? a.id = some a → a.rel = .done → (∃ x, a.kind = .load x) → a.parts = [p] → p.done = false → p.lane < 64 → a.lost = none →
      (∃ key, (p.loc = .home key) ∧ blockOf key = b) → ∃ t a', exec (.linkReplayExhausted d k i (some a.id) b) s = .next t ∧ t.acc? a.id = some a' ∧
        a'.parts = [{ p with done := true }] ∧ (a'.lost.map (·.source)) = some 4 ∧ (k, i) ∈ (t.dev d).regs.retrain ∧ t.hbm = s.hbm ∧ t.wgs = s.wgs)) ∧
  (∀ k i, (k, i) ∈ (s.dev d).regs.retrain → (∃ t, exec (.linkRetrainEnd d k i true) s = .next t ∧ (t.dev d).regs.retrain = (s.dev d).regs.retrain.erase (k, i) ∧
      t.hbm = s.hbm ∧ t.wgs = s.wgs) ∧
    ∃ t, exec (.linkRetrainEnd d k i false) s = .next t ∧ (t.dev d).up = false ∧ (t.dev d).regs.fatal = (if k = .hbm then 3 else 4) ∧ t.hbm = s.hbm) ∧
  (∀ agent rest, s.agenda = .upset (.device agent) :: rest → devOfAgent agent = d → (s.dev d).up = true → ∃ t, step s = .next t ∧
    (t.dev d).up = false ∧ (t.dev d).regs.fatal = 5 ∧ (t.dev d).regs.fatalDie = agent % 4 ∧ t.hbm = s.hbm)

/-! ### The step, decoding, reset and memory -/

/-- R52, R56, R57, R72, R311: a step takes the next move of the agenda. An event row runs as its instruction; an issue move runs exec of the instruction
that the slot at the warp's PC decodes to, with that warp selected, and then the second slot of an honoured pair, from the same line, or the workgroup's next
trap; a slot that is no instruction traps, as does an entry slot that is no legal target; with an empty agenda a cycle passes on the device furthest behind. A
move one of whose accesses must wait changes nothing, but that its request stands in the chain of the block it has found busy (R262; the agenda and the
waiting are the model's own, logs 2, 20 and 101). -/
def Obligations.StepRunsDecoded : Prop :=
  (∀ (s : State) i rest, s.agenda = .act i :: rest →
    let s0 : State := { s with agenda := rest, hold := .none, mover := none }
    step s = (match exec i { s0 with mover := some (.act i) } with
    | .next t => .next (s0.moved (.act i) t)
    | .fault f => .fault f
    | .refused r => .refused r)) ∧
  (∀ s : State, s.agenda = [] → let s0 : State := { s with hold := .none, mover := none }
    step s = .next (s0.moved (.tick s.behind) (({ s0 with mover := some (.tick s.behind) } : State).tickDev s.behind))) ∧
  (∀ (s t : State) m, t.hold = .none → s.moved m t = ({ t with mover := none } : State).forget m) ∧ (∀ (s t : State) m, t.hold = .off → s.moved m t = s) ∧
  (∀ (s t : State) m b req k, t.hold = .chain b req k none → s.moved m t = s.queueMove b req k m) ∧
  (∀ (s : State) w l rest x i, s.agenda = .second w l :: rest → s.warp w = some x → lineReserved l = false → decodeSlot (slotBits l (slotOf x.pc)) = .ok i →
    let s0 : State := { s with agenda := rest, hold := .none, mover := none }
    let m : Move := .second w l
    step s = (match exec i { ({ s0 with mover := some m } : State).noted w i with cur := some w } with
      | .next t => .next (s0.moved m (({ t with cur := none, heldNow := [] } : State).pump w.wg))
      | .fault f => .fault f
      | .refused r => .refused r)) ∧
  ∀ (s : State) core q rest n w vec g x c a l, s.agenda = .issue core q :: rest →
    ({ s with agenda := rest, hold := .none, mover := some (.issue core q) } : State).pick core q = some (n, w, vec) →
    let now := s.cycle (devOfCore core)
    let m : Move := .issue core q
    let s0 : State := { s with agenda := rest, hold := .none, mover := none }
    let s1 := (({ s0 with mover := some m } : State).modCore core (fun c => c.modQuad q (fun (x : Quad) =>
      { x with last := some now, vptr := if vec then n else x.vptr, nptr := if vec then x.nptr else n, vfree := if vec then now + 4 else x.vfree }))).issuedGroup core w
    let after : State → State → State := fun s1 t => if honoured l (slotOf x.pc) && s1.wentOn t w then t.soon (.second w l) else t.pump w.wg
    s1.wg w.wg = some g → s1.warp w = some x → s1.lineOf g w.warp x = some ⟨c, a, l⟩ →
    (x.checked = false → legalSlot l (slotOf x.pc) = false → step s = .next (s0.moved m (s1.takeTrap w (trapOf tBadTarget)))) ∧
    (x.checked = true ∨ legalSlot l (slotOf x.pc) = true → let s2 := if x.checked then s1 else s1.modWarp w (fun x => { x with checked := true })
      (∀ i, (lineReserved l = false ∨ ∃ op, i = .illegalOpcode op) → decodeSlot (slotBits l (slotOf x.pc)) = .ok i →
        step s = (match exec i { s2.noted w i with cur := some w } with
          | .next t => .next (s0.moved m (after s2 { t with cur := none, heldNow := [] }))
          | .fault f => .fault f
          | .refused r => .refused r)) ∧
      (((lineReserved l = true ∧ ∀ op, decodeSlot (slotBits l (slotOf x.pc)) ≠ .ok (.illegalOpcode op)) ∨ decodeSlot (slotBits l (slotOf x.pc)) = .error .illegalEncoding) →
        step s = .next (s0.moved m (after s2 (s2.takeTrap w (trapOf tIllegalEncoding))))))

/-- R51, R58, R72, and the encodings of R114, R139, R319 and R316: slots written out from the spec's tables decode to the instructions they stand for; an unlisted
opcode is ILLEGAL_OPCODE, and a bit that no field holds makes a slot illegal. -/
def Obligations.DecodeWords : Prop :=
  decodeSlot 0x01#96 = .ok (.nop false) ∧ decodeSlot 0x101#96 = .ok (.nop true) ∧ decodeSlot 0x201#96 = .error .illegalEncoding ∧
  decodeSlot 0xFFFFFFFE0000000000000002#96 = .ok (.bra false none false 0xFFFFFFFE) ∧
  decodeSlot 0x00000064A01800000702001D#96 = .ok (.icmp { sw := false, ty := .s32, sat := false, d := .v 0, a := .v 7 .none, b := .imm 100, c := .imm 0 } .lt .none false (.p 2) (.p 0)) ∧
  decodeSlot 0x000000004064000002090050#96 = .ok (.cvt { sw := false, td := .bf16, ts := .f32, rm := .rz, sat := false, d := .v 9, a := .v 2 .none, b := .imm 0 }) ∧
  decodeSlot 0xFF#96 = .ok (.illegalOpcode 0xFF) ∧ decodeSlot 0x00#96 = .ok (.illegalOpcode 0)

/-- R51, R58 to R72: decoding the slot of any instruction that a slot can hold gives it back, with every operand at every value; and a slot that decodes to a
listed instruction is the one slot that encodes it. -/
def Obligations.DecodeEncode : Prop :=
  (∀ i, WellFormed i → decodeSlot (encode i) = .ok i) ∧
  ∀ w i, decodeSlot w = .ok i → (∃ op, i = .illegalOpcode op) ∨ (WellFormed i ∧ encode i = w)

/-- R34, R304, R343, R382, R394, R395: at the reset state of the model, in which the spec's values stand beside the model's own (the domain of one device, log 1;
memory zero with hallmark HOME, log 4; the cap 7 in register 0x4068, log 7; empty tables, log 9), after reset nothing is resident or under way, memory is in canonical form, no context is valid, no queue is set up, no launch is
admitted, and the bring-up registers hold their reset values. -/
def Obligations.ResetState : Prop :=
  let s := State.reset
  Canonical s ∧ s.wgs = [] ∧ s.accs = [] ∧ s.txns = [] ∧ s.domain = [0] ∧ (s.dev 0).up = true ∧ (∀ c, s.ctxValid 0 c = false) ∧ (∀ e, s.launch? 0 e = none) ∧
  (∀ q, tabGet (s.dev 0).evqs q = none) ∧ s.reg64 0 0x4070 = 4096 ∧ s.reg64 0 0x4078 = 24 ∧ s.reg64 0 0x4080 = 0xFC00 ∧ s.reg64 0 0x40A0 = 1024 ∧ s.reg64 0 0x40A8 = 4096 ∧
  s.reg64 0 0x4068 = 7 + 7 * 2 ^ 8 + 7 * 2 ^ 16 ∧ s.reg64 0 0x4050 = 0 ∧ (∀ b, s.hall b = .home) ∧ ∀ a, memGet s.hbm a = 0

/-- R2, log 4: every step keeps HBM and host memory in their canonical form, from any state in which they have it. -/
def Obligations.CanonicalKept : Prop := ∀ s t : State, Canonical s → step s = .next t → Canonical t
end

