-- ==== Sys2Proof/Laws/Dispatch.lean ====
section
/-! SUPPORT. Which meaning each instruction has: one lemma for each constructor. -/

namespace Sys2Proof.Machine

variable (s : State)

theorem dispatch_nop (x0) : exec (.nop x0) s = execNop x0 s := rfl
theorem dispatch_bra (x0) (x1) (x2) (x3) : exec (.bra x0 x1 x2 x3) s = execBra x0 x1 x2 x3 s := rfl
theorem dispatch_brx (x0) (x1) : exec (.brx x0 x1) s = execBrx x0 x1 s := rfl
theorem dispatch_brd (x0) (x1) (x2) (x3) (x4) : exec (.brd x0 x1 x2 x3 x4) s = execBrd x0 x1 x2 x3 x4 s := rfl
theorem dispatch_join (x0) : exec (.join x0) s = execJoin x0 s := rfl
theorem dispatch_call (x0) (x1) (x2) : exec (.call x0 x1 x2) s = execCall x0 x1 x2 s := rfl
theorem dispatch_ret (x0) (x1) : exec (.ret x0 x1) s = execRet x0 x1 s := rfl
theorem dispatch_exit (x0) : exec (.exit x0) s = execExit x0 s := rfl
theorem dispatch_pred (x0) (x1) (x2) (x3) (x4) : exec (.pred x0 x1 x2 x3 x4) s = execPred x0 x1 x2 x3 x4 s := rfl
theorem dispatch_yield (x0) : exec (.yield x0) s = execYield x0 s := rfl
theorem dispatch_launch (x0) (x1) : exec (.launch x0 x1) s = execLaunch x0 x1 s := rfl
theorem dispatch_iadd (x0) : exec (.iadd x0) s = execIadd x0 s := rfl
theorem dispatch_iadd3 (x0) (x1) : exec (.iadd3 x0 x1) s = execIadd3 x0 x1 s := rfl
theorem dispatch_iaddc (x0) (x1) (x2) (x3) : exec (.iaddc x0 x1 x2 x3) s = execIaddc x0 x1 x2 x3 s := rfl
theorem dispatch_isub (x0) : exec (.isub x0) s = execIsub x0 s := rfl
theorem dispatch_ineg (x0) : exec (.ineg x0) s = execIneg x0 s := rfl
theorem dispatch_iabs (x0) : exec (.iabs x0) s = execIabs x0 s := rfl
theorem dispatch_imul (x0) : exec (.imul x0) s = execImul x0 s := rfl
theorem dispatch_imulhi (x0) : exec (.imulhi x0) s = execImulhi x0 s := rfl
theorem dispatch_imad (x0) : exec (.imad x0) s = execImad x0 s := rfl
theorem dispatch_imad64 (x0) : exec (.imad64 x0) s = execImad64 x0 s := rfl
theorem dispatch_imin (x0) : exec (.imin x0) s = execImin x0 s := rfl
theorem dispatch_imax (x0) : exec (.imax x0) s = execImax x0 s := rfl
theorem dispatch_isad (x0) : exec (.isad x0) s = execIsad x0 s := rfl
theorem dispatch_icmp (x0) (x1) (x2) (x3) (x4) (x5) : exec (.icmp x0 x1 x2 x3 x4 x5) s = execIcmp x0 x1 x2 x3 x4 x5 s := rfl
theorem dispatch_pick (x0) (x1) (x2) : exec (.pick x0 x1 x2) s = execPick x0 x1 x2 s := rfl
theorem dispatch_plog (x0) (x1) (x2) (x3) (x4) (x5) : exec (.plog x0 x1 x2 x3 x4 x5) s = execPlog x0 x1 x2 x3 x4 x5 s := rfl
theorem dispatch_shl (x0) : exec (.shl x0) s = execShl x0 s := rfl
theorem dispatch_shr (x0) : exec (.shr x0) s = execShr x0 s := rfl
theorem dispatch_sar (x0) : exec (.sar x0) s = execSar x0 s := rfl
theorem dispatch_shf (x0) (x1) (x2) : exec (.shf x0 x1 x2) s = execShf x0 x1 x2 s := rfl
theorem dispatch_logt (x0) (x1) : exec (.logt x0 x1) s = execLogt x0 x1 s := rfl
theorem dispatch_popc (x0) : exec (.popc x0) s = execPopc x0 s := rfl
theorem dispatch_clz (x0) : exec (.clz x0) s = execClz x0 s := rfl
theorem dispatch_brev (x0) : exec (.brev x0) s = execBrev x0 s := rfl
theorem dispatch_bfe (x0) : exec (.bfe x0) s = execBfe x0 s := rfl
theorem dispatch_bfi (x0) : exec (.bfi x0) s = execBfi x0 s := rfl
theorem dispatch_bsel (x0) : exec (.bsel x0) s = execBsel x0 s := rfl
theorem dispatch_lea (x0) (x1) : exec (.lea x0 x1) s = execLea x0 x1 s := rfl
theorem dispatch_lea64 (x0) (x1) : exec (.lea64 x0 x1) s = execLea64 x0 x1 s := rfl
theorem dispatch_idp4 (x0) (x1) : exec (.idp4 x0 x1) s = execIdp4 x0 x1 s := rfl
theorem dispatch_idp2 (x0) (x1) : exec (.idp2 x0 x1) s = execIdp2 x0 x1 s := rfl
theorem dispatch_mov (x0) : exec (.mov x0) s = execMov x0 s := rfl
theorem dispatch_movi (x0) (x1) (x2) : exec (.movi x0 x1 x2) s = execMovi x0 x1 x2 s := rfl
theorem dispatch_p2v (x0) (x1) : exec (.p2v x0 x1) s = execP2v x0 x1 s := rfl
theorem dispatch_v2p (x0) (x1) (x2) (x3) : exec (.v2p x0 x1 x2 x3) s = execV2p x0 x1 x2 x3 s := rfl
theorem dispatch_fadd (x0) : exec (.fadd x0) s = execFadd x0 s := rfl
theorem dispatch_fmul (x0) : exec (.fmul x0) s = execFmul x0 s := rfl
theorem dispatch_ffma (x0) : exec (.ffma x0) s = execFfma x0 s := rfl
theorem dispatch_fmin (x0) (x1) : exec (.fmin x0 x1) s = execFmin x0 x1 s := rfl
theorem dispatch_fmax (x0) (x1) : exec (.fmax x0 x1) s = execFmax x0 x1 s := rfl
theorem dispatch_fcmp (x0) (x1) (x2) (x3) (x4) : exec (.fcmp x0 x1 x2 x3 x4) s = execFcmp x0 x1 x2 x3 x4 s := rfl
theorem dispatch_frnd (x0) : exec (.frnd x0) s = execFrnd x0 s := rfl
theorem dispatch_fclass (x0) : exec (.fclass x0) s = execFclass x0 s := rfl
theorem dispatch_fdp2 (x0) : exec (.fdp2 x0) s = execFdp2 x0 s := rfl
theorem dispatch_hadd2 (x0) : exec (.hadd2 x0) s = execHadd2 x0 s := rfl
theorem dispatch_hmul2 (x0) : exec (.hmul2 x0) s = execHmul2 x0 s := rfl
theorem dispatch_hfma2 (x0) : exec (.hfma2 x0) s = execHfma2 x0 s := rfl
theorem dispatch_hmin2 (x0) (x1) : exec (.hmin2 x0 x1) s = execHmin2 x0 x1 s := rfl
theorem dispatch_hmax2 (x0) (x1) : exec (.hmax2 x0 x1) s = execHmax2 x0 x1 s := rfl
theorem dispatch_frcp (x0) : exec (.frcp x0) s = execFrcp x0 s := rfl
theorem dispatch_frsq (x0) : exec (.frsq x0) s = execFrsq x0 s := rfl
theorem dispatch_fsqrt (x0) : exec (.fsqrt x0) s = execFsqrt x0 s := rfl
theorem dispatch_fex2 (x0) : exec (.fex2 x0) s = execFex2 x0 s := rfl
theorem dispatch_flg2 (x0) : exec (.flg2 x0) s = execFlg2 x0 s := rfl
theorem dispatch_fsin (x0) : exec (.fsin x0) s = execFsin x0 s := rfl
theorem dispatch_fcos (x0) : exec (.fcos x0) s = execFcos x0 s := rfl
theorem dispatch_ftanh (x0) : exec (.ftanh x0) s = execFtanh x0 s := rfl
theorem dispatch_cvt (x0) : exec (.cvt x0) s = execCvt x0 s := rfl
theorem dispatch_cvtp (x0) : exec (.cvtp x0) s = execCvtp x0 s := rfl
theorem dispatch_cvt8 (x0) : exec (.cvt8 x0) s = execCvt8 x0 s := rfl
theorem dispatch_qblk (x0) (x1) (x2) : exec (.qblk x0 x1 x2) s = execQblk x0 x1 x2 s := rfl
theorem dispatch_dqblk (x0) : exec (.dqblk x0) s = execDqblk x0 s := rfl
theorem dispatch_shfl (x0) (x1) (x2) (x3) (x4) (x5) : exec (.shfl x0 x1 x2 x3 x4 x5) s = execShfl x0 x1 x2 x3 x4 x5 s := rfl
theorem dispatch_vote (x0) (x1) (x2) (x3) (x4) : exec (.vote x0 x1 x2 x3 x4) s = execVote x0 x1 x2 x3 x4 s := rfl
theorem dispatch_ballot (x0) (x1) (x2) (x3) : exec (.ballot x0 x1 x2 x3) s = execBallot x0 x1 x2 x3 s := rfl
theorem dispatch_redux (x0) (x1) (x2) (x3) (x4) (x5) (x6) : exec (.redux x0 x1 x2 x3 x4 x5 x6) s = execRedux x0 x1 x2 x3 x4 x5 x6 s := rfl
theorem dispatch_scan (x0) (x1) (x2) (x3) (x4) (x5) (x6) (x7) : exec (.scan x0 x1 x2 x3 x4 x5 x6 x7) s = execScan x0 x1 x2 x3 x4 x5 x6 x7 s := rfl
theorem dispatch_matchLanes (x0) (x1) (x2) (x3) (x4) : exec (.matchLanes x0 x1 x2 x3 x4) s = execMatchLanes x0 x1 x2 x3 x4 s := rfl
theorem dispatch_ld (x0) : exec (.ld x0) s = execLd x0 s := rfl
theorem dispatch_st (x0) : exec (.st x0) s = execSt x0 s := rfl
theorem dispatch_lds (x0) : exec (.lds x0) s = execLds x0 s := rfl
theorem dispatch_sts (x0) : exec (.sts x0) s = execSts x0 s := rfl
theorem dispatch_ldhdr (x0) : exec (.ldhdr x0) s = execLdhdr x0 s := rfl
theorem dispatch_sthdr (x0) : exec (.sthdr x0) s = execSthdr x0 s := rfl
theorem dispatch_atom (x0) : exec (.atom x0) s = execAtom x0 s := rfl
theorem dispatch_atoms (x0) : exec (.atoms x0) s = execAtoms x0 s := rfl
theorem dispatch_cas (x0) : exec (.cas x0) s = execCas x0 s := rfl
theorem dispatch_cass (x0) : exec (.cass x0) s = execCass x0 s := rfl
theorem dispatch_red (x0) : exec (.red x0) s = execRed x0 s := rfl
theorem dispatch_fence (x0) (x1) (x2) : exec (.fence x0 x1 x2) s = execFence x0 x1 x2 s := rfl
theorem dispatch_pref (x0) (x1) (x2) (x3) : exec (.pref x0 x1 x2 x3) s = execPref x0 x1 x2 x3 s := rfl
theorem dispatch_cctl (x0) (x1) (x2) : exec (.cctl x0 x1 x2) s = execCctl x0 x1 x2 s := rfl
theorem dispatch_vinv (x0) (x1) : exec (.vinv x0 x1) s = execVinv x0 x1 s := rfl
theorem dispatch_resid (x0) (x1) (x2) (x3) : exec (.resid x0 x1 x2 x3) s = execResid x0 x1 x2 x3 s := rfl
theorem dispatch_chinit (x0) (x1) (x2) (x3) (x4) (x5) (x6) (x7) : exec (.chinit x0 x1 x2 x3 x4 x5 x6 x7) s = execChinit x0 x1 x2 x3 x4 x5 x6 x7 s := rfl
theorem dispatch_push (x0) (x1) (x2) (x3) (x4) (x5) (x6) : exec (.push x0 x1 x2 x3 x4 x5 x6) s = execPush x0 x1 x2 x3 x4 x5 x6 s := rfl
theorem dispatch_popTry (x0) (x1) (x2) (x3) (x4) (x5) (x6) (x7) (x8) : exec (.popTry x0 x1 x2 x3 x4 x5 x6 x7 x8) s = execPopTry x0 x1 x2 x3 x4 x5 x6 x7 x8 s := rfl
theorem dispatch_popWait (x0) (x1) (x2) (x3) (x4) (x5) (x6) (x7) (x8) : exec (.popWait x0 x1 x2 x3 x4 x5 x6 x7 x8) s = execPopWait x0 x1 x2 x3 x4 x5 x6 x7 x8 s := rfl
theorem dispatch_cpy (x0) (x1) : exec (.cpy x0 x1) s = execCpy x0 x1 s := rfl
theorem dispatch_cpyx (x0) (x1) (x2) (x3) (x4) (x5) : exec (.cpyx x0 x1 x2 x3 x4 x5) s = execCpyx x0 x1 x2 x3 x4 x5 s := rfl
theorem dispatch_waitcnt (x0) (x1) (x2) : exec (.waitcnt x0 x1 x2) s = execWaitcnt x0 x1 x2 s := rfl
theorem dispatch_binit (x0) (x1) (x2) : exec (.binit x0 x1 x2) s = execBinit x0 x1 x2 s := rfl
theorem dispatch_arrive (x0) (x1) (x2) (x3) (x4) (x5) (x6) : exec (.arrive x0 x1 x2 x3 x4 x5 x6) s = execArrive x0 x1 x2 x3 x4 x5 x6 s := rfl
theorem dispatch_expect (x0) (x1) (x2) (x3) (x4) (x5) : exec (.expect x0 x1 x2 x3 x4 x5) s = execExpect x0 x1 x2 x3 x4 x5 s := rfl
theorem dispatch_wait (x0) (x1) (x2) (x3) (x4) (x5) : exec (.wait x0 x1 x2 x3 x4 x5) s = execWait x0 x1 x2 x3 x4 x5 s := rfl
theorem dispatch_twait (x0) (x1) (x2) : exec (.twait x0 x1 x2) s = execTwait x0 x1 x2 s := rfl
theorem dispatch_mon (x0) (x1) (x2) (x3) : exec (.mon x0 x1 x2 x3) s = execMon x0 x1 x2 x3 s := rfl
theorem dispatch_monx (x0) (x1) (x2) (x3) : exec (.monx x0 x1 x2 x3) s = execMonx x0 x1 x2 x3 s := rfl
theorem dispatch_tbind (x0) (x1) (x2) (x3) : exec (.tbind x0 x1 x2 x3) s = execTbind x0 x1 x2 x3 s := rfl
theorem dispatch_trel (x0) (x1) (x2) : exec (.trel x0 x1 x2) s = execTrel x0 x1 x2 s := rfl
theorem dispatch_tstat (x0) (x1) (x2) : exec (.tstat x0 x1 x2) s = execTstat x0 x1 x2 s := rfl
theorem dispatch_mapdef (x0) (x1) (x2) (x3) : exec (.mapdef x0 x1 x2 x3) s = execMapdef x0 x1 x2 x3 s := rfl
theorem dispatch_tmma (x0) (x1) (x2) (x3) (x4) (x5) (x6) (x7) : exec (.tmma x0 x1 x2 x3 x4 x5 x6 x7) s = execTmma x0 x1 x2 x3 x4 x5 x6 x7 s := rfl
theorem dispatch_tmmas (x0) (x1) (x2) (x3) (x4) (x5) : exec (.tmmas x0 x1 x2 x3 x4 x5) s = execTmmas x0 x1 x2 x3 x4 x5 s := rfl
theorem dispatch_wbld (x0) (x1) (x2) (x3) (x4) (x5) (x6) : exec (.wbld x0 x1 x2 x3 x4 x5 x6) s = execWbld x0 x1 x2 x3 x4 x5 x6 s := rfl
theorem dispatch_wbinv (x0) (x1) (x2) : exec (.wbinv x0 x1 x2) s = execWbinv x0 x1 x2 s := rfl
theorem dispatch_accz (x0) (x1) : exec (.accz x0 x1) s = execAccz x0 x1 s := rfl
theorem dispatch_accld (x0) (x1) (x2) (x3) (x4) : exec (.accld x0 x1 x2 x3 x4) s = execAccld x0 x1 x2 x3 x4 s := rfl
theorem dispatch_accst (x0) (x1) (x2) (x3) (x4) (x5) (x6) : exec (.accst x0 x1 x2 x3 x4 x5 x6) s = execAccst x0 x1 x2 x3 x4 x5 x6 s := rfl
theorem dispatch_accsc (x0) (x1) (x2) (x3) (x4) : exec (.accsc x0 x1 x2 x3 x4) s = execAccsc x0 x1 x2 x3 x4 s := rfl
theorem dispatch_accadd (x0) (x1) (x2) (x3) (x4) (x5) : exec (.accadd x0 x1 x2 x3 x4 x5) s = execAccadd x0 x1 x2 x3 x4 x5 s := rfl
theorem dispatch_accrd (x0) (x1) (x2) (x3) (x4) (x5) : exec (.accrd x0 x1 x2 x3 x4 x5) s = execAccrd x0 x1 x2 x3 x4 x5 s := rfl
theorem dispatch_accwr (x0) (x1) (x2) (x3) (x4) (x5) (x6) : exec (.accwr x0 x1 x2 x3 x4 x5 x6) s = execAccwr x0 x1 x2 x3 x4 x5 x6 s := rfl
theorem dispatch_convn (x0) (x1) : exec (.convn x0 x1) s = execConvn x0 x1 s := rfl
theorem dispatch_ttest (x0) (x1) : exec (.ttest x0 x1) s = execTtest x0 x1 s := rfl
theorem dispatch_trap (x0) (x1) : exec (.trap x0 x1) s = execTrap x0 x1 s := rfl
theorem dispatch_tret (x0) : exec (.tret x0) s = execTret x0 s := rfl
theorem dispatch_sysrd (x0) (x1) (x2) (x3) : exec (.sysrd x0 x1 x2 x3) s = execSysrd x0 x1 x2 x3 s := rfl
theorem dispatch_syswr (x0) (x1) (x2) (x3) : exec (.syswr x0 x1 x2 x3) s = execSyswr x0 x1 x2 x3 s := rfl
theorem dispatch_bkpt (x0) (x1) : exec (.bkpt x0 x1) s = execBkpt x0 x1 s := rfl
theorem dispatch_evt (x0) (x1) (x2) : exec (.evt x0 x1 x2) s = execEvt x0 x1 x2 s := rfl
theorem dispatch_sleep (x0) (x1) : exec (.sleep x0 x1) s = execSleep x0 x1 s := rfl
theorem dispatch_ctxWrite (x0) : exec (.ctxWrite x0) s = execCtxWrite x0 s := rfl
theorem dispatch_ctxDestroy (x0) : exec (.ctxDestroy x0) s = execCtxDestroy x0 s := rfl
theorem dispatch_tlbInval (x0) : exec (.tlbInval x0) s = execTlbInval x0 s := rfl
theorem dispatch_importWrite (x0) : exec (.importWrite x0) s = execImportWrite x0 s := rfl
theorem dispatch_preempt (x0) : exec (.preempt x0) s = execPreempt x0 s := rfl
theorem dispatch_evqWrite (x0) : exec (.evqWrite x0) s = execEvqWrite x0 s := rfl
theorem dispatch_dbgResume (x0) : exec (.dbgResume x0) s = execDbgResume x0 s := rfl
theorem dispatch_fwStage (x0) : exec (.fwStage x0) s = execFwStage x0 s := rfl
theorem dispatch_reset (x0) : exec (.reset x0) s = execReset x0 s := rfl
theorem dispatch_attest (x0) : exec (.attest x0) s = execAttest x0 s := rfl
theorem dispatch_registerWrite (x0) (x1) (x2) (x3) : exec (.registerWrite x0 x1 x2 x3) s = execRegisterWrite x0 x1 x2 x3 s := rfl
theorem dispatch_hostWrite (x0) (x1) (x2) (x3) : exec (.hostWrite x0 x1 x2 x3) s = execHostWrite x0 x1 x2 x3 s := rfl
theorem dispatch_hostRead (x0) (x1) (x2) (x3) : exec (.hostRead x0 x1 x2 x3) s = execHostRead x0 x1 x2 x3 s := rfl
theorem dispatch_pushWindowWrite (x0) (x1) (x2) (x3) : exec (.pushWindowWrite x0 x1 x2 x3) s = execPushWindowWrite x0 x1 x2 x3 s := rfl
theorem dispatch_pushWindowConsume (x0) (x1) : exec (.pushWindowConsume x0 x1) s = execPushWindowConsume x0 x1 s := rfl
theorem dispatch_launchAdmit (x0) : exec (.launchAdmit x0) s = execLaunchAdmit x0 s := rfl
theorem dispatch_launchAgeing (x0) : exec (.launchAgeing x0) s = execLaunchAgeing x0 s := rfl
theorem dispatch_dependencyCheck (x0) (x1) : exec (.dependencyCheck x0 x1) s = execDependencyCheck x0 x1 s := rfl
theorem dispatch_pointStable (x0) : exec (.pointStable x0) s = execPointStable x0 s := rfl
theorem dispatch_launchPlace (x0) (x1) (x2) : exec (.launchPlace x0 x1 x2) s = execLaunchPlace x0 x1 x2 s := rfl
theorem dispatch_bindStep (x0) (x1) : exec (.bindStep x0 x1) s = execBindStep x0 x1 s := rfl
theorem dispatch_warpRetire (x0) : exec (.warpRetire x0) s = execWarpRetire x0 s := rfl
theorem dispatch_lineFetch (x0) (x1) (x2) : exec (.lineFetch x0 x1 x2) s = execLineFetch x0 x1 x2 s := rfl
theorem dispatch_resultWriteback (x0) : exec (.resultWriteback x0) s = execResultWriteback x0 s := rfl
theorem dispatch_loadComplete (x0) : exec (.loadComplete x0) s = execLoadComplete x0 s := rfl
theorem dispatch_storeAck (x0) : exec (.storeAck x0) s = execStoreAck x0 s := rfl
theorem dispatch_warpWake (x0) : exec (.warpWake x0) s = execWarpWake x0 s := rfl
theorem dispatch_sleepExpiry (x0) : exec (.sleepExpiry x0) s = execSleepExpiry x0 s := rfl
theorem dispatch_yieldExpiry (x0) : exec (.yieldExpiry x0) s = execYieldExpiry x0 s := rfl
theorem dispatch_matrixEntryStart (x0) : exec (.matrixEntryStart x0) s = execMatrixEntryStart x0 s := rfl
theorem dispatch_tmmaStep (x0) : exec (.tmmaStep x0) s = execTmmaStep x0 s := rfl
theorem dispatch_wbldStep (x0) : exec (.wbldStep x0) s = execWbldStep x0 s := rfl
theorem dispatch_matrixEntryComplete (x0) : exec (.matrixEntryComplete x0) s = execMatrixEntryComplete x0 s := rfl
theorem dispatch_touchstoneRun (x0) (x1) : exec (.touchstoneRun x0 x1) s = execTouchstoneRun x0 x1 s := rfl
theorem dispatch_copyTake (x0) (x1) : exec (.copyTake x0 x1) s = execCopyTake x0 x1 s := rfl
theorem dispatch_copyComplete (x0) (x1) : exec (.copyComplete x0 x1) s = execCopyComplete x0 x1 s := rfl
theorem dispatch_copyAbort (x0) (x1) : exec (.copyAbort x0 x1) s = execCopyAbort x0 x1 s := rfl
theorem dispatch_convnTake (x0) : exec (.convnTake x0) s = execConvnTake x0 s := rfl
theorem dispatch_convnComplete (x0) : exec (.convnComplete x0) s = execConvnComplete x0 s := rfl
theorem dispatch_routerArrival (x0) : exec (.routerArrival x0) s = execRouterArrival x0 s := rfl
theorem dispatch_pairingExpiry (x0) : exec (.pairingExpiry x0) s = execPairingExpiry x0 s := rfl
theorem dispatch_chinitHome (x0) : exec (.chinitHome x0) s = execChinitHome x0 s := rfl
theorem dispatch_channelPushHome (x0) : exec (.channelPushHome x0) s = execChannelPushHome x0 s := rfl
theorem dispatch_channelPopHome (x0) : exec (.channelPopHome x0) s = execChannelPopHome x0 s := rfl
theorem dispatch_channelAck (x0) : exec (.channelAck x0) s = execChannelAck x0 s := rfl
theorem dispatch_channelDelivery (x0) : exec (.channelDelivery x0) s = execChannelDelivery x0 s := rfl
theorem dispatch_barrierInitUpdate (x0) : exec (.barrierInitUpdate x0) s = execBarrierInitUpdate x0 s := rfl
theorem dispatch_barrierArrival (x0) : exec (.barrierArrival x0) s = execBarrierArrival x0 s := rfl
theorem dispatch_barrierExpectation (x0) : exec (.barrierExpectation x0) s = execBarrierExpectation x0 s := rfl
theorem dispatch_barrierCredit (x0) : exec (.barrierCredit x0) s = execBarrierCredit x0 s := rfl
theorem dispatch_monitorArm (x0) : exec (.monitorArm x0) s = execMonitorArm x0 s := rfl
theorem dispatch_monxHome (x0) : exec (.monxHome x0) s = execMonxHome x0 s := rfl
theorem dispatch_ticketClaim (x0) (x1) : exec (.ticketClaim x0 x1) s = execTicketClaim x0 x1 s := rfl
theorem dispatch_ticketExpiry (x0) (x1) : exec (.ticketExpiry x0 x1) s = execTicketExpiry x0 x1 s := rfl
theorem dispatch_rds (x0) (x1) : exec (.rds x0 x1) s = execRds x0 x1 s := rfl
theorem dispatch_rdx (x0) (x1) : exec (.rdx x0 x1) s = execRdx x0 x1 s := rfl
theorem dispatch_upg (x0) (x1) : exec (.upg x0 x1) s = execUpg x0 x1 s := rfl
theorem dispatch_wbk (x0) (x1) (x2) : exec (.wbk x0 x1 x2) s = execWbk x0 x1 x2 s := rfl
theorem dispatch_hrd (x0) (x1) : exec (.hrd x0 x1) s = execHrd x0 x1 s := rfl
theorem dispatch_hwr (x0) (x1) : exec (.hwr x0 x1) s = execHwr x0 x1 s := rfl
theorem dispatch_invalidate (x0) (x1) : exec (.invalidate x0 x1) s = execInvalidate x0 x1 s := rfl
theorem dispatch_recall (x0) (x1) : exec (.recall x0 x1) s = execRecall x0 x1 s := rfl
theorem dispatch_forward (x0) (x1) : exec (.forward x0 x1) s = execForward x0 x1 s := rfl
theorem dispatch_drainRequest (x0) : exec (.drainRequest x0) s = execDrainRequest x0 s := rfl
theorem dispatch_drainAnswer (x0) : exec (.drainAnswer x0) s = execDrainAnswer x0 s := rfl
theorem dispatch_serialisationRequest (x0) : exec (.serialisationRequest x0) s = execSerialisationRequest x0 s := rfl
theorem dispatch_viewLineRequest (x0) (x1) : exec (.viewLineRequest x0 x1) s = execViewLineRequest x0 x1 s := rfl
theorem dispatch_vdDrop (x0) (x1) : exec (.vdDrop x0 x1) s = execVdDrop x0 x1 s := rfl
theorem dispatch_pageWalk (x0) (x1) (x2) : exec (.pageWalk x0 x1 x2) s = execPageWalk x0 x1 x2 s := rfl
theorem dispatch_lostAgentTimeout (x0) (x1) : exec (.lostAgentTimeout x0 x1) s = execLostAgentTimeout x0 x1 s := rfl
theorem dispatch_deferredTrapReport (x0) : exec (.deferredTrapReport x0) s = execDeferredTrapReport x0 s := rfl
theorem dispatch_siblingHalt (x0) : exec (.siblingHalt x0) s = execSiblingHalt x0 s := rfl
theorem dispatch_drainDeadline (x0) : exec (.drainDeadline x0) s = execDrainDeadline x0 s := rfl
theorem dispatch_swapDeadline (x0) : exec (.swapDeadline x0) s = execSwapDeadline x0 s := rfl
theorem dispatch_saveStart (x0) : exec (.saveStart x0) s = execSaveStart x0 s := rfl
theorem dispatch_saveComplete (x0) (x1) : exec (.saveComplete x0 x1) s = execSaveComplete x0 x1 s := rfl
theorem dispatch_restoreComplete (x0) (x1) : exec (.restoreComplete x0 x1) s = execRestoreComplete x0 x1 s := rfl
theorem dispatch_tokenRefill (x0) : exec (.tokenRefill x0) s = execTokenRefill x0 s := rfl
theorem dispatch_capChange (x0) (x1) : exec (.capChange x0 x1) s = execCapChange x0 x1 s := rfl
theorem dispatch_thermalShutdown (x0) (x1) : exec (.thermalShutdown x0 x1) s = execThermalShutdown x0 x1 s := rfl
theorem dispatch_watchdogExpiry (x0) : exec (.watchdogExpiry x0) s = execWatchdogExpiry x0 s := rfl
theorem dispatch_start (x0) (x1) : exec (.start x0 x1) s = execStart x0 x1 s := rfl
theorem dispatch_startTimeout (x0) : exec (.startTimeout x0) s = execStartTimeout x0 s := rfl
theorem dispatch_patrolScrub (x0) : exec (.patrolScrub x0) s = execPatrolScrub x0 s := rfl
theorem dispatch_spadBankFailure (x0) (x1) : exec (.spadBankFailure x0 x1) s = execSpadBankFailure x0 x1 s := rfl
theorem dispatch_spadRebuildComplete (x0) (x1) : exec (.spadRebuildComplete x0 x1) s = execSpadRebuildComplete x0 x1 s := rfl
theorem dispatch_linkTransferError (x0) (x1) (x2) : exec (.linkTransferError x0 x1 x2) s = execLinkTransferError x0 x1 x2 s := rfl
theorem dispatch_linkReplayExhausted (x0) (x1) (x2) (x3) (x4) : exec (.linkReplayExhausted x0 x1 x2 x3 x4) s = execLinkReplayExhausted x0 x1 x2 x3 x4 s := rfl
theorem dispatch_linkRetrainEnd (x0) (x1) (x2) (x3) : exec (.linkRetrainEnd x0 x1 x2 x3) s = execLinkRetrainEnd x0 x1 x2 x3 s := rfl
theorem dispatch_illegalOpcode (x0) : exec (.illegalOpcode x0) s = execIllegalOpcode x0 s := rfl
theorem dispatch_msixSignal (x0) (x1) : exec (.msixSignal x0 x1) s = execMsixSignal x0 x1 s := rfl
theorem dispatch_freeCountUpdate (x0) (x1) : exec (.freeCountUpdate x0 x1) s = execFreeCountUpdate x0 x1 s := rfl

end Sys2Proof.Machine
end

