-- ==== Sys2Proof/Laws/State.lean ====
section
/-! SUPPORT. What each update of the state leaves as it was: one lemma for each field and update. -/

namespace Sys2Proof.Machine

variable (s : State)

/-! ### setDev -/
@[simp] theorem setDev_agenda (d : Nat) (v : Dev) : (s.setDev d v).agenda = s.agenda := rfl
@[simp] theorem setDev_uses (d : Nat) (v : Dev) : (s.setDev d v).uses = s.uses := rfl
@[simp] theorem setDev_stall (d : Nat) (v : Dev) : (s.setDev d v).stall = s.stall := rfl
@[simp] theorem setDev_hold (d : Nat) (v : Dev) : (s.setDev d v).hold = s.hold := rfl
@[simp] theorem setDev_mover (d : Nat) (v : Dev) : (s.setDev d v).mover = s.mover := rfl
@[simp] theorem setDev_heldNow (d : Nat) (v : Dev) : (s.setDev d v).heldNow = s.heldNow := rfl
@[simp] theorem setDev_scrubbed (d : Nat) (v : Dev) : (s.setDev d v).scrubbed = s.scrubbed := rfl
@[simp] theorem setDev_cut (d : Nat) (v : Dev) : (s.setDev d v).cut = s.cut := rfl
@[simp] theorem setDev_cur (d : Nat) (v : Dev) : (s.setDev d v).cur = s.cur := rfl
@[simp] theorem setDev_nextId (d : Nat) (v : Dev) : (s.setDev d v).nextId = s.nextId := rfl
@[simp] theorem setDev_free (d : Nat) (v : Dev) : (s.setDev d v).free = s.free := rfl
@[simp] theorem setDev_domain (d : Nat) (v : Dev) : (s.setDev d v).domain = s.domain := rfl
@[simp] theorem setDev_hbm (d : Nat) (v : Dev) : (s.setDev d v).hbm = s.hbm := rfl
@[simp] theorem setDev_host (d : Nat) (v : Dev) : (s.setDev d v).host = s.host := rfl
@[simp] theorem setDev_blocks (d : Nat) (v : Dev) : (s.setDev d v).blocks = s.blocks := rfl
@[simp] theorem setDev_errs (d : Nat) (v : Dev) : (s.setDev d v).errs = s.errs := rfl
@[simp] theorem setDev_replicas (d : Nat) (v : Dev) : (s.setDev d v).replicas = s.replicas := rfl
@[simp] theorem setDev_l2 (d : Nat) (v : Dev) : (s.setDev d v).l2 = s.l2 := rfl
@[simp] theorem setDev_txns (d : Nat) (v : Dev) : (s.setDev d v).txns = s.txns := rfl
@[simp] theorem setDev_records (d : Nat) (v : Dev) : (s.setDev d v).records = s.records := rfl
@[simp] theorem setDev_lost (d : Nat) (v : Dev) : (s.setDev d v).lost = s.lost := rfl
@[simp] theorem setDev_scOrder (d : Nat) (v : Dev) : (s.setDev d v).scOrder = s.scOrder := rfl
@[simp] theorem setDev_dies (d : Nat) (v : Dev) : (s.setDev d v).dies = s.dies := rfl
@[simp] theorem setDev_clusters (d : Nat) (v : Dev) : (s.setDev d v).clusters = s.clusters := rfl
@[simp] theorem setDev_cores (d : Nat) (v : Dev) : (s.setDev d v).cores = s.cores := rfl
@[simp] theorem setDev_wgs (d : Nat) (v : Dev) : (s.setDev d v).wgs = s.wgs := rfl
@[simp] theorem setDev_accs (d : Nat) (v : Dev) : (s.setDev d v).accs = s.accs := rfl
@[simp] theorem setDev_wbs (d : Nat) (v : Dev) : (s.setDev d v).wbs = s.wbs := rfl
@[simp] theorem setDev_drains (d : Nat) (v : Dev) : (s.setDev d v).drains = s.drains := rfl
@[simp] theorem setDev_chops (d : Nat) (v : Dev) : (s.setDev d v).chops = s.chops := rfl
@[simp] theorem setDev_copies (d : Nat) (v : Dev) : (s.setDev d v).copies = s.copies := rfl
@[simp] theorem setDev_convs (d : Nat) (v : Dev) : (s.setDev d v).convs = s.convs := rfl
@[simp] theorem setDev_upds (d : Nat) (v : Dev) : (s.setDev d v).upds = s.upds := rfl
@[simp] theorem setDev_reports (d : Nat) (v : Dev) : (s.setDev d v).reports = s.reports := rfl

/-! ### modDev -/
@[simp] theorem modDev_agenda (d : Nat) (f : Dev → Dev) : (s.modDev d f).agenda = s.agenda := rfl
@[simp] theorem modDev_uses (d : Nat) (f : Dev → Dev) : (s.modDev d f).uses = s.uses := rfl
@[simp] theorem modDev_stall (d : Nat) (f : Dev → Dev) : (s.modDev d f).stall = s.stall := rfl
@[simp] theorem modDev_hold (d : Nat) (f : Dev → Dev) : (s.modDev d f).hold = s.hold := rfl
@[simp] theorem modDev_mover (d : Nat) (f : Dev → Dev) : (s.modDev d f).mover = s.mover := rfl
@[simp] theorem modDev_heldNow (d : Nat) (f : Dev → Dev) : (s.modDev d f).heldNow = s.heldNow := rfl
@[simp] theorem modDev_scrubbed (d : Nat) (f : Dev → Dev) : (s.modDev d f).scrubbed = s.scrubbed := rfl
@[simp] theorem modDev_cut (d : Nat) (f : Dev → Dev) : (s.modDev d f).cut = s.cut := rfl
@[simp] theorem modDev_cur (d : Nat) (f : Dev → Dev) : (s.modDev d f).cur = s.cur := rfl
@[simp] theorem modDev_nextId (d : Nat) (f : Dev → Dev) : (s.modDev d f).nextId = s.nextId := rfl
@[simp] theorem modDev_free (d : Nat) (f : Dev → Dev) : (s.modDev d f).free = s.free := rfl
@[simp] theorem modDev_domain (d : Nat) (f : Dev → Dev) : (s.modDev d f).domain = s.domain := rfl
@[simp] theorem modDev_hbm (d : Nat) (f : Dev → Dev) : (s.modDev d f).hbm = s.hbm := rfl
@[simp] theorem modDev_host (d : Nat) (f : Dev → Dev) : (s.modDev d f).host = s.host := rfl
@[simp] theorem modDev_blocks (d : Nat) (f : Dev → Dev) : (s.modDev d f).blocks = s.blocks := rfl
@[simp] theorem modDev_errs (d : Nat) (f : Dev → Dev) : (s.modDev d f).errs = s.errs := rfl
@[simp] theorem modDev_replicas (d : Nat) (f : Dev → Dev) : (s.modDev d f).replicas = s.replicas := rfl
@[simp] theorem modDev_l2 (d : Nat) (f : Dev → Dev) : (s.modDev d f).l2 = s.l2 := rfl
@[simp] theorem modDev_txns (d : Nat) (f : Dev → Dev) : (s.modDev d f).txns = s.txns := rfl
@[simp] theorem modDev_records (d : Nat) (f : Dev → Dev) : (s.modDev d f).records = s.records := rfl
@[simp] theorem modDev_lost (d : Nat) (f : Dev → Dev) : (s.modDev d f).lost = s.lost := rfl
@[simp] theorem modDev_scOrder (d : Nat) (f : Dev → Dev) : (s.modDev d f).scOrder = s.scOrder := rfl
@[simp] theorem modDev_dies (d : Nat) (f : Dev → Dev) : (s.modDev d f).dies = s.dies := rfl
@[simp] theorem modDev_clusters (d : Nat) (f : Dev → Dev) : (s.modDev d f).clusters = s.clusters := rfl
@[simp] theorem modDev_cores (d : Nat) (f : Dev → Dev) : (s.modDev d f).cores = s.cores := rfl
@[simp] theorem modDev_wgs (d : Nat) (f : Dev → Dev) : (s.modDev d f).wgs = s.wgs := rfl
@[simp] theorem modDev_accs (d : Nat) (f : Dev → Dev) : (s.modDev d f).accs = s.accs := rfl
@[simp] theorem modDev_wbs (d : Nat) (f : Dev → Dev) : (s.modDev d f).wbs = s.wbs := rfl
@[simp] theorem modDev_drains (d : Nat) (f : Dev → Dev) : (s.modDev d f).drains = s.drains := rfl
@[simp] theorem modDev_chops (d : Nat) (f : Dev → Dev) : (s.modDev d f).chops = s.chops := rfl
@[simp] theorem modDev_copies (d : Nat) (f : Dev → Dev) : (s.modDev d f).copies = s.copies := rfl
@[simp] theorem modDev_convs (d : Nat) (f : Dev → Dev) : (s.modDev d f).convs = s.convs := rfl
@[simp] theorem modDev_upds (d : Nat) (f : Dev → Dev) : (s.modDev d f).upds = s.upds := rfl
@[simp] theorem modDev_reports (d : Nat) (f : Dev → Dev) : (s.modDev d f).reports = s.reports := rfl

/-! ### modDie -/
@[simp] theorem modDie_agenda (a : Nat) (f : Die → Die) : (s.modDie a f).agenda = s.agenda := rfl
@[simp] theorem modDie_uses (a : Nat) (f : Die → Die) : (s.modDie a f).uses = s.uses := rfl
@[simp] theorem modDie_stall (a : Nat) (f : Die → Die) : (s.modDie a f).stall = s.stall := rfl
@[simp] theorem modDie_hold (a : Nat) (f : Die → Die) : (s.modDie a f).hold = s.hold := rfl
@[simp] theorem modDie_mover (a : Nat) (f : Die → Die) : (s.modDie a f).mover = s.mover := rfl
@[simp] theorem modDie_heldNow (a : Nat) (f : Die → Die) : (s.modDie a f).heldNow = s.heldNow := rfl
@[simp] theorem modDie_scrubbed (a : Nat) (f : Die → Die) : (s.modDie a f).scrubbed = s.scrubbed := rfl
@[simp] theorem modDie_cut (a : Nat) (f : Die → Die) : (s.modDie a f).cut = s.cut := rfl
@[simp] theorem modDie_cur (a : Nat) (f : Die → Die) : (s.modDie a f).cur = s.cur := rfl
@[simp] theorem modDie_nextId (a : Nat) (f : Die → Die) : (s.modDie a f).nextId = s.nextId := rfl
@[simp] theorem modDie_free (a : Nat) (f : Die → Die) : (s.modDie a f).free = s.free := rfl
@[simp] theorem modDie_domain (a : Nat) (f : Die → Die) : (s.modDie a f).domain = s.domain := rfl
@[simp] theorem modDie_hbm (a : Nat) (f : Die → Die) : (s.modDie a f).hbm = s.hbm := rfl
@[simp] theorem modDie_host (a : Nat) (f : Die → Die) : (s.modDie a f).host = s.host := rfl
@[simp] theorem modDie_blocks (a : Nat) (f : Die → Die) : (s.modDie a f).blocks = s.blocks := rfl
@[simp] theorem modDie_errs (a : Nat) (f : Die → Die) : (s.modDie a f).errs = s.errs := rfl
@[simp] theorem modDie_replicas (a : Nat) (f : Die → Die) : (s.modDie a f).replicas = s.replicas := rfl
@[simp] theorem modDie_l2 (a : Nat) (f : Die → Die) : (s.modDie a f).l2 = s.l2 := rfl
@[simp] theorem modDie_txns (a : Nat) (f : Die → Die) : (s.modDie a f).txns = s.txns := rfl
@[simp] theorem modDie_records (a : Nat) (f : Die → Die) : (s.modDie a f).records = s.records := rfl
@[simp] theorem modDie_lost (a : Nat) (f : Die → Die) : (s.modDie a f).lost = s.lost := rfl
@[simp] theorem modDie_scOrder (a : Nat) (f : Die → Die) : (s.modDie a f).scOrder = s.scOrder := rfl
@[simp] theorem modDie_devs (a : Nat) (f : Die → Die) : (s.modDie a f).devs = s.devs := rfl
@[simp] theorem modDie_clusters (a : Nat) (f : Die → Die) : (s.modDie a f).clusters = s.clusters := rfl
@[simp] theorem modDie_cores (a : Nat) (f : Die → Die) : (s.modDie a f).cores = s.cores := rfl
@[simp] theorem modDie_wgs (a : Nat) (f : Die → Die) : (s.modDie a f).wgs = s.wgs := rfl
@[simp] theorem modDie_accs (a : Nat) (f : Die → Die) : (s.modDie a f).accs = s.accs := rfl
@[simp] theorem modDie_wbs (a : Nat) (f : Die → Die) : (s.modDie a f).wbs = s.wbs := rfl
@[simp] theorem modDie_drains (a : Nat) (f : Die → Die) : (s.modDie a f).drains = s.drains := rfl
@[simp] theorem modDie_chops (a : Nat) (f : Die → Die) : (s.modDie a f).chops = s.chops := rfl
@[simp] theorem modDie_copies (a : Nat) (f : Die → Die) : (s.modDie a f).copies = s.copies := rfl
@[simp] theorem modDie_convs (a : Nat) (f : Die → Die) : (s.modDie a f).convs = s.convs := rfl
@[simp] theorem modDie_upds (a : Nat) (f : Die → Die) : (s.modDie a f).upds = s.upds := rfl
@[simp] theorem modDie_reports (a : Nat) (f : Die → Die) : (s.modDie a f).reports = s.reports := rfl

/-! ### modCluster -/
@[simp] theorem modCluster_agenda (c : Nat) (f : Cluster → Cluster) : (s.modCluster c f).agenda = s.agenda := rfl
@[simp] theorem modCluster_uses (c : Nat) (f : Cluster → Cluster) : (s.modCluster c f).uses = s.uses := rfl
@[simp] theorem modCluster_stall (c : Nat) (f : Cluster → Cluster) : (s.modCluster c f).stall = s.stall := rfl
@[simp] theorem modCluster_hold (c : Nat) (f : Cluster → Cluster) : (s.modCluster c f).hold = s.hold := rfl
@[simp] theorem modCluster_mover (c : Nat) (f : Cluster → Cluster) : (s.modCluster c f).mover = s.mover := rfl
@[simp] theorem modCluster_heldNow (c : Nat) (f : Cluster → Cluster) : (s.modCluster c f).heldNow = s.heldNow := rfl
@[simp] theorem modCluster_scrubbed (c : Nat) (f : Cluster → Cluster) : (s.modCluster c f).scrubbed = s.scrubbed := rfl
@[simp] theorem modCluster_cut (c : Nat) (f : Cluster → Cluster) : (s.modCluster c f).cut = s.cut := rfl
@[simp] theorem modCluster_cur (c : Nat) (f : Cluster → Cluster) : (s.modCluster c f).cur = s.cur := rfl
@[simp] theorem modCluster_nextId (c : Nat) (f : Cluster → Cluster) : (s.modCluster c f).nextId = s.nextId := rfl
@[simp] theorem modCluster_free (c : Nat) (f : Cluster → Cluster) : (s.modCluster c f).free = s.free := rfl
@[simp] theorem modCluster_domain (c : Nat) (f : Cluster → Cluster) : (s.modCluster c f).domain = s.domain := rfl
@[simp] theorem modCluster_hbm (c : Nat) (f : Cluster → Cluster) : (s.modCluster c f).hbm = s.hbm := rfl
@[simp] theorem modCluster_host (c : Nat) (f : Cluster → Cluster) : (s.modCluster c f).host = s.host := rfl
@[simp] theorem modCluster_blocks (c : Nat) (f : Cluster → Cluster) : (s.modCluster c f).blocks = s.blocks := rfl
@[simp] theorem modCluster_errs (c : Nat) (f : Cluster → Cluster) : (s.modCluster c f).errs = s.errs := rfl
@[simp] theorem modCluster_replicas (c : Nat) (f : Cluster → Cluster) : (s.modCluster c f).replicas = s.replicas := rfl
@[simp] theorem modCluster_l2 (c : Nat) (f : Cluster → Cluster) : (s.modCluster c f).l2 = s.l2 := rfl
@[simp] theorem modCluster_txns (c : Nat) (f : Cluster → Cluster) : (s.modCluster c f).txns = s.txns := rfl
@[simp] theorem modCluster_records (c : Nat) (f : Cluster → Cluster) : (s.modCluster c f).records = s.records := rfl
@[simp] theorem modCluster_lost (c : Nat) (f : Cluster → Cluster) : (s.modCluster c f).lost = s.lost := rfl
@[simp] theorem modCluster_scOrder (c : Nat) (f : Cluster → Cluster) : (s.modCluster c f).scOrder = s.scOrder := rfl
@[simp] theorem modCluster_devs (c : Nat) (f : Cluster → Cluster) : (s.modCluster c f).devs = s.devs := rfl
@[simp] theorem modCluster_dies (c : Nat) (f : Cluster → Cluster) : (s.modCluster c f).dies = s.dies := rfl
@[simp] theorem modCluster_cores (c : Nat) (f : Cluster → Cluster) : (s.modCluster c f).cores = s.cores := rfl
@[simp] theorem modCluster_wgs (c : Nat) (f : Cluster → Cluster) : (s.modCluster c f).wgs = s.wgs := rfl
@[simp] theorem modCluster_accs (c : Nat) (f : Cluster → Cluster) : (s.modCluster c f).accs = s.accs := rfl
@[simp] theorem modCluster_wbs (c : Nat) (f : Cluster → Cluster) : (s.modCluster c f).wbs = s.wbs := rfl
@[simp] theorem modCluster_drains (c : Nat) (f : Cluster → Cluster) : (s.modCluster c f).drains = s.drains := rfl
@[simp] theorem modCluster_chops (c : Nat) (f : Cluster → Cluster) : (s.modCluster c f).chops = s.chops := rfl
@[simp] theorem modCluster_copies (c : Nat) (f : Cluster → Cluster) : (s.modCluster c f).copies = s.copies := rfl
@[simp] theorem modCluster_convs (c : Nat) (f : Cluster → Cluster) : (s.modCluster c f).convs = s.convs := rfl
@[simp] theorem modCluster_upds (c : Nat) (f : Cluster → Cluster) : (s.modCluster c f).upds = s.upds := rfl
@[simp] theorem modCluster_reports (c : Nat) (f : Cluster → Cluster) : (s.modCluster c f).reports = s.reports := rfl

/-! ### modCore -/
@[simp] theorem modCore_agenda (c : Nat) (f : Core → Core) : (s.modCore c f).agenda = s.agenda := rfl
@[simp] theorem modCore_uses (c : Nat) (f : Core → Core) : (s.modCore c f).uses = s.uses := rfl
@[simp] theorem modCore_stall (c : Nat) (f : Core → Core) : (s.modCore c f).stall = s.stall := rfl
@[simp] theorem modCore_hold (c : Nat) (f : Core → Core) : (s.modCore c f).hold = s.hold := rfl
@[simp] theorem modCore_mover (c : Nat) (f : Core → Core) : (s.modCore c f).mover = s.mover := rfl
@[simp] theorem modCore_heldNow (c : Nat) (f : Core → Core) : (s.modCore c f).heldNow = s.heldNow := rfl
@[simp] theorem modCore_scrubbed (c : Nat) (f : Core → Core) : (s.modCore c f).scrubbed = s.scrubbed := rfl
@[simp] theorem modCore_cut (c : Nat) (f : Core → Core) : (s.modCore c f).cut = s.cut := rfl
@[simp] theorem modCore_cur (c : Nat) (f : Core → Core) : (s.modCore c f).cur = s.cur := rfl
@[simp] theorem modCore_nextId (c : Nat) (f : Core → Core) : (s.modCore c f).nextId = s.nextId := rfl
@[simp] theorem modCore_free (c : Nat) (f : Core → Core) : (s.modCore c f).free = s.free := rfl
@[simp] theorem modCore_domain (c : Nat) (f : Core → Core) : (s.modCore c f).domain = s.domain := rfl
@[simp] theorem modCore_hbm (c : Nat) (f : Core → Core) : (s.modCore c f).hbm = s.hbm := rfl
@[simp] theorem modCore_host (c : Nat) (f : Core → Core) : (s.modCore c f).host = s.host := rfl
@[simp] theorem modCore_blocks (c : Nat) (f : Core → Core) : (s.modCore c f).blocks = s.blocks := rfl
@[simp] theorem modCore_errs (c : Nat) (f : Core → Core) : (s.modCore c f).errs = s.errs := rfl
@[simp] theorem modCore_replicas (c : Nat) (f : Core → Core) : (s.modCore c f).replicas = s.replicas := rfl
@[simp] theorem modCore_l2 (c : Nat) (f : Core → Core) : (s.modCore c f).l2 = s.l2 := rfl
@[simp] theorem modCore_txns (c : Nat) (f : Core → Core) : (s.modCore c f).txns = s.txns := rfl
@[simp] theorem modCore_records (c : Nat) (f : Core → Core) : (s.modCore c f).records = s.records := rfl
@[simp] theorem modCore_lost (c : Nat) (f : Core → Core) : (s.modCore c f).lost = s.lost := rfl
@[simp] theorem modCore_scOrder (c : Nat) (f : Core → Core) : (s.modCore c f).scOrder = s.scOrder := rfl
@[simp] theorem modCore_devs (c : Nat) (f : Core → Core) : (s.modCore c f).devs = s.devs := rfl
@[simp] theorem modCore_dies (c : Nat) (f : Core → Core) : (s.modCore c f).dies = s.dies := rfl
@[simp] theorem modCore_clusters (c : Nat) (f : Core → Core) : (s.modCore c f).clusters = s.clusters := rfl
@[simp] theorem modCore_wgs (c : Nat) (f : Core → Core) : (s.modCore c f).wgs = s.wgs := rfl
@[simp] theorem modCore_accs (c : Nat) (f : Core → Core) : (s.modCore c f).accs = s.accs := rfl
@[simp] theorem modCore_wbs (c : Nat) (f : Core → Core) : (s.modCore c f).wbs = s.wbs := rfl
@[simp] theorem modCore_drains (c : Nat) (f : Core → Core) : (s.modCore c f).drains = s.drains := rfl
@[simp] theorem modCore_chops (c : Nat) (f : Core → Core) : (s.modCore c f).chops = s.chops := rfl
@[simp] theorem modCore_copies (c : Nat) (f : Core → Core) : (s.modCore c f).copies = s.copies := rfl
@[simp] theorem modCore_convs (c : Nat) (f : Core → Core) : (s.modCore c f).convs = s.convs := rfl
@[simp] theorem modCore_upds (c : Nat) (f : Core → Core) : (s.modCore c f).upds = s.upds := rfl
@[simp] theorem modCore_reports (c : Nat) (f : Core → Core) : (s.modCore c f).reports = s.reports := rfl

/-! ### modWg -/
@[simp] theorem modWg_agenda (g : WgId) (f : Wg → Wg) : (s.modWg g f).agenda = s.agenda := rfl
@[simp] theorem modWg_uses (g : WgId) (f : Wg → Wg) : (s.modWg g f).uses = s.uses := rfl
@[simp] theorem modWg_stall (g : WgId) (f : Wg → Wg) : (s.modWg g f).stall = s.stall := rfl
@[simp] theorem modWg_hold (g : WgId) (f : Wg → Wg) : (s.modWg g f).hold = s.hold := rfl
@[simp] theorem modWg_mover (g : WgId) (f : Wg → Wg) : (s.modWg g f).mover = s.mover := rfl
@[simp] theorem modWg_heldNow (g : WgId) (f : Wg → Wg) : (s.modWg g f).heldNow = s.heldNow := rfl
@[simp] theorem modWg_scrubbed (g : WgId) (f : Wg → Wg) : (s.modWg g f).scrubbed = s.scrubbed := rfl
@[simp] theorem modWg_cut (g : WgId) (f : Wg → Wg) : (s.modWg g f).cut = s.cut := rfl
@[simp] theorem modWg_cur (g : WgId) (f : Wg → Wg) : (s.modWg g f).cur = s.cur := rfl
@[simp] theorem modWg_nextId (g : WgId) (f : Wg → Wg) : (s.modWg g f).nextId = s.nextId := rfl
@[simp] theorem modWg_free (g : WgId) (f : Wg → Wg) : (s.modWg g f).free = s.free := rfl
@[simp] theorem modWg_domain (g : WgId) (f : Wg → Wg) : (s.modWg g f).domain = s.domain := rfl
@[simp] theorem modWg_hbm (g : WgId) (f : Wg → Wg) : (s.modWg g f).hbm = s.hbm := rfl
@[simp] theorem modWg_host (g : WgId) (f : Wg → Wg) : (s.modWg g f).host = s.host := rfl
@[simp] theorem modWg_blocks (g : WgId) (f : Wg → Wg) : (s.modWg g f).blocks = s.blocks := rfl
@[simp] theorem modWg_errs (g : WgId) (f : Wg → Wg) : (s.modWg g f).errs = s.errs := rfl
@[simp] theorem modWg_replicas (g : WgId) (f : Wg → Wg) : (s.modWg g f).replicas = s.replicas := rfl
@[simp] theorem modWg_l2 (g : WgId) (f : Wg → Wg) : (s.modWg g f).l2 = s.l2 := rfl
@[simp] theorem modWg_txns (g : WgId) (f : Wg → Wg) : (s.modWg g f).txns = s.txns := rfl
@[simp] theorem modWg_records (g : WgId) (f : Wg → Wg) : (s.modWg g f).records = s.records := rfl
@[simp] theorem modWg_lost (g : WgId) (f : Wg → Wg) : (s.modWg g f).lost = s.lost := rfl
@[simp] theorem modWg_scOrder (g : WgId) (f : Wg → Wg) : (s.modWg g f).scOrder = s.scOrder := rfl
@[simp] theorem modWg_devs (g : WgId) (f : Wg → Wg) : (s.modWg g f).devs = s.devs := rfl
@[simp] theorem modWg_dies (g : WgId) (f : Wg → Wg) : (s.modWg g f).dies = s.dies := rfl
@[simp] theorem modWg_clusters (g : WgId) (f : Wg → Wg) : (s.modWg g f).clusters = s.clusters := rfl
@[simp] theorem modWg_cores (g : WgId) (f : Wg → Wg) : (s.modWg g f).cores = s.cores := rfl
@[simp] theorem modWg_accs (g : WgId) (f : Wg → Wg) : (s.modWg g f).accs = s.accs := rfl
@[simp] theorem modWg_wbs (g : WgId) (f : Wg → Wg) : (s.modWg g f).wbs = s.wbs := rfl
@[simp] theorem modWg_drains (g : WgId) (f : Wg → Wg) : (s.modWg g f).drains = s.drains := rfl
@[simp] theorem modWg_chops (g : WgId) (f : Wg → Wg) : (s.modWg g f).chops = s.chops := rfl
@[simp] theorem modWg_copies (g : WgId) (f : Wg → Wg) : (s.modWg g f).copies = s.copies := rfl
@[simp] theorem modWg_convs (g : WgId) (f : Wg → Wg) : (s.modWg g f).convs = s.convs := rfl
@[simp] theorem modWg_upds (g : WgId) (f : Wg → Wg) : (s.modWg g f).upds = s.upds := rfl
@[simp] theorem modWg_reports (g : WgId) (f : Wg → Wg) : (s.modWg g f).reports = s.reports := rfl

/-! ### modWarp -/
@[simp] theorem modWarp_agenda (w : WarpId) (f : Warp → Warp) : (s.modWarp w f).agenda = s.agenda := rfl
@[simp] theorem modWarp_uses (w : WarpId) (f : Warp → Warp) : (s.modWarp w f).uses = s.uses := rfl
@[simp] theorem modWarp_stall (w : WarpId) (f : Warp → Warp) : (s.modWarp w f).stall = s.stall := rfl
@[simp] theorem modWarp_hold (w : WarpId) (f : Warp → Warp) : (s.modWarp w f).hold = s.hold := rfl
@[simp] theorem modWarp_mover (w : WarpId) (f : Warp → Warp) : (s.modWarp w f).mover = s.mover := rfl
@[simp] theorem modWarp_heldNow (w : WarpId) (f : Warp → Warp) : (s.modWarp w f).heldNow = s.heldNow := rfl
@[simp] theorem modWarp_scrubbed (w : WarpId) (f : Warp → Warp) : (s.modWarp w f).scrubbed = s.scrubbed := rfl
@[simp] theorem modWarp_cut (w : WarpId) (f : Warp → Warp) : (s.modWarp w f).cut = s.cut := rfl
@[simp] theorem modWarp_cur (w : WarpId) (f : Warp → Warp) : (s.modWarp w f).cur = s.cur := rfl
@[simp] theorem modWarp_nextId (w : WarpId) (f : Warp → Warp) : (s.modWarp w f).nextId = s.nextId := rfl
@[simp] theorem modWarp_free (w : WarpId) (f : Warp → Warp) : (s.modWarp w f).free = s.free := rfl
@[simp] theorem modWarp_domain (w : WarpId) (f : Warp → Warp) : (s.modWarp w f).domain = s.domain := rfl
@[simp] theorem modWarp_hbm (w : WarpId) (f : Warp → Warp) : (s.modWarp w f).hbm = s.hbm := rfl
@[simp] theorem modWarp_host (w : WarpId) (f : Warp → Warp) : (s.modWarp w f).host = s.host := rfl
@[simp] theorem modWarp_blocks (w : WarpId) (f : Warp → Warp) : (s.modWarp w f).blocks = s.blocks := rfl
@[simp] theorem modWarp_errs (w : WarpId) (f : Warp → Warp) : (s.modWarp w f).errs = s.errs := rfl
@[simp] theorem modWarp_replicas (w : WarpId) (f : Warp → Warp) : (s.modWarp w f).replicas = s.replicas := rfl
@[simp] theorem modWarp_l2 (w : WarpId) (f : Warp → Warp) : (s.modWarp w f).l2 = s.l2 := rfl
@[simp] theorem modWarp_txns (w : WarpId) (f : Warp → Warp) : (s.modWarp w f).txns = s.txns := rfl
@[simp] theorem modWarp_records (w : WarpId) (f : Warp → Warp) : (s.modWarp w f).records = s.records := rfl
@[simp] theorem modWarp_lost (w : WarpId) (f : Warp → Warp) : (s.modWarp w f).lost = s.lost := rfl
@[simp] theorem modWarp_scOrder (w : WarpId) (f : Warp → Warp) : (s.modWarp w f).scOrder = s.scOrder := rfl
@[simp] theorem modWarp_devs (w : WarpId) (f : Warp → Warp) : (s.modWarp w f).devs = s.devs := rfl
@[simp] theorem modWarp_dies (w : WarpId) (f : Warp → Warp) : (s.modWarp w f).dies = s.dies := rfl
@[simp] theorem modWarp_clusters (w : WarpId) (f : Warp → Warp) : (s.modWarp w f).clusters = s.clusters := rfl
@[simp] theorem modWarp_cores (w : WarpId) (f : Warp → Warp) : (s.modWarp w f).cores = s.cores := rfl
@[simp] theorem modWarp_accs (w : WarpId) (f : Warp → Warp) : (s.modWarp w f).accs = s.accs := rfl
@[simp] theorem modWarp_wbs (w : WarpId) (f : Warp → Warp) : (s.modWarp w f).wbs = s.wbs := rfl
@[simp] theorem modWarp_drains (w : WarpId) (f : Warp → Warp) : (s.modWarp w f).drains = s.drains := rfl
@[simp] theorem modWarp_chops (w : WarpId) (f : Warp → Warp) : (s.modWarp w f).chops = s.chops := rfl
@[simp] theorem modWarp_copies (w : WarpId) (f : Warp → Warp) : (s.modWarp w f).copies = s.copies := rfl
@[simp] theorem modWarp_convs (w : WarpId) (f : Warp → Warp) : (s.modWarp w f).convs = s.convs := rfl
@[simp] theorem modWarp_upds (w : WarpId) (f : Warp → Warp) : (s.modWarp w f).upds = s.upds := rfl
@[simp] theorem modWarp_reports (w : WarpId) (f : Warp → Warp) : (s.modWarp w f).reports = s.reports := rfl

/-! ### soon -/
@[simp] theorem soon_cur (m : Move) : (s.soon m).cur = s.cur := rfl
@[simp] theorem soon_nextId (m : Move) : (s.soon m).nextId = s.nextId := rfl
@[simp] theorem soon_free (m : Move) : (s.soon m).free = s.free := rfl
@[simp] theorem soon_domain (m : Move) : (s.soon m).domain = s.domain := rfl
@[simp] theorem soon_hbm (m : Move) : (s.soon m).hbm = s.hbm := rfl
@[simp] theorem soon_host (m : Move) : (s.soon m).host = s.host := rfl
@[simp] theorem soon_blocks (m : Move) : (s.soon m).blocks = s.blocks := rfl
@[simp] theorem soon_errs (m : Move) : (s.soon m).errs = s.errs := rfl
@[simp] theorem soon_replicas (m : Move) : (s.soon m).replicas = s.replicas := rfl
@[simp] theorem soon_l2 (m : Move) : (s.soon m).l2 = s.l2 := rfl
@[simp] theorem soon_txns (m : Move) : (s.soon m).txns = s.txns := rfl
@[simp] theorem soon_records (m : Move) : (s.soon m).records = s.records := rfl
@[simp] theorem soon_lost (m : Move) : (s.soon m).lost = s.lost := rfl
@[simp] theorem soon_scOrder (m : Move) : (s.soon m).scOrder = s.scOrder := rfl
@[simp] theorem soon_devs (m : Move) : (s.soon m).devs = s.devs := rfl
@[simp] theorem soon_dies (m : Move) : (s.soon m).dies = s.dies := rfl
@[simp] theorem soon_clusters (m : Move) : (s.soon m).clusters = s.clusters := rfl
@[simp] theorem soon_cores (m : Move) : (s.soon m).cores = s.cores := rfl
@[simp] theorem soon_wgs (m : Move) : (s.soon m).wgs = s.wgs := rfl
@[simp] theorem soon_accs (m : Move) : (s.soon m).accs = s.accs := rfl
@[simp] theorem soon_wbs (m : Move) : (s.soon m).wbs = s.wbs := rfl
@[simp] theorem soon_drains (m : Move) : (s.soon m).drains = s.drains := rfl
@[simp] theorem soon_chops (m : Move) : (s.soon m).chops = s.chops := rfl
@[simp] theorem soon_copies (m : Move) : (s.soon m).copies = s.copies := rfl
@[simp] theorem soon_convs (m : Move) : (s.soon m).convs = s.convs := rfl
@[simp] theorem soon_upds (m : Move) : (s.soon m).upds = s.upds := rfl
@[simp] theorem soon_reports (m : Move) : (s.soon m).reports = s.reports := rfl

/-! ### hostStore -/
@[simp] theorem hostStore_agenda (d a n v : Nat) : (s.hostStore d a n v).agenda = s.agenda := rfl
@[simp] theorem hostStore_uses (d a n v : Nat) : (s.hostStore d a n v).uses = s.uses := rfl
@[simp] theorem hostStore_stall (d a n v : Nat) : (s.hostStore d a n v).stall = s.stall := rfl
@[simp] theorem hostStore_hold (d a n v : Nat) : (s.hostStore d a n v).hold = s.hold := rfl
@[simp] theorem hostStore_mover (d a n v : Nat) : (s.hostStore d a n v).mover = s.mover := rfl
@[simp] theorem hostStore_heldNow (d a n v : Nat) : (s.hostStore d a n v).heldNow = s.heldNow := rfl
@[simp] theorem hostStore_scrubbed (d a n v : Nat) : (s.hostStore d a n v).scrubbed = s.scrubbed := rfl
@[simp] theorem hostStore_cut (d a n v : Nat) : (s.hostStore d a n v).cut = s.cut := rfl
@[simp] theorem hostStore_cur (d a n v : Nat) : (s.hostStore d a n v).cur = s.cur := rfl
@[simp] theorem hostStore_nextId (d a n v : Nat) : (s.hostStore d a n v).nextId = s.nextId := rfl
@[simp] theorem hostStore_free (d a n v : Nat) : (s.hostStore d a n v).free = s.free := rfl
@[simp] theorem hostStore_domain (d a n v : Nat) : (s.hostStore d a n v).domain = s.domain := rfl
@[simp] theorem hostStore_hbm (d a n v : Nat) : (s.hostStore d a n v).hbm = s.hbm := rfl
@[simp] theorem hostStore_blocks (d a n v : Nat) : (s.hostStore d a n v).blocks = s.blocks := rfl
@[simp] theorem hostStore_errs (d a n v : Nat) : (s.hostStore d a n v).errs = s.errs := rfl
@[simp] theorem hostStore_replicas (d a n v : Nat) : (s.hostStore d a n v).replicas = s.replicas := rfl
@[simp] theorem hostStore_l2 (d a n v : Nat) : (s.hostStore d a n v).l2 = s.l2 := rfl
@[simp] theorem hostStore_txns (d a n v : Nat) : (s.hostStore d a n v).txns = s.txns := rfl
@[simp] theorem hostStore_records (d a n v : Nat) : (s.hostStore d a n v).records = s.records := rfl
@[simp] theorem hostStore_lost (d a n v : Nat) : (s.hostStore d a n v).lost = s.lost := rfl
@[simp] theorem hostStore_scOrder (d a n v : Nat) : (s.hostStore d a n v).scOrder = s.scOrder := rfl
@[simp] theorem hostStore_devs (d a n v : Nat) : (s.hostStore d a n v).devs = s.devs := rfl
@[simp] theorem hostStore_dies (d a n v : Nat) : (s.hostStore d a n v).dies = s.dies := rfl
@[simp] theorem hostStore_clusters (d a n v : Nat) : (s.hostStore d a n v).clusters = s.clusters := rfl
@[simp] theorem hostStore_cores (d a n v : Nat) : (s.hostStore d a n v).cores = s.cores := rfl
@[simp] theorem hostStore_wgs (d a n v : Nat) : (s.hostStore d a n v).wgs = s.wgs := rfl
@[simp] theorem hostStore_accs (d a n v : Nat) : (s.hostStore d a n v).accs = s.accs := rfl
@[simp] theorem hostStore_wbs (d a n v : Nat) : (s.hostStore d a n v).wbs = s.wbs := rfl
@[simp] theorem hostStore_drains (d a n v : Nat) : (s.hostStore d a n v).drains = s.drains := rfl
@[simp] theorem hostStore_chops (d a n v : Nat) : (s.hostStore d a n v).chops = s.chops := rfl
@[simp] theorem hostStore_copies (d a n v : Nat) : (s.hostStore d a n v).copies = s.copies := rfl
@[simp] theorem hostStore_convs (d a n v : Nat) : (s.hostStore d a n v).convs = s.convs := rfl
@[simp] theorem hostStore_upds (d a n v : Nat) : (s.hostStore d a n v).upds = s.upds := rfl
@[simp] theorem hostStore_reports (d a n v : Nat) : (s.hostStore d a n v).reports = s.reports := rfl

/-! ### modAcc -/
@[simp] theorem modAcc_agenda (i : Nat) (f : Acc → Acc) : (modAcc s i f).agenda = s.agenda := rfl
@[simp] theorem modAcc_uses (i : Nat) (f : Acc → Acc) : (modAcc s i f).uses = s.uses := rfl
@[simp] theorem modAcc_stall (i : Nat) (f : Acc → Acc) : (modAcc s i f).stall = s.stall := rfl
@[simp] theorem modAcc_hold (i : Nat) (f : Acc → Acc) : (modAcc s i f).hold = s.hold := rfl
@[simp] theorem modAcc_mover (i : Nat) (f : Acc → Acc) : (modAcc s i f).mover = s.mover := rfl
@[simp] theorem modAcc_heldNow (i : Nat) (f : Acc → Acc) : (modAcc s i f).heldNow = s.heldNow := rfl
@[simp] theorem modAcc_scrubbed (i : Nat) (f : Acc → Acc) : (modAcc s i f).scrubbed = s.scrubbed := rfl
@[simp] theorem modAcc_cut (i : Nat) (f : Acc → Acc) : (modAcc s i f).cut = s.cut := rfl
@[simp] theorem modAcc_cur (i : Nat) (f : Acc → Acc) : (modAcc s i f).cur = s.cur := rfl
@[simp] theorem modAcc_nextId (i : Nat) (f : Acc → Acc) : (modAcc s i f).nextId = s.nextId := rfl
@[simp] theorem modAcc_free (i : Nat) (f : Acc → Acc) : (modAcc s i f).free = s.free := rfl
@[simp] theorem modAcc_domain (i : Nat) (f : Acc → Acc) : (modAcc s i f).domain = s.domain := rfl
@[simp] theorem modAcc_hbm (i : Nat) (f : Acc → Acc) : (modAcc s i f).hbm = s.hbm := rfl
@[simp] theorem modAcc_host (i : Nat) (f : Acc → Acc) : (modAcc s i f).host = s.host := rfl
@[simp] theorem modAcc_blocks (i : Nat) (f : Acc → Acc) : (modAcc s i f).blocks = s.blocks := rfl
@[simp] theorem modAcc_errs (i : Nat) (f : Acc → Acc) : (modAcc s i f).errs = s.errs := rfl
@[simp] theorem modAcc_replicas (i : Nat) (f : Acc → Acc) : (modAcc s i f).replicas = s.replicas := rfl
@[simp] theorem modAcc_l2 (i : Nat) (f : Acc → Acc) : (modAcc s i f).l2 = s.l2 := rfl
@[simp] theorem modAcc_txns (i : Nat) (f : Acc → Acc) : (modAcc s i f).txns = s.txns := rfl
@[simp] theorem modAcc_records (i : Nat) (f : Acc → Acc) : (modAcc s i f).records = s.records := rfl
@[simp] theorem modAcc_lost (i : Nat) (f : Acc → Acc) : (modAcc s i f).lost = s.lost := rfl
@[simp] theorem modAcc_scOrder (i : Nat) (f : Acc → Acc) : (modAcc s i f).scOrder = s.scOrder := rfl
@[simp] theorem modAcc_devs (i : Nat) (f : Acc → Acc) : (modAcc s i f).devs = s.devs := rfl
@[simp] theorem modAcc_dies (i : Nat) (f : Acc → Acc) : (modAcc s i f).dies = s.dies := rfl
@[simp] theorem modAcc_clusters (i : Nat) (f : Acc → Acc) : (modAcc s i f).clusters = s.clusters := rfl
@[simp] theorem modAcc_cores (i : Nat) (f : Acc → Acc) : (modAcc s i f).cores = s.cores := rfl
@[simp] theorem modAcc_wgs (i : Nat) (f : Acc → Acc) : (modAcc s i f).wgs = s.wgs := rfl
@[simp] theorem modAcc_wbs (i : Nat) (f : Acc → Acc) : (modAcc s i f).wbs = s.wbs := rfl
@[simp] theorem modAcc_drains (i : Nat) (f : Acc → Acc) : (modAcc s i f).drains = s.drains := rfl
@[simp] theorem modAcc_chops (i : Nat) (f : Acc → Acc) : (modAcc s i f).chops = s.chops := rfl
@[simp] theorem modAcc_copies (i : Nat) (f : Acc → Acc) : (modAcc s i f).copies = s.copies := rfl
@[simp] theorem modAcc_convs (i : Nat) (f : Acc → Acc) : (modAcc s i f).convs = s.convs := rfl
@[simp] theorem modAcc_upds (i : Nat) (f : Acc → Acc) : (modAcc s i f).upds = s.upds := rfl
@[simp] theorem modAcc_reports (i : Nat) (f : Acc → Acc) : (modAcc s i f).reports = s.reports := rfl

/-! ### dropAcc -/
@[simp] theorem dropAcc_agenda (i : Nat) : (s.dropAcc i).agenda = s.agenda := rfl
@[simp] theorem dropAcc_uses (i : Nat) : (s.dropAcc i).uses = s.uses := rfl
@[simp] theorem dropAcc_stall (i : Nat) : (s.dropAcc i).stall = s.stall := rfl
@[simp] theorem dropAcc_hold (i : Nat) : (s.dropAcc i).hold = s.hold := rfl
@[simp] theorem dropAcc_mover (i : Nat) : (s.dropAcc i).mover = s.mover := rfl
@[simp] theorem dropAcc_heldNow (i : Nat) : (s.dropAcc i).heldNow = s.heldNow := rfl
@[simp] theorem dropAcc_scrubbed (i : Nat) : (s.dropAcc i).scrubbed = s.scrubbed := rfl
@[simp] theorem dropAcc_cut (i : Nat) : (s.dropAcc i).cut = s.cut := rfl
@[simp] theorem dropAcc_cur (i : Nat) : (s.dropAcc i).cur = s.cur := rfl
@[simp] theorem dropAcc_nextId (i : Nat) : (s.dropAcc i).nextId = s.nextId := rfl
@[simp] theorem dropAcc_free (i : Nat) : (s.dropAcc i).free = s.free := rfl
@[simp] theorem dropAcc_domain (i : Nat) : (s.dropAcc i).domain = s.domain := rfl
@[simp] theorem dropAcc_hbm (i : Nat) : (s.dropAcc i).hbm = s.hbm := rfl
@[simp] theorem dropAcc_host (i : Nat) : (s.dropAcc i).host = s.host := rfl
@[simp] theorem dropAcc_blocks (i : Nat) : (s.dropAcc i).blocks = s.blocks := rfl
@[simp] theorem dropAcc_errs (i : Nat) : (s.dropAcc i).errs = s.errs := rfl
@[simp] theorem dropAcc_replicas (i : Nat) : (s.dropAcc i).replicas = s.replicas := rfl
@[simp] theorem dropAcc_l2 (i : Nat) : (s.dropAcc i).l2 = s.l2 := rfl
@[simp] theorem dropAcc_txns (i : Nat) : (s.dropAcc i).txns = s.txns := rfl
@[simp] theorem dropAcc_records (i : Nat) : (s.dropAcc i).records = s.records := rfl
@[simp] theorem dropAcc_lost (i : Nat) : (s.dropAcc i).lost = s.lost := rfl
@[simp] theorem dropAcc_scOrder (i : Nat) : (s.dropAcc i).scOrder = s.scOrder := rfl
@[simp] theorem dropAcc_devs (i : Nat) : (s.dropAcc i).devs = s.devs := rfl
@[simp] theorem dropAcc_dies (i : Nat) : (s.dropAcc i).dies = s.dies := rfl
@[simp] theorem dropAcc_clusters (i : Nat) : (s.dropAcc i).clusters = s.clusters := rfl
@[simp] theorem dropAcc_cores (i : Nat) : (s.dropAcc i).cores = s.cores := rfl
@[simp] theorem dropAcc_wgs (i : Nat) : (s.dropAcc i).wgs = s.wgs := rfl
@[simp] theorem dropAcc_wbs (i : Nat) : (s.dropAcc i).wbs = s.wbs := rfl
@[simp] theorem dropAcc_drains (i : Nat) : (s.dropAcc i).drains = s.drains := rfl
@[simp] theorem dropAcc_chops (i : Nat) : (s.dropAcc i).chops = s.chops := rfl
@[simp] theorem dropAcc_copies (i : Nat) : (s.dropAcc i).copies = s.copies := rfl
@[simp] theorem dropAcc_convs (i : Nat) : (s.dropAcc i).convs = s.convs := rfl
@[simp] theorem dropAcc_upds (i : Nat) : (s.dropAcc i).upds = s.upds := rfl
@[simp] theorem dropAcc_reports (i : Nat) : (s.dropAcc i).reports = s.reports := rfl

/-! ### modChop -/
@[simp] theorem modChop_agenda (i : Nat) (f : ChOp → ChOp) : (modChop s i f).agenda = s.agenda := rfl
@[simp] theorem modChop_uses (i : Nat) (f : ChOp → ChOp) : (modChop s i f).uses = s.uses := rfl
@[simp] theorem modChop_stall (i : Nat) (f : ChOp → ChOp) : (modChop s i f).stall = s.stall := rfl
@[simp] theorem modChop_hold (i : Nat) (f : ChOp → ChOp) : (modChop s i f).hold = s.hold := rfl
@[simp] theorem modChop_mover (i : Nat) (f : ChOp → ChOp) : (modChop s i f).mover = s.mover := rfl
@[simp] theorem modChop_heldNow (i : Nat) (f : ChOp → ChOp) : (modChop s i f).heldNow = s.heldNow := rfl
@[simp] theorem modChop_scrubbed (i : Nat) (f : ChOp → ChOp) : (modChop s i f).scrubbed = s.scrubbed := rfl
@[simp] theorem modChop_cut (i : Nat) (f : ChOp → ChOp) : (modChop s i f).cut = s.cut := rfl
@[simp] theorem modChop_cur (i : Nat) (f : ChOp → ChOp) : (modChop s i f).cur = s.cur := rfl
@[simp] theorem modChop_nextId (i : Nat) (f : ChOp → ChOp) : (modChop s i f).nextId = s.nextId := rfl
@[simp] theorem modChop_free (i : Nat) (f : ChOp → ChOp) : (modChop s i f).free = s.free := rfl
@[simp] theorem modChop_domain (i : Nat) (f : ChOp → ChOp) : (modChop s i f).domain = s.domain := rfl
@[simp] theorem modChop_hbm (i : Nat) (f : ChOp → ChOp) : (modChop s i f).hbm = s.hbm := rfl
@[simp] theorem modChop_host (i : Nat) (f : ChOp → ChOp) : (modChop s i f).host = s.host := rfl
@[simp] theorem modChop_blocks (i : Nat) (f : ChOp → ChOp) : (modChop s i f).blocks = s.blocks := rfl
@[simp] theorem modChop_errs (i : Nat) (f : ChOp → ChOp) : (modChop s i f).errs = s.errs := rfl
@[simp] theorem modChop_replicas (i : Nat) (f : ChOp → ChOp) : (modChop s i f).replicas = s.replicas := rfl
@[simp] theorem modChop_l2 (i : Nat) (f : ChOp → ChOp) : (modChop s i f).l2 = s.l2 := rfl
@[simp] theorem modChop_txns (i : Nat) (f : ChOp → ChOp) : (modChop s i f).txns = s.txns := rfl
@[simp] theorem modChop_records (i : Nat) (f : ChOp → ChOp) : (modChop s i f).records = s.records := rfl
@[simp] theorem modChop_lost (i : Nat) (f : ChOp → ChOp) : (modChop s i f).lost = s.lost := rfl
@[simp] theorem modChop_scOrder (i : Nat) (f : ChOp → ChOp) : (modChop s i f).scOrder = s.scOrder := rfl
@[simp] theorem modChop_devs (i : Nat) (f : ChOp → ChOp) : (modChop s i f).devs = s.devs := rfl
@[simp] theorem modChop_dies (i : Nat) (f : ChOp → ChOp) : (modChop s i f).dies = s.dies := rfl
@[simp] theorem modChop_clusters (i : Nat) (f : ChOp → ChOp) : (modChop s i f).clusters = s.clusters := rfl
@[simp] theorem modChop_cores (i : Nat) (f : ChOp → ChOp) : (modChop s i f).cores = s.cores := rfl
@[simp] theorem modChop_wgs (i : Nat) (f : ChOp → ChOp) : (modChop s i f).wgs = s.wgs := rfl
@[simp] theorem modChop_accs (i : Nat) (f : ChOp → ChOp) : (modChop s i f).accs = s.accs := rfl
@[simp] theorem modChop_wbs (i : Nat) (f : ChOp → ChOp) : (modChop s i f).wbs = s.wbs := rfl
@[simp] theorem modChop_drains (i : Nat) (f : ChOp → ChOp) : (modChop s i f).drains = s.drains := rfl
@[simp] theorem modChop_copies (i : Nat) (f : ChOp → ChOp) : (modChop s i f).copies = s.copies := rfl
@[simp] theorem modChop_convs (i : Nat) (f : ChOp → ChOp) : (modChop s i f).convs = s.convs := rfl
@[simp] theorem modChop_upds (i : Nat) (f : ChOp → ChOp) : (modChop s i f).upds = s.upds := rfl
@[simp] theorem modChop_reports (i : Nat) (f : ChOp → ChOp) : (modChop s i f).reports = s.reports := rfl

/-! ### dropChop -/
@[simp] theorem dropChop_agenda (i : Nat) : (s.dropChop i).agenda = s.agenda := rfl
@[simp] theorem dropChop_uses (i : Nat) : (s.dropChop i).uses = s.uses := rfl
@[simp] theorem dropChop_stall (i : Nat) : (s.dropChop i).stall = s.stall := rfl
@[simp] theorem dropChop_hold (i : Nat) : (s.dropChop i).hold = s.hold := rfl
@[simp] theorem dropChop_mover (i : Nat) : (s.dropChop i).mover = s.mover := rfl
@[simp] theorem dropChop_heldNow (i : Nat) : (s.dropChop i).heldNow = s.heldNow := rfl
@[simp] theorem dropChop_scrubbed (i : Nat) : (s.dropChop i).scrubbed = s.scrubbed := rfl
@[simp] theorem dropChop_cut (i : Nat) : (s.dropChop i).cut = s.cut := rfl
@[simp] theorem dropChop_cur (i : Nat) : (s.dropChop i).cur = s.cur := rfl
@[simp] theorem dropChop_nextId (i : Nat) : (s.dropChop i).nextId = s.nextId := rfl
@[simp] theorem dropChop_free (i : Nat) : (s.dropChop i).free = s.free := rfl
@[simp] theorem dropChop_domain (i : Nat) : (s.dropChop i).domain = s.domain := rfl
@[simp] theorem dropChop_hbm (i : Nat) : (s.dropChop i).hbm = s.hbm := rfl
@[simp] theorem dropChop_host (i : Nat) : (s.dropChop i).host = s.host := rfl
@[simp] theorem dropChop_blocks (i : Nat) : (s.dropChop i).blocks = s.blocks := rfl
@[simp] theorem dropChop_errs (i : Nat) : (s.dropChop i).errs = s.errs := rfl
@[simp] theorem dropChop_replicas (i : Nat) : (s.dropChop i).replicas = s.replicas := rfl
@[simp] theorem dropChop_l2 (i : Nat) : (s.dropChop i).l2 = s.l2 := rfl
@[simp] theorem dropChop_txns (i : Nat) : (s.dropChop i).txns = s.txns := rfl
@[simp] theorem dropChop_records (i : Nat) : (s.dropChop i).records = s.records := rfl
@[simp] theorem dropChop_lost (i : Nat) : (s.dropChop i).lost = s.lost := rfl
@[simp] theorem dropChop_scOrder (i : Nat) : (s.dropChop i).scOrder = s.scOrder := rfl
@[simp] theorem dropChop_devs (i : Nat) : (s.dropChop i).devs = s.devs := rfl
@[simp] theorem dropChop_dies (i : Nat) : (s.dropChop i).dies = s.dies := rfl
@[simp] theorem dropChop_clusters (i : Nat) : (s.dropChop i).clusters = s.clusters := rfl
@[simp] theorem dropChop_cores (i : Nat) : (s.dropChop i).cores = s.cores := rfl
@[simp] theorem dropChop_wgs (i : Nat) : (s.dropChop i).wgs = s.wgs := rfl
@[simp] theorem dropChop_accs (i : Nat) : (s.dropChop i).accs = s.accs := rfl
@[simp] theorem dropChop_wbs (i : Nat) : (s.dropChop i).wbs = s.wbs := rfl
@[simp] theorem dropChop_drains (i : Nat) : (s.dropChop i).drains = s.drains := rfl
@[simp] theorem dropChop_copies (i : Nat) : (s.dropChop i).copies = s.copies := rfl
@[simp] theorem dropChop_convs (i : Nat) : (s.dropChop i).convs = s.convs := rfl
@[simp] theorem dropChop_upds (i : Nat) : (s.dropChop i).upds = s.upds := rfl
@[simp] theorem dropChop_reports (i : Nat) : (s.dropChop i).reports = s.reports := rfl

/-! ### modUpd -/
@[simp] theorem modUpd_agenda (i : Nat) (f : Upd → Upd) : (modUpd s i f).agenda = s.agenda := rfl
@[simp] theorem modUpd_uses (i : Nat) (f : Upd → Upd) : (modUpd s i f).uses = s.uses := rfl
@[simp] theorem modUpd_stall (i : Nat) (f : Upd → Upd) : (modUpd s i f).stall = s.stall := rfl
@[simp] theorem modUpd_hold (i : Nat) (f : Upd → Upd) : (modUpd s i f).hold = s.hold := rfl
@[simp] theorem modUpd_mover (i : Nat) (f : Upd → Upd) : (modUpd s i f).mover = s.mover := rfl
@[simp] theorem modUpd_heldNow (i : Nat) (f : Upd → Upd) : (modUpd s i f).heldNow = s.heldNow := rfl
@[simp] theorem modUpd_scrubbed (i : Nat) (f : Upd → Upd) : (modUpd s i f).scrubbed = s.scrubbed := rfl
@[simp] theorem modUpd_cut (i : Nat) (f : Upd → Upd) : (modUpd s i f).cut = s.cut := rfl
@[simp] theorem modUpd_cur (i : Nat) (f : Upd → Upd) : (modUpd s i f).cur = s.cur := rfl
@[simp] theorem modUpd_nextId (i : Nat) (f : Upd → Upd) : (modUpd s i f).nextId = s.nextId := rfl
@[simp] theorem modUpd_free (i : Nat) (f : Upd → Upd) : (modUpd s i f).free = s.free := rfl
@[simp] theorem modUpd_domain (i : Nat) (f : Upd → Upd) : (modUpd s i f).domain = s.domain := rfl
@[simp] theorem modUpd_hbm (i : Nat) (f : Upd → Upd) : (modUpd s i f).hbm = s.hbm := rfl
@[simp] theorem modUpd_host (i : Nat) (f : Upd → Upd) : (modUpd s i f).host = s.host := rfl
@[simp] theorem modUpd_blocks (i : Nat) (f : Upd → Upd) : (modUpd s i f).blocks = s.blocks := rfl
@[simp] theorem modUpd_errs (i : Nat) (f : Upd → Upd) : (modUpd s i f).errs = s.errs := rfl
@[simp] theorem modUpd_replicas (i : Nat) (f : Upd → Upd) : (modUpd s i f).replicas = s.replicas := rfl
@[simp] theorem modUpd_l2 (i : Nat) (f : Upd → Upd) : (modUpd s i f).l2 = s.l2 := rfl
@[simp] theorem modUpd_txns (i : Nat) (f : Upd → Upd) : (modUpd s i f).txns = s.txns := rfl
@[simp] theorem modUpd_records (i : Nat) (f : Upd → Upd) : (modUpd s i f).records = s.records := rfl
@[simp] theorem modUpd_lost (i : Nat) (f : Upd → Upd) : (modUpd s i f).lost = s.lost := rfl
@[simp] theorem modUpd_scOrder (i : Nat) (f : Upd → Upd) : (modUpd s i f).scOrder = s.scOrder := rfl
@[simp] theorem modUpd_devs (i : Nat) (f : Upd → Upd) : (modUpd s i f).devs = s.devs := rfl
@[simp] theorem modUpd_dies (i : Nat) (f : Upd → Upd) : (modUpd s i f).dies = s.dies := rfl
@[simp] theorem modUpd_clusters (i : Nat) (f : Upd → Upd) : (modUpd s i f).clusters = s.clusters := rfl
@[simp] theorem modUpd_cores (i : Nat) (f : Upd → Upd) : (modUpd s i f).cores = s.cores := rfl
@[simp] theorem modUpd_wgs (i : Nat) (f : Upd → Upd) : (modUpd s i f).wgs = s.wgs := rfl
@[simp] theorem modUpd_accs (i : Nat) (f : Upd → Upd) : (modUpd s i f).accs = s.accs := rfl
@[simp] theorem modUpd_wbs (i : Nat) (f : Upd → Upd) : (modUpd s i f).wbs = s.wbs := rfl
@[simp] theorem modUpd_drains (i : Nat) (f : Upd → Upd) : (modUpd s i f).drains = s.drains := rfl
@[simp] theorem modUpd_chops (i : Nat) (f : Upd → Upd) : (modUpd s i f).chops = s.chops := rfl
@[simp] theorem modUpd_copies (i : Nat) (f : Upd → Upd) : (modUpd s i f).copies = s.copies := rfl
@[simp] theorem modUpd_convs (i : Nat) (f : Upd → Upd) : (modUpd s i f).convs = s.convs := rfl
@[simp] theorem modUpd_reports (i : Nat) (f : Upd → Upd) : (modUpd s i f).reports = s.reports := rfl

/-! ### dropUpd -/
@[simp] theorem dropUpd_agenda (i : Nat) : (s.dropUpd i).agenda = s.agenda := rfl
@[simp] theorem dropUpd_uses (i : Nat) : (s.dropUpd i).uses = s.uses := rfl
@[simp] theorem dropUpd_stall (i : Nat) : (s.dropUpd i).stall = s.stall := rfl
@[simp] theorem dropUpd_hold (i : Nat) : (s.dropUpd i).hold = s.hold := rfl
@[simp] theorem dropUpd_mover (i : Nat) : (s.dropUpd i).mover = s.mover := rfl
@[simp] theorem dropUpd_heldNow (i : Nat) : (s.dropUpd i).heldNow = s.heldNow := rfl
@[simp] theorem dropUpd_scrubbed (i : Nat) : (s.dropUpd i).scrubbed = s.scrubbed := rfl
@[simp] theorem dropUpd_cut (i : Nat) : (s.dropUpd i).cut = s.cut := rfl
@[simp] theorem dropUpd_cur (i : Nat) : (s.dropUpd i).cur = s.cur := rfl
@[simp] theorem dropUpd_nextId (i : Nat) : (s.dropUpd i).nextId = s.nextId := rfl
@[simp] theorem dropUpd_free (i : Nat) : (s.dropUpd i).free = s.free := rfl
@[simp] theorem dropUpd_domain (i : Nat) : (s.dropUpd i).domain = s.domain := rfl
@[simp] theorem dropUpd_hbm (i : Nat) : (s.dropUpd i).hbm = s.hbm := rfl
@[simp] theorem dropUpd_host (i : Nat) : (s.dropUpd i).host = s.host := rfl
@[simp] theorem dropUpd_blocks (i : Nat) : (s.dropUpd i).blocks = s.blocks := rfl
@[simp] theorem dropUpd_errs (i : Nat) : (s.dropUpd i).errs = s.errs := rfl
@[simp] theorem dropUpd_replicas (i : Nat) : (s.dropUpd i).replicas = s.replicas := rfl
@[simp] theorem dropUpd_l2 (i : Nat) : (s.dropUpd i).l2 = s.l2 := rfl
@[simp] theorem dropUpd_txns (i : Nat) : (s.dropUpd i).txns = s.txns := rfl
@[simp] theorem dropUpd_records (i : Nat) : (s.dropUpd i).records = s.records := rfl
@[simp] theorem dropUpd_lost (i : Nat) : (s.dropUpd i).lost = s.lost := rfl
@[simp] theorem dropUpd_scOrder (i : Nat) : (s.dropUpd i).scOrder = s.scOrder := rfl
@[simp] theorem dropUpd_devs (i : Nat) : (s.dropUpd i).devs = s.devs := rfl
@[simp] theorem dropUpd_dies (i : Nat) : (s.dropUpd i).dies = s.dies := rfl
@[simp] theorem dropUpd_clusters (i : Nat) : (s.dropUpd i).clusters = s.clusters := rfl
@[simp] theorem dropUpd_cores (i : Nat) : (s.dropUpd i).cores = s.cores := rfl
@[simp] theorem dropUpd_wgs (i : Nat) : (s.dropUpd i).wgs = s.wgs := rfl
@[simp] theorem dropUpd_accs (i : Nat) : (s.dropUpd i).accs = s.accs := rfl
@[simp] theorem dropUpd_wbs (i : Nat) : (s.dropUpd i).wbs = s.wbs := rfl
@[simp] theorem dropUpd_drains (i : Nat) : (s.dropUpd i).drains = s.drains := rfl
@[simp] theorem dropUpd_chops (i : Nat) : (s.dropUpd i).chops = s.chops := rfl
@[simp] theorem dropUpd_copies (i : Nat) : (s.dropUpd i).copies = s.copies := rfl
@[simp] theorem dropUpd_convs (i : Nat) : (s.dropUpd i).convs = s.convs := rfl
@[simp] theorem dropUpd_reports (i : Nat) : (s.dropUpd i).reports = s.reports := rfl

/-! ### modCopy -/
@[simp] theorem modCopy_agenda (i : Nat) (f : CopyOp → CopyOp) : (modCopy s i f).agenda = s.agenda := rfl
@[simp] theorem modCopy_uses (i : Nat) (f : CopyOp → CopyOp) : (modCopy s i f).uses = s.uses := rfl
@[simp] theorem modCopy_stall (i : Nat) (f : CopyOp → CopyOp) : (modCopy s i f).stall = s.stall := rfl
@[simp] theorem modCopy_hold (i : Nat) (f : CopyOp → CopyOp) : (modCopy s i f).hold = s.hold := rfl
@[simp] theorem modCopy_mover (i : Nat) (f : CopyOp → CopyOp) : (modCopy s i f).mover = s.mover := rfl
@[simp] theorem modCopy_heldNow (i : Nat) (f : CopyOp → CopyOp) : (modCopy s i f).heldNow = s.heldNow := rfl
@[simp] theorem modCopy_scrubbed (i : Nat) (f : CopyOp → CopyOp) : (modCopy s i f).scrubbed = s.scrubbed := rfl
@[simp] theorem modCopy_cut (i : Nat) (f : CopyOp → CopyOp) : (modCopy s i f).cut = s.cut := rfl
@[simp] theorem modCopy_cur (i : Nat) (f : CopyOp → CopyOp) : (modCopy s i f).cur = s.cur := rfl
@[simp] theorem modCopy_nextId (i : Nat) (f : CopyOp → CopyOp) : (modCopy s i f).nextId = s.nextId := rfl
@[simp] theorem modCopy_free (i : Nat) (f : CopyOp → CopyOp) : (modCopy s i f).free = s.free := rfl
@[simp] theorem modCopy_domain (i : Nat) (f : CopyOp → CopyOp) : (modCopy s i f).domain = s.domain := rfl
@[simp] theorem modCopy_hbm (i : Nat) (f : CopyOp → CopyOp) : (modCopy s i f).hbm = s.hbm := rfl
@[simp] theorem modCopy_host (i : Nat) (f : CopyOp → CopyOp) : (modCopy s i f).host = s.host := rfl
@[simp] theorem modCopy_blocks (i : Nat) (f : CopyOp → CopyOp) : (modCopy s i f).blocks = s.blocks := rfl
@[simp] theorem modCopy_errs (i : Nat) (f : CopyOp → CopyOp) : (modCopy s i f).errs = s.errs := rfl
@[simp] theorem modCopy_replicas (i : Nat) (f : CopyOp → CopyOp) : (modCopy s i f).replicas = s.replicas := rfl
@[simp] theorem modCopy_l2 (i : Nat) (f : CopyOp → CopyOp) : (modCopy s i f).l2 = s.l2 := rfl
@[simp] theorem modCopy_txns (i : Nat) (f : CopyOp → CopyOp) : (modCopy s i f).txns = s.txns := rfl
@[simp] theorem modCopy_records (i : Nat) (f : CopyOp → CopyOp) : (modCopy s i f).records = s.records := rfl
@[simp] theorem modCopy_lost (i : Nat) (f : CopyOp → CopyOp) : (modCopy s i f).lost = s.lost := rfl
@[simp] theorem modCopy_scOrder (i : Nat) (f : CopyOp → CopyOp) : (modCopy s i f).scOrder = s.scOrder := rfl
@[simp] theorem modCopy_devs (i : Nat) (f : CopyOp → CopyOp) : (modCopy s i f).devs = s.devs := rfl
@[simp] theorem modCopy_dies (i : Nat) (f : CopyOp → CopyOp) : (modCopy s i f).dies = s.dies := rfl
@[simp] theorem modCopy_clusters (i : Nat) (f : CopyOp → CopyOp) : (modCopy s i f).clusters = s.clusters := rfl
@[simp] theorem modCopy_cores (i : Nat) (f : CopyOp → CopyOp) : (modCopy s i f).cores = s.cores := rfl
@[simp] theorem modCopy_wgs (i : Nat) (f : CopyOp → CopyOp) : (modCopy s i f).wgs = s.wgs := rfl
@[simp] theorem modCopy_accs (i : Nat) (f : CopyOp → CopyOp) : (modCopy s i f).accs = s.accs := rfl
@[simp] theorem modCopy_wbs (i : Nat) (f : CopyOp → CopyOp) : (modCopy s i f).wbs = s.wbs := rfl
@[simp] theorem modCopy_drains (i : Nat) (f : CopyOp → CopyOp) : (modCopy s i f).drains = s.drains := rfl
@[simp] theorem modCopy_chops (i : Nat) (f : CopyOp → CopyOp) : (modCopy s i f).chops = s.chops := rfl
@[simp] theorem modCopy_convs (i : Nat) (f : CopyOp → CopyOp) : (modCopy s i f).convs = s.convs := rfl
@[simp] theorem modCopy_upds (i : Nat) (f : CopyOp → CopyOp) : (modCopy s i f).upds = s.upds := rfl
@[simp] theorem modCopy_reports (i : Nat) (f : CopyOp → CopyOp) : (modCopy s i f).reports = s.reports := rfl

/-! ### dropCopy -/
@[simp] theorem dropCopy_agenda (i : Nat) : (s.dropCopy i).agenda = s.agenda := rfl
@[simp] theorem dropCopy_uses (i : Nat) : (s.dropCopy i).uses = s.uses := rfl
@[simp] theorem dropCopy_stall (i : Nat) : (s.dropCopy i).stall = s.stall := rfl
@[simp] theorem dropCopy_hold (i : Nat) : (s.dropCopy i).hold = s.hold := rfl
@[simp] theorem dropCopy_mover (i : Nat) : (s.dropCopy i).mover = s.mover := rfl
@[simp] theorem dropCopy_heldNow (i : Nat) : (s.dropCopy i).heldNow = s.heldNow := rfl
@[simp] theorem dropCopy_scrubbed (i : Nat) : (s.dropCopy i).scrubbed = s.scrubbed := rfl
@[simp] theorem dropCopy_cut (i : Nat) : (s.dropCopy i).cut = s.cut := rfl
@[simp] theorem dropCopy_cur (i : Nat) : (s.dropCopy i).cur = s.cur := rfl
@[simp] theorem dropCopy_nextId (i : Nat) : (s.dropCopy i).nextId = s.nextId := rfl
@[simp] theorem dropCopy_free (i : Nat) : (s.dropCopy i).free = s.free := rfl
@[simp] theorem dropCopy_domain (i : Nat) : (s.dropCopy i).domain = s.domain := rfl
@[simp] theorem dropCopy_hbm (i : Nat) : (s.dropCopy i).hbm = s.hbm := rfl
@[simp] theorem dropCopy_host (i : Nat) : (s.dropCopy i).host = s.host := rfl
@[simp] theorem dropCopy_blocks (i : Nat) : (s.dropCopy i).blocks = s.blocks := rfl
@[simp] theorem dropCopy_errs (i : Nat) : (s.dropCopy i).errs = s.errs := rfl
@[simp] theorem dropCopy_replicas (i : Nat) : (s.dropCopy i).replicas = s.replicas := rfl
@[simp] theorem dropCopy_l2 (i : Nat) : (s.dropCopy i).l2 = s.l2 := rfl
@[simp] theorem dropCopy_txns (i : Nat) : (s.dropCopy i).txns = s.txns := rfl
@[simp] theorem dropCopy_records (i : Nat) : (s.dropCopy i).records = s.records := rfl
@[simp] theorem dropCopy_lost (i : Nat) : (s.dropCopy i).lost = s.lost := rfl
@[simp] theorem dropCopy_scOrder (i : Nat) : (s.dropCopy i).scOrder = s.scOrder := rfl
@[simp] theorem dropCopy_devs (i : Nat) : (s.dropCopy i).devs = s.devs := rfl
@[simp] theorem dropCopy_dies (i : Nat) : (s.dropCopy i).dies = s.dies := rfl
@[simp] theorem dropCopy_clusters (i : Nat) : (s.dropCopy i).clusters = s.clusters := rfl
@[simp] theorem dropCopy_cores (i : Nat) : (s.dropCopy i).cores = s.cores := rfl
@[simp] theorem dropCopy_wgs (i : Nat) : (s.dropCopy i).wgs = s.wgs := rfl
@[simp] theorem dropCopy_accs (i : Nat) : (s.dropCopy i).accs = s.accs := rfl
@[simp] theorem dropCopy_wbs (i : Nat) : (s.dropCopy i).wbs = s.wbs := rfl
@[simp] theorem dropCopy_drains (i : Nat) : (s.dropCopy i).drains = s.drains := rfl
@[simp] theorem dropCopy_chops (i : Nat) : (s.dropCopy i).chops = s.chops := rfl
@[simp] theorem dropCopy_convs (i : Nat) : (s.dropCopy i).convs = s.convs := rfl
@[simp] theorem dropCopy_upds (i : Nat) : (s.dropCopy i).upds = s.upds := rfl
@[simp] theorem dropCopy_reports (i : Nat) : (s.dropCopy i).reports = s.reports := rfl

/-! ### modConv -/
@[simp] theorem modConv_agenda (i : Nat) (f : ConvOp → ConvOp) : (modConv s i f).agenda = s.agenda := rfl
@[simp] theorem modConv_uses (i : Nat) (f : ConvOp → ConvOp) : (modConv s i f).uses = s.uses := rfl
@[simp] theorem modConv_stall (i : Nat) (f : ConvOp → ConvOp) : (modConv s i f).stall = s.stall := rfl
@[simp] theorem modConv_hold (i : Nat) (f : ConvOp → ConvOp) : (modConv s i f).hold = s.hold := rfl
@[simp] theorem modConv_mover (i : Nat) (f : ConvOp → ConvOp) : (modConv s i f).mover = s.mover := rfl
@[simp] theorem modConv_heldNow (i : Nat) (f : ConvOp → ConvOp) : (modConv s i f).heldNow = s.heldNow := rfl
@[simp] theorem modConv_scrubbed (i : Nat) (f : ConvOp → ConvOp) : (modConv s i f).scrubbed = s.scrubbed := rfl
@[simp] theorem modConv_cut (i : Nat) (f : ConvOp → ConvOp) : (modConv s i f).cut = s.cut := rfl
@[simp] theorem modConv_cur (i : Nat) (f : ConvOp → ConvOp) : (modConv s i f).cur = s.cur := rfl
@[simp] theorem modConv_nextId (i : Nat) (f : ConvOp → ConvOp) : (modConv s i f).nextId = s.nextId := rfl
@[simp] theorem modConv_free (i : Nat) (f : ConvOp → ConvOp) : (modConv s i f).free = s.free := rfl
@[simp] theorem modConv_domain (i : Nat) (f : ConvOp → ConvOp) : (modConv s i f).domain = s.domain := rfl
@[simp] theorem modConv_hbm (i : Nat) (f : ConvOp → ConvOp) : (modConv s i f).hbm = s.hbm := rfl
@[simp] theorem modConv_host (i : Nat) (f : ConvOp → ConvOp) : (modConv s i f).host = s.host := rfl
@[simp] theorem modConv_blocks (i : Nat) (f : ConvOp → ConvOp) : (modConv s i f).blocks = s.blocks := rfl
@[simp] theorem modConv_errs (i : Nat) (f : ConvOp → ConvOp) : (modConv s i f).errs = s.errs := rfl
@[simp] theorem modConv_replicas (i : Nat) (f : ConvOp → ConvOp) : (modConv s i f).replicas = s.replicas := rfl
@[simp] theorem modConv_l2 (i : Nat) (f : ConvOp → ConvOp) : (modConv s i f).l2 = s.l2 := rfl
@[simp] theorem modConv_txns (i : Nat) (f : ConvOp → ConvOp) : (modConv s i f).txns = s.txns := rfl
@[simp] theorem modConv_records (i : Nat) (f : ConvOp → ConvOp) : (modConv s i f).records = s.records := rfl
@[simp] theorem modConv_lost (i : Nat) (f : ConvOp → ConvOp) : (modConv s i f).lost = s.lost := rfl
@[simp] theorem modConv_scOrder (i : Nat) (f : ConvOp → ConvOp) : (modConv s i f).scOrder = s.scOrder := rfl
@[simp] theorem modConv_devs (i : Nat) (f : ConvOp → ConvOp) : (modConv s i f).devs = s.devs := rfl
@[simp] theorem modConv_dies (i : Nat) (f : ConvOp → ConvOp) : (modConv s i f).dies = s.dies := rfl
@[simp] theorem modConv_clusters (i : Nat) (f : ConvOp → ConvOp) : (modConv s i f).clusters = s.clusters := rfl
@[simp] theorem modConv_cores (i : Nat) (f : ConvOp → ConvOp) : (modConv s i f).cores = s.cores := rfl
@[simp] theorem modConv_wgs (i : Nat) (f : ConvOp → ConvOp) : (modConv s i f).wgs = s.wgs := rfl
@[simp] theorem modConv_accs (i : Nat) (f : ConvOp → ConvOp) : (modConv s i f).accs = s.accs := rfl
@[simp] theorem modConv_wbs (i : Nat) (f : ConvOp → ConvOp) : (modConv s i f).wbs = s.wbs := rfl
@[simp] theorem modConv_drains (i : Nat) (f : ConvOp → ConvOp) : (modConv s i f).drains = s.drains := rfl
@[simp] theorem modConv_chops (i : Nat) (f : ConvOp → ConvOp) : (modConv s i f).chops = s.chops := rfl
@[simp] theorem modConv_copies (i : Nat) (f : ConvOp → ConvOp) : (modConv s i f).copies = s.copies := rfl
@[simp] theorem modConv_upds (i : Nat) (f : ConvOp → ConvOp) : (modConv s i f).upds = s.upds := rfl
@[simp] theorem modConv_reports (i : Nat) (f : ConvOp → ConvOp) : (modConv s i f).reports = s.reports := rfl

/-! ### dropConv -/
@[simp] theorem dropConv_agenda (i : Nat) : (s.dropConv i).agenda = s.agenda := rfl
@[simp] theorem dropConv_uses (i : Nat) : (s.dropConv i).uses = s.uses := rfl
@[simp] theorem dropConv_stall (i : Nat) : (s.dropConv i).stall = s.stall := rfl
@[simp] theorem dropConv_hold (i : Nat) : (s.dropConv i).hold = s.hold := rfl
@[simp] theorem dropConv_mover (i : Nat) : (s.dropConv i).mover = s.mover := rfl
@[simp] theorem dropConv_heldNow (i : Nat) : (s.dropConv i).heldNow = s.heldNow := rfl
@[simp] theorem dropConv_scrubbed (i : Nat) : (s.dropConv i).scrubbed = s.scrubbed := rfl
@[simp] theorem dropConv_cut (i : Nat) : (s.dropConv i).cut = s.cut := rfl
@[simp] theorem dropConv_cur (i : Nat) : (s.dropConv i).cur = s.cur := rfl
@[simp] theorem dropConv_nextId (i : Nat) : (s.dropConv i).nextId = s.nextId := rfl
@[simp] theorem dropConv_free (i : Nat) : (s.dropConv i).free = s.free := rfl
@[simp] theorem dropConv_domain (i : Nat) : (s.dropConv i).domain = s.domain := rfl
@[simp] theorem dropConv_hbm (i : Nat) : (s.dropConv i).hbm = s.hbm := rfl
@[simp] theorem dropConv_host (i : Nat) : (s.dropConv i).host = s.host := rfl
@[simp] theorem dropConv_blocks (i : Nat) : (s.dropConv i).blocks = s.blocks := rfl
@[simp] theorem dropConv_errs (i : Nat) : (s.dropConv i).errs = s.errs := rfl
@[simp] theorem dropConv_replicas (i : Nat) : (s.dropConv i).replicas = s.replicas := rfl
@[simp] theorem dropConv_l2 (i : Nat) : (s.dropConv i).l2 = s.l2 := rfl
@[simp] theorem dropConv_txns (i : Nat) : (s.dropConv i).txns = s.txns := rfl
@[simp] theorem dropConv_records (i : Nat) : (s.dropConv i).records = s.records := rfl
@[simp] theorem dropConv_lost (i : Nat) : (s.dropConv i).lost = s.lost := rfl
@[simp] theorem dropConv_scOrder (i : Nat) : (s.dropConv i).scOrder = s.scOrder := rfl
@[simp] theorem dropConv_devs (i : Nat) : (s.dropConv i).devs = s.devs := rfl
@[simp] theorem dropConv_dies (i : Nat) : (s.dropConv i).dies = s.dies := rfl
@[simp] theorem dropConv_clusters (i : Nat) : (s.dropConv i).clusters = s.clusters := rfl
@[simp] theorem dropConv_cores (i : Nat) : (s.dropConv i).cores = s.cores := rfl
@[simp] theorem dropConv_wgs (i : Nat) : (s.dropConv i).wgs = s.wgs := rfl
@[simp] theorem dropConv_accs (i : Nat) : (s.dropConv i).accs = s.accs := rfl
@[simp] theorem dropConv_wbs (i : Nat) : (s.dropConv i).wbs = s.wbs := rfl
@[simp] theorem dropConv_drains (i : Nat) : (s.dropConv i).drains = s.drains := rfl
@[simp] theorem dropConv_chops (i : Nat) : (s.dropConv i).chops = s.chops := rfl
@[simp] theorem dropConv_copies (i : Nat) : (s.dropConv i).copies = s.copies := rfl
@[simp] theorem dropConv_upds (i : Nat) : (s.dropConv i).upds = s.upds := rfl
@[simp] theorem dropConv_reports (i : Nat) : (s.dropConv i).reports = s.reports := rfl

/-! ### fresh -/
@[simp] theorem fresh_agenda : s.fresh.2.agenda = s.agenda := rfl
@[simp] theorem fresh_uses : s.fresh.2.uses = s.uses := rfl
@[simp] theorem fresh_stall : s.fresh.2.stall = s.stall := rfl
@[simp] theorem fresh_hold : s.fresh.2.hold = s.hold := rfl
@[simp] theorem fresh_mover : s.fresh.2.mover = s.mover := rfl
@[simp] theorem fresh_heldNow : s.fresh.2.heldNow = s.heldNow := rfl
@[simp] theorem fresh_scrubbed : s.fresh.2.scrubbed = s.scrubbed := rfl
@[simp] theorem fresh_cut : s.fresh.2.cut = s.cut := rfl
@[simp] theorem fresh_cur : s.fresh.2.cur = s.cur := rfl
@[simp] theorem fresh_free : s.fresh.2.free = s.free := rfl
@[simp] theorem fresh_domain : s.fresh.2.domain = s.domain := rfl
@[simp] theorem fresh_hbm : s.fresh.2.hbm = s.hbm := rfl
@[simp] theorem fresh_host : s.fresh.2.host = s.host := rfl
@[simp] theorem fresh_blocks : s.fresh.2.blocks = s.blocks := rfl
@[simp] theorem fresh_errs : s.fresh.2.errs = s.errs := rfl
@[simp] theorem fresh_replicas : s.fresh.2.replicas = s.replicas := rfl
@[simp] theorem fresh_l2 : s.fresh.2.l2 = s.l2 := rfl
@[simp] theorem fresh_txns : s.fresh.2.txns = s.txns := rfl
@[simp] theorem fresh_records : s.fresh.2.records = s.records := rfl
@[simp] theorem fresh_lost : s.fresh.2.lost = s.lost := rfl
@[simp] theorem fresh_scOrder : s.fresh.2.scOrder = s.scOrder := rfl
@[simp] theorem fresh_devs : s.fresh.2.devs = s.devs := rfl
@[simp] theorem fresh_dies : s.fresh.2.dies = s.dies := rfl
@[simp] theorem fresh_clusters : s.fresh.2.clusters = s.clusters := rfl
@[simp] theorem fresh_cores : s.fresh.2.cores = s.cores := rfl
@[simp] theorem fresh_wgs : s.fresh.2.wgs = s.wgs := rfl
@[simp] theorem fresh_accs : s.fresh.2.accs = s.accs := rfl
@[simp] theorem fresh_wbs : s.fresh.2.wbs = s.wbs := rfl
@[simp] theorem fresh_drains : s.fresh.2.drains = s.drains := rfl
@[simp] theorem fresh_chops : s.fresh.2.chops = s.chops := rfl
@[simp] theorem fresh_copies : s.fresh.2.copies = s.copies := rfl
@[simp] theorem fresh_convs : s.fresh.2.convs = s.convs := rfl
@[simp] theorem fresh_upds : s.fresh.2.upds = s.upds := rfl
@[simp] theorem fresh_reports : s.fresh.2.reports = s.reports := rfl
@[simp] theorem fresh_nextId : s.fresh.2.nextId = s.nextId + 1 := rfl

end Sys2Proof.Machine
end

