-- ==== Sys2Proof/Laws/Tables.lean ====
section
/-! SUPPORT. Tables and memory: read after write, and the canonical form of memory. -/

namespace Sys2Proof.Machine

/-! ### Tables -/

variable {α : Type}

@[simp] theorem tabGet_set_same (t : Tab α) (i : Nat) (v : α) : tabGet (tabSet t i v) i = some v := by
  induction t with
  | nil => simp [tabSet, tabGet]
  | cons e t ih =>
    obtain ⟨k, w⟩ := e
    simp only [tabSet]
    split
    · simp [tabGet]
    · split
      · simp [tabGet]
      · simp [tabGet, *]

theorem tabGet_set_other (t : Tab α) {i j : Nat} (v : α) (h : i ≠ j) : tabGet (tabSet t i v) j = tabGet t j := by
  induction t with
  | nil => simp [tabSet, tabGet, h]
  | cons e t ih =>
    obtain ⟨k, w⟩ := e
    simp only [tabSet]
    split
    · simp [tabGet, h]
    · split
      · next e => subst e; simp [tabGet, h]
      · simp [tabGet, ih]

theorem tabGet_erase_other (t : Tab α) {i j : Nat} (h : i ≠ j) : tabGet (tabErase t i) j = tabGet t j := by
  induction t with
  | nil => rfl
  | cons e t ih =>
    obtain ⟨k, w⟩ := e
    simp only [tabErase]
    split
    · next e => subst e; simp [tabGet, h, ih]
    · simp [tabGet, ih]

@[simp] theorem tabGet_erase_same (t : Tab α) (i : Nat) : tabGet (tabErase t i) i = none := by
  induction t with
  | nil => rfl
  | cons e t ih =>
    obtain ⟨k, w⟩ := e
    simp only [tabErase]
    split
    · exact ih
    · simp [tabGet, *]

@[simp] theorem tabGetD_set_same (t : Tab α) (i : Nat) (v d : α) : tabGetD (tabSet t i v) i d = v := by simp [tabGetD]

theorem tabGetD_set_other (t : Tab α) {i j : Nat} (v d : α) (h : i ≠ j) : tabGetD (tabSet t i v) j d = tabGetD t j d := by
  simp [tabGetD, tabGet_set_other t v h]

/-! ### Memory -/

@[simp] theorem memGet_set_same (m : Mem) (a : Nat) (b : Byte) (h : Memory.wf m = true) : memGet (memSet m a b) a = b := by
  induction m with
  | nil => by_cases hb : b = 0#8 <;> simp [memSet, memGet, hb]
  | cons e t ih =>
    obtain ⟨k, v⟩ := e
    have ht : Memory.wf t = true := by
      cases t with
      | nil => rfl
      | cons e' t' => obtain ⟨k', v'⟩ := e'; simp [Memory.wf] at h ⊢; simp_all
    have below : ∀ (t : Mem) (k : Nat) (v : Byte), Memory.wf ((k, v) :: t) = true → ∀ a, a ≤ k → memGet t a = 0 := by
      intro t
      induction t with
      | nil => intros; rfl
      | cons e' t' ih' =>
        intro k v hw a ha
        obtain ⟨k', v'⟩ := e'
        simp only [Memory.wf, Bool.and_eq_true, decide_eq_true_eq] at hw
        have hne : k' ≠ a := by omega
        simp only [memGet, hne, if_false]
        exact ih' k' v' hw.2 a (by omega)
    simp only [memSet]
    split
    · next hlt =>
      split
      · next hb =>
        have hne : k ≠ a := by omega
        simp only [memGet, hne, if_false, hb]
        exact below t k v h a (by omega)
      · simp [memGet]
    · split
      · next e =>
        subst e
        split
        · next hb => rw [hb]; exact below t k v h k (Nat.le_refl k)
        · simp [memGet]
      · next hne => simp only [memGet, hne, if_false]; exact ih ht

theorem memGet_set_other (m : Mem) {a a' : Nat} (b : Byte) (h : a ≠ a') : memGet (memSet m a b) a' = memGet m a' := by
  induction m with
  | nil => by_cases hb : b = 0#8 <;> simp [memSet, memGet, hb, h]
  | cons e t ih =>
    obtain ⟨k, v⟩ := e
    simp only [memSet]
    split
    · split
      · rfl
      · simp [memGet, h]
    · split
      · next e => subst e; split <;> simp [memGet, h]
      · simp [memGet, ih]

/-- A write of one byte keeps the canonical form, and lists no address below the old first one and the written one. -/
theorem wf_memSet_aux (m : Mem) (a : Nat) (b : Byte) (h : Memory.wf m = true) :
    Memory.wf (memSet m a b) = true ∧ ∀ k v, (memSet m a b).head? = some (k, v) → k = a ∨ ∃ v' k', m.head? = some (k', v') ∧ k' ≤ k := by
  induction m with
  | nil => by_cases hb : b = 0#8 <;> simp [memSet, Memory.wf, hb]
  | cons e t ih =>
    obtain ⟨k, v⟩ := e
    have hv : v ≠ 0 := by
      cases t with
      | nil => simpa [Memory.wf] using h
      | cons e' t' => obtain ⟨k', v'⟩ := e'; simp [Memory.wf] at h; exact h.1.1
    have ht : Memory.wf t = true := by
      cases t with
      | nil => rfl
      | cons e' t' => obtain ⟨k', v'⟩ := e'; simp [Memory.wf] at h ⊢; simp_all
    have hk : ∀ k' v', t.head? = some (k', v') → k < k' := by
      intro k' v' he
      cases t with
      | nil => simp at he
      | cons e' t' => obtain ⟨k2, v2⟩ := e'; simp at he; simp [Memory.wf] at h; omega
    simp only [memSet]
    split
    · next hlt =>
      split
      · exact ⟨h, fun k' v' he => .inr ⟨v, k, rfl, by simp at he; omega⟩⟩
      · next hb =>
        refine ⟨?_, fun k' v' he => .inl (by simp at he; omega)⟩
        simp only [Memory.wf, Bool.and_eq_true, decide_eq_true_eq, bne_iff_ne, ne_eq]
        exact ⟨⟨hb, hlt⟩, h⟩
    · split
      · next e =>
        subst e
        split
        · exact ⟨ht, fun k' v' he => .inr ⟨v, k, rfl, by have := hk k' v' he; omega⟩⟩
        · next hb =>
          refine ⟨?_, fun k' v' he => .inl (by simp at he; omega)⟩
          cases t with
          | nil => simpa [Memory.wf] using hb
          | cons e' t' => obtain ⟨k2, v2⟩ := e'; simp [Memory.wf] at h ⊢; exact ⟨⟨hb, h.1.2⟩, h.2⟩
      · next hge hne =>
        refine ⟨?_, fun k' v' he => .inr ⟨v, k, rfl, by simp at he; omega⟩⟩
        obtain ⟨h1, h2⟩ := ih ht
        cases hm : memSet t a b with
        | nil => simpa [Memory.wf] using hv
        | cons e' t' =>
          obtain ⟨k2, v2⟩ := e'
          rw [hm] at h1 h2
          simp only [Memory.wf, Bool.and_eq_true, decide_eq_true_eq, bne_iff_ne, ne_eq]
          refine ⟨⟨hv, ?_⟩, h1⟩
          rcases h2 k2 v2 rfl with h3 | ⟨v3, k3, h3, h4⟩
          · omega
          · have := hk k3 v3 h3; omega

theorem wf_memSet (m : Mem) (a : Nat) (b : Byte) (h : Memory.wf m = true) : Memory.wf (memSet m a b) = true :=
  (wf_memSet_aux m a b h).1

theorem wf_memWrite (m : Mem) (a n v : Nat) (h : Memory.wf m = true) : Memory.wf (memWrite m a n v) = true := by
  induction n generalizing m a v with
  | zero => exact h
  | succ n ih => exact ih _ _ _ (wf_memSet m a _ h)

theorem wf_memWriteBytes (m : Mem) (a : Nat) (l : List Byte) (h : Memory.wf m = true) : Memory.wf (memWriteBytes m a l) = true := by
  induction l generalizing m a with
  | nil => exact h
  | cons b l ih => exact ih _ _ (wf_memSet m a _ h)

theorem wf_storeMasked (m : Mem) (base : Nat) (x : BitVec 512) (k : BitVec 64) (h : Memory.wf m = true) :
    Memory.wf (storeMasked m base x k) = true := by
  unfold storeMasked
  generalize List.range 64 = l
  induction l generalizing m with
  | nil => exact h
  | cons i l ih => simp only [List.foldl_cons]; split <;> [exact ih _ (wf_memSet m _ _ h); exact ih _ h]

/-- A store of `n` bytes leaves every byte outside them. -/
theorem memGet_memWrite_other (m : Mem) (a n v a' : Nat) (h : a' < a ∨ a + n ≤ a') : memGet (memWrite m a n v) a' = memGet m a' := by
  induction n generalizing m a v with
  | zero => rfl
  | succ n ih => simp only [memWrite]; rw [ih _ _ _ (by omega), memGet_set_other _ _ (by omega)]

/-- A store of `n` bytes is read back, little-endian (R2). -/
theorem memRead_memWrite (m : Mem) (a n v : Nat) (h : Memory.wf m = true) : memRead (memWrite m a n v) a n = v % 256 ^ n := by
  induction n generalizing m a v with
  | zero => simp [memRead, Nat.mod_one]
  | succ n ih =>
    simp only [memRead, memWrite]
    rw [memGet_memWrite_other _ _ _ _ _ (by omega), memGet_set_same _ _ _ h, ih _ _ _ (wf_memSet m a _ h)]
    simp only [BitVec.toNat_ofNat]
    rw [show (2:Nat) ^ 8 = 256 from rfl, pow_succ, mul_comm (256 ^ n) 256, Nat.mod_mul]

end Sys2Proof.Machine
end

