-- ==== Sys2Proof/Laws/Home.lean ====
section
/-! SUPPORT. What a request does at a home at rest: the hallmark's encoding, and one step of a transaction that asks nobody. -/

namespace Sys2Proof.Machine

/-! ### Hallmarks -/

/-- A hallmark with fields of five bits. -/
def Hall.small : Hall → Bool
  | .home => true
  | .shared1 a | .sharedN a | .excl a | .mod a | .owned a | .poison a => decide (a < 32)

/-- A hallmark whose agents are of the domain that begins at an agent number. -/
def Hall.within (base : Nat) : Hall → Bool
  | .home => true
  | .shared1 a | .excl a | .mod a | .owned a => decide (base ≤ a) && decide (a < base + 32)
  | .sharedN a | .poison a => decide (a < 32)

/-- An encoded hallmark reads back, for agent numbers and sharer sets of five bits. -/
theorem hallOf_hallByte {h : Hall} (hb : h.small = true) : hallOf (hallByte h) = h := by
  cases h <;> simp [hallOf, hallByte, Hall.small] at * <;> (try (rename_i a; interval_cases a <;> rfl))

/-- A hallmark read from a byte has fields of five bits. -/
theorem hallOf_small (b : Byte) : (hallOf b).small = true := by
  unfold hallOf
  dsimp only
  split <;> simp [Hall.small] <;> omega

/-- Only an agent's number within its domain is stored. -/
theorem hallByte_shift {h : Hall} {n : Nat} (hb : h.within (32 * n) = true) :
    (hallOf (hallByte h)).shift (32 * n) = h := by
  cases h with
  | home => rfl
  | sharedN a => simp [Hall.within] at hb; rw [hallOf_hallByte (by simpa [Hall.small] using hb)]; rfl
  | poison a => simp [Hall.within] at hb; rw [hallOf_hallByte (by simpa [Hall.small] using hb)]; rfl
  | _ a =>
    simp only [Hall.within, Bool.and_eq_true, decide_eq_true_eq] at hb
    obtain ⟨r, rfl⟩ : ∃ r, a = 32 * n + r := ⟨a - 32 * n, by omega⟩
    have hr : r < 32 := by omega
    simp only [hallByte, Nat.mul_add_mod, Nat.mod_eq_of_lt hr]
    first
      | (have := hallOf_hallByte (h := .shared1 r) (by simpa [Hall.small] using hr); simp only [hallByte, Nat.mod_eq_of_lt hr] at this; rw [this]; rfl)
      | (have := hallOf_hallByte (h := .excl r) (by simpa [Hall.small] using hr); simp only [hallByte, Nat.mod_eq_of_lt hr] at this; rw [this]; rfl)
      | (have := hallOf_hallByte (h := .mod r) (by simpa [Hall.small] using hr); simp only [hallByte, Nat.mod_eq_of_lt hr] at this; rw [this]; rfl)
      | (have := hallOf_hallByte (h := .owned r) (by simpa [Hall.small] using hr); simp only [hallByte, Nat.mod_eq_of_lt hr] at this; rw [this]; rfl)

@[simp] theorem setHall_block (s : State) (b : Nat) (h : Hall) : (s.setHall b h).block b = { s.block b with hall := hallByte h } := by
  simp [State.setHall, State.setBlock, State.block, tabGetD]

theorem hall_setHall (s : State) (b : Nat) {h : Hall} (hb : h.within (domainBase b) = true) : (s.setHall b h).hall b = h := by
  simp only [State.hall, setHall_block]
  rw [domainBase, Nat.mul_comm] at *
  exact hallByte_shift hb

/-! ### A home at rest -/

theorem tagRead_sound {s : State} {b : Nat} (h : tabGet s.errs b = none) : s.tagRead b = s := by simp [State.tagRead, h]

theorem touch_all {s : State} (b : Nat) (h : s.lost = []) : s.touch b = s := by
  unfold State.touch
  split <;> simp [h]

/-- The home's die once a request has joined a block with no other: the tickets of that request are gone. -/
def joinedDies (s : State) (b : Nat) (k : ReqKind) (r acc : Nat) : Tab Die :=
  (s.modDie (agentOfBlock b) (fun d => { d with chainQ := d.chainQ.map (fun (e : Nat × List Ticket) =>
      (e.1, e.2.filter (fun x => !x.txn.any (fun t => t.block = b && t.kind == k && t.req = r && t.acc = acc)))) })).dies

/-- A request that has come to a home and not started. -/
def freshTxn (s : State) (b : Nat) (k : ReqKind) (r acc : Nat) : Txn :=
  { block := b, kind := k, req := r, acc := acc, started := false, bcast := false, waits := [], arrived := s.cycle (devOfAgent (agentOfBlock b)) }

theorem joinedDies_eq (s : State) (b : Nat) (k : ReqKind) (r acc : Nat) (l : List Txn) :
    ({ s with txns := l } : State).modDie (agentOfBlock b) (fun d => { d with chainQ := d.chainQ.map (fun (e : Nat × List Ticket) =>
      (e.1, e.2.filter (fun x => !x.txn.any (fun t => t.block = b && t.kind == k && t.req = r && t.acc = acc)))) }) =
      { s with txns := l, dies := joinedDies s b k r acc } := rfl

theorem noTxn {s : State} {b : Nat} (hf : ∀ t ∈ s.txns, t.block ≠ b) (p : Txn → Bool) (hp : ∀ t, p t = true → t.block = b) : s.txns.any p = false := by
  rw [List.any_eq_false]
  exact fun t ht hpt => hf t ht (hp t hpt)

theorem find_last {l : List Txn} {b : Nat} (hf : ∀ t ∈ l, t.block ≠ b) (x : Txn) (hx : x.block = b) :
    (l ++ [x]).find? (fun t => decide (t.block = b)) = some x := by
  rw [List.find?_append]
  have : l.find? (fun t => decide (t.block = b)) = none := by simpa [List.find?_eq_none] using hf
  simp [this, hx]

theorem asks_congr {s t : State} {b : Nat} (k : ReqKind) (r : Nat) (h1 : t.blocks = s.blocks) (h2 : t.lost = s.lost) (h3 : t.domain = s.domain) :
    t.asks b k r = s.asks b k r := by
  simp [State.asks, State.hall, State.block, State.sharers, State.agentsOf, State.domainOf, h1, h2, h3]

/-- An ownership request that comes to a home at rest stands there until a later cycle (R262). -/
theorem homeStep_joins {s : State} {b : Nat} (q : Quiet s b) (k : ReqKind) (r acc : Nat) (ho : (freshTxn s b k r acc).isOwnership = true) :
    s.homeStep b k r acc = (({ s with dies := joinedDies s b k r acc, txns := s.txns ++ [freshTxn s b k r acc] } : State), false) := by
  obtain ⟨hf, -, -⟩ := q
  unfold State.homeStep
  dsimp only
  rw [noTxn hf (fun t => decide (t.block = b) && t.kind == k && decide (t.req = r) && decide (t.acc = acc)) (by simp +contextual),
    noTxn hf (fun t => t.block = b) (by simp)]
  simp only [Bool.false_eq_true, if_false]
  rw [joinedDies_eq]
  simp only
  rw [find_last hf _ rfl]
  simp only [freshTxn] at ho
  simp [freshTxn, ho]

/-- The transaction that a request makes. -/
def isTxn (b : Nat) (k : ReqKind) (r acc : Nat) (t : Txn) : Bool := t.block = b && t.kind == k && t.req = r && t.acc = acc

/-- A request that stands first at its home, and that the home may start, asks the agents of Table 8; with none to ask it completes, and the
hallmark changes as Table 8 says. -/
theorem homeStep_first {s : State} {b : Nat} {k : ReqKind} {r acc : Nat} {x : Txn} (hf : s.txns.find? (fun t => t.block = b) = some x)
    (hx : isTxn b k r acc x = true) (hs : x.started = false)
    (hl : x.isOwnership = true → x.arrived < s.cycle (devOfAgent (agentOfBlock b))) (he : tabGet s.errs b = none) (hlost : s.lost = []) :
    (s.asks b k r = ([], false) → s.homeStep b k r acc =
      (({ s with txns := s.txns.filter (fun t => !isTxn b k r acc t) } : State).setHall b (hallAfter (agentOfBlock b) k r (s.hall b)), true)) ∧
    ∀ w ws bc, s.asks b k r = (w :: ws, bc) → s.homeStep b k r acc =
      ({ s with txns := s.txns.map (fun t => if isTxn b k r acc t then
          { t with started := true, waits := w :: ws, bcast := bc, since := s.clock (devOfAgent (agentOfBlock b)) } else t) }, false) := by
  have hany : s.txns.any (fun t => decide (t.block = b) && t.kind == k && decide (t.req = r) && decide (t.acc = acc)) = true := by
    rw [List.any_eq_true]
    exact ⟨x, List.mem_of_find?_eq_some hf, hx⟩
  have hx' : (decide (x.block = b) && x.kind == k && decide (x.req = r) && decide (x.acc = acc)) = true := hx
  have hgo : (!x.started && x.isOwnership && decide (s.cycle (devOfAgent (agentOfBlock b)) ≤ x.arrived)) = false := by
    cases ho : x.isOwnership with
    | false => simp
    | true => simp [Nat.not_le.mpr (hl ho)]
  rw [hs] at hgo
  have ht : (s.tagRead b).touch b = s := by rw [tagRead_sound he, touch_all b hlost]
  constructor
  · intro h
    unfold State.homeStep
    simp only [hany, if_true, hf, hx', hs, Bool.not_true, Bool.false_or, hgo, Bool.false_eq_true, if_false, ht, h, isTxn]
  · intro w ws bc h
    unfold State.homeStep
    simp only [hany, if_true, hf, hx', hs, Bool.not_true, Bool.false_or, hgo, Bool.false_eq_true, if_false, ht, h, isTxn]
    rfl

/-- A shared read, or a request of a write-back, that comes to a home at rest goes on at once: it is the one just given. -/
theorem homeStep_comes {s : State} {b : Nat} (q : Quiet s b) (k : ReqKind) (r acc : Nat) (ho : (freshTxn s b k r acc).isOwnership = false) :
    s.homeStep b k r acc = ({ s with dies := joinedDies s b k r acc, txns := s.txns ++ [freshTxn s b k r acc] } : State).homeStep b k r acc := by
  obtain ⟨hf, -, -⟩ := q
  have hany : ({ s with dies := joinedDies s b k r acc, txns := s.txns ++ [freshTxn s b k r acc] } : State).txns.any
      (fun t => decide (t.block = b) && t.kind == k && decide (t.req = r) && decide (t.acc = acc)) = true := by
    simp [freshTxn]
  conv => rhs; unfold State.homeStep
  dsimp only
  rw [hany]
  conv => lhs; unfold State.homeStep
  dsimp only
  rw [noTxn hf (fun t => decide (t.block = b) && t.kind == k && decide (t.req = r) && decide (t.acc = acc)) (by simp +contextual),
    noTxn hf (fun t => t.block = b) (by simp)]
  simp only [Bool.false_eq_true, if_false]
  rw [joinedDies_eq]
  simp only [freshTxn] at ho ⊢
  simp only [if_true]
  rw [find_last hf _ rfl]
  simp [ho]

/-! ### Reads at the home -/

/-- HBM's copy of a sound block. -/
theorem decoded_sound {s : State} {b : Nat} (he : tabGet s.errs b = none) : s.decoded b = .ok (s.blockBytes b) (s.block b).hdr false := by
  simp [State.decoded, he]

/-- A block taken as it stands is as it was. -/
theorem relabel_same (s : State) (b : Nat) : s.relabel b (s.blockBytes b) (s.block b).hdr = s := by
  simp [State.relabel]

/-- Reading a sound block that is not poisoned, over a link that works, delivers HBM's bytes and sideband. -/
theorem readHome_sound {s : State} {b : Nat} (w : Who) (cls : Resi) (he : tabGet s.errs b = none) (hp : (s.hall b).isPoison = false)
    (hc : s.cut.contains b = false) : (s.readHome b w cls).2 = .ok (s.blockBytes b, (s.block b).sideband) := by
  have hd := decoded_sound (s := s.debit (agentOfBlock b) w.pay 1) (b := b) he
  have hr := relabel_same (s.debit (agentOfBlock b) w.pay 1) b
  have h1 : (s.debit (agentOfBlock b) w.pay 1).block b = s.block b := rfl
  have h2 : (s.debit (agentOfBlock b) w.pay 1).blockBytes b = s.blockBytes b := rfl
  rw [h1, h2] at hd hr
  unfold State.readHome
  rw [tagRead_sound he]
  dsimp only
  split
  · rename_i h; simp [h, Hall.isPoison] at hp
  · split
    · rfl
    · simp only [hc, Bool.false_eq_true, if_false, hd, hr, h1]

end Sys2Proof.Machine
end

