-- ==== Sys2Proof/Laws/Warp.lean ====
section
/-! SUPPORT. The register file of a warp: reads after writes, and what each write leaves as it was. -/

namespace Sys2Proof.Machine

variable (x : Warp)

/-! ### Advance -/

theorem sameTraps_refl : SameTraps x x := rfl

theorem sameTraps_trans {x y z : Warp} (h1 : SameTraps x y) (h2 : SameTraps y z) : SameTraps x z := Eq.trans h2 h1

theorem advance_eq (now : Nat) (sw jump covered : Bool) : ∃ pc pfx halt park dq,
    x.advance now sw jump covered = { x with pc := pc, pfx := pfx, halt := halt, park := park, dq := dq } ∧
    dq.map (fun t => { t with skid := 0 }) = x.dq.map (fun (t : TrapInfo) => { t with skid := 0 }) := by
  unfold Warp.advance Warp.pfxStep
  cases jump <;> cases covered <;> simp only [Bool.false_eq_true, if_false, if_true] <;> split <;> split <;>
    exact ⟨_, _, _, _, _, rfl, by simp [Function.comp_def]⟩

@[simp] theorem advance_v (now : Nat) (sw jump covered : Bool) : (x.advance now sw jump covered).v = x.v := by
  obtain ⟨_, _, _, _, _, h, -⟩ := advance_eq x now sw jump covered; rw [h]
@[simp] theorem advance_s (now : Nat) (sw jump covered : Bool) : (x.advance now sw jump covered).s = x.s := by
  obtain ⟨_, _, _, _, _, h, -⟩ := advance_eq x now sw jump covered; rw [h]
@[simp] theorem advance_p (now : Nat) (sw jump covered : Bool) : (x.advance now sw jump covered).p = x.p := by
  obtain ⟨_, _, _, _, _, h, -⟩ := advance_eq x now sw jump covered; rw [h]
@[simp] theorem advance_k (now : Nat) (sw jump covered : Bool) : (x.advance now sw jump covered).k = x.k := by
  obtain ⟨_, _, _, _, _, h, -⟩ := advance_eq x now sw jump covered; rw [h]
@[simp] theorem advance_pend (now : Nat) (sw jump covered : Bool) : (x.advance now sw jump covered).pend = x.pend := by
  obtain ⟨_, _, _, _, _, h, -⟩ := advance_eq x now sw jump covered; rw [h]
@[simp] theorem advance_pc (now : Nat) (sw jump covered : Bool) :
    (x.advance now sw jump covered).pc = if jump then x.pc else x.pc + 1 := by
  unfold Warp.advance Warp.pfxStep
  cases jump <;> cases covered <;> simp only [Bool.false_eq_true, if_false, if_true] <;> split <;> split <;> rfl

theorem sameRest_advance {z : Warp} (h : SameRest z x) (now : Nat) (sw jump covered : Bool) :
    SameRest z (x.advance now sw jump covered) := by
  obtain ⟨_, _, _, _, _, e, hd⟩ := advance_eq x now sw jump covered
  rw [e]; exact ⟨h.1, hd.trans h.2⟩

/-- Two warps have the same parks, halt and prefix. -/
def SameIssue (x y : Warp) : Prop := y.park = x.park ∧ y.halt = x.halt ∧ y.pfx = x.pfx

theorem sameIssue_trans {x y z : Warp} (h1 : SameIssue x y) (h2 : SameIssue y z) : SameIssue x z :=
  ⟨h2.1.trans h1.1, h2.2.1.trans h1.2.1, h2.2.2.trans h1.2.2⟩

theorem sameIssue_unmap (l : List Nat) : SameIssue x (x.unmap l) := ⟨rfl, rfl, rfl⟩

theorem sameIssue_putDst (d : Dst) (m : LaneMask) (vals : List Lanes) (due : Nat) : SameIssue x (x.putDst d m vals due) := by
  cases d with
  | v r => exact List.foldlRecOn vals.zipIdx _ ⟨rfl, rfl, rfl⟩ (fun y h _ _ => sameIssue_trans h ⟨rfl, rfl, rfl⟩)
  | s r => exact List.foldlRecOn vals.zipIdx _ ⟨rfl, rfl, rfl⟩ (fun y h _ _ => sameIssue_trans h ⟨rfl, rfl, rfl⟩)

theorem sameIssue_putPred (q : PReg) (m b : LaneMask) (due : Nat) : SameIssue x (x.putPred q m b due) := by
  cases q <;> exact ⟨rfl, rfl, rfl⟩

/-- What issue does to a warp's parks, halt and prefix when the instruction itself leaves them alone. -/
theorem stepped_advance {x y : Warp} (h : SameIssue x y) (now : Nat) (sw jump : Bool) :
    Stepped now sw [] x (y.advance now sw jump x.pfx.isSome) := by
  obtain ⟨h1, h2, h3⟩ := h
  unfold Stepped Warp.advance
  refine ⟨?_, ?_, ?_⟩
  · cases sw
    · cases jump <;> cases x.pfx.isSome <;> exact h1
    · have e : ∀ z : Warp, z.pend = y.pend → z.hstat = y.hstat → z.frame = y.frame → z.busy now = y.busy now := by
        intro z a b d; simp only [Warp.busy, Warp.handler, a, b, d]
      cases jump <;> cases x.pfx.isSome <;> simp only [Warp.pfxStep, Bool.true_and, Bool.false_eq_true, if_false, if_true, List.append_nil] <;> cases hb : y.busy now <;> simp [h1, hb, e]
  · rw [← h2]; cases jump <;> cases x.pfx.isSome <;> simp only [apply_ite Warp.halt, ite_self] <;> rfl
  · rw [← h3]; cases hp : y.pfx <;> cases jump <;> simp only [apply_ite Warp.pfx, ite_self, Option.isSome] <;> simp [Warp.pfxStep, hp, Prefix.next]

/-! ### Writes -/

theorem sameRest_refl : SameRest x x := ⟨rfl, rfl⟩

theorem sameRest_trans {x y z : Warp} (h1 : SameRest x y) (h2 : SameRest y z) : SameRest x z := by
  have e : { z with pc := x.pc, pfx := x.pfx, pend := x.pend, park := x.park, halt := x.halt, dq := x.dq, v := x.v, s := x.s, p := x.p, k := x.k } =
    { ({ z with pc := y.pc, pfx := y.pfx, pend := y.pend, park := y.park, halt := y.halt, dq := y.dq, v := y.v, s := y.s, p := y.p, k := y.k } : Warp) with
      pc := x.pc, pfx := x.pfx, pend := x.pend, park := x.park, halt := x.halt, dq := x.dq, v := x.v, s := x.s, p := x.p, k := x.k } := rfl
  refine ⟨?_, sameTraps_trans h1.2 h2.2⟩
  rw [e, h2.1]; exact h1.1

theorem sameRest_unmap (l : List Nat) : SameRest x (x.unmap l) := ⟨rfl, rfl⟩

theorem sameRest_putV {z : Warp} (h : SameRest z x) (r : Nat) (m : LaneMask) (vals : Lanes) (due : Nat) : SameRest z (x.putV r m vals due) := h

theorem sameRest_putS {z : Warp} (h : SameRest z x) (r : Nat) (w : Word) (due : Nat) : SameRest z (x.putS r w due) := h

theorem sameRest_putPred {z : Warp} (h : SameRest z x) (q : PReg) (m b : LaneMask) (due : Nat) : SameRest z (x.putPred q m b due) := by
  cases q <;> exact h

theorem readV_putV_same (r : Nat) (m : LaneMask) (vals : Lanes) (due : Nat) : (x.putV r m vals due).readV r = mergeLanes m vals (x.readV r) := by
  simp [Warp.putV, Warp.readV, Warp.mark]

theorem readV_putV_other {r r' : Nat} (m : LaneMask) (vals : Lanes) (due : Nat) (h : r ≠ r') : (x.putV r m vals due).readV r' = x.readV r' := by
  simp [Warp.putV, Warp.readV, Warp.mark, tabGetD_set_other _ _ _ h]

@[simp] theorem putV_s (r : Nat) (m : LaneMask) (vals : Lanes) (due : Nat) : (x.putV r m vals due).s = x.s := rfl
@[simp] theorem putV_p (r : Nat) (m : LaneMask) (vals : Lanes) (due : Nat) : (x.putV r m vals due).p = x.p := rfl
@[simp] theorem putV_k (r : Nat) (m : LaneMask) (vals : Lanes) (due : Nat) : (x.putV r m vals due).k = x.k := rfl
@[simp] theorem putV_pc (r : Nat) (m : LaneMask) (vals : Lanes) (due : Nat) : (x.putV r m vals due).pc = x.pc := rfl
@[simp] theorem putS_v (r : Nat) (w : Word) (due : Nat) : (x.putS r w due).v = x.v := rfl
@[simp] theorem putS_p (r : Nat) (w : Word) (due : Nat) : (x.putS r w due).p = x.p := rfl
@[simp] theorem putS_k (r : Nat) (w : Word) (due : Nat) : (x.putS r w due).k = x.k := rfl
@[simp] theorem putS_pc (r : Nat) (w : Word) (due : Nat) : (x.putS r w due).pc = x.pc := rfl

theorem readS_putS_same (r : Nat) (w : Word) (due : Nat) : (x.putS r w due).readS r = w := by simp [Warp.putS, Warp.readS]

theorem readS_putS_other {r r' : Nat} (w : Word) (due : Nat) (h : r ≠ r') : (x.putS r w due).readS r' = x.readS r' := by
  simp [Warp.putS, Warp.readS, Warp.mark, tabGetD_set_other _ _ _ h]

theorem mergeLanes_getD (m : LaneMask) (new old : Lanes) (l : Nat) (h : l < 64) :
    (mergeLanes m new old).getD l 0 = if m.getLsbD l then new.getD l 0 else old.getD l 0 := by
  simp [mergeLanes, List.getD_eq_getElem?_getD, h]

/-! ### The pending table -/

theorem dueAt_mark (r : PendReg) (due op : Nat) (m : LaneMask) (ovw : Bool) : DueAt (x.mark r (some due) op m ovw) r due :=
  ⟨{ reg := r, due := some due, op := op, ovw := ovw, old := false, lanes := m }, by simp [Warp.mark], rfl, rfl, rfl⟩

theorem dueAt_mark_other {r r' : PendReg} {due : Nat} (h : DueAt x r due) (hr : r ≠ r') (due' : Option Nat) (op : Nat) (m : LaneMask) (ovw : Bool) :
    DueAt (x.mark r' due' op m ovw) r due := by
  obtain ⟨e, he, h1, h2, h3⟩ := h
  refine ⟨e, ?_, h1, h2, h3⟩
  have hne : e.reg ≠ r' := h1 ▸ hr
  simp only [Warp.mark, List.mem_append, List.mem_map]
  exact .inl ⟨e, he, by simp [Pend.yieldTo, hne]⟩

/-! ### Groups -/

theorem putDst_vec (r : BitVec 8) (m : LaneMask) (vals : List Lanes) (due : Nat) :
    (∀ j, j < vals.length → DueAt (x.putDst (.v r) m vals due) (.v (r.toNat + j)) due ∧
      (x.putDst (.v r) m vals due).readV (r.toNat + j) = mergeLanes m (vals.getD j []) (x.readV (r.toNat + j))) ∧
    (∀ r', r' ∉ vecsOf vals.length (.v r) → (x.putDst (.v r) m vals due).readV r' = x.readV r') ∧
    (x.putDst (.v r) m vals due).s = x.s ∧ (x.putDst (.v r) m vals due).p = x.p ∧ (x.putDst (.v r) m vals due).k = x.k ∧
    (x.putDst (.v r) m vals due).pc = x.pc ∧ SameRest x (x.putDst (.v r) m vals due) := by
  have key : ∀ (vals : List Lanes) (k : Nat) (x : Warp),
      let y := (vals.zipIdx k).foldl (fun (y : Warp) vi => y.putV (r.toNat + vi.2) m vi.1 due) x
      (∀ j, j < vals.length → DueAt y (.v (r.toNat + (k + j))) due ∧
        y.readV (r.toNat + (k + j)) = mergeLanes m (vals.getD j []) (x.readV (r.toNat + (k + j)))) ∧
      (∀ r', (∀ j, j < vals.length → r' ≠ r.toNat + (k + j)) → y.readV r' = x.readV r') ∧
      (∀ q d, (∀ j, j < vals.length → q ≠ .v (r.toNat + (k + j))) → DueAt x q d → DueAt y q d) ∧
      y.s = x.s ∧ y.p = x.p ∧ y.k = x.k ∧ y.pc = x.pc ∧ SameRest x y := by
    intro vals
    induction vals with
    | nil => intro k x; simp [sameRest_refl]
    | cons v vs ih =>
      intro k x
      simp only [List.zipIdx_cons, List.foldl_cons]
      have h := ih (k + 1) (x.putV (r.toNat + k) m v due)
      simp only at h
      obtain ⟨h1, h2, h3, h4, h5, h6, h7, h8⟩ := h
      refine ⟨?_, ?_, ?_, by simpa using h4, by simpa using h5, by simpa using h6, by simpa using h7, ?_⟩
      · intro j hj
        cases j with
        | zero =>
          refine ⟨h3 _ _ ?_ ?_, ?_⟩
          · intro i _ e; injection e with e; omega
          · exact dueAt_mark _ _ _ _ _ _
          · rw [h2 _ (by intro i _ e; omega)]
            simpa using readV_putV_same x (r.toNat + k) m v due
        | succ j =>
          have hj' : j < vs.length := by simpa using hj
          have h := h1 j hj'
          rw [show k + (j + 1) = k + 1 + j by omega]
          refine ⟨h.1, ?_⟩
          rw [h.2, readV_putV_other x m v due (by omega)]
          rfl
      · intro r' hr
        rw [h2 r' (fun j hj => by have := hr (j + 1) (by simpa using hj); omega)]
        exact readV_putV_other x m v due (by have := hr 0 (by simp); omega)
      · intro q d hq hd
        refine h3 q d (fun j hj => by have := hq (j + 1) (by simpa using hj); rwa [show k + 1 + j = k + (j + 1) by omega]) ?_
        exact dueAt_mark_other x hd (by simpa using hq 0 (by simp)) _ _ _ _
      · exact sameRest_trans (sameRest_putV x (sameRest_refl x) _ _ _ _) h8
  have h := key vals 0 x
  simp only [Nat.zero_add] at h
  obtain ⟨h1, h2, _, h4⟩ := h
  refine ⟨h1, fun r' hr => h2 r' (fun j hj e => hr ?_), h4⟩
  simp only [vecsOf, List.mem_map, List.mem_range]
  exact ⟨j, hj, e.symm⟩

theorem putDst_uni (r : BitVec 6) (m : LaneMask) (vals : List Lanes) (due : Nat) :
    (∀ j, j < vals.length → DueAt (x.putDst (.s r) m vals due) (.s (r.toNat + j)) due ∧
      (x.putDst (.s r) m vals due).readS (r.toNat + j) = (vals.getD j []).getD 0 0) ∧
    (∀ r', r' ∉ unisOf vals.length (.s r) → (x.putDst (.s r) m vals due).readS r' = x.readS r') ∧
    (x.putDst (.s r) m vals due).v = x.v ∧ (x.putDst (.s r) m vals due).p = x.p ∧ (x.putDst (.s r) m vals due).k = x.k ∧
    (x.putDst (.s r) m vals due).pc = x.pc ∧ SameRest x (x.putDst (.s r) m vals due) := by
  have key : ∀ (vals : List Lanes) (k : Nat) (x : Warp),
      let y := (vals.zipIdx k).foldl (fun (y : Warp) vi => y.putS (r.toNat + vi.2) (vi.1.getD 0 0) due) x
      (∀ j, j < vals.length → DueAt y (.s (r.toNat + (k + j))) due ∧ y.readS (r.toNat + (k + j)) = (vals.getD j []).getD 0 0) ∧
      (∀ r', (∀ j, j < vals.length → r' ≠ r.toNat + (k + j)) → y.readS r' = x.readS r') ∧
      (∀ q d, (∀ j, j < vals.length → q ≠ .s (r.toNat + (k + j))) → DueAt x q d → DueAt y q d) ∧
      y.v = x.v ∧ y.p = x.p ∧ y.k = x.k ∧ y.pc = x.pc ∧ SameRest x y := by
    intro vals
    induction vals with
    | nil => intro k x; simp [sameRest_refl]
    | cons v vs ih =>
      intro k x
      simp only [List.zipIdx_cons, List.foldl_cons]
      have h := ih (k + 1) (x.putS (r.toNat + k) (v.getD 0 0) due)
      simp only at h
      obtain ⟨h1, h2, h3, h4, h5, h6, h7, h8⟩ := h
      refine ⟨?_, ?_, ?_, by simpa using h4, by simpa using h5, by simpa using h6, by simpa using h7, ?_⟩
      · intro j hj
        cases j with
        | zero =>
          refine ⟨h3 _ _ ?_ ?_, ?_⟩
          · intro i _ e; injection e with e; omega
          · exact dueAt_mark _ _ _ _ _ _
          · rw [h2 _ (by intro i _ e; omega)]
            simpa using readS_putS_same x (r.toNat + k) (v.getD 0 0) due
        | succ j =>
          have hj' : j < vs.length := by simpa using hj
          have h := h1 j hj'
          rw [show k + (j + 1) = k + 1 + j by omega]
          exact h
      · intro r' hr
        rw [h2 r' (fun j hj => by have := hr (j + 1) (by simpa using hj); omega)]
        exact readS_putS_other x _ due (by have := hr 0 (by simp); omega)
      · intro q d hq hd
        refine h3 q d (fun j hj => by have := hq (j + 1) (by simpa using hj); rwa [show k + 1 + j = k + (j + 1) by omega]) ?_
        exact dueAt_mark_other x hd (by simpa using hq 0 (by simp)) _ _ _ _
      · exact sameRest_trans (sameRest_putS x (sameRest_refl x) _ _ _) h8
  have h := key vals 0 x
  simp only [Nat.zero_add] at h
  obtain ⟨h1, h2, _, h4⟩ := h
  refine ⟨h1, fun r' hr => h2 r' (fun j hj e => hr ?_), h4⟩
  simp only [unisOf, List.mem_map, List.mem_range]
  exact ⟨j, hj, e.symm⟩

/-! ### Lanes of a result -/

theorem laneVals_length (u : Bool) (m : LaneMask) (n : Nat) (f : Nat → List Word) : (laneVals u m n f).length = n := by
  unfold laneVals; split <;> simp

theorem laneVals_vec (m : LaneMask) (n : Nat) (f : Nat → List Word) (j l : Nat) (hj : j < n) (hl : l < 64) (ha : m.getLsbD l = true) :
    ((laneVals false m n f).getD j []).getD l 0 = (f l).getD j 0 := by
  simp [laneVals, List.getD_eq_getElem?_getD, hj, hl, ha]

theorem laneVals_uni (m : LaneMask) (n : Nat) (f : Nat → List Word) (j : Nat) (hj : j < n) :
    ((laneVals true m n f).getD j []).getD 0 0 = (f 0).getD j 0 := by
  simp [laneVals, List.getD_eq_getElem?_getD, hj]

/-! ### Predicates -/

theorem laneBits_getLsbD (m : LaneMask) (f : Nat → Bool) (l : Nat) (hl : l < 64) : (laneBits m f).getLsbD l = (m.getLsbD l && f l) := by
  have key : ∀ n, n ≤ 64 → ∀ i,
      Nat.testBit ((List.range n).foldl (fun a l => if m.getLsbD l && f l then a + 2 ^ l else a) 0) i = (decide (i < n) && (m.getLsbD i && f i)) := by
    intro n
    induction n with
    | zero => intro _ i; simp
    | succ n ih =>
      intro hn i
      have ih := ih (by omega)
      rw [List.range_succ, List.foldl_append, List.foldl_cons, List.foldl_nil]
      generalize hA : (List.range n).foldl (fun a l => if m.getLsbD l && f l then a + 2 ^ l else a) 0 = A at ih
      have hlt : A < 2 ^ n := by
        apply Nat.lt_pow_two_of_testBit
        intro i hi
        simp [ih, Nat.not_lt.mpr hi]
      split
      · next hb =>
        rw [Nat.add_comm]
        rcases Nat.lt_trichotomy i n with h | h | h
        · rw [Nat.testBit_two_pow_add_gt h, ih]; simp [h, Nat.lt_succ_of_lt h]
        · subst h; rw [Nat.testBit_two_pow_add_eq, ih]; simp at hb; simp [hb]
        · rw [Nat.testBit_lt_two_pow (lt_of_lt_of_le (by rw [pow_succ]; omega : 2 ^ n + A < 2 ^ (n + 1)) (Nat.pow_le_pow_right (by omega) h))]
          simp [show ¬ i < n + 1 by omega]
      · next hb =>
        rw [ih]
        rcases Nat.lt_trichotomy i n with h | h | h
        · simp [h, Nat.lt_succ_of_lt h]
        · subst h; simpa using hb
        · simp [Nat.not_lt_of_gt h, show ¬ i < n + 1 by omega]
  simp only [laneBits, BitVec.getLsbD_ofNat, hl, decide_true, Bool.true_and]
  rw [key 64 (Nat.le_refl _) l]
  simp [hl]

theorem putPred_v (q : PReg) (m b : LaneMask) (due : Nat) : (x.putPred q m b due).v = x.v := by cases q <;> rfl
theorem putPred_s (q : PReg) (m b : LaneMask) (due : Nat) : (x.putPred q m b due).s = x.s := by cases q <;> rfl
theorem putPred_pc (q : PReg) (m b : LaneMask) (due : Nat) : (x.putPred q m b due).pc = x.pc := by cases q <;> rfl

theorem dueAt_putPred (q : PReg) (m b : LaneMask) (due : Nat) :
    DueAt (x.putPred q m b due) (match q with | .p r => .p r.toNat | .k r => .k r.toNat) due := by
  cases q with
  | p r => exact dueAt_mark x (.p r.toNat) due 0 m false
  | k r => exact dueAt_mark x (.k r.toNat) due 0 allLanes false

theorem predAt_putPred_p (r : BitVec 3) (m b : LaneMask) (due l : Nat) (hl : l < 64) :
    (x.putPred (.p r) m b due).predAt (.p r) l = if m.getLsbD l then b.getLsbD l else x.predAt (.p r) l := by
  simp only [Warp.predAt, Warp.predMask, Warp.putPred, Warp.setPred, Warp.setP, Warp.mark, tabGetD_set_same, BitVec.getLsbD_or,
    BitVec.getLsbD_and, BitVec.getLsbD_not]
  cases m.getLsbD l <;> simp [hl]

theorem k_write (k : BitVec 4) (r : BitVec 2) (b : Bool) :
    ((k &&& ~~~(1#4 <<< r.toNat)) ||| (if b then 1#4 <<< r.toNat else 0)).getLsbD r.toNat = b := by
  revert k r b; decide

theorem k_write_other (k : BitVec 4) (r r' : BitVec 2) (b : Bool) (h : r ≠ r') :
    ((k &&& ~~~(1#4 <<< r.toNat)) ||| (if b then 1#4 <<< r.toNat else 0)).getLsbD r'.toNat = k.getLsbD r'.toNat := by
  revert k r r' b; decide

theorem predAt_putPred_k (r : BitVec 2) (m b : LaneMask) (due l : Nat) (hl : l < 64) :
    (x.putPred (.k r) m b due).predAt (.k r) l = b.getLsbD 0 := by
  simp only [Warp.predAt, Warp.predMask, Warp.putPred, Warp.setPred, Warp.setK, Warp.mark, k_write]
  cases b.getLsbD 0
  · simp
  · simp only [if_true, allLanes, BitVec.getLsbD_allOnes, hl, decide_true]

theorem predMask_putPred_other {q q' : PReg} (m b : LaneMask) (due : Nat) (h : q' ≠ q) : (x.putPred q m b due).predMask q' = x.predMask q' := by
  cases q with
  | p r =>
    cases q' with
    | p r' =>
      have hne : r.toNat ≠ r'.toNat := fun e => h (by rw [BitVec.eq_of_toNat_eq e])
      simp [Warp.predMask, Warp.putPred, Warp.setPred, Warp.setP, Warp.mark, tabGetD_set_other _ _ _ hne]
    | k r' => rfl
  | k r =>
    cases q' with
    | p r' => rfl
    | k r' =>
      have hne : r ≠ r' := fun e => h (by rw [e])
      simp only [Warp.predMask, Warp.putPred, Warp.setPred, Warp.setK, Warp.mark, k_write_other _ _ _ _ hne]

end Sys2Proof.Machine
end

