-- ==== Sys2Proof/Laws/Issue.lean ====
section
/-! SUPPORT. What issuing a warp instruction does, said once for the shared operations `issue`, `issueWarp`, `alu` and `aluPred`. -/

namespace Sys2Proof.Machine

/-- A warp's record replaced twice. -/
theorem modWarp_modWarp (s : State) (w : WarpId) (f g : Warp → Warp) : (s.modWarp w f).modWarp w g = s.modWarp w (fun x => g (f x)) := by
  unfold State.modWarp State.modWg
  simp only [List.map_map]
  congr 1
  apply List.map_congr_left
  intro h _
  by_cases e : h.id = w.wg
  · simp [e]
    apply List.ext_getElem?
    intro i
    simp only [List.getElem?_modify]
    split <;> simp [Function.comp_def]
  · simp [e]

/-- The context of the selected warp is the one of the state. -/
theorem current_warp {s : State} {c : Ctx} (h : s.current = some c) :
    s.cur = some c.w ∧ s.wg c.w.wg = some c.g ∧ s.warp c.w = some c.x ∧ c.x.done = false ∧ c.now = s.cycle c.w.wg.dev := by
  unfold State.current at h
  split at h
  · cases h
  · next w hw =>
    split at h
    · next g x hg hx =>
      split at h
      · cases h
      · next hd => cases h; exact ⟨hw, hg, hx, by simpa using hd, rfl⟩
    · cases h

/-- An instruction that nothing keeps from its effect. -/
theorem issue_ready {s : State} {c : Ctx} {m : Mode} {d : Deps} (h : Ready s c m d) (hold : Ctx → State → Bool) (body : Ctx → State → Except TrapInfo State)
    (hh : hold c s = false) :
    s.issue m d hold body = (match body c (s.modWarp c.w (fun x => x.unmap d.lasts)) with
      | .error t => .next (s.takeTrap c.w t)
      | .ok t => .next (if m.raw then t else t.modWarp c.w (fun x => x.advance c.now m.sw m.jump c.x.pfx.isSome))) := by
  have hr := h.runs
  have hp : (decide (d.dsts ≠ []) && s.poolEmpty c d) = false := by
    rcases h.pool with e | e <;> simp [e]
  have ha : (c.x.pfx.isSome && !m.cover) = false := by
    rcases h.allowed with e | e <;> simp [e]
  unfold State.issue
  rw [h.selected]
  simp only [ha, hr, hh, h.settled, h.reserve]
  rcases h.pool with e | e <;> simp [e] <;> rfl

/-- An instruction that changes only its warp. -/
theorem issueWarp_ready {s : State} {c : Ctx} {m : Mode} {d : Deps} (h : Ready s c m d) (hm : m.raw = false) (body : Ctx → Warp → Warp) :
    s.issueWarp m d body =
      .next (s.modWarp c.w (fun x => (body c (x.unmap d.lasts)).advance c.now m.sw m.jump c.x.pfx.isSome)) := by
  unfold State.issueWarp
  rw [issue_ready h _ _ rfl]
  simp [hm, modWarp_modWarp]

/-- The issue of an instruction changes its warp alone. -/
theorem changes_issueWarp {i : Instr} {s : State} {c : Ctx} {m : Mode} {d : Deps} {body : Ctx → Warp → Warp} {P : Warp → Prop}
    (hi : exec i s = s.issueWarp m d body) (h : Ready s c m d) (hm : m.raw = false)
    (hP : P ((body c (c.x.unmap d.lasts)).advance c.now m.sw m.jump c.x.pfx.isSome)) : Changes i s c P :=
  ⟨_, by rw [hi, issueWarp_ready h hm], hP⟩

theorem unmap_s (x : Warp) (l : List Nat) : (x.unmap l).s = x.s := rfl
theorem unmap_p (x : Warp) (l : List Nat) : (x.unmap l).p = x.p := rfl
theorem unmap_k (x : Warp) (l : List Nat) : (x.unmap l).k = x.k := rfl
theorem unmap_pc (x : Warp) (l : List Nat) : (x.unmap l).pc = x.pc := rfl

theorem predMask_eq {x y : Warp} (hp : y.p = x.p) (hk : y.k = x.k) (q : PReg) : y.predMask q = x.predMask q := by
  cases q <;> simp [Warp.predMask, hp, hk]

/-- Every instruction whose meaning writes its destination group from a list of lane values has a register result. -/
theorem regResult_put {i : Instr} {sw : Bool} {d : Dst} {n lat : Nat} {srcs : Deps} {vals : Warp → List Lanes} {val : Warp → Nat → List Word}
    (hi : ∀ s, exec i s = s.issueWarp { once := isUniform d, sw := sw } (srcs.join (Deps.dst n d)) (fun c y =>
      y.putDst d (if isUniform d then allLanes else c.x.lanes) (vals c.x) (c.now + (if isUniform d then 2 else lat))))
    (hn : ∀ x, (vals x).length = n)
    (hv : isUniform d = false → ∀ x j l, j < n → l < 64 → x.lanes.getLsbD l = true → ((vals x).getD j []).getD l 0 = (val x l).getD j 0)
    (hu : isUniform d = true → ∀ x j, j < n → ((vals x).getD j []).getD 0 0 = (val x 0).getD j 0) :
    RegResult i sw d n lat srcs val := by
  intro s c h
  refine changes_issueWarp (hi s) h rfl ?_
  have hl : (srcs.join (Deps.dst n d)).lasts = srcs.lasts := by cases d <;> simp [Deps.join, Deps.dst]
  simp only [hl]
  cases d with
  | v r =>
    simp only [isUniform]
    obtain ⟨h1, h2, h3, h4, h5, h6, h7⟩ := putDst_vec (c.x.unmap srcs.lasts) r c.x.lanes (vals c.x) (c.now + lat)
    rw [hn] at h1 h2
    refine ⟨?_, ⟨?_, ?_⟩, ?_, ?_, stepped_advance (sameIssue_trans (sameIssue_unmap c.x srcs.lasts) (sameIssue_putDst _ _ _ _ _)) _ _ _, ?_⟩
    · intro j hj
      obtain ⟨ha, hb⟩ := h1 j hj
      refine ⟨?_, ?_⟩
      · obtain ⟨e, he, hx⟩ := ha; exact ⟨e, by simpa using he, hx⟩
      · intro l hl
        simp only [Bool.false_eq_true, if_false]
        simp only [Warp.readV, advance_v]
        simp only [Warp.readV] at hb
        rw [hb, mergeLanes_getD _ _ _ _ hl]
        split
        · next hm => exact hv rfl _ _ _ hj hl hm
        · rfl
    · intro r' hr'
      simp only [Warp.readV, advance_v]
      exact h2 r' hr'
    · intro r' _
      simp only [Warp.readS, advance_s, Bool.false_eq_true, if_false, h3]; rfl
    · intro q _
      exact predMask_eq (by simp [h4]; rfl) (by simp [h5]; rfl) q
    · refine sameRest_advance _ ?_ _ _ _ _
      exact sameRest_trans (sameRest_unmap c.x srcs.lasts) h7
    · simp [h6]; rfl
  | s r =>
    simp only [isUniform]
    obtain ⟨h1, h2, h3, h4, h5, h6, h7⟩ := putDst_uni (c.x.unmap srcs.lasts) r allLanes (vals c.x) (c.now + 2)
    rw [hn] at h1 h2
    refine ⟨?_, ⟨?_, ?_⟩, ?_, ?_, stepped_advance (sameIssue_trans (sameIssue_unmap c.x srcs.lasts) (sameIssue_putDst _ _ _ _ _)) _ _ _, ?_⟩
    · intro j hj
      obtain ⟨ha, hb⟩ := h1 j hj
      refine ⟨?_, ?_⟩
      · obtain ⟨e, he, hx⟩ := ha; exact ⟨e, by simpa using he, hx⟩
      · simp only [Warp.readS, advance_s, if_true]
        rw [← hu rfl c.x j hj]
        exact hb
    · intro r' _
      simp only [Warp.readV, advance_v, if_true, h3]
    · intro r' hr'
      simp only [Warp.readS, advance_s, if_true]
      exact h2 r' hr'
    · intro q _
      exact predMask_eq (by simp [h4]; rfl) (by simp [h5]; rfl) q
    · refine sameRest_advance _ ?_ _ _ _ _
      exact sameRest_trans (sameRest_unmap c.x srcs.lasts) h7
    · simp [h6]; rfl

/-- Every instruction whose meaning is `alu` has a register result. -/
theorem regResult_alu {i : Instr} {sw : Bool} {d : Dst} {n lat : Nat} {srcs : Deps} {f : Warp → Nat → List Word}
    (hi : ∀ s, exec i s = s.alu sw d n lat srcs f) : RegResult i sw d n lat srcs f := by
  refine regResult_put (vals := fun x => laneVals (isUniform d) (if isUniform d then allLanes else x.lanes) n (f x)) (fun s => ?_)
    (fun x => laneVals_length _ _ _ _) (fun hu x j l hj hl hm => ?_) (fun hu x j hj => ?_)
  · rw [hi]; rfl
  · simp only [hu]; exact laneVals_vec _ _ _ _ _ hj hl hm
  · simp only [hu]; exact laneVals_uni _ _ _ _ hj

/-- A result stated by other words that agree on the lanes written. -/
theorem regResult_congr {i : Instr} {sw : Bool} {d : Dst} {n lat : Nat} {srcs : Deps} {f g : Warp → Nat → List Word}
    (h : RegResult i sw d n lat srcs f) (hfg : ∀ x l j, j < n → (f x l).getD j 0 = (g x l).getD j 0) : RegResult i sw d n lat srcs g := by
  intro s c hr
  obtain ⟨k, hk, hw, hrest⟩ := h s c hr
  refine ⟨k, hk, ?_, hrest⟩
  cases d with
  | v r => exact fun j hj => ⟨(hw j hj).1, fun l hl => by rw [(hw j hj).2 l hl]; simp only [hfg c.x l j hj]⟩
  | s r => exact fun j hj => ⟨(hw j hj).1, by rw [(hw j hj).2]; exact hfg c.x 0 j hj⟩

/-- Every instruction whose meaning is `aluPred` has a predicate result. -/
theorem predResult_aluPred {i : Instr} {sw u : Bool} {q : PReg} {lat : Nat} {srcs : Deps} {f : Warp → Nat → Bool}
    (hi : ∀ s, exec i s = s.aluPred sw u q lat srcs f) : PredResult i sw u q lat srcs f := by
  intro hq s c h
  refine changes_issueWarp (by rw [hi]; rfl) h rfl ?_
  simp only []
  have hy := sameRest_advance _ (sameRest_putPred _ (sameRest_unmap c.x srcs.lasts) q (if u then allLanes else c.x.lanes)
    (laneBits (if u then 1 else if u then allLanes else c.x.lanes) (f c.x)) (c.now + if u then 2 else lat)) c.now sw false c.x.pfx.isSome
  refine ⟨?_, ⟨fun r _ => ?_, fun r _ => ?_⟩, fun q' hq' => ?_, hy,
    stepped_advance (sameIssue_trans (sameIssue_unmap c.x srcs.lasts) (sameIssue_putPred _ _ _ _ _)) _ _ _, by simp [putPred_pc, unmap_pc]⟩
  · cases q with
    | p r =>
      have hu : u = false := by cases u <;> simp_all [PReg.okDst, PReg.isK]
      subst hu
      refine ⟨?_, fun l hl => ?_⟩
      · obtain ⟨e, he, hx⟩ := dueAt_putPred (c.x.unmap srcs.lasts) (.p r) c.x.lanes (laneBits c.x.lanes (f c.x)) (c.now + lat)
        exact ⟨e, by simpa using he, hx⟩
      · have h1 := predAt_putPred_p (c.x.unmap srcs.lasts) r c.x.lanes (laneBits c.x.lanes (f c.x)) (c.now + lat) l hl
        have h2 : ∀ (y : Warp), (y.advance c.now sw false c.x.pfx.isSome).predAt (.p r) l = y.predAt (.p r) l := by
          intro y; simp [Warp.predAt, Warp.predMask]
        simp only [Bool.false_eq_true, if_false]
        rw [h2, h1, laneBits_getLsbD _ _ _ hl]
        cases hm : c.x.lanes.getLsbD l
        · simp; rfl
        · simp
    | k r =>
      have hu : u = true := by cases u <;> simp_all [PReg.okDst, PReg.isK]
      subst hu
      refine ⟨?_, fun l hl => ?_⟩
      · obtain ⟨e, he, hx⟩ := dueAt_putPred (c.x.unmap srcs.lasts) (.k r) allLanes (laneBits 1 (f c.x)) (c.now + 2)
        exact ⟨e, by simpa using he, hx⟩
      · have h2 : ∀ (y : Warp), (y.advance c.now sw false c.x.pfx.isSome).predAt (.k r) l = y.predAt (.k r) l := by
          intro y; simp [Warp.predAt, Warp.predMask]
        simp only [if_true]
        rw [h2, predAt_putPred_k _ _ _ _ _ _ hl, laneBits_getLsbD _ _ _ (by omega)]
        simp
  · simp only [Warp.readV, advance_v, putPred_v]
  · simp only [Warp.readS, advance_s, putPred_s, unmap_s]
  · have h2 : ∀ (y : Warp), (y.advance c.now sw false c.x.pfx.isSome).predMask q' = y.predMask q' := fun y => predMask_eq (by simp) (by simp) q'
    rw [h2, predMask_putPred_other _ _ _ _ (by simpa using hq')]
    rfl

end Sys2Proof.Machine
end

