-- ==== Sys2Proof/Tests/Slice0.lean ====
section
/-! SUPPORT. Tests: ill-formed terms that the well-formedness check refuses, slots written out from the spec's encodings, one step of
the instructions with values worked out from the spec, and for every statement states and operands that meet its hypotheses. -/

set_option Elab.async false

namespace Sys2Proof.Tests
open Sys2Proof Sys2Proof.Machine

/-- The warp of the loaded program. -/
def W0 : WarpId := ⟨⟨0, 0, 0⟩, 0⟩
/-- The state whose next step runs the slot `w`, with the warp changed by `f`. -/
def start (w : Nat) (f : Warp → Warp) : State := (State.reset.withFetchWord 96 w).modWarp W0 f
/-- A step from there answers a next state with a property. -/
def goes (w : Nat) (f : Warp → Warp) (p : State → Bool) : Bool :=
  match step (start w f) with | .next t => p t | _ => false
/-- And the warp then has a property. -/
def ends (w : Nat) (f : Warp → Warp) (p : Warp → Bool) : Bool :=
  goes w f (fun t => match t.warp W0 with | some y => p y | none => false)
/-- The uniform registers `s` give the value `x` of uniform register `r`. -/
def uni (w : Nat) (s : Tab Word) (r : Nat) (x : Word) : Bool := ends w (fun y => { y with s := s }) (fun y => y.readS r == x)
/-- The vector registers `v` give the value `x` in lane `l` of vector register `r`. -/
def lane (w : Nat) (v : Tab Lanes) (r l : Nat) (x : Word) : Bool := ends w (fun y => { y with v := v }) (fun y => (y.readV r).getD l 0 == x)
/-- Operands of a three-operand instruction, and a slot that decodes to an instruction. -/
def v (n : BitVec 8) : Src := .v n .none
def al (ty : Ty) (d : Dst) (a b c : Src) (sat : Bool) : Alu := ⟨false, ty, sat, d, a, b, c⟩
def decode96 (w : Nat) (i : Instr) : Bool := decide (decodeTableWord 96 w = some i)

/-! Slots of the control family, written out field by field from R315 to R320, R58, R69. -/

theorem test_decode_control : [
    (0x000000000000000000000101, .nop true),
    (0xFFFFFFFD0003000008000002, .bra false (some 0) true 0xFFFFFFFD),
    (0x000000000000000007000003, .brx false 7),
    (0x000000060024000002000004, .brd false (.p 2) false 9 6),
    (0x000000000000000000000005, .join false),
    (0x000000040000000000050006, .call false 5 4),
    (0x000000000000000005000007, .ret false 5),
    (0x000000000000000000000008, .exit false),
    (0x000000000001000009130009, .pred false (.k 1) true 3 1),
    (0x00000000000000000000000A, .yield false),
    (0x00000000000000002000000B, .launch false 2)
    ].all (fun (e : Nat × Instr) => decode96 e.1 e.2) = true := by rfl

/-! Slots of the integer family, written out field by field from chapter 5, Table 1 and R104 to R126. -/

theorem test_decode_integer_1 : [
    (0x000000000114000201054410, .iadd (al .s16 (.v 5) (.v 1 .last) (.v 2 .reuse) (.imm 0) true)),
    (0x000000000209030201050011, .iadd3 (al .n32 (.v 5) (v 1) (.s 2) (v 3) false) true),
    (0x000000000E080304000A0012, .iaddc (al .n32 (.v 10) (v 0) (v 4) (.imm 0) false) true (.p 1) (some (.p 3))),
    (0x00000000001C000806040013, .isub (al .s64 (.v 4) (v 6) (v 8) (.imm 0) false)),
    (0x000000000010000006040014, .ineg (al .s8 (.v 4) (v 6) (.imm 0) (.imm 0) false)),
    (0x000000000118000006040215, .iabs (al .s32 (.s 4) (.s 6) (.imm 0) (.imm 0) true)),
    (0x000000078004000006040016, .imul (al .n16 (.v 4) (v 6) (.imm 7) (.imm 0) false)),
    (0x000000000008000706040017, .imulhi (al .n32 (.v 4) (v 6) (v 7) (.imm 0) false)),
    (0x00000000001A080706040018, .imad (al .s32 (.v 4) (v 6) (v 7) (.s 8) false)),
    (0x000000000018080706040019, .imad64 (al .s32 (.v 4) (v 6) (v 7) (v 8) false)),
    (0x00000000000000070604001A, .imin (al .n8 (.v 4) (v 6) (v 7) (.imm 0) false)),
    (0x00000000001C00080604001B, .imax (al .s64 (.v 4) (v 6) (v 8) (.imm 0) false)),
    (0x00000000000009070604001C, .isad (al .n8 (.v 4) (v 6) (v 7) (v 9) false)),
    (0x000000005A1805080702001D, .icmp (al .s32 (.v 0) (v 7) (v 8) (.imm 0) false) .ge .or true (.p 2) (.p 5))
    ].all (fun (e : Nat × Instr) => decode96 e.1 e.2) = true := by rfl

theorem test_decode_integer_2 : [
    (0x00000000020C0B080604001E, .pick (al .n64 (.v 4) (v 6) (v 8) (.imm 0) false) true (.k 3)),
    (0x000000EE000004080201001F, .plog false (.p 1) (.p 2) (.k 0) (.p 4) 0xEE),
    (0x00000009800C000006040020, .shl (al .n64 (.v 4) (v 6) (.imm 9) (.imm 0) false)),
    (0x000000000008000706040021, .shr (al .n32 (.v 4) (v 6) (v 7) (.imm 0) false)),
    (0x000000000018000706040022, .sar (al .s32 (.v 4) (v 6) (v 7) (.imm 0) false)),
    (0x000000000608080706040023, .shf (al .n32 (.v 4) (v 6) (v 7) (v 8) false) true true),
    (0x000002008008EE0006040024, .logt (al .n32 (.v 4) (v 6) (.imm 0x200) (.imm 0) false) 0xEE),
    (0x00000000000C000006050025, .popc (al .n64 (.v 5) (v 6) (.imm 0) (.imm 0) false)),
    (0x000000000008000006050026, .clz (al .n32 (.v 5) (v 6) (.imm 0) (.imm 0) false)),
    (0x000000000008000006050027, .brev (al .n32 (.v 5) (v 6) (.imm 0) (.imm 0) false)),
    (0x000008188018000006050028, .bfe (al .s32 (.v 5) (v 6) (.imm 0x818) (.imm 0) false)),
    (0x000000000008080706050029, .bfi (al .n32 (.v 5) (v 6) (v 7) (v 8) false)),
    (0x00000000000808070605002A, .bsel (al .n32 (.v 5) (v 6) (v 7) (v 8) false)),
    (0x000000007C0800070605002B, .lea (al .n32 (.v 5) (v 6) (v 7) (.imm 0) false) 31)
    ].all (fun (e : Nat × Instr) => decode96 e.1 e.2) = true := by rfl

theorem test_decode_integer_3 : [
    (0x000000000E1800090604002B, .lea64 (al .s32 (.v 4) (v 6) (v 9) (.imm 0) false) 3),
    (0x00000000001008070605002C, .idp4 (al .s8 (.v 5) (v 6) (v 7) (v 8) false) false),
    (0x00000000070408070605002C, .idp2 (al .n16 (.v 5) (v 6) (v 7) (v 8) true) true),
    (0x00000000000D00060004002D, .mov (al .n64 (.v 4) (.imm 0) (.s 6) (.imm 0) false)),
    (0x7FC0000080080000002B022D, .movi false (.s 43) 0x7FC00000),
    (0x00000000000000000009002E, .p2v false 9),
    (0x00000081800000000900042F, .v2p false 9 .last 0x81)
    ].all (fun (e : Nat × Instr) => decode96 e.1 e.2) = true := by rfl

/-! Slots of the float family, written out field by field from chapter 6, Table 1 and R130 to R143. -/

theorem test_decode_float_1 : [
    (0x0000000022A0000706040030, .fadd ⟨false, .f32, .rd, true, false, false, false, true, false, (.v 4), (v 6), (v 7), (.imm 0)⟩),
    (0x3F8000008020000006040031, .fmul ⟨false, .f32, .rn, false, false, false, false, false, false, (.v 4), (v 6), (.imm 0x3F800000), (.imm 0)⟩),
    (0x0000000048E1080706040032, .ffma ⟨false, .f32, .ru, false, false, true, false, false, true, (.v 4), (v 6), (.s 7), (v 8)⟩),
    (0x000000000220000706040033, .fmin ⟨false, .f32, .rn, false, false, false, false, false, false, (.v 4), (v 6), (v 7), (.imm 0)⟩ true),
    (0x000000000020000706040034, .fmax ⟨false, .f32, .rn, false, false, false, false, false, false, (.v 4), (v 6), (v 7), (.imm 0)⟩ false),
    (0x000000006E20010706030035, .fcmp ⟨false, .f32, .rn, false, false, false, false, false, false, (.v 0), (v 6), (v 7), (.imm 0)⟩ .geu .xor (.p 3) (.p 1)),
    (0x000000000060000006040036, .frnd ⟨false, .f32, .rz, false, false, false, false, false, false, (.v 4), (v 6), (.imm 0), (.imm 0)⟩),
    (0x000000000020000006040037, .fclass ⟨false, .f32, .rn, false, false, false, false, false, false, (.v 4), (v 6), (.imm 0), (.imm 0)⟩),
    (0x000000000028080706040038, .fdp2 ⟨false, .f16, .rn, false, false, false, false, false, false, (.v 4), (v 6), (v 7), (v 8)⟩),
    (0x000000000424000706040040, .hadd2 ⟨false, .bf16, .rn, false, true, false, false, false, false, (.v 4), (v 6), (v 7), (.imm 0)⟩),
    (0x000000000028000706040241, .hmul2 ⟨false, .f16, .rn, false, false, false, false, false, false, (.s 4), (.s 6), (.s 7), (.imm 0)⟩),
    (0x000000001024080706040042, .hfma2 ⟨false, .bf16, .rn, false, false, false, true, false, false, (.v 4), (v 6), (v 7), (v 8)⟩),
    (0x000000000024000706040043, .hmin2 ⟨false, .bf16, .rn, false, false, false, false, false, false, (.v 4), (v 6), (v 7), (.imm 0)⟩ false),
    (0x000000000228000706040044, .hmax2 ⟨false, .f16, .rn, false, false, false, false, false, false, (.v 4), (v 6), (v 7), (.imm 0)⟩ true)
    ].all (fun (e : Nat × Instr) => decode96 e.1 e.2) = true := by rfl

theorem test_decode_float_2 : [
    (0x0000000000E0000006040048, .frcp ⟨false, .f32, .ru, false, false, false, false, false, false, (.v 4), (v 6), (.imm 0), (.imm 0)⟩),
    (0x0000000000E0000006040049, .frsq ⟨false, .f32, .ru, false, false, false, false, false, false, (.v 4), (v 6), (.imm 0), (.imm 0)⟩),
    (0x0000000000E000000604004A, .fsqrt ⟨false, .f32, .ru, false, false, false, false, false, false, (.v 4), (v 6), (.imm 0), (.imm 0)⟩),
    (0x00000000002000000604004B, .fex2 ⟨false, .f32, .rn, false, false, false, false, false, false, (.v 4), (v 6), (.imm 0), (.imm 0)⟩),
    (0x00000000002000000604004C, .flg2 ⟨false, .f32, .rn, false, false, false, false, false, false, (.v 4), (v 6), (.imm 0), (.imm 0)⟩),
    (0x00000000002000000604004D, .fsin ⟨false, .f32, .rn, false, false, false, false, false, false, (.v 4), (v 6), (.imm 0), (.imm 0)⟩),
    (0x00000000002000000604004E, .fcos ⟨false, .f32, .rn, false, false, false, false, false, false, (.v 4), (v 6), (.imm 0), (.imm 0)⟩),
    (0x00000000002000000604004F, .ftanh ⟨false, .f32, .rn, false, false, false, false, false, false, (.v 4), (v 6), (.imm 0), (.imm 0)⟩),
    (0x00000000509C000006040050, .cvt ⟨false, .s64, .f16, .rd, false, (.v 4), (v 6), (.imm 0)⟩),
    (0x000000004025000706040051, .cvtp ⟨false, .bf16, .f32, .rn, false, (.v 4), (v 6), (.s 7)⟩),
    (0x000000004130000008040052, .cvt8 ⟨false, .e4m3, .f32, .rn, true, (.v 4), (v 8), (.imm 0)⟩),
    (0x000000000438000004140053, .qblk ⟨false, .e2m1, .f32, .rn, false, (.v 20), (v 4), (.imm 0)⟩ false true),
    (0x00000000002C000504140054, .dqblk ⟨false, .e5m2, .f32, .rn, false, (.v 20), (v 4), (v 5)⟩)
    ].all (fun (e : Nat × Instr) => decode96 e.1 e.2) = true := by rfl

/-! Slots of the cross-lane family, written out field by field from R147 to R151. -/

theorem test_decode_cross_lane : [
    (0x00000001C408000006040058, .shfl false 4 .up 4 (v 6) (.imm 1)),
    (0x0000000042000000030A0059, .vote false .uni true (.k 2) (.p 3)),
    (0x00000000000000000304005A, .ballot false false 4 (.p 3)),
    (0x00000000006000000604005B, .redux false .f32 .add .rz false 4 (v 6)),
    (0x00000000221800000604005C, .scan false .s32 .max .rn false true 4 (v 6)),
    (0x00000000020C00000604005D, .matchLanes false .n64 true 4 (v 6))
    ].all (fun (e : Nat × Instr) => decode96 e.1 e.2) = true := by rfl

/-! Slots of the memory family, written out field by field from Table 7 of chapter 3, Table 1 of chapter 9. -/

theorem test_decode_memory_1 : [
    (0xFFFFFFFFA000000002060060, .ld ⟨false, .gl, .b1, true, .weak, .keep, (.v 6), ⟨(v 2), 0xFFFFFFFF⟩⟩),
    (0x000000100798000002060061, .st ⟨false, .gl, .b8, false, (.strong .rel .dm), .normal, (.v 6), ⟨(v 2), 16⟩⟩),
    (0x0000000404D1000003060062, .lds ⟨false, .sp, .b4, false, (.strong .acq .cg), .normal, (.v 6), ⟨(v 3), 4⟩⟩),
    (0x000000000201000003060063, .sts ⟨false, .sp, .b2, false, .weak, .normal, (.v 6), ⟨(v 3), 0⟩⟩),
    (0x000000000400000002060064, .ldhdr ⟨false, .gl, .b4, false, .weak, .normal, (.v 6), ⟨(v 2), 0⟩⟩),
    (0x000000000401000003060065, .sthdr ⟨false, .sp, .b4, false, .weak, .normal, (.v 6), ⟨(v 3), 0⟩⟩),
    (0x000000000560620402060070, .atom ⟨false, .s32, .max, .ar, .dv, 6, ⟨(v 2), 0⟩, (v 4), (.imm 0)⟩),
    (0x000000000489270403060071, .atoms ⟨false, .n32, .inc, .rlx, .wg, 6, ⟨(v 3), 0⟩, (v 4), (.imm 0)⟩),
    (0x000000000710080402060072, .cas ⟨false, .n64, .exch, .acq, .dg, 6, ⟨(v 2), 0⟩, (v 4), (v 8)⟩),
    (0x000000000449080403060073, .cass ⟨false, .n32, .exch, .rlx, .wp, 6, ⟨(v 3), 0⟩, (v 4), (v 8)⟩),
    (0x000000000558800402000074, .red ⟨false, .f32, .add, .rel, .dv, 0, ⟨(v 2), 0⟩, (v 4), (.imm 0)⟩),
    (0x0000000001A8000000000075, .fence false .sc .dm),
    (0x000000809000000002000076, .pref false .stream true ⟨v 2, 128⟩),
    (0x000000000000020002000077, .cctl false .inv ⟨v 2, 0⟩)
    ].all (fun (e : Nat × Instr) => decode96 e.1 e.2) = true := by rfl

theorem test_decode_memory_2 : [
    (0x000000058000000000000078, .vinv false (.id 5)),
    (0x000000000000000006000078, .vinv false (.reg 6)),
    (0x000000000001000000000078, .vinv false .all),
    (0x000000000000030402000079, .resid false .stream ⟨v 2, 0⟩ (v 4))
    ].all (fun (e : Nat × Instr) => decode96 e.1 e.2) = true := by rfl

/-! Slots of the channel family, written out field by field from R272, R273, R291, R294. -/

theorem test_decode_channel : [
    (0x000000400158080402060080, .chinit false true .dv 6 2 4 8 64),
    (0x000000000158000002100081, .push false false true .dv 16 2 0),
    (0x000000040188080602100082, .popTry false false true false .dm 16 2 6 8),
    (0x000000028150080602100082, .popWait false true false true .dv 16 2 6 8),
    (0x000000000000000010000083, .cpy false 1),
    (0x000000060000000030060084, .cpyx false 3 6 false true true),
    (0x00000FFF0100000000000085, .waitcnt false .chan 4095)
    ].all (fun (e : Nat × Instr) => decode96 e.1 e.2) = true := by rfl

/-! Slots of the barrier family, written out field by field from R328 and Table 2 of chapter 13. -/

theorem test_decode_barrier : [
    (0x000000100800000002060090, .binit false ⟨true, 2, 16⟩ 6),
    (0x000000007040F8000A040091, .arrive false true true .cg 31 ⟨false, 10, 0⟩ 4),
    (0x00000000704000000A050092, .expect false true true (some .cg) ⟨false, 10, 0⟩ 5),
    (0x00000020700000000A040093, .wait false true .cg 10 32 4),
    (0x00000000007F000000000094, .twait false true 63),
    (0x000001000000000006040095, .mon false 4 6 0x100),
    (0x000001000000000006050096, .monx false 5 6 0x100),
    (0x000000000009000006040097, .tbind false 9 4 6),
    (0x000000000049000000000098, .trel false true 9),
    (0x000000000009000000050099, .tstat false 9 5)
    ].all (fun (e : Nat × Instr) => decode96 e.1 e.2) = true := by rfl

/-! Slots of the matrix family, written out field by field from Table 2 of chapter 7. -/

theorem test_decode_matrix : [
    (0x0000000080070003080000A0, .mapdef false (some 7) 3 8),
    (0x0000000040000210000000A1, .tmma false .zero false 2 0 1 0 0),
    (0x0000000080000304060900A2, .tmmas false .scale 3 4 9 6),
    (0x0000000981400000060400A3, .wbld false .sp4 0x05 0 4 6 9),
    (0x0000000000000000000400A4, .wbinv false false 4),
    (0x0000000000000700000000A5, .accz false 7),
    (0x00000000E0000102000000A6, .accld false .ru true 1 2),
    (0x0000000010000102000500A7, .accst false .rn false true 1 2 5),
    (0x0000000040000100090004A8, .accsc false .rz 1 9 .last),
    (0x0000000020000100090000A9, .accadd false .rn true 1 9 .none),
    (0x0000000320000100050900AA, .accrd false true 1 9 5 3),
    (0x0000000300000100090500AB, .accwr false false 1 5 9 .none 3),
    (0x0000000000000000050000AC, .convn false 5),
    (0x0000000000000000000500AD, .ttest false 5)
    ].all (fun (e : Nat × Instr) => decode96 e.1 e.2) = true := by rfl

/-! Slots of the system family, written out field by field from Table 3 of chapter 15, R376. -/

theorem test_decode_system : [
    (0x0000DEAD00000000000000B0, .trap false 0xDEAD),
    (0x0000000000000000000000B1, .tret false),
    (0x0000001100010000002801B2, .sysrd true (.s 40) 17 0),
    (0x0000001100010000280000B3, .syswr false (.s 40) 17 0),
    (0x0000000700000000000000B4, .bkpt false 7),
    (0x0000123400000000040000B5, .evt false 4 0x1234),
    (0x000FFFFF00000000000000B6, .sleep false 0xFFFFF)
    ].all (fun (e : Nat × Instr) => decode96 e.1 e.2) = true := by rfl

/-! Ill-formed terms: one for each encoding rule, refused by it. -/

theorem test_ill_formed_control : ([
    .pred false (.p 0) false 0 0, .pred false (.p 0) false 5 4] : List Instr).all (fun i => !i.accepts) = true := by rfl

/-- A type the row does not list, an immediate where there is no I form, a marker class that U forbids, a pair that is not aligned, `.sat`
where it is not allowed, an operand that the row does not have. -/
theorem test_ill_formed_integer : ([
    .iadd (al .f32 (.v 0) (v 1) (v 2) (.imm 0) false), .iadd (al .s32 (.s 0) (v 1) (.s 2) (.imm 0) false),
    .iadd (al .s32 (.v 0) (.s 1) (v 2) (.imm 0) false), .iadd (al .s32 (.s 0) (.s 1) (v 2) (.imm 0) false),
    .iadd (al .s64 (.v 1) (v 2) (v 4) (.imm 0) false), .iadd (al .s64 (.v 0) (v 3) (v 4) (.imm 0) false),
    .iadd (al .s64 (.v 0) (v 2) (v 5) (.imm 0) false), .iadd (al .s32 (.v 0) (v 1) (v 2) (v 3) false),
    .iadd3 (al .s16 (.v 0) (v 1) (v 2) (v 3) false) false, .iadd3 (al .s32 (.v 0) (v 1) (v 2) (.imm 1) false) false,
    .iaddc (al .n32 (.v 0) (v 1) (v 2) (.imm 0) true) false (.p 0) none, .iaddc (al .n32 (.v 0) (v 1) (v 2) (.imm 0) false) false (.k 0) none,
    .iaddc (al .n32 (.s 0) (.s 1) (.s 2) (.imm 0) false) false (.k 0) (some (.p 0)), .ineg (al .n32 (.v 0) (v 1) (.imm 0) (.imm 0) false),
    .imul (al .s64 (.v 0) (v 2) (v 4) (.imm 0) false), .imulhi (al .s32 (.v 0) (v 1) (v 2) (.imm 0) true),
    .imad64 (al .s32 (.v 1) (v 2) (v 3) (v 4) false), .imad64 (al .s32 (.v 0) (v 2) (v 3) (v 5) false),
    .imin (al .s32 (.v 0) (v 1) (v 2) (.imm 0) true), .icmp (al .s32 (.v 3) (v 1) (v 2) (.imm 0) false) .eq .none false (.p 0) (.p 0),
    .icmp (al .s32 (.v 0) (v 1) (v 2) (.imm 0) false) .eq .none true (.p 0) (.p 0),
    .icmp (al .s32 (.s 0) (.s 1) (.s 2) (.imm 0) false) .eq .and false (.k 0) (.p 1), .pick (al .s32 (.v 0) (v 1) (v 2) (.imm 0) false) false (.p 0),
    .plog false (.k 0) (.p 0) (.k 1) (.k 1) 0, .shl (al .s32 (.v 0) (v 1) (v 2) (.imm 0) false), .sar (al .n32 (.v 0) (v 1) (v 2) (.imm 0) false),
    .logt (al .n32 (.v 0) (v 1) (.imm 1) (v 2) false) 0, .brev (al .n64 (.v 1) (v 2) (.imm 0) (.imm 0) false),
    .lea64 (al .s32 (.v 0) (v 3) (v 4) (.imm 0) false) 0, .idp4 (al .s16 (.v 0) (v 1) (v 2) (v 3) false) false,
    .mov (al .n32 (.v 0) (.imm 0) (.imm 7) (.imm 0) false), .mov (al .s32 (.v 0) (.imm 0) (v 1) (.imm 0) false)]
    : List Instr).all (fun i => !i.accepts) = true := by rfl

/-- Modifiers where R130 allows none, a rounding where there is none, type pairs that no row of Tables 4 and 5 lists. -/
theorem test_ill_formed_float : ([
    .fadd ⟨false, .f16, .rn, false, false, false, false, false, false, .v 0, v 1, v 2, .imm 0⟩,
    .fadd ⟨false, .f32, .rn, false, false, true, false, false, false, .v 0, v 1, v 2, .imm 0⟩,
    .fadd ⟨false, .f32, .rn, false, true, false, false, false, false, .v 0, v 1, .imm 0, .imm 0⟩,
    .fmin ⟨false, .f32, .rn, true, false, false, false, false, false, .v 0, v 1, v 2, .imm 0⟩ false,
    .fmin ⟨false, .f32, .rz, false, false, false, false, false, false, .v 0, v 1, v 2, .imm 0⟩ false,
    .fcmp ⟨false, .f32, .rn, false, false, false, false, false, false, .v 0, v 1, v 2, .imm 0⟩ .eq .and (.k 0) (.p 0),
    .fsin ⟨false, .f32, .rz, false, false, false, false, false, false, .v 0, v 1, .imm 0, .imm 0⟩,
    .cvt ⟨false, .f32, .f32, .rn, false, .v 0, v 1, .imm 0⟩, .cvt ⟨false, .s32, .f32, .rn, true, .v 0, v 1, .imm 0⟩,
    .cvt ⟨false, .s32, .s16, .rz, false, .v 0, v 1, .imm 0⟩, .cvt ⟨false, .s64, .f32, .rn, false, .v 1, v 2, .imm 0⟩,
    .cvtp ⟨false, .f32, .bf16, .rn, false, .v 1, v 2, .imm 0⟩, .cvtp ⟨false, .bf16, .bf16, .rn, false, .v 0, v 2, .imm 0⟩,
    .cvt8 ⟨false, .e4m3, .f32, .rn, false, .v 0, v 2, .imm 0⟩, .cvt8 ⟨false, .f32, .e4m3, .rn, false, .v 2, v 0, .imm 0⟩,
    .qblk ⟨false, .f32, .f32, .rn, false, .v 0, v 2, .imm 0⟩ false false, .qblk ⟨false, .e4m3, .f32, .rn, false, .v 0, v 2, .imm 0⟩ false true,
    .dqblk ⟨false, .e2m1, .f32, .rn, false, .v 1, v 2, v 3⟩, .shfl false 7 .idx 0 (v 1) (v 2), .ballot false false 1 (.p 0),
    .redux false .f32 .and .rn false 0 (v 1), .redux false .s32 .min .rn true 0 (v 1), .scan false .s32 .add .rz false false 0 (v 1),
    .matchLanes false .s32 false 0 (v 1), .matchLanes false .n64 false 0 (v 1)] : List Instr).all (fun i => !i.accepts) = true := by rfl

/-- Orders, scopes, sizes, spaces and register groups that no row of Table 1 of chapter 9 lists. -/
theorem test_ill_formed_memory : ([
    .ld ⟨false, .sp, .b4, false, .weak, .normal, .v 0, ⟨v 2, 0⟩⟩, .ld ⟨false, .gl, .b4, true, .weak, .normal, .v 0, ⟨v 2, 0⟩⟩,
    .ld ⟨false, .gl, .b4, false, .strong .rel .dv, .normal, .v 0, ⟨v 2, 0⟩⟩, .ld ⟨false, .gl, .b4, false, .weak, .normal, .v 0, ⟨v 3, 0⟩⟩,
    .ld ⟨false, .gl, .b8, false, .weak, .normal, .v 1, ⟨v 2, 0⟩⟩, .ld ⟨false, .gl, .b16, false, .weak, .normal, .v 2, ⟨v 2, 0⟩⟩,
    .ld ⟨false, .gl, .b16, false, .strong .rlx .dv, .normal, .v 4, ⟨v 2, 0⟩⟩, .ld ⟨false, .pv, .b4, false, .weak, .keep, .v 4, ⟨v 2, 0⟩⟩,
    .st ⟨false, .gl, .b4, false, .strong .acq .dv, .normal, .v 0, ⟨v 2, 0⟩⟩, .lds ⟨false, .sp, .b4, false, .strong .rlx .dm, .normal, .v 0, ⟨v 3, 0⟩⟩,
    .sts ⟨false, .sp, .b4, false, .weak, .keep, .v 0, ⟨v 3, 0⟩⟩, .ldhdr ⟨false, .pv, .b4, false, .weak, .normal, .v 0, ⟨v 2, 0⟩⟩,
    .atom ⟨false, .f32, .exch, .rlx, .dv, 0, ⟨v 2, 0⟩, v 4, .imm 0⟩, .atom ⟨false, .n32, .add, .sc, .dv, 0, ⟨v 2, 0⟩, v 4, .imm 0⟩,
    .atom ⟨false, .n64, .add, .rlx, .dv, 1, ⟨v 2, 0⟩, v 4, .imm 0⟩, .atoms ⟨false, .n32, .add, .rlx, .dm, 0, ⟨v 2, 0⟩, v 4, .imm 0⟩,
    .cas ⟨false, .n64, .exch, .rlx, .dv, 0, ⟨v 2, 0⟩, v 4, v 7⟩, .red ⟨false, .n32, .exch, .rlx, .dv, 0, ⟨v 2, 0⟩, v 4, .imm 0⟩,
    .fence false .rlx .dv, .pref false .bypass false ⟨v 2, 0⟩, .cctl false .wb ⟨v 3, 0⟩, .resid false .pin ⟨v 2, 0⟩ (.imm 4)]
    : List Instr).all (fun i => !i.accepts) = true := by rfl

theorem test_ill_formed_system : ([
    .chinit false false .dv 1 2 4 6 0, .push false false false .dv 16 3 0, .popTry false false false false .dv 16 2 0 5, .cpyx false 0 2 false false false,
    .cpyx false 0 3 true false false, .binit false ⟨true, 3, 0⟩ 2, .binit false ⟨false, 3, 0⟩ 3, .arrive false false true .dv 0 ⟨false, 2, 0⟩ 0,
    .arrive false false true .cg 0 ⟨false, 2, 0⟩ 1, .expect false true false none ⟨false, 2, 0⟩ 0, .wait false true .dm 2 0 4, .mon false 3 4 0,
    .tbind false 0 3 4, .mapdef false none 0 6, .tmma false .acc false 0 0 0 1 0, .tmma false .acc true 0 0 1 0 2, .tmmas false .zero 0 0 1 2,
    .wbld false .dense 5 0 2 0 0, .wbld false .sp2 11 0 2 4 8, .wbinv false true 3, .accst false .rn false false 0 0 3, .sysrd false (.v 0) 13 0,
    .sysrd false (.v 0) 30 0, .sysrd false (.v 0) 24 4, .sysrd false (.v 1) 17 0, .sysrd false (.s 0) 1 0, .syswr false (.s 0) 8 0,
    .syswr false (.v 0 .none) 16 0, .evt false 3 0, .sleep false 0, .illegalOpcode 0x10, .start 0 0] : List Instr).all (fun i => !i.accepts) = true := by rfl

/-- Slots that no field explains: U on NOP, both markers of a, type code 15, an operand register above s63. -/
theorem test_ill_formed_slots : [0x201, 0x10 + 0x2400 + 0x1000000 + 2 * 2 ^ 50, 0x10 + 15 * 2 ^ 50, 0x03 + 64 * 2 ^ 24, 2 ^ 95 + 8, 2 ^ 64 + 0xB1].all
    (fun w => decodeTableWord 96 w == none) = true := by rfl

/-! ### Witnesses: states and operands that meet the hypotheses of each statement -/

/-- What an instruction answers has a property. -/
def nx (i : Instr) (s : State) (p : State → Bool) : Bool := match exec i s with | .next t => p t | _ => false
/-- The loaded program's warp, selected; and the same with the warp or the machine changed. -/
def live : State := { State.reset.withFetchWord 96 0 with agenda := [], cur := some W0 }
def liveW (f : Warp → Warp) : State := live.modWarp W0 f
def liveG (f : Wg → Wg) : State := live.modWg W0.wg f
def uniform (l : Tab Word) : State := liveW (fun x => { x with s := l })
def once (b : Bool) : Mode := { once := b, sw := false }

/-- Ready, as a check. -/
def readyB (s : State) (m : Mode) (d : Deps) : Bool :=
  match s.current with
  | some c => (c.x.pfx.isNone || m.cover) && (if m.once then c.x.runs else c.x.lanes != 0) && !d.reads.any (c.x.pending c.now) &&
      !c.x.overReserve c.g.regs d.lasts d.dsts && (d.dsts == [] || !s.poolEmpty c d)
  | none => false

theorem readyB_ready (s : State) (m : Mode) (d : Deps) (h : readyB s m d = true) : ∃ c, s.current = some c ∧ Ready s c m d := by
  unfold readyB at h
  split at h
  · rename_i c hc
    simp only [Bool.and_eq_true, Bool.or_eq_true, Option.isNone_iff_eq_none, Bool.not_eq_true', beq_iff_eq] at h
    obtain ⟨⟨⟨⟨h1, h2⟩, h3⟩, h4⟩, h5⟩ := h
    exact ⟨c, hc, hc, h1, h2, h3, h4, h5⟩
  · exact absurd h (by simp)

/-- Quiet, as a check. -/
def quietB (s : State) (b : Nat) : Bool := s.txns.all (fun t => t.block != b) && tabGet s.errs b == none && s.lost == []

theorem quietB_quiet (s : State) (b : Nat) (h : quietB s b = true) : Quiet s b := by
  simp only [quietB, Bool.and_eq_true, List.all_eq_true, bne_iff_ne, beq_iff_eq] at h
  exact ⟨h.1.1, h.1.2, h.2⟩

/-- A context with a trap handler at VA 64, whose line is in the warp's quadrant. -/
def handled (s : State) : State :=
  (s.modDev 0 (fun d => { d with ctxs := [(0, [1, 0, 0, 0, 64, 0])] })).modCore 0 (fun c => c.modQuad 0 (fun (q : Quad) =>
    { q with ibuf := q.ibuf ++ [{ ctx := 0, line := 1, bits := lineOfSlot 1 }] }))
/-- The context of the selected warp. -/
def withC (s : State) (p : Ctx → Bool) : Bool := match s.current with | some c => p c | none => false
/-- A context with one page of 1 GiB at VA 0, whose home keys are its VAs, and with tokens on every die. -/
def paged : State :=
  { (live.modDev 0 (fun d => { d with ctxs := [(0, [1, 0, 0, 64, 64, 0, 0, 0, 0x20000, 0])] })) with
    hbm := memWrite (memWrite [] 0 8 (1 + 0x30 * 2 ^ 28)) 0x1000 8 99
    dies := [(0, { evSeq := 1, level := [(0, 10000)] }), (1, { level := [(0, 10000)] })] }
def pagedW (f : Warp → Warp) : State := paged.modWarp W0 f
/-- An access of the warp, number 1, and one part of it. -/
def acc1 (kind : AccKind) (cls : CntClass) (parts : List Part) : Acc :=
  { id := 1, w := W0, kind := kind, cls := cls, dst := none, lanes := 1, size := 4, str := .weak, hint := .normal, pc := 0, parts := parts, b := [3], c := [7],
    rel := .done, rcd := none, got := [], acq := .none, lost := none, fault := none, held := false }
def part1 (loc : Loc) (val : Nat) : Part := { lane := 0, idx := 0, n := 4, loc := loc, val := val, done := false, sh := false }
def withAcc (s : State) (a : Acc) : State := { s with accs := [a] }
def notFull (s : State) (k : CntClass) : Bool := withC s (fun c => !c.x.full k)
def uniP (l : Tab Word) : State := pagedW (fun x => { x with s := l })
/-- An update of the warp, number 3, on the barrier at local address 0x40, and one at VA 0x10000. -/
def upd3 (kind : UpdKind) (bar : BarLoc) : Upd :=
  { id := 3, w := W0, kind := kind, bar := bar, va := 0x40, cls := some .store, rel := .done, pc := 0, res := none, ticket := false, done := false, for_ := .none }
def bar40 : BarLoc := .spad W0.wg 0x40
/-- A deferred trap of an access at slot 2 of line 1. -/
def late : TrapInfo := { trapAt tMemUncorrectable 0x10000 [4] with deferred := true, apc := some 7 }
/-- A write-back of core 144 for block 0x400 of die 0, and a request for that block that came a cycle ago. -/
def wb1 : Wb := { id := 3, core := 144, block := 0x400, bytes := 0xAA, mask := 1, hdr := none, ctx := 0 }
def standing (s : State) (k : ReqKind) (agent acc : Nat) : State := ({ s with txns := [Claims.request s 0x400 k agent acc] }).modDev 0 (fun d => { d with cycle := 1 })
def standsB (s : State) (k : ReqKind) (agent acc : Nat) : Bool :=
  s.txns.all (fun x => x.block == 0x400 && x.kind == k && x.req == agent && x.acc == acc && !x.started && x.waits == [] && !x.bcast && decide (x.arrived < s.cycle 0)) &&
    s.txns.length == 1 && tabGet s.errs 0x400 == none && s.lost == []
/-- A load on die 1 that asks for block 0x400. -/
def asking (h : Hall) : State :=
  (withAcc { (paged.modWg W0.wg (fun g => { g with core := 144 })) with cur := none } (acc1 (.load false) .load [part1 (.l1 144 0x10000) 0])).setHall 0x400 h
def withUpd (s : State) (u : Upd) : State := { s with upds := [u] }
/-- A barrier object at both places. -/
def withBar (x : Bar) : State :=
  (fun s : State => { s with hbm := memWrite s.hbm 0x10000 16 x.toNat }) (paged.modWg W0.wg (fun g => { g with spad := memWrite g.spad 0x40 16 x.toNat }))
def barOf (t : State) (loc : BarLoc) : Bar := Bar.ofNat (Claims.barBytes t loc)
/-- A view descriptor of rank 2 over FP32 elements at a base, with strides 1 and 8. -/
def view2 (base e0 e1 w8 w9 w10 win : Nat) : VD :=
  ([2 ^ 56 + 2 * 2 ^ 51 + 2 ^ 49 + base, if win = 0 then 0 else 2 ^ 10, e0 + e1 * 2 ^ 32, 0, 0, 1 + 8 * 2 ^ 32, 0, 0, w8, w9, w10, 0, win, 0, 0, 0] : List Nat).map (BitVec.ofNat 64)
def viewAt (v : VD) (q : Nat) : Option ElemAt :=
  match (State.reset.viewElem { dev := 0, ctx := 0, agent := 0, id := 5, va := 0, line := 0, write := false } v q).2 with | .ok e => some e | .error _ => none
def view1 : VD := ([2 ^ 56 + 2 ^ 51 + 2 ^ 49 + 0x20000, 0, 64, 0, 0, 1, 0, 0, 0, 0, 0, 0, 0, 0, 0, 0] : List Nat).map (BitVec.ofNat 64)
def tile9 (st : TileSt) (s : State) : State := s.modWg W0.wg (fun g => { g with tiles := [(9, { st := st, bar := 0x40, rho := 7 })] })
/-- A channel operation of the warp, number 4; a channel at VA 0x10000 with four 16-byte records at 0x11000, its head and tail. -/
def chop4 (kind : ChKind) (handle : DWord) (loc : ChLoc) : ChOp :=
  { id := 4, w := W0, ctx := 0, dev := 0, kind := kind, handle := handle, rcd := if kind.isPush then bytesOf 16 0x1234 else [], srctag := 0, sc := .dv, rel := .done,
    acq := false, acqSt := .none, loc := loc, pc := 0, launch := false }
def withChan (head tail : Nat) : State :=
  { paged with hbm := memWrite (memWrite paged.hbm 0x10000 24 (0x11000 + (4096 + 3 * 2 ^ 16) * 2 ^ 64 + (head + tail * 2 ^ 32) * 2 ^ 128)) (0x11000 + 16 * (head % 4)) 16 0x77 }
def withChop (s : State) (o : ChOp) : State := { s with chops := [o] }
def tryK : ChKind := .popTry false false 16 6
def waitK : ChKind := .popWait false false W0.wg 0x80 bar40 0x40
/-- Registers that hold 64-bit words in pairs. -/
def pairRegs (r : Nat) (l : List Nat) : Tab Word := (l.zipIdx.flatMap (fun x => [(r + 2 * x.2, BitVec.ofNat 32 x.1), (r + 2 * x.2 + 1, BitVec.ofNat 32 (x.1 / 2 ^ 32))]))
/-- A raw copy of two 32-bit elements from local 0x100 to 0x200. -/
def copyWords : List Nat := [0x100 + 2 ^ 49 + 2 * 2 ^ 60, 0x200 + 2 ^ 49, 2 + 2 ^ 32, 0, 2 + 2 ^ 32, 8 + 8 * 2 ^ 32, 0]
def copyOf (words : List Nat) (engine : Option Nat) (next : Nat) (done : Bool) (fault : Option TrapInfo) : CopyOp :=
  { id := 5, w := W0, cluster := 0, pc := 0, words := (words ++ [0]).map (BitVec.ofNat 64), lists := none, before := [], engine := engine, next := next, done := done,
    fault := fault, scaleErr := false }
/-- A 1 by 1 convolution between partitions. -/
def convWords : List Nat := [0x200, 2 ^ 17, 0x300, 2 ^ 17, 0x400, 1 + 2 ^ 16, 4, 4, 0, 0, 0, 0, 0, 0, 0, 0]
def convOf (words : List Nat) (engine : Option Nat) (next : Nat) (done : Bool) : ConvOp :=
  { id := 6, w := W0, cluster := 0, pc := 0, words := words.map (BitVec.ofNat 32), before := [], engine := engine, next := next, done := done, fault := none }
def withOps (k : CntClass) (id : Nat) : State := liveW (fun x => { x with ops := [⟨k, id, false⟩] })
/-- A matrix entry at the head of core 0's queue. -/
def entry (op : MOp) (running : Bool) (next : Nat) : MEntry :=
  { id := 7, w := W0, op := op, pc := 0, before := [], running := running, next := next, resumed := false, scaleErr := false, badWord := false, test := none }
def withEntry (s : State) (e : MEntry) : State := (s.modWarp W0 (fun x => { x with ops := [⟨.mat, 7, false⟩] })).modCore 0 (fun c => { c with mq := [e] })
def mapRow : MapRec := { words := [0x1000, 64 + 2 ^ 16, 1, 0], tile := none }
def mapped : State := liveG (fun g => { g with maps := [(2, mapRow), (3, mapRow)] })
/-- A mailbox command with tag 7 on device 0. -/
def cmd (l : List Nat) : Cmd :=
  let w : Nat → DWord := fun i => BitVec.ofNat 64 (l.getD i 0)
  ⟨0, 7, 0, w 0, w 1, w 2, w 3, w 4, w 5, w 6, false⟩
/-- The response of a command with tag 7. -/
def answered (t : State) (code status : Nat) : Bool :=
  (List.range 16).map (fun i => tabGetD (t.dev 0).mbox (0x40 + i) 0) == bytesOf 8 (code + 7 * 2 ^ 16 + status * 2 ^ 32) ++ bytesOf 8 0 && (t.dev 0).msix.head? == some 0
/-- A context record whose image stands in host memory at 0x1000. -/
def withImage (w0 : Nat) : State := { live with host := memWrite [] (hostKey 0 0x1000) 256 (w0 + (1 + 2 ^ 32) * (2 ^ (64 * 17) + 2 ^ (64 * 18))) }
/-- Entries of context 0 in the TLBs of core 0 and cluster 0. -/
def withTlb : State :=
  let l : List TlbEntry := [⟨0, 0, 0, 99⟩, ⟨0, 0, 1, 99⟩, ⟨1, 0, 1, 99⟩]
  (live.modCore 0 (fun c => { c with tlb := l })).modCluster 0 (fun c => { c with tlb := l })
/-- A launch record of `n` workgroups of two warps, whose dependencies are `deps`; its kernel descriptor, with `acc` tiles; the launch. -/
def lrWords (n : Nat) (deps : List Nat) : List Nat := [0x12000 / 64 + 2 * 2 ^ 43, 0x1340 / 64 + 2 ^ 43 + 2 ^ 46, 0x13000 / 8, n + 2 ^ 20 + 2 ^ 36] ++ deps
def kdWords (acc : Nat) : List Nat := [1, 0x4000, 32 + 2 ^ 16 * (1 + 64 * 256), acc * 2 ^ 16, 0, 0, 0, 0]
def words64 (l : List Nat) : List DWord := l.map (BitVec.ofNat 64)
def joined (l : List Nat) : Nat := (l.zipIdx.map (fun x => x.1 * 2 ^ (64 * x.2))).sum
def launch (n acc : Nat) (deps : List Nat) (st : LaunchSt) : Launch :=
  ⟨1, 0, 0, words64 (lrWords n deps), words64 (kdWords acc), 0x11000, st, none, 0, false, [], [], 0, none, [], [], [], false⟩
def launched (s : State) (e : Nat) (l : Launch) : State := s.modDev 0 (fun d => { d with launches := [(e, l)] })
/-- A launch channel of context 0 at VA 0x10000 that holds one record, and the record's kernel descriptor. -/
def chan64 : Nat := 2 ^ 54 + 2 * 2 ^ 52 + 0x10000
def withLaunchRecord (n : Nat) (deps : List Nat) (tail : Nat) : State :=
  ({ paged with
     hbm := memWrite (memWrite (memWrite paged.hbm 0x10000 24 (joined [0x11000, 1 + 2 * 4 + 2 ^ 12 + 3 * 2 ^ 16, tail * 2 ^ 32])) 0x11000 64 (joined (lrWords n deps)))
       0x12000 64 (joined (kdWords 1)) } : State).modDev 0 (fun d => { d with ctxs := [(0, words64 ([1, 0, 0, 0, 64, 0, 0x40, 0, chan64]))] })
def place9 : Placing := ⟨3, 35, [3], [2], none⟩
/-- The loaded warp's cluster group under pre-emption since 0, with 100 ns to drain and 50 ns to swap. -/
def cg0 : CgId := ⟨0, 0, 0⟩
def preempted (st : WgSt) (p : PgSt) (ns : Nat) (mq : List MEntry) : State :=
  ((paged.modWg W0.wg (fun g => { g with st := st, acc := g.acc.set 7 [(5, 1)] })).modDev 0 (fun d => { d with
    ns := ns, preempts := [⟨0, 0, [0], 100, 50, [⟨cg0, p, 0⟩]⟩] })).modCore 0 (fun c => { c with mq := mq })
/-- Two contexts with weights 3 and 1 on die 0, 1,000 tokens deep. -/
def weighted (cycle : Nat) : State :=
  live.modDev 0 (fun d => { d with cycle := cycle, ctxs := [0, 1].map (fun c => (c, words64 ((1 :: List.replicate 15 0) ++ [3 - 2 * c, 1000, 1000]))) })
def down (failed : Nat) : State := live.modDev 0 (fun d => { d with up := false, regs := { d.regs with failed := failed }, fw := { staged := some (9, 4) } })
/-- A record taken from the launch channel of `withLaunchRecord`, and the device after it. -/
def popped (s : State) : Option (State × List DWord) :=
  match (s.ageing 0).waitingOn 0 0 0 with
  | some (o, key, dsc) => match (s.ageing 0).takeRecord o key dsc with
    | (t, dsc', .got rcd _) => some (Claims.Popped t 0 0 0 o key dsc', wordsOf rcd)
    | _ => none
  | none => none
/-- A launch that waits for one phase word, in word 0x2800, whose line has one record of a lazy release; and with a ticket for it, offered or not. -/
def waiting1 (dep : Nat) : State := launched paged 5 (launch 3 1 [2 ^ 63 + dep * 2 ^ 45 + 0x1400] .waiting)
def ticketed (offered : Option Nat) : State := (waiting1 1).modDie 0 (fun d => { d with monQ := [{ op := 0x2800, offered := offered, launch := some (0, 5) }] })
/-- A map of FP32 rows of 256 bytes, whose element (1, 2) is 2.0. -/
def map256 : State := liveG (fun g => { g with maps := [(2, ⟨[0x1000, 256 + 2 ^ 16, 1, 0], none⟩)], spad := memWrite [] 0x1108 4 0x40000000, acc := g.acc.set 7 [(5, 0x3F800000)] })
/-- Bytes of block 0x400 that differ from what was written. -/
def withErr (n : Nat) : State := { live with errs := [(0x400, { data := BitVec.ofNat 512 (256 ^ n - 1) })] }
/-- The issue move of quadrant 0 of core 0 finds the slot `w` in the loaded line, and its warp has passed the entry check. -/
def issuing (w : Nat) : State := (State.reset.withFetchWord 96 w).modWarp W0 (fun x => { x with checked := true })

/-! ### One step: values from the tables and examples of the spec -/

theorem test_iadd_sat : uni 0x000000000114000201050210 [(1, 0x7FFF), (2, 0x1)] 5 0x7FFF = true := by decide +kernel
theorem test_iadd_wraps : uni 0x000000000010000201050210 [(1, 0x7F), (2, 0x1)] 5 0xFFFFFF80 = true := by decide +kernel
theorem test_iadd3_negc : uni 0x000000000208030201050211 [(1, 0x5), (2, 0x6), (3, 0xC)] 5 0xFFFFFFFF = true := by decide +kernel
theorem test_iaddc_sub_carry : ends 0x000000004208000201050212 (fun y => { y with s := [(1, 5), (2, 3)] }) (fun y => y.readS 5 == 2 && y.k == 1) = true := by decide +kernel
theorem test_iaddc_sub_borrow : ends 0x000000004208000201050212 (fun y => { y with s := [(1, 3), (2, 5)], k := 15 }) (fun y => y.readS 5 == 0xFFFFFFFE && y.k == 14) = true := by decide +kernel
theorem test_isub_pair : (uni 0x00000000001C000806040213 [(6, 0x0), (7, 0x1), (8, 0x1)] 4 0xFFFFFFFF && uni 0x00000000001C000806040213 [(6, 0x0), (7, 0x1), (8, 0x1)] 5 0x0) = true := by decide +kernel
theorem test_ineg_sat : uni 0x000000000110000001050214 [(1, 0x80)] 5 0x7F = true := by decide +kernel
theorem test_iabs_wraps : uni 0x000000000018000001050215 [(1, 0x80000000)] 5 0x80000000 = true := by decide +kernel
theorem test_imul : uni 0x000000000014000201050216 [(1, 0x12C), (2, 0xC8)] 5 0xFFFFEA60 = true := by decide +kernel
theorem test_imul_sat : uni 0x000000000114000201050216 [(1, 0x12C), (2, 0xC8)] 5 0x7FFF = true := by decide +kernel
theorem test_imulhi_signed : uni 0x000000000018000201050217 [(1, 0xFFFFFFFE), (2, 0x3)] 5 0xFFFFFFFF = true := by decide +kernel
theorem test_imulhi_natural : uni 0x000000000008000201050217 [(1, 0xFFFFFFFE), (2, 0x3)] 5 0x2 = true := by decide +kernel
theorem test_imad_wraps : uni 0x000000000008030201050218 [(1, 0x10000), (2, 0x10000), (3, 0x5)] 5 0x5 = true := by decide +kernel
theorem test_imad64 : (uni 0x0000000000180A0806040219 [(6, 0xFFFFFFFE), (8, 0x3), (10, 0x5)] 4 0xFFFFFFFF && uni 0x0000000000180A0806040219 [(6, 0xFFFFFFFE), (8, 0x3), (10, 0x5)] 5 0xFFFFFFFF) = true := by decide +kernel
theorem test_imin : uni 0x00000000000400020105021A [(1, 0x1FFFF), (2, 0x3)] 5 0x3 = true := by decide +kernel
theorem test_imax_signed : uni 0x00000000001800020105021B [(1, 0xFFFFFFFF), (2, 0x1)] 5 0x1 = true := by decide +kernel
theorem test_isad : uni 0x00000000000003020105021C [(1, 0xA141E28), (2, 0xF0F0F0F), (3, 0x64)] 5 0x96 = true := by decide +kernel
theorem test_icmp_lt_orn : ends 0x000000002A1809020108021D (fun y => { y with s := [(1, 7), (2, 0xFFFFFFFF)], k := 2 }) (fun y => y.k == 2) && ends 0x000000002A1809020108021D (fun y => { y with s := [(1, 0xFFFFFFFF), (2, 7)], k := 2 }) (fun y => y.k == 3) = true := by decide +kernel
theorem test_pick_inv : ends 0x0000000002080B020105021E (fun y => { y with s := [(1, 7), (2, 9)], k := 8 }) (fun y => y.readS 5 == 9) = true := by decide +kernel
theorem test_plog_table : ends 0x000000E200000B0A0809021F (fun y => { y with k := 1 }) (fun y => y.k == 3) && ends 0x000000E200000B0A0809021F (fun y => { y with k := 5 }) (fun y => y.k == 5) = true := by decide +kernel
theorem test_shl_by_width : uni 0x000000000008000201050220 [(1, 0xFFFFFFFF), (2, 0x20)] 5 0x0 = true := by decide +kernel
theorem test_shr_not_reduced : uni 0x000000218008000001050221 [(1, 0xFFFFFFFF)] 5 0x0 = true := by decide +kernel
theorem test_sar_sign : uni 0x000000288018000001050222 [(1, 0x80000000)] 5 0xFFFFFFFF = true := by decide +kernel
theorem test_shf_right : uni 0x000000000208030201050223 [(1, 0x12345678), (2, 0x8), (3, 0xAB)] 5 0xAB123456 = true := by decide +kernel
theorem test_shf_left_clamp : uni 0x000000000408030201050223 [(1, 0x12345678), (2, 0x28), (3, 0xAB)] 5 0x12345678 = true := by decide +kernel
theorem test_logt : uni 0x000000F80008030201050224 [(1, 0xC), (2, 0xA), (3, 0x1)] 5 0x9 = true := by decide +kernel
theorem test_popc_pair : uni 0x00000000000C000006050225 [(6, 0xF0F0), (7, 0x1)] 5 0x9 = true := by decide +kernel
theorem test_clz_pair : uni 0x00000000000C000006050226 [(6, 0x1)] 5 0x3F = true := by decide +kernel
theorem test_brev_pair : (uni 0x00000000000C000006040227 [(6, 0x1)] 4 0x0 && uni 0x00000000000C000006040227 [(6, 0x1)] 5 0x80000000) = true := by decide +kernel
theorem test_bfe_n32 : uni 0x00000C048008000001050228 [(1, 0x87654321)] 5 0x432 = true := by decide +kernel
theorem test_bfe_s32 : uni 0x0000081C8018000001050228 [(1, 0x87654321)] 5 0xFFFFFFF8 = true := by decide +kernel
theorem test_bfi : uni 0x000000000008030201050229 [(1, 0xFF), (2, 0xC1C), (3, 0x12345678)] 5 0xF2345678 = true := by decide +kernel
theorem test_bsel_reverse : uni 0x00000000000803020105022A [(1, 0x44332211), (2, 0x53), (3, 0x88776655)] 5 0x11223344 = true := by decide +kernel
theorem test_bsel_modes : uni 0x00000000000803020105022A [(1, 0x44332211), (2, 0xE0000), (3, 0x88776655)] 5 0xFF001111 = true := by decide +kernel
theorem test_lea : uni 0x000000007C0800020105022B [(1, 0x1), (2, 0x3)] 5 0x80000001 = true := by decide +kernel
theorem test_lea64 : (uni 0x000000000E1800080604022B [(6, 0x10001000), (7, 0x1), (8, 0xFFFFFFFC)] 4 0x10000FE0 && uni 0x000000000E1800080604022B [(6, 0x10001000), (7, 0x1), (8, 0xFFFFFFFC)] 5 0x1) = true := by decide +kernel
theorem test_idp4 : uni 0x00000000001003020105022C [(1, 0xFF020180), (2, 0x4030201), (3, 0xA)] 5 0xFFFFFF8E = true := by decide +kernel
theorem test_idp2 : uni 0x00000000060403020105022C [(1, 0x3FFFF), (2, 0xFFFF0002), (3, 0x1)] 5 0x1FFFC = true := by decide +kernel
theorem test_mov_pair : (uni 0x00000000000C00060004022D [(6, 0x1), (7, 0x2)] 4 0x1 && uni 0x00000000000C00060004022D [(6, 0x1), (7, 0x2)] 5 0x2) = true := by decide +kernel
theorem test_movi : uni 0x7FC0000080080000002B022D [] 43 0x7FC00000 = true := by decide +kernel
theorem test_p2v : ends 0x00000000000000000009002E (fun y => { y with p := [(2, 2)], k := 5 }) (fun y => (y.readV 9).getD 1 0 == 0x504 && (y.readV 9).getD 0 0 == 0x500) = true := by decide +kernel
theorem test_v2p : ends 0x00000081800000000900002F (fun y => { y with v := [(9, [0x82, 1])], p := [(1, 3)] }) (fun y => y.predMask (.p 0) == 2 && y.predMask (.p 1) == 3 && y.predMask (.p 7) == 1) = true := by decide +kernel
theorem test_fadd_overflow_rn : uni 0x000000000020000201050230 [(1, 0x7F7FFFFF), (2, 0x7F7FFFFF)] 5 0x7F800000 = true := by decide +kernel
theorem test_fadd_overflow_rz : uni 0x000000000060000201050230 [(1, 0x7F7FFFFF), (2, 0x7F7FFFFF)] 5 0x7F7FFFFF = true := by decide +kernel
theorem test_fmul_invalid : uni 0x000000000020000201050231 [(1, 0x7F800000), (2, 0x0)] 5 0x7FC00000 = true := by decide +kernel
theorem test_ffma_zero_rn : uni 0x000000000020030201050232 [(1, 0x4B800000), (2, 0x3F800000), (3, 0xCB800000)] 5 0x0 = true := by decide +kernel
theorem test_ffma_zero_rd : uni 0x0000000000A0030201050232 [(1, 0x4B800000), (2, 0x3F800000), (3, 0xCB800000)] 5 0x80000000 = true := by decide +kernel
theorem test_fmin_zeros : uni 0x000000000020000201050233 [(1, 0x0), (2, 0x80000000)] 5 0x80000000 = true := by decide +kernel
theorem test_fmax_nan : uni 0x000000000020000201050234 [(1, 0x3F800000), (2, 0x7F800001)] 5 0x3F800000 = true := by decide +kernel
theorem test_fcmp_ltu : ends 0x000000005020000201080235 (fun y => { y with s := [(1, 0x7FC00000), (2, 0)] }) (fun y => y.k == 1) && ends 0x000000005020000201080235 (fun y => { y with s := [(1, 0), (2, 0x80000000)] }) (fun y => y.k == 0) = true := by decide +kernel
theorem test_frnd_even : uni 0x000000000020000001050236 [(1, 0x40200000)] 5 0x40000000 = true := by decide +kernel
theorem test_frnd_down : uni 0x0000000000A0000001050236 [(1, 0xBF000000)] 5 0xBF800000 = true := by decide +kernel
theorem test_fclass_subnormal : uni 0x000000000020000001050237 [(1, 0x80000001)] 5 0x4 = true := by decide +kernel
theorem test_fclass_nan : uni 0x000000000020000001050237 [(1, 0x7FC00000)] 5 0x200 = true := by decide +kernel
theorem test_fdp2 : uni 0x000000000024030201050238 [(1, 0x40003F80), (2, 0x40804040), (3, 0x3F800000)] 5 0x41400000 = true := by decide +kernel
theorem test_hadd2 : uni 0x000000000028000201050240 [(1, 0x3C007BFF), (2, 0x3C000400)] 5 0x40007BFF = true := by decide +kernel
theorem test_hmul2_neg_a : uni 0x000000000224000201050241 [(1, 0x40003F80), (2, 0x40804040)] 5 0xC100C040 = true := by decide +kernel
theorem test_hfma2 : uni 0x000000000024030201050242 [(1, 0x40003F80), (2, 0x40804040), (3, 0x3F803F80)] 5 0x41104080 = true := by decide +kernel
theorem test_hmin2 : uni 0x000000000024000201050243 [(1, 0x40003F80), (2, 0x3F807FC0)] 5 0x3F803F80 = true := by decide +kernel
theorem test_hmax2_nan : uni 0x000000000224000201050244 [(1, 0x40003F80), (2, 0x3F807FC1)] 5 0x40007FC0 = true := by decide +kernel
theorem test_frcp_subnormal : uni 0x000000000060000001050248 [(1, 0x1)] 5 0x7F7FFFFF = true := by decide +kernel
theorem test_frcp_minus_infinity : uni 0x000000000020000001050248 [(1, 0xFF800000)] 5 0x80000000 = true := by decide +kernel
theorem test_frsq : uni 0x000000000020000001050249 [(1, 0x40800000)] 5 0x3F000000 = true := by decide +kernel
theorem test_fsqrt : uni 0x00000000002000000105024A [(1, 0x40100000)] 5 0x3FC00000 = true := by decide +kernel
theorem test_fex2 : uni 0x00000000002000000105024B [(1, 0xC1200000)] 5 0x3A800000 = true := by decide +kernel
theorem test_flg2 : uni 0x00000000002000000105024C [(1, 0x3E000000)] 5 0xC0400000 = true := by decide +kernel
theorem test_fsin : uni 0x00000000002000000105024D [(1, 0x80000000)] 5 0x80000000 = true := by decide +kernel
theorem test_fcos : uni 0x00000000002000000105024E [(1, 0x0)] 5 0x3F800000 = true := by decide +kernel
theorem test_ftanh : uni 0x00000000002000000105024F [(1, 0xFF800000)] 5 0xBF800000 = true := by decide +kernel
theorem test_cvt_to_integer : uni 0x000000004010000001050250 [(1, 0xC348B333)] 5 0xFFFFFF80 = true := by decide +kernel
theorem test_cvt_from_integer : uni 0x000000003128000001050250 [(1, 0x11170)] 5 0x7BFF = true := by decide +kernel
theorem test_cvtp_pack : uni 0x0000000040A4000201050251 [(1, 0x3EAAAAAB), (2, 0xBEAAAAAB)] 5 0xBEAB3EAA = true := by decide +kernel
theorem test_cvt8_narrow : uni 0x000000004130000008050252 [(8, 0x43960000), (9, 0xC3E60000), (10, 0x43FA0000), (11, 0x3A83126F)] 5 0x17EFE79 = true := by decide +kernel
theorem test_qblk_worked_block : ends 0x000000000438000004140053 (fun y => { y with v := [(4, [0x41A00000, 0xBF800000]), (5, [0x41300000, 0x41800000])] }) (fun y => (y.readV 20).take 3 == [0x57, 0x89, 0] && (y.readV 21).getD 5 0 == 0x80AB4A07) = true := by decide +kernel
theorem test_dqblk_worked_lane : ends 0x000000000038000201040054 (fun y => { y with v := [(1, [0, 0x89]), (2, [0, 0x80AB4A07])] }) (fun y => (y.readV 4).getD 1 0 == 0xBFD58000 && (y.readV 5).getD 1 0 == 0x41857000) = true := by decide +kernel
theorem test_shfl_xor : ends 0x00000001EC08000001050058 (fun y => { y with v := [(1, [10, 11, 12, 13]), (5, [1, 2, 3, 4])], mask := 5 }) (fun y => (y.readV 5).take 4 == [11, 2, 13, 4]) = true := by decide +kernel
theorem test_vote_any : ends 0x000000002000000003090059 (fun y => { y with p := [(3, 8)], mask := 7 }) (fun y => y.k == 0) && ends 0x000000002000000003090059 (fun y => { y with p := [(3, 4)], mask := 7 }) (fun y => y.k == 2) = true := by decide +kernel
theorem test_ballot_inv : ends 0x00000000020000000304005A (fun y => { y with p := [(3, 1)], mask := 7 }) (fun y => (y.readV 4).getD 0 0 == 6 && (y.readV 5).getD 2 0 == 0 && (y.readV 4).getD 3 0 == 0) = true := by decide +kernel
theorem test_redux_exact_sum : ends 0x00000000002000000105005B (fun y => { y with v := [(1, [0x4B800000, 0x3F800000, 0x3F800000, 0xCB800000])], mask := 15 }) (fun y => (y.readV 5).take 5 == [0x40000000, 0x40000000, 0x40000000, 0x40000000, 0]) = true := by decide +kernel
theorem test_scan_add : ends 0x00000000000800000105005C (fun y => { y with v := [(1, [5, 7, 0, 9]), (5, [1, 1, 99, 1])], mask := 11 }) (fun y => (y.readV 5).take 4 == [5, 12, 99, 21]) = true := by decide +kernel
theorem test_scan_add_excl : ends 0x00000000020800000105005C (fun y => { y with v := [(1, [5, 7, 0, 9]), (5, [1, 1, 99, 1])], mask := 11 }) (fun y => (y.readV 5).take 4 == [0, 5, 99, 12]) = true := by decide +kernel
theorem test_match_lanes : ends 0x00000000000800000104005D (fun y => { y with v := [(1, [5, 7, 5, 5])], mask := 7 }) (fun y => (y.readV 4).take 3 == [5, 2, 5]) = true := by decide +kernel
theorem test_nop_advances : ends 0x000000000000000000000001 (id) (fun y => y.pc == 1) = true := by decide +kernel
theorem test_bra_not_taken : ends 0x000000000002000008000002 (id) (fun y => y.pc == 1) = true := by decide +kernel
theorem test_bra_to_itself : ends 0x000000000000000000000002 (id) (fun y => y.pc == 0) = true := by decide +kernel
theorem test_brx_to_the_entry : ends 0x000000000000000007000003 (id) (fun y => y.pc == 0) = true := by decide +kernel
theorem test_brd_splits : ends 0x000000000000000002000004 (fun y => { y with p := [(2, 12)], mask := 5 }) (fun y => y.mask == 1 && y.pc == 1 && y.stack == [{ rpc := 0, rmask := 5, pmask := 4, ppc := 0 }]) = true := by decide +kernel
theorem test_join_runs_the_other_path : ends 0x000000000000000000000005 (fun y => { y with mask := 1, stack := [{ rpc := 0, rmask := 5, pmask := 4, ppc := 0 }] }) (fun y => y.mask == 4 && y.pc == 0 && y.stack == [{ rpc := 0, rmask := 5, pmask := 0, ppc := 0 }]) = true := by decide +kernel
theorem test_call_links : ends 0x000000000000000000050006 (id) (fun y => y.pc == 0 && y.readS 5 == 1) = true := by decide +kernel
theorem test_ret_to_the_entry : ends 0x000000000000000005000007 (id) (fun y => y.pc == 0) = true := by decide +kernel
theorem test_exit_marks_lanes : ends 0x000000000000000000000008 (fun y => { y with mask := 1, stack := [{ rpc := 0, rmask := 5, pmask := 4, ppc := 0 }] }) (fun y => y.mask == 4 && y.exited == 1) = true := by decide +kernel
theorem test_pred_covers_five : ends 0x000000000001000009230009 (fun y => { y with k := 2 }) (fun y => y.pfx == some { remaining := 5, thenLeft := 3, base := BitVec.allOnes 64, cond := 0 }) = true := by decide +kernel
theorem test_yield_window : ends 0x00000000000000000000000A (id) (fun y => y.yield == some { others := [], until_ := 64 }) = true := by decide +kernel
theorem test_lds_asks_its_bytes : goes 0x000000040401000003060062 (fun y => { y with v := [(3, [0x100, 0x80])], mask := 2 }) (fun t => t.accs.map (fun a => a.parts.map (fun p => (p.lane, p.n, p.loc))) == [[(1, 4, .spad ⟨0, 0, 0⟩ 0x84 true)]] && (t.warp W0).map (fun (y : Warp) => (y.cnt .load, y.pending 0 (.v 6))) == some (1, true)) = true := by decide +kernel
theorem test_sts_carries_its_value : goes 0x000000000201000003060063 (fun y => { y with v := [(3, [0x100]), (6, [0x12345678])], mask := 1 }) (fun t => t.accs.map (fun a => a.parts.map (fun p => (p.loc, p.val))) == [[(.spad ⟨0, 0, 0⟩ 0x100 true, 0x5678)]]) = true := by decide +kernel
theorem test_ld_unaligned_traps : goes 0x000000000400000002060060 (fun y => { y with v := [(2, [2])], mask := 1 }) (fun t => t.accs == [] && t.wg W0.wg == none) = true := by decide +kernel
theorem test_atoms_keeps_order : goes 0x000000000489200403060071 (fun y => { y with v := [(3, [8, 8]), (4, [1, 2])], mask := 3 }) (fun t => t.accs.map (fun a => (a.parts.map (·.lane), a.str)) == [([0, 1], .strong .rlx .wg)]) = true := by decide +kernel
theorem test_fence_parks : ends 0x0000000001A8000000000075 (id) (fun y => y.park.length == 1 && y.pc == 1) = true := by decide +kernel
theorem test_cctl_ib_empties_the_buffer : goes 0x000000000000000000000077 (id) (fun t => ((t.coreAt 0).quad 0).ibuf.length == 0) = true := by decide +kernel
theorem test_cpy_refuses_a_reserved_bit : goes 0x000000000000000010000083 (fun y => { y with s := [(16, 0x80000000)] }) (fun t => t.copies == []) = true := by decide +kernel
theorem test_waitcnt_parks : ends 0x000000050100000000000085 (id) (fun y => y.park == [.cnt .chan 5] && y.pc == 1) = true := by decide +kernel
theorem test_arrive_counts_its_field : goes 0x000000006000F8000A000091 (fun y => { y with s := [(10, 0x40)] }) (fun t => t.upds.map (fun u => (u.kind, u.bar)) == [(.arrive 32 none, .spad ⟨0, 0, 0⟩ 0x40)]) = true := by decide +kernel
theorem test_binit_misaligned_traps : goes 0x000000000000000002060090 (fun y => { y with s := [(2, 8), (6, 1)] }) (fun t => t.upds == []) = true := by decide +kernel
theorem test_tbind_ready_at_once : goes 0x000000000009000006040097 (fun y => { y with s := [(4, 0x20), (6, 0x100), (7, 0x40)] }) (fun t => ((t.wg W0.wg).bind (fun (h : Wg) => tabGet h.tiles 9)).map (fun (e : Tile) => (e.st, e.base, e.len, e.rho)) == some (.ready, 0x100, 0x40, 0)) = true := by decide +kernel
theorem test_tstat_status_word : goes 0x000000000009000000050099 (id) (fun t => t.upds.map (·.res) == [some 0]) = true := by decide +kernel
theorem test_accz_joins_the_queue : goes 0x0000000000000700000000A5 (id) (fun t => (t.coreAt 0).mq.map (·.op) == [.accz 7]) = true := by decide +kernel
theorem test_accrd_adds_its_index : goes 0x0000000300000100050900AA (fun y => { y with s := [(5, 4)], mask := 3 }) (fun t => (t.coreAt 0).mq.map (·.op) == [.accrd false 1 7 9 3]) = true := by decide +kernel
theorem test_sysrd_lane : ends 0x0000000100000000000400B2 (id) (fun y => (y.readV 4).getD 63 0 == 63 && (y.readV 4).getD 5 0 == 5) = true := by decide +kernel
theorem test_syswr_hstat_bit_1 : ends 0x0000001000010000040000B3 (fun y => { y with s := [(4, 0xFF)], hstat := 1 }) (fun y => y.hstat == 3 && y.pc == 1) = true := by decide +kernel
theorem test_sleep_parks : ends 0x0000006400000000000000B6 (id) (fun y => y.park == [.sleep 100] && y.pc == 1) = true := by decide +kernel
theorem test_trap_enters_the_handler : (match step ({ handled (start 0x0000DEAD00000000000000B0 (fun y => { y with mask := 5, hstat := 0 })) with agenda := [.issue 0 0] }) with | .next t => (fun (t : State) => match t.warp W0 with | some y => (fun y => y.pc == 5 && y.frame.code == 0x0A && y.frame.pc == 1 && y.frame.mask == 5 && y.mask == BitVec.allOnes 64 && y.handler) y | none => false) t | _ => false) = true := by decide +kernel
theorem test_bkpt_enters_the_handler : (match step ({ handled (start 0x0000000700000000000000B4 (id)) with agenda := [.issue 0 0] }) with | .next t => (fun (t : State) => match t.warp W0 with | some y => (fun y => y.pc == 5 && y.frame.code == 0x0B && y.handler) y | none => false) t | _ => false) = true := by decide +kernel
theorem test_join_with_an_empty_stack_traps : (match step ({ handled (start 0x000000000000000000000005 (id)) with agenda := [.issue 0 0] }) with | .next t => (fun (t : State) => match t.warp W0 with | some y => (fun y => y.pc == 5 && y.handler && y.frame.pc == 0) y | none => false) t | _ => false) = true := by decide +kernel
theorem test_a_misaligned_load_traps : (match step ({ handled (start 0x000000000400000002060060 (fun y => { y with v := [(2, [2])], mask := 1 })) with agenda := [.issue 0 0] }) with | .next t => (fun (t : State) => t.accs.isEmpty && (t.warp W0).map (fun (y : Warp) => (y.pc, y.frame.addr)) == some (5, 2)) t | _ => false) = true := by decide +kernel
theorem test_tret_goes_back : (match step ({ handled (start 0x0000000000000000000000B1 (fun y => { y with hstat := 1, frame := { pc := 0x42, mask := 5 } })) with agenda := [.issue 0 0] }) with | .next t => (fun (t : State) => match t.warp W0 with | some y => (fun y => y.pc == 7 && y.mask == 5 && !y.handler) y | none => false) t | _ => false) = true := by decide +kernel
theorem test_views_of_one_base : ([(view2 0x400000 8 4 1 0 0 0, 13, 0x40002C), (view2 0x400000 6 4 (8 + 18 * 2 ^ 24) 0 0 0, 13, 0x400034), (view2 0x400000 8 4 8 1 0 0, 13, 0x400068),
    (view2 0x400000 4 4 8 0 (5 + 10 * 2 ^ 32) 0, 13, 0x40004C), (view2 0x400000 8 4 (2 + 64) 0 0 (2 ^ 40 + 2 ^ 32 + 2 ^ 16 + 2 * 2 ^ 8), 13, 0x400020)].all (fun e => viewAt e.1 e.2.1 == some (.bit (8 * e.2.2)))) = true := by decide +kernel
theorem test_views_pad : (viewAt (view2 0x400000 6 4 (8 + 18 * 2 ^ 24) 0 0 0) 14 == some .pad && viewAt (view2 0x400000 8 4 (2 + 64) 0 0 (2 ^ 40 + 2 ^ 32 + 2 ^ 16 + 2 * 2 ^ 8)) 12 == some .pad) = true := by decide +kernel
theorem test_views_gather : (let d : VD := ([0x0112000000400000, 0x220, 0x400000008, 0, 0, 0x800000001, 0, 0, 8, 0, 0, 0x500000, 0, 0, 4, 0] : List Nat).map (BitVec.ofNat 64)
    let s : State := { paged with hbm := memWrite paged.hbm 0x500000 16 (3 + 3 * 2 ^ 64 + 2 ^ 96) }
    [(13, 0x400014), (5, 0x400074), (21, 0x400074)].all (fun e => match (s.viewElem { dev := 0, ctx := 0, agent := 0, id := 5, va := 0, line := 0, write := false } d e.1).2 with | .ok (.bit b) => b == 8 * e.2 | _ => false)) = true := by decide +kernel

/-! ### Every statement has states and operands that meet its hypotheses -/

/-- A per-lane form with a last-read source, a uniform 64-bit form, IMAD64, and both settings of `.sat`. -/
theorem test_witness_IntegerArithmetic : [
    readyB (liveW (fun x => { x with v := [(1, [5])] })) (once false) ((deps3 (al .s32 (.v 5) (.v 1 .last) (v 2) (v 3) false)).join (Deps.dst 1 (.v 5))),
    readyB live (once true) ((deps2 (al .s64 (.s 4) (.s 6) (.s 8) (.imm 0) true)).join (Deps.dst 2 (.s 4))),
    readyB live (once false) (((deps2 (al .s32 (.v 4) (v 1) (v 2) (v 6) false)).join (Deps.src 2 (v 6))).join (Deps.dst 2 (.v 4))),
    readyB live (once false) ((Deps.src 2 (v 6)).join (Deps.dst 2 (.v 4))),
    (al .s32 (.v 5) (v 1) (v 2) (v 3) false).sat == false].all id = true := by decide +kernel

/-- Both directions of `fit` at the ends of a type, the 64-bit width, and IADDC with and without a carry-in in both forms. -/
theorem test_witness_CarriesAndFit : [
    Ty.s8.isInt && decide (opnd .s8 (fit .s8 128 true) = 127) && decide (opnd .s8 (fit .s8 128 false) = -128) && decide (opnd .n64 (fit .n64 (-1) true) = 0),
    decide (Ty.s8.width ≠ 64) && tySigned .s8 && !tySigned .n16 && decide (Ty.n64.width = 64),
    (Instr.iaddc (al .n32 (.v 5) (v 1) (v 2) (.imm 0) false) true (.p 1) (some (.k 3))).accepts,
    readyB live (once false) (((deps2 (al .n32 (.v 5) (v 1) (v 2) (.imm 0) false)).join (Deps.pred (.k 3))).join (Deps.dst 1 (.v 5))),
    (Instr.iaddc (al .n32 (.s 5) (.s 1) (.imm 2) (.imm 0) false) false (.k 1) none).accepts,
    readyB live (once true) (((deps2 (al .n32 (.s 5) (.s 1) (.imm 2) (.imm 0) false)).join {}).join (Deps.dst 1 (.s 5)))].all id = true := by decide +kernel

theorem test_witness_Shifts : [
    (Instr.shl (al .n64 (.v 4) (v 6) (v 9) (.imm 0) false)).accepts && (Instr.shr (al .n32 (.v 4) (v 6) (v 9) (.imm 0) false)).accepts,
    (Instr.sar (al .s64 (.s 4) (.s 6) (.imm 63) (.imm 0) false)).accepts,
    readyB live (once false) ((depsCount (al .n64 (.v 4) (v 6) (v 9) (.imm 0) false)).join (Deps.dst 2 (.v 4))),
    readyB live (once true) ((depsCount (al .s64 (.s 4) (.s 6) (.imm 63) (.imm 0) false)).join (Deps.dst 2 (.s 4))),
    readyB live (once false) ((deps111 (al .n32 (.v 5) (v 6) (v 9) (v 10) false)).join (Deps.dst 1 (.v 5)))].all id = true := by decide +kernel

/-- The clauses on fields meet at a field that ends at bit 31 and at an empty one. -/
theorem test_witness_BitOperations : [
    readyB live (once false) ((deps111 (al .n32 (.v 5) (v 1) (v 2) (v 3) false)).join (Deps.dst 1 (.v 5))),
    readyB live (once true) ((Deps.src 2 (.s 6)).join (Deps.dst 2 (.s 4))),
    readyB live (once false) ((depsCount (al .s32 (.v 5) (v 1) (.imm 0x81C) (.imm 0) false)).join (Deps.dst 1 (.v 5))),
    (Instr.clz (al .n64 (.v 5) (v 6) (.imm 0) (.imm 0) false)).accepts && (Instr.brev (al .n64 (.v 4) (v 6) (.imm 0) (.imm 0) false)).accepts,
    decide (0 < fieldLen 0x0818) && decide (fieldPos 0x0818 + fieldLen 0x0818 = 32) && decide (fieldLen 0x0018 = 0) && decide (fieldPos 0xFF = 32)].all id = true := by decide +kernel

theorem test_witness_DotsAddressesMoves : [
    readyB live (once false) ((deps111 (al .n8 (.v 5) (v 1) (v 2) (v 3) false)).join (Deps.dst 1 (.v 5))),
    readyB live (once true) (((Deps.src 2 (.s 6)).join (Deps.src 1 (.imm 0xFFFFFFFC))).join (Deps.dst 2 (.s 4))),
    readyB live (once false) (((deps2 (al .n64 (.v 4) (v 6) (v 8) (.imm 0) false)).join (Deps.pred (.k 3))).join (Deps.dst 2 (.v 4))),
    readyB live (once true) (({} : Deps).join (Deps.dst 1 (.s 63))),
    readyB live (once false) (({ reads := allPreds } : Deps).join (Deps.dst 1 (.v 9))),
    (Instr.pick (al .n64 (.v 4) (v 6) (v 8) (.imm 0) false) true (.k 3)).accepts && (Instr.lea64 (al .s32 (.s 4) (.s 6) (.imm 0xFFFFFFFC) (.imm 0) false) 31).accepts].all id = true := by decide +kernel

theorem test_witness_PredicateResults : [
    (Instr.icmp (al .s32 (.v 0) (v 1) (v 2) (.imm 0) false) .ge .or true (.p 2) (.p 5)).accepts && (PReg.p 2).okDst false && (PReg.k 0).okDst true,
    (Instr.icmp (al .s64 (.s 0) (.s 6) (.s 8) (.imm 0) false) .lt .none false (.k 2) (.p 0)).accepts,
    readyB live (once false) ((deps2 (al .s32 (.v 0) (v 1) (v 2) (.imm 0) false)).join (Deps.pred (.p 5))),
    readyB live (once true) ((deps2 (al .s64 (.s 0) (.s 6) (.s 8) (.imm 0) false)).join {}),
    (Instr.fcmp ⟨false, .f32, .rn, false, false, false, false, false, false, .v 0, v 1, v 2, .imm 0⟩ .geu .xor (.p 3) (.p 1)).accepts,
    readyB live (once true) (((Deps.pred (.k 0)).join (Deps.pred (.k 1))).join (Deps.pred (.k 2))) && (PReg.k 3).isK].all id = true := by decide +kernel

/-- Ordered and unordered operands, and NaN and not-NaN sources of a conversion. -/
theorem test_witness_FloatComparisonsAndIntegers : [
    (decodeFp32 0x7FC00000).isNan && !(decodeFp32 0x7F800000).isNan && !(decodeFp32 0x80000000).isNan,
    Ty.bf16.isWideFloat && Ty.f32.isWideFloat && Ty.n64.isInt && Ty.s8.isInt,
    (decodeElem (fltFmt .f16) (xzero false) 0x7E00).isNan && !(decodeElem (fltFmt .f16) (xzero false) 0x7C00).isNan].all id = true := by decide +kernel

theorem test_witness_FloatArithmetic : [
    readyB live (once false) ((fdeps3 ⟨false, .f32, .ru, false, true, false, true, false, false, .v 4, v 1, v 2, v 3⟩).join (Deps.dst 1 (.v 4))),
    readyB live (once true) ((fdeps2 ⟨false, .f32, .rd, false, false, false, false, false, false, .s 4, .s 1, .imm 0x3F800000, .imm 0⟩).join (Deps.dst 1 (.s 4)))].all id = true := by decide +kernel

/-- The clauses on FMIN and FMAX: no NaN, one on each side, two, with and without `.nan`. -/
theorem test_witness_FloatSelectRoundClass : [
    readyB live (once false) ((fdeps2 ⟨false, .f32, .rn, false, false, false, false, false, false, .v 4, v 1, v 2, .imm 0⟩).join (Deps.dst 1 (.v 4))),
    readyB live (once true) ((Deps.src 1 (.s 1)).join (Deps.dst 1 (.s 4))),
    (decodeFp32 0x7F800001).isNan && (decodeFp32 0xFFFFFFFF).isNan && !(decodeFp32 0xFF800000).isNan,
    BitVec.ofNat 32 (minMaxCode .fp32 false false 0x7F800001 0x3F800000) == 0x3F800000#32 && BitVec.ofNat 32 (minMaxCode .fp32 true false 0x3F800000 0x7F800001) == 0x3F800000#32,
    BitVec.ofNat 32 (minMaxCode .fp32 true true 0x3F800000 0x7F800001) == 0x7FC00000#32 && BitVec.ofNat 32 (minMaxCode .fp32 false false 0x7F800001 0xFFFFFFFF) == 0x7FC00000#32].all id = true := by decide +kernel

theorem test_witness_PackedHalves : [
    readyB live (once false) ((fdeps3 ⟨false, .bf16, .rn, false, false, false, true, false, false, .v 4, v 1, v 2, v 3⟩).join (Deps.dst 1 (.v 4))),
    readyB live (once true) ((fdeps2 ⟨false, .f16, .rn, false, false, false, false, false, false, .s 4, .s 1, .s 2, .imm 0⟩).join (Deps.dst 1 (.s 4)))].all id = true := by decide +kernel

theorem test_witness_ElementaryFunctions : [
    readyB live (once false) ((Deps.src 1 (v 1)).join (Deps.dst 1 (.v 4))) && readyB live (once true) ((Deps.src 1 (.s 1)).join (Deps.dst 1 (.s 4))),
    (decodeFp32 0x7FC00000).isNan && (0x80000001#32).getLsbD 31 && !(decodeFp32 0x80000001).isZero && (decodeFp32 0x80000000).isZero].all id = true := by decide +kernel

theorem test_witness_Conversions : [
    readyB live (once false) ((Deps.src 2 (v 6)).join (Deps.dst 2 (.v 4))) && readyB live (once false) ((Deps.src 4 (v 8)).join (Deps.dst 1 (.v 4))),
    readyB live (once false) (((Deps.src 1 (v 6)).join (Deps.src 1 (.s 7))).join (Deps.dst 1 (.v 4))) && readyB live (once false) ((Deps.src 1 (v 6)).join (Deps.dst 4 (.v 4))),
    ([Fmt.bf16, .fp16, .e5m2, .e4m3, .e3m4, .e2m1].contains .e2m1) && (decodeFp32 0x41A00000).isFin && decide (Claims.rat (decodeFp32 0x41A00000) ≠ 0) && decide (Claims.rat (decodeFp32 0xBF800000) ≠ 0) && (qblkBlock .e2m1 .rn false false true [some 0x41A00000, some 0xBF800000, none]).1.getD 2 none == none,
    (Instr.qblk ⟨false, .e2m1, .f32, .rn, false, .v 20, v 4, .imm 0⟩ false true).accepts && readyB live (once false) ((Deps.src 2 (v 4)).join (Deps.dst 2 (.v 20)))].all id = true := by decide +kernel

theorem test_witness_CrossLane : [
    readyB live (once false) (((Deps.src 1 (v 1)).join (Deps.src 1 (.imm 63))).join (Deps.dst 1 (.v 5))) && readyB live (once false) ((Deps.pred (.k 3)).join (Deps.dst 2 (.v 254))),
    readyB live (once false) ((Deps.src 2 (v 6)).join (Deps.dst 2 (.v 4))) && readyB live (once false) ((Deps.src 1 (.v 6 .reuse)).join (Deps.dst 1 (.v 4)))].all id = true := by decide +kernel

theorem test_witness_VotesAndPredicateMoves : [
    readyB live (once false) (Deps.pred (.p 7)) && readyB live (once false) (Deps.src 1 (.v 9 .last)) && (0x81#8).getLsbD 7].all id = true := by decide +kernel

/-- The prefix clauses at a side that ends, at its last instruction, and at a longer one. -/
theorem test_witness_PlainControl : [
    nx (.yield false) (liveG (fun g => { g with warps := g.warps ++ [newWarp 0 0] })) (fun t => (t.warp W0).map (·.yield) == some (some ⟨[], 64⟩)),
    readyB live (once true) {} && readyB live { once := true, cover := false, sw := false } (Deps.pred (.k 1)) && readyB (liveW (fun x => { x with pfx := some ⟨8, 1, 5, 4⟩ })) (once true) {},
    (fun x : Warp => x.lanes == 4#64 && (x.advance 0 false false true).lanes == 1#64) { pfx := some ⟨8, 1, 5, 4⟩ },
    decide ((({ pfx := some ⟨1, 0, 5, 4⟩ } : Warp).advance 0 false false true).pfx = none) && decide ((({ pfx := some ⟨2, 1, 5, 4⟩ } : Warp).advance 0 false false true).pfx = some ⟨1, 0, 5, 4⟩)].all id = true := by decide +kernel

/-- A branch that is taken and one that is not, a legal target, a slot that the line does not mark, one before the code and one past R53's limit. -/
theorem test_witness_BranchesAndTargets : [
    readyB live (ctl false) (Deps.pred (.k 0)) && readyB live (ctl false) {} && readyB live (ctl false) (Deps.uni 63 1),
    withC live (fun c => !c.x.k.getLsbD 0 && (match live.checkTarget c.g 0 0 with | .ok n => n == 0 | .error _ => false)),
    withC live (fun c => (match live.checkTarget c.g 0 1 with | .error t => t.code == 3 | .ok _ => false) && (match live.checkTarget c.g 0 (-1) with | .error t => t.code == 3 | .ok _ => false)),
    withC live (fun c => match live.checkTarget c.g 0 ((maxPc : Int) + 1) with | .error t => t.code == 3 | .ok _ => false),
    withC live (fun c => match live.lineFor c.g 0 0 with | .ok l => l.getLsbD 480 && !l.getLsbD 481 | .error _ => false)].all id = true := by decide +kernel

theorem test_witness_Divergence : [
    readyB live (ctl false) (Deps.pred (.k 0)) && readyB (liveW (fun x => { x with stack := List.replicate 16 ⟨0, 5, 0, 0⟩ })) (ctl false) {},
    withC live (fun c => match live.checkTarget c.g 0 ((c.x.pc : Int) + 0) with | .ok n => n == 0 && c.x.stack.length == 0 && c.x.pend.isEmpty && !c.x.handler | .error _ => false),
    readyB (liveW (fun x => { x with stack := [⟨0, 5, 4, 0⟩], mask := 1 })) (ctl false) {} && readyB (liveW (fun x => { x with stack := [⟨0, 5, 0, 0⟩], mask := 4 })) (ctl false) {},
    nx (.join false) (liveW (fun x => { x with stack := [⟨7, 0, 0, 0⟩, ⟨9, 5, 0, 0⟩], mask := 1 })) (fun t => (t.warp W0).map (fun (y : Warp) => (y.mask, y.pc, y.stack)) == some (5, 9, [])),
    readyB (liveW (fun x => { x with hstat := 3 })) (ctl false) {} && withC (liveW (fun x => { x with hstat := 3 })) (fun c => c.x.handler)].all id = true := by decide +kernel

theorem test_witness_TrappingInstructions : [
    readyB live (once true) {} && withC live (fun _ => true)].all id = true := by decide +kernel

theorem test_witness_TrapEntry : [
    match (handled live).wg W0.wg, (handled live).warp W0 with | some g, some x => !x.done && !x.handler && g.st == .running && g.owner == none && !g.halted && g.warps.all (fun y => y.dq == [] && y.ptrap == none) && (handled live).usableHandler g 0 == some 5 | _, _ => false,
    match (handled live).takeTrap W0 (trapAt tMisaligned 0x1002 []) with | t => (match t.warp W0, t.wg W0.wg with | some y, some h => y.handler && y.masked && y.pc == 5 && y.frame.addr == 0x1002 && y.frame.pc == 0 && h.owner == some 0 | _, _ => false),
    (fun s : State => (match s.warp W0 with | some x => x.dq == [] && x.ptrap == none && x.halt == none && !x.park.isEmpty | none => false) && (match (s.takeTrap W0 late).warp W0 with | some y => y.handler && y.pc == 5 && y.dq == [] && y.frame.code == 0x18 && y.frame.apc == some 0x42 && y.frame.stat.getLsbD 8 | none => false)) (handled (liveW (fun x => { x with park := [.cnt .load 0] }))),
    (match ((handled live).takeTrap W0 late).warp W0 with | some y => !y.handler && y.dq == [late] && y.halt == some ⟨0, false⟩ | none => false),
    (fun s : State => nx (.siblingHalt W0) s (fun u => match u.warp W0 with | some y => y.handler && y.dq == [late] && y.frame.stat.extractLsb' 10 3 == 1 && y.frame.stat.extractLsb' 14 4 == 5 | none => false)) (handled (liveW (fun x => { x with dq := [{ late with skid := 5 }, late], halt := some ⟨5, false⟩ })))].all id = true := by decide +kernel

/-- Outside handler mode; in it with a frame that TRET restores; and with a reserved bit of the frame's PC set. -/
theorem test_witness_TrapReturn : [
    readyB live { once := true, cover := false, raw := true, sw := false } {} && withC live (fun c => !c.x.handler && c.g.warps.all (fun y => y.dq == [] && y.ptrap == none)),
    withC (liveW (fun x => { x with hstat := 3, frame := { pc := 64 } })) (fun c => c.x.handler && tretOk c.x.frame.stat c.x.frame.pc c.x.frame.pfx.isSome),
    withC (liveW (fun x => { x with hstat := 3, frame := { pc := 5 } })) (fun c => c.x.handler && !tretOk c.x.frame.stat c.x.frame.pc c.x.frame.pfx.isSome)].all id = true := by decide +kernel

theorem test_witness_SpecialRegisters : [
    readyB live (once true) (Deps.dst 2 (.v 4)) && readyB live (once true) (Deps.src 1 (.s 4)) && (Instr.syswr false (.s 4) 29 1023).accepts && (Instr.syswr false (.v 4 .none) 26 3).accepts,
    withC live (fun c => !c.x.handler && !live.sysIllegal c 0 false && live.sysIllegal c 17 false && live.sysIllegal c 28 false && !live.sysIllegal c 12 false && live.sysIllegal c 16 true),
    withC (liveW (fun x => { x with hstat := 1 })) (fun c => !(liveW (fun x => { x with hstat := 1 })).sysIllegal c 16 true && !(liveW (fun x => { x with hstat := 1 })).sysIllegal c 27 true),
    withC (live.modDev 0 (fun d => { d with dbgOwner := some 0 })) (fun c => ((live.modDev 0 (fun d => { d with dbgOwner := some 0 })).dev c.dev).dbgOwner == some c.ctx && (live.dev 0).dbgOwner != some c.ctx),
    Memory.wf (live.dev 0).dbg].all id = true := by decide +kernel

/-- A global load and a scratchpad one whose checks pass, a header access inside its block, and a lane that is not aligned. -/
theorem test_witness_LoadsStoresAndHeaders : [
    readyB paged (once false) ((Deps.src 2 (v 2)).join (Deps.dst 1 (.v 6))) && readyB paged (once true) ((Deps.src 2 (.s 2)).join { reads := dstRegs 2 (.s 6) }) && notFull paged .load && notFull paged .store,
    withC paged (fun c => match paged.checkAccess c (Claims.ldReq ⟨false, .gl, .b4, false, .weak, .normal, .v 6, ⟨v 2, 0⟩⟩ .gl) [0] (fun _ => 0x10000) (fun _ => 0) with | .ok (ps, []) => ps.length == 1 | _ => false),
    withC paged (fun c => match paged.checkAccess c (Claims.stReq ⟨false, .sp, .b16, false, .weak, .normal, .v 4, ⟨v 3, 0⟩⟩ .sp) [0, 63] (fun l => 16 * l) (fun _ => 5) with | .ok (ps, []) => ps.length == 4 | _ => false),
    withC paged (fun c => match paged.checkAccess c (Claims.ldReq ⟨false, .gl, .b4, false, .weak, .normal, .v 6, ⟨v 2, 0⟩⟩ .gl) [0] (fun _ => 0x10002) (fun _ => 0) with | .error t => t.code == 0x11 | _ => false),
    withC paged (fun c => match paged.checkAccess c { kind := .hdrLoad, cls := .load, sp := .gl, size := 4, str := .weak, hint := .normal, write := false, align := false, noHost := true, block := true } [0] (fun _ => 0x10007) (fun _ => 0) with | .ok (ps, []) => ps.length == 1 | _ => false),
    (fun s : State => withC s (fun c => s.warmFor c [0] (fun _ => 0x10000) == s)) (paged.modCore 0 (fun c => { c with tlb := [⟨0, 2, 0, 99⟩] })),
    nx (.ld ⟨false, .gl, .b4, false, .weak, .normal, .v 6, ⟨v 2, 0⟩⟩) (pagedW (fun x => { x with v := [(2, [0x10000])], mask := 1 })) (fun t => t.accs.length == 1 && t.accs.all (fun a => a.id == 1 && a.dst == some (.v 6) && a.size == 4))].all id = true := by decide +kernel

theorem test_witness_AtomicIssue : [
    readyB paged (once false) ((((Deps.src 2 (v 2)).join (Deps.src 2 (v 4))).join (Deps.src 2 (v 8))).join (Deps.dst 2 (.v 6))) && readyB paged (once false) (((Deps.src 2 (v 2)).join (Deps.src 1 (v 4))).join {}),
    withC paged (fun c => match paged.checkAccess c { kind := .atom true .n64 .exch true, cls := .load, sp := .gl, size := 8, str := .strong .acq .dv, write := true, noHost := true } [0, 1] (fun l => 0x10000 + 8 * l) (fun _ => 0) with | .ok (ps, []) => ps.length == 2 | _ => false),
    withC paged (fun c => match paged.checkAccess c { kind := .atom false .n32 .add false, cls := .store, sp := .gl, size := 4, str := .strong .rel .dm, write := true, noHost := true } [0] (fun _ => 0x40000000) (fun _ => 0) with | .error t => t.code == 0x14 | _ => false),
    nx (.red ⟨false, .n32, .add, .rlx, .dv, 0, ⟨v 2, 0⟩, v 4, .imm 0⟩) (pagedW (fun x => { x with v := [(2, [0x10000]), (4, [5])], mask := 1 })) (fun t => t.accs.length == 1 && t.accs.all (fun a => a.cls == .store && a.b.getD 0 0 == 5))].all id = true := by decide +kernel

/-- The last address inside the space and the first outside it; both kinds of failing lane, and none. -/
theorem test_witness_AccessChecks : [
    withC paged (fun c => [0, 1].find? (fun l => decide (2 ^ 49 ≤ 2 ^ 49 - 1 + l)) == some 1 && (match paged.checkAccess c { kind := .load false, cls := .load, sp := .gl, size := 1, str := .weak, write := false } [0, 1] (fun l => 2 ^ 49 - 1 + l) (fun _ => 0) with | .error t => t.code == 0x10 && t.addr == 2 ^ 49 && t.lanes == 2#64 | _ => false)),
    withC paged (fun c => match paged.checkAccess c { kind := .load false, cls := .load, sp := .sp, size := 8, str := .weak, write := false } [0, 2, 3] (fun l => 4 * l) (fun _ => 0) with | .error t => t.code == 0x11 && t.addr == 12 && t.lanes == 8#64 | _ => false),
    withC paged (fun c => match paged.checkAccess c { kind := .load false, cls := .load, sp := .sp, size := 4, str := .weak, write := false } [0, 2, 3] (fun l => 4 * l) (fun _ => 0) with | .ok (ps, []) => ps.length == 3 | _ => false)].all id = true := by decide +kernel

/-- The last word of the partition; a load, a store and an atomic that find their old value. -/
theorem test_witness_ScratchpadAccesses : [
    withC live (fun c => decide (524284 % 4 = 0 ∧ 524284 < 0x80000 ∧ 524284 + 4 ≤ c.g.spadSize) && (match live.checkAccess c { kind := .load false, cls := .load, sp := .sp, size := 4, str := .weak, write := false } [0] (fun _ => 524284) (fun _ => 0) with | .ok (ps, []) => ps == [{ part1 (.spad W0.wg 524284 true) 0 with n := 4 }] | _ => false)),
    [AccKind.store, .load false, .atom false .n32 .add true].all (fun k => (fun s : State => !s.blocked (acc1 k .store [part1 (.spad W0.wg 8 true) 0x11223344]) (part1 (.spad W0.wg 8 true) 0x11223344) && (match s.wg W0.wg with | some h => h.spadErr.isEmpty && Memory.wf h.spad && memRead h.spad 8 4 == 0x55 | none => false) &&
    (match (s.performPart 1 0).wg W0.wg with | some h => memRead h.spad 8 4 == (match k with | .store => 0x11223344 | .load _ => 0x55 | _ => 0x58) && Memory.wf h.spad | none => false)) (withAcc (liveG (fun g => { g with spad := [(8, 0x55)] })) (acc1 k .store [part1 (.spad W0.wg 8 true) 0x11223344])))].all id = true := by decide +kernel

/-- A compare that holds and one that does not, signed and unsigned minimum, and INC and DEC where they wrap. -/
theorem test_witness_AtomicValues : [
    [(AtomOp.add, 0x3F800000, 0x40000000, 0x40400000), (.min, 0x7F800001, 0x3F800000, 0x3F800000), (.max, 0x80000000, 0, 0), (.min, 0, 0x80000000, 0x80000000), (.max, 0x7FC00001, 0xFFC00000, 0x7FC00000)].all (fun (e : AtomOp × DWord × Nat × Nat) => { acc1 (.atom false .f32 e.1 true) .load [] with b := [e.2.1] }.newValue 0 e.2.2.1 == e.2.2.2),
    (acc1 (.atom true .n32 .exch true) .load []).newValue 0 3 == 7 && (acc1 (.atom true .n32 .exch true) .load []).newValue 0 4 == 4,
    { acc1 (.atom false .s32 .min true) .load [] with b := [0xFFFFFFFF] }.newValue 0 1 == 0xFFFFFFFF && { acc1 (.atom false .n32 .min true) .load [] with b := [0xFFFFFFFF] }.newValue 0 1 == 1,
    (acc1 (.atom false .n32 .inc true) .load []).newValue 0 3 == 0 && (acc1 (.atom false .n32 .inc true) .load []).newValue 0 2 == 3 && (acc1 (.atom false .n32 .dec true) .load []).newValue 0 0 == 3 && (acc1 (.atom false .n32 .dec true) .load []).newValue 0 3 == 2,
    { acc1 (.atom false .s64 .max true) .load [] with b := [0xFFFFFFFFFFFFFFFF] }.newValue 0 1 == 1 && { acc1 (.atom false .n64 .max true) .load [] with b := [0xFFFFFFFFFFFFFFFF] }.newValue 0 1 == 2 ^ 64 - 1].all id = true := by decide +kernel

theorem test_witness_FencesHintsAndEvents : [
    readyB paged (once true) {} && readyB paged (once false) {} && notFull paged .store && readyB paged (once true) (Deps.uni 62 2) && readyB paged (once false) (Deps.src 2 (v 2)) && readyB paged (once false) ((Deps.src 2 (v 2)).join (Deps.src 1 (v 4))),
    withC paged (fun c => (lanesOf c.x.lanes).all (fun l => decide (c.address .gl ⟨v 2, 128⟩ l < 2 ^ 49))),
    nx (.fence false .sc .wp) live (fun t => (t.warp W0).map (fun (y : Warp) => (y.park, y.pc)) == some ([.fence .sc .wp .ready], 1)),
    nx (.cctl false .wb ⟨v 2, 0⟩) (pagedW (fun x => { x with v := [(2, [0x10000])], mask := 1 })) (fun t => t.accs.map (fun a => a.kind) == [.cctl (some [lineOfKey 0x10000]) false]) && nx (.cctl false .inv ⟨v 2, 0⟩) (pagedW (fun x => { x with v := [(2, [0x40000000])], mask := 1 })) (fun t => t.accs.isEmpty),
    (fun s : State => withC s (fun c => (s.warmFor c [0] (fun _ => 0x10000)).lineAt c 0x10000 == some 0x10000) && nx (.resid false .keep ⟨v 2, 0⟩ (v 4)) s (fun t => t.accs.map (·.kind) == [.resid .keep [0x200] false])) (pagedW (fun x => { x with v := [(2, [0x10000]), (4, [1])], mask := 1 })),
    nx (.resid false .keep ⟨v 2, 0⟩ (v 4)) (pagedW (fun x => { x with v := [(2, [0]), (3, [2 ^ 17]), (4, [1])], mask := 1 })) (fun t => t.accs.isEmpty && t.wgs.isEmpty),
    (fun s : State => !s.throttled 0x400 (s.whoFor 0 0 0 0x400) && (match step s with | .next t => (t.l2At 0 0x400).map (fun e => (e.cls, e.ctx)) == some (.keep, 0) && (t.acc? 1).map (·.kind) == some (.resid .keep [] false) | _ => false)) { withAcc paged (acc1 (.resid .keep [0x200] false) .store []) with agenda := [.advance 1], l2 := [(repKey 0 0x200, { held := 1 })] },
    nx (.vinv false (.id 5)) live (fun t => t.accs.map (fun a => (a.kind, a.rel, a.pc)) == [(.vinv (some 5) (live.agentsOf 0), .todo .dm false, 0)]),
    nx (.evt false 4 0x12) (uniform [(4, 1), (5, 2)]) (fun t => t.accs.map (fun a => (a.kind, a.rel)) == [(.evt 0x12 0x200000001, .todo .dv false)])].all id = true := by decide +kernel

/-- A load whose register is still waited for, one whose register a later write has taken, and a store. -/
theorem test_witness_LoadAndStoreComplete : [
    (fun s : State => (s.acc? 1).isSome && s.warp W0 != none && nx (.loadComplete 1) s (fun t => t.acc? 1 == none && (t.warp W0).map (fun (y : Warp) => ((y.readV 6).getD 0 0, (y.readV 6).getD 1 0, y.pend)) == some (0x99, 4, []))) (withAcc (liveW (fun x => { x with v := [(6, [3, 4])], pend := [{ reg := .v 6, due := none, op := 1, ovw := false, old := false, lanes := 1 }], ops := [⟨.load, 1, false⟩] })) { acc1 (.load false) .load [{ part1 (.spad W0.wg 8 true) 0x99 with done := true }] with dst := some (.v 6) }),
    nx (.loadComplete 1) (withAcc (liveW (fun x => { x with v := [(6, [3, 4])], pend := [], ops := [⟨.load, 1, false⟩] })) { acc1 (.load false) .load [{ part1 (.spad W0.wg 8 true) 0x99 with done := true }] with dst := some (.v 6) }) (fun t => t.acc? 1 == none && (t.warp W0).map (fun (y : Warp) => (y.readV 6).take 2) == some [3, 4]),
    nx (.loadComplete 1) (withAcc live { acc1 (.load false) .load [{ part1 (.spad W0.wg 8 true) 0 with done := true }] with lost := some { source := 3, reason := 0, lanes := 4 }, addrs := [0, 0, 0x88] }) (fun t => (t.acc? 1).map (·.held) == some true && t.reports.map (fun r => (r.t.code, r.t.addr, r.t.lanes, r.t.info)) == [(0x18, 0x88, 4, [3, 0])]),
    nx (.storeAck 1) (withAcc (liveW (fun x => { x with ops := [⟨.store, 1, false⟩] })) (acc1 .store .store [{ part1 (.spad W0.wg 8 true) 0x99 with done := true }])) (fun t => t.accs.isEmpty && (t.warp W0).map (fun (y : Warp) => y.cnt .store) == some 0),
    [([], 0), ([0x200], 1)].all (fun (e : List Nat × Nat) => nx (.storeAck 1) (withAcc (liveW (fun x => { x with ops := [⟨.store, 1, false⟩] })) (acc1 (.resid .keep e.1 false) .store [])) (fun t => t.accs.length == e.2))].all id = true := by decide +kernel

/-- A load on die 1 that asks for block 0x400 of die 0 at each hallmark of the table; write-backs that ask for its ownership, as they come and a cycle later. -/
theorem test_witness_ReadAndOwnershipRequests : [
    (fun s : State => quietB s 0x400 && decide (1 ≠ agentOfBlock 0x400) && s.rep? 1 0x400 == none && (match s.demand 1 0x400 with | some a => !s.throttled 0x400 (s.whoOf a.w 0x400) && (s.wayFor 1 (lineOfBlock 0x400) (s.usableWays 0 ((s.whoOf a.w 0x400).ctx.getD 0))).isSome | none => false) && s.cut == []) (asking .home),
    [(Hall.home, Hall.shared1 1), (.shared1 2, .sharedN (sharerBit 0 2 ||| sharerBit 0 1)), (.excl 31, .sharedN (sharerBit 0 31 ||| sharerBit 0 1)), (.sharedN 8, .sharedN (8 ||| sharerBit 0 1))].all (fun e => (fun s : State => s.hall 0x400 == e.1 && nx (.rds 1 0x400) s (fun t => t.hall 0x400 == e.2 && (t.rep? 1 0x400).map (·.bytes) == some (s.blockBytes 0x400) && t.hbm == s.hbm)) (asking e.1)),
    [Hall.mod 2, .owned 3].all (fun h => (fun s : State => s.hall 0x400 == h && nx (.rds 1 0x400) s (fun t => t.txns.any (fun x => x.block == 0x400 && x.kind == .rds && x.waits.any (fun w => w.2 == .forward 1)) && t.hall 0x400 == h)) (asking h)),
    (fun s : State => s.lineClean (s.coreOf W0) (keyOfBlock 0x400) == (s, true) && !s.blocked (acc1 (.load false) .load [part1 (.home 0x10004) 0]) (part1 (.home 0x10004) 0) && nx (.hrd 1 0x400) s (fun t => (t.acc? 1).map (fun (a : Acc) => a.parts.map (fun p => (p.val, p.done))) == some [(0x2A, true)] && t.hbm == s.hbm)) (withAcc { paged with hbm := memSet paged.hbm 0x10004 0x2A } (acc1 (.load false) .load [part1 (.home 0x10004) 0])),
    (fun s : State => quietB s 0x400 && s.wbsOf 1 0x400 == [wb1] && s.rep? 1 0x400 == none && !s.throttled 0x400 (s.whoWb wb1) && nx (.rdx 1 0x400) s (fun t => t.txns == [Claims.request s 0x400 .rdx 1 0] && t.wbs == [wb1] && t.hall 0x400 == .home)) { paged with wbs := [wb1] },
    (fun s : State => standsB s .rdx 1 0 && s.cut == [] && s.hall 0x400 == .home && nx (.rdx 1 0x400) s (fun t => t.hall 0x400 == .mod 1 && (t.rep? 1 0x400).map (fun (r : Replica) => (r.dirty, r.bytes)) == some (true, 0xAA) && t.wbs.isEmpty && t.hbm == s.hbm)) (standing { paged with wbs := [wb1] } .rdx 1 0),
    (fun s : State => standsB s .rdx 1 0 && s.hall 0x400 == .shared1 1 && nx (.rdx 1 0x400) s (fun t => t.hall 0x400 == .mod 1)) ((standing { paged with wbs := [wb1], replicas := [(repKey 1 0x400, {})] } .rdx 1 0).setHall 0x400 (.shared1 1)),
    [(Hall.shared1 2, WaitKind.inv), (.excl 31, .inv), (.mod 2, .recallDrop)].all (fun e => (fun s : State => standsB s .rdx 1 0 && nx (.rdx 1 0x400) s (fun t => t.hall 0x400 == e.1 && t.txns.map (fun x => (x.started, x.waits.map (·.2))) == [(true, [e.2])] && t.wbs == [wb1])) ((standing { paged with wbs := [wb1] } .rdx 1 0).setHall 0x400 e.1)),
    (fun s : State => quietB s 0x400 && !s.throttled 0x400 (s.whoWb wb1) && nx (.upg 1 0x400) s (fun t => t.txns == [Claims.request s 0x400 .upg 1 0] && t.wbs == [wb1])) ({ paged with wbs := [wb1], replicas := [(repKey 1 0x400, { bytes := 0x5511, owned := true })] }.setHall 0x400 (.excl 1)),
    (fun s : State => standsB s .upg 1 0 && s.hall 0x400 == .excl 1 && nx (.upg 1 0x400) s (fun t => t.hall 0x400 == .mod 1 && (t.rep? 1 0x400).map (fun (r : Replica) => (r.dirty, r.bytes)) == some (true, 0x55AA))) ((standing { paged with wbs := [wb1], replicas := [(repKey 1 0x400, { bytes := 0x5511, owned := true })] } .upg 1 0).setHall 0x400 (.excl 1))].all id = true := by decide +kernel

/-- A write-back that keeps the replica and one that drops it, by agent 0 and by the last agent; a store's part at the end of its block, as it comes and later. -/
theorem test_witness_HomeWrites : [
    [(1, false), (1, true), (31, true)].all (fun e => (fun s : State => quietB s 0x400 && Memory.wf s.hbm && s.hall 0x400 == .mod e.1 && (e.2 || s.repPlaced e.1 0x400) && nx (.wbk e.1 0x400 e.2) s (fun t => memRead t.hbm 0x10000 2 == 0xBBAA && t.hall 0x400 == (if e.2 then .home else .excl e.1) && (t.block 0x400).hdr == 7 && (t.rep? e.1 0x400).isSome == !e.2 && Memory.wf t.hbm)) ({ paged with l2 := [(repKey e.1 (lineOfBlock 0x400), { cls := .normal, ctx := 0, way := 0, used := 0, held := 1 })], replicas := [(repKey e.1 0x400, { bytes := 0xBBAA, hdr := 7, owned := true, dirty := true })] }.setHall 0x400 (.mod e.1))),
    (fun s : State => quietB s 0x400 && s.lineClean (s.coreOf W0) (keyOfBlock 0x400) == (s, true) && !s.throttled 0x400 (s.whoOf W0 0x400) && decide (0x1003C % 64 + 4 ≤ 64) && nx (.hwr 1 0x400) s (fun t => t.txns == [Claims.request s 0x400 .hwr 0 1] && t.hbm == s.hbm)) (withAcc paged (acc1 .store .store [part1 (.home 0x1003C) 0x11223344])),
    (fun s : State => standsB s .hwr 0 1 && s.hall 0x400 == .home && nx (.hwr 1 0x400) s (fun t => memRead t.hbm 0x1003C 4 == 0x11223344 && memGet t.hbm 0x10040 == 0 && t.hall 0x400 == .home && (t.acc? 1).map (fun (a : Acc) => a.parts.map (·.done)) == some [true] && Memory.wf t.hbm)) (standing (withAcc paged (acc1 .store .store [{ part1 (.home 0x1003C) 0x11223344 with sent := true }])) .hwr 0 1)].all id = true := by decide +kernel

theorem test_witness_HomeAnswers : [
    [WaitKind.inv, .recallDrop, .recallKeep, .forward 3].all (fun k => (fun s : State => s.txns.any (fun x => x.block = 0x400 && x.started) && Memory.wf s.hbm && nx (match k with | .inv => .invalidate 2 0x400 | .forward _ => .forward 2 0x400 | _ => .recall 2 0x400) s (fun t => t.txns.all (fun x => !x.waits.any (fun w => w.1 == 2) && x.fwd.isSome == (k == .forward 3)) && (t.rep? 2 0x400).isSome == (k == .recallKeep || k == .forward 3) && t.rep? 3 0x400 == none && (match k with | .recallDrop | .recallKeep => memRead t.hbm 0x10000 1 == 0xAA | _ => t.hbm == s.hbm)))
    ({ paged with l2 := [(repKey 2 (lineOfBlock 0x400), { cls := .normal, ctx := 0, way := 0, used := 0, held := 1 })], replicas := [(repKey 2 0x400, { bytes := 0xAA, owned := true, dirty := true })], txns := [{ block := 0x400, kind := .rdx, req := 1, acc := 0, started := true, bcast := false, waits := [(2, k)], arrived := 0, since := 0 }] }.setHall 0x400 (.mod 2)))].all id = true := by decide +kernel

/-- A drain that starts and one whose write-backs are all acknowledged; a fence at its serialisation point; a home at exactly 2 ms. -/
theorem test_witness_DrainsFencesAndLostAgents : [
    (fun s : State => (s.coreAt 0).closed.any (fun e => e.1 = 5) && nx (.drainRequest 9) s (fun t => t.drains.any (fun d => d.wbs.isSome) && t.wbs.map (fun (w : Wb) => (w.block, w.bytes, w.mask)) == [(0x400, 0xAA, 1)] && (t.l1Block 0 0x400).map (·.dirty) == some 0)) ({ paged with drains := [{ id := 9, core := 0, epoch := 5, wbs := none }] }.modCore 0 (fun c => { c with closed := [(5, 1)], l1 := [(0x400, { bytes := 0xAA, valid := 1, dirty := 1, epoch := 5 })] })),
    (fun s : State => s.wbs == [] && [4, 5].all (fun e => !s.epochLive 0 e) && s.epochLive 0 6 && nx (.drainAnswer 9) s (fun t => t.drains.isEmpty && (t.coreAt 0).closed == [(6, 1)])) ({ paged with drains := [{ id := 9, core := 0, epoch := 5, wbs := some [3] }] }.modCore 0 (fun c => { c with closed := [(4, 1), (5, 1), (6, 1)], l1 := [(0x400, { bytes := 0xAA, valid := 1, dirty := 1, epoch := 6 })] })),
    [(Order.sc, Scope.dm), (.sc, .dv)].all (fun e => (fun s : State => nx (.serialisationRequest W0) s (fun t => t.scOrder == [⟨W0, e.2⟩] && (t.warp W0).map (fun (y : Warp) => y.park) == some [.fence e.1 e.2 .drop])) (liveW (fun x => { x with park := [.fence e.1 e.2 .serial] }))),
    (fun s : State => decide (0 + 2000000 ≤ s.clock 0) && nx (.lostAgentTimeout 0x400 2) s (fun t => t.lost.contains 2 && t.txns.all (fun x => x.waits.isEmpty) && (t.die 0).evSeq == 2)) ({ paged with txns := [{ block := 0x400, kind := .rdx, req := 1, acc := 0, started := true, bcast := false, waits := [(2, .inv)], arrived := 0, since := 0 }] }.modDev 0 (fun d => { d with ns := 2000000 }))].all id = true := by decide +kernel

/-- A load of one element of a plain view, whose first element and last are in range; a drop in one of two agents; a walk. -/
theorem test_witness_ViewsAndWalks : [
    view1.valid && decide (0 < view1.ext 0) && decide (63 < view1.ext 0) && viewAt view1 63 == some (.bit (8 * (0x20000 + 63 * 4))),
    (fun s : State => (fun r : ViewReq => (match s.viewUnit r with | some k => !s.throttled (blockOf (mkKey k.1 (k.2 * 2 ^ 36))) (s.whoFor 0 0 0 (blockOf (mkKey k.1 (k.2 * 2 ^ 36)))) | none => false) && nx (.viewLineRequest 1 (0x1000034 / 128)) s (fun t => (t.acc? 1).map (fun (a : Acc) => a.parts.map (fun p => (p.loc, p.n, p.sh))) == some [(.home 0x20034, 4, true)]))
    { dev := 0, ctx := 0, agent := 0, id := 5, va := 0x1000034, line := 0, write := false }) ((withAcc paged (acc1 (.load false) .load [part1 (.view 5 0x34 0x1000034) 0])).modDie 0 (fun d => { d with vds := [((0, 5), view1)] })),
    nx (.vdDrop 1 0) ((withAcc paged (acc1 (.vinv (some 5) [0, 1]) .store [])).modDie 0 (fun d => { d with vds := [((0, 5), view1), ((0, 6), view1), ((1, 5), view1)] })) (fun t => (t.acc? 1).map (·.kind) == some (.vinv (some 5) [1]) && (t.die 0).vds.map (·.1) == [(0, 6), (1, 5)]),
    (match paged.walkNow 0 0 0 0x10000 with | (u, .ok (l, z)) => l == 99 && z == 2 && !u.stall && !paged.fusedCore 0 | _ => false) && (match { paged with mover := some (.act (.pageWalk 0 0 0x10000)) }.walkNow 0 0 0 0x10000 with | (u, .ok (l, z)) => l == 99 && z == 2 && !u.stall | _ => false) && nx (.pageWalk 0 0 0x10000) paged (fun t => (t.coreAt 0).tlb.map (·.leaf) == [99] && (t.cluster 0).tlb.map (·.page) == [0])].all id = true := by decide +kernel

/-- BINIT with its smallest and largest count, a count of 0 and a reserved bit; a misaligned operand in each space; the other operands. -/
theorem test_witness_BarrierIssue : [
    readyB (uniform []) (sysMode false) ((barDeps ⟨false, 2, 0⟩).join (Deps.uni 6 2)) && readyB (uniform []) (sysMode false) ((barDeps ⟨true, 2, 0⟩).join (Deps.uni 5 1)) && readyB paged (sysMode false) (Deps.uni 2 2) && notFull paged .store && notFull paged .load,
    [1, 65535, 65536 + 1].all (fun p => nx (.binit false ⟨false, 2, 0⟩ 6) (uniform [(2, 0x40), (6, p)]) (fun t => t.upds.length == 1 && t.accs.isEmpty)),
    [0, 65536, 131072].all (fun p => withC (uniform [(2, 0x40), (6, p)]) (fun c => ((c.x.readS 6).toNat % 65536 == 0 || decide (2 ^ 17 ≤ (c.x.readS 6).toNat)) && nx (.binit false ⟨false, 2, 0⟩ 6) (uniform [(2, 0x40), (6, p)]) (fun t => t.upds.isEmpty))),
    withC (uniP [(2, 0x10000)]) (fun c => (match (uniP [(2, 0x10000)]).barAt c ⟨true, 2, 0xFFFFFFF0⟩ with | .ok (va, .home _) => va == 0xFFF0 | _ => false) && (match (uniP [(2, 0x10000)]).barAt c ⟨true, 2, 8⟩ with | .error t => t.code == 0x11 && t.addr == 0x10008 | _ => false)),
    withC (uniP [(2, 0x38)]) (fun c => (match (uniP [(2, 0x38)]).barAt c ⟨false, 2, 0⟩ with | .error t => t.code == 0x11 | _ => false) && (match (uniP [(2, 0x38)]).barAt c ⟨false, 2, 8⟩ with | .ok (va, b) => va == 0x40 && b == bar40 | _ => false)),
    withC (uniP [(2, 0x10000)]) (fun c => (match (uniP [(2, 0x10000)]).monAt c 2 0x40 with | .ok (w, l) => w == 0x2000 && l == bar40 | _ => false) && (match (uniP [(2, 0x10000)]).monAt c 2 8 with | .error t => t.code == 0x11 | _ => false)),
    nx (.mon false 4 2 0x40) (uniP [(2, 0x10000)]) (fun t => t.upds.map (fun u => (u.kind, u.bar)) == [(.mon 0x2000 4, bar40)]) && nx (.arrive false true true .cg 31 ⟨false, 2, 0⟩ 4) (uniform [(2, 0x40)]) (fun t => t.upds.map (fun u => (u.kind, u.rel)) == [(.arrive 32 (some 4), .todo .cg false)])].all id = true := by decide +kernel

/-- Tiles of every state the clauses name, the last number inside the grant and the first outside, both ends of the phase test, readers and none. -/
theorem test_witness_WaitsAndTiles : [
    readyB live (sysMode false) {} && readyB live (sysMode false) ((Deps.uni 10 1).join (Deps.uni 4 1)) && readyB live (sysMode false) ((Deps.uni 6 2).join (Deps.uni 4 2)),
    nx (.wait false true .cg 10 0 4) (uniform [(10, 0x40), (4, 0x10007)]) (fun t => (t.warp W0).map (fun (y : Warp) => y.park) == some [.bar bar40 7 (some .cg) none]),
    withC (uniform [(10, 0x48)]) (fun c => match (uniform [(10, 0x48)]).barAt c ⟨false, 10, 0⟩ with | .error t => t.code == 0x11 | _ => false),
    nx (.twait false false 8) ((tile9 .filling live).modWg W0.wg (fun g => { g with tileN := 9, tiles := [(8, { st := .filling })] })) (fun t => (t.warp W0).map (fun (y : Warp) => y.park) == some [.tile 8 false false]),
    withC (liveG (fun g => { g with tileN := 9 })) (fun c => decide (8 < c.g.tileN ∧ c.g.tileN ≤ 9) && (tabGetD c.g.tiles 8 {}).st == .empty),
    [(0, TileSt.ready), (32769, .ready), (32768, .filling), (1, .filling)].all (fun e => nx (.tbind false 9 4 6) (uniform [(4, 0x40), (5, e.1), (6, 0x100), (7, 0x80)]) (fun t => ((t.wg W0.wg).bind (fun (h : Wg) => tabGet h.tiles 9)).map (fun (x : Tile) => (x.st, x.rho)) == some (e.2, (e.1 : Word).toNat))),
    [TileSt.filling, .ready, .draining].all (fun st => withC (tile9 st live) (fun c => (tabGetD c.g.tiles 9 {}).st == st && nx (.tbind false 9 4 6) (tile9 st live) (fun t => t.upds.isEmpty))),
    [Instr.tbind false 9 4 6, .trel false true 9, .tstat false 9 5].all (fun i => nx i (liveG (fun g => { g with tileN := 9 })) (fun t => t.upds.isEmpty && t.wgs.isEmpty)),
    nx (.trel false false 9) (tile9 .ready live) (fun t => (t.wg W0.wg).map (fun (h : Wg) => tabGetD h.tiles 9 {}) == some {}) && nx (.trel false true 9) (tile9 .ready live) (fun t => (t.wg W0.wg).map (fun (h : Wg) => ((tabGetD h.tiles 9 {}).st, (tabGetD h.tiles 9 {}).rho)) == some (.filling, 8)),
    (fun s : State => s.readers W0.wg 9 == 1 && nx (.trel false true 9) s (fun t => (t.wg W0.wg).map (fun (h : Wg) => ((tabGetD h.tiles 9 {}).st, (tabGetD h.tiles 9 {}).rearm)) == some (.draining, true)) && nx (.tstat false 9 5) s (fun t => t.upds.map (·.res) == [some (2 + 8 + 7 * 65536)]))
    (((tile9 .ready live).modWg W0.wg (fun g => { g with maps := [(3, { words := [], tile := some 9 })] })).modCore 0 (fun c => { c with mq := [{ id := 1, w := W0, op := .accst .rn false none 0 3, pc := 0, before := [], running := false, next := 0, resumed := false, scaleErr := false, badWord := false, test := none }] }))].all id = true := by decide +kernel

/-- Each update at both places, before and at the end of a phase, at the largest expectation and at a credit that overflows. -/
theorem test_witness_BarrierUpdates : [
    [bar40, .home 0x10000].all (fun b => (fun s : State => s.updReady (upd3 (.init 1 true 5) b) && nx (.barrierInitUpdate 3) s (fun t => barOf t b == ⟨0, 65535, 65535, true, false, 5, 0⟩ && (t.upd? 3).map (fun (u : Upd) => (u.done, u.res)) == some (true, some 1))) (withUpd paged (upd3 (.init 65535 true 5) b))),
    [bar40, .home 0x10000].all (fun b => (fun s : State => s.updReady (upd3 (.arrive 2 none) b) && barOf s b == ⟨65535, 3, 2, true, false, 16, 16⟩ && nx (.barrierArrival 3) s (fun t => barOf t b == ⟨0, 3, 3, true, false, 16, 0⟩ && barOf t b == Claims.tested ⟨65535, 3, 0, true, false, 16, 16⟩)) (withUpd (withBar ⟨65535, 3, 2, true, false, 16, 16⟩) (upd3 (.arrive 2 none) b))),
    nx (.barrierArrival 3) (withUpd (withBar ⟨4, 3, 2, false, false, 16, 15⟩) { upd3 (.fired 0x2000) bar40 with cls := none }) (fun t => barOf t bar40 == ⟨4, 3, 1, false, false, 16, 15⟩ && t.upd? 3 == none),
    nx (.barrierExpectation 3) (withUpd (withBar ⟨4, 3, 2, false, false, 2 ^ 32 - 2, 0⟩) (upd3 (.expect 1 false) bar40)) (fun t => barOf t bar40 == ⟨4, 3, 2, false, false, 2 ^ 32 - 1, 0⟩) && nx (.barrierExpectation 3) (withUpd (withBar ⟨4, 3, 1, false, false, 0, 9⟩) (upd3 (.expect 9 true) bar40)) (fun t => barOf t bar40 == ⟨5, 3, 3, false, false, 0, 0⟩),
    nx (.barrierCredit 3) (withUpd (withBar ⟨4, 3, 0, false, false, 16, 8⟩) { upd3 (.credit 8) bar40 with cls := none }) (fun t => barOf t bar40 == ⟨5, 3, 3, false, false, 0, 0⟩) && nx (.barrierCredit 3) (withUpd (withBar ⟨4, 3, 1, false, false, 16, 2 ^ 32 - 1⟩) { upd3 (.credit 1) bar40 with cls := none }) (fun t => barOf t bar40 == ⟨4, 3, 1, false, true, 16, 2 ^ 32 - 1⟩),
    [(1, ⟨0, 0, 0, false, false, 0, 0⟩), (2, ⟨4, 3, 1, false, false, 0, 0⟩)].all (fun (e : Word × Bar) => (fun s : State => s.updReady (upd3 (.arrive 2 none) bar40) && !s.updHeld (upd3 (.arrive 2 none) bar40) && !s.stall && nx (.barrierArrival 3) s (fun t => barOf t bar40 == e.2 && t.reports.map (fun r => (r.t.code, r.t.info)) == [(0x2B, [e.1, 0x40])])) (withUpd (withBar e.2) (upd3 (.arrive 2 none) bar40))),
    [(1, 1, ⟨0, 0, 0, false, false, 0, 0⟩), (1, 2, ⟨4, 3, 0, false, false, 9, 0⟩), (2 ^ 32 - 1, 3, ⟨0, 0, 0, false, false, 1, 0⟩)].all (fun (e : Nat × Word × Bar) => nx (.barrierExpectation 3) (withUpd (withBar e.2.2) (upd3 (.expect e.1 true) bar40)) (fun t => barOf t bar40 == e.2.2 && t.reports.map (fun r => (r.t.code, r.t.info)) == [(0x2B, [e.2.1, 0x40])])),
    nx (.barrierArrival 3) ((withUpd (withBar ⟨4, 3, 2, false, false, 0, 0⟩) (upd3 (.arrive 2 none) bar40)).modWarp W0 (fun x => { x with park := [.bar bar40 5 none (some false)] })) (fun t => (t.warp W0).map (·.park) == some [.bar bar40 5 none (some true)]),
    (fun s : State => (match s.wg W0.wg with | some h => h.spadErr.isEmpty && Memory.wf h.spad | none => false) && tabGet s.errs (0x10000 / 64) == none && s.lost.isEmpty && s.hall (0x10000 / 64) == .home && Memory.wf s.hbm) (withBar ⟨4, 3, 2, false, false, 16, 15⟩)].all id = true := by decide +kernel

/-- A table with one slot left and a full one; the oldest of two monitors and none; a ticket offered now, one at 4,096 cycles and one past them. -/
theorem test_witness_MonitorsAndTickets : [
    (fun s : State => s.monReady (upd3 (.mon 0x2000 4) bar40) 0x2000 && !s.throttled 0x400 (s.whoOf W0 0x400) && !s.stall && s.hall 0x400 == .home && s.cut == [] && quietB s 0x400 && decide (s.monSlots 0 < 4096) && nx (.monitorArm 3) s (fun t => (t.die 0).mons.map (fun (m : Mon) => (m.word, m.ctx, m.bar)) == [(0x2000, 0, bar40)] && (t.upd? 3).map (fun (u : Upd) => (u.done, u.res)) == some (true, some 0x2A))) { withUpd paged (upd3 (.mon 0x2000 4) bar40) with hbm := memSet paged.hbm 0x10000 0x2A },
    (fun s : State => (s.die 0).mons.length == 4096 && nx (.monitorArm 3) s (fun t => (t.die 0).monQ.length == 1 && (t.upd? 3).map (·.ticket) == some true)) ((withUpd paged (upd3 (.mon 0x2000 4) bar40)).modDie 0 (fun d => { d with mons := List.replicate 4096 ⟨1, 0, W0, bar40, 0, 0⟩ })),
    (fun s : State => s.monReady (upd3 (.monx 0x2000 4) bar40) 0x2000 && nx (.monxHome 3) s (fun t => (t.die 0).mons == [⟨0x2000, 1, W0, bar40, 0, 0⟩, ⟨0x2000, 0, W0, bar40, 2, 0⟩] && (t.upd? 3).map (·.res) == some (some 1))) ((withUpd paged (upd3 (.monx 0x2000 4) bar40)).modDie 0 (fun d => { d with mons := [⟨0x2000, 1, W0, bar40, 0, 0⟩, ⟨0x2000, 0, W0, bar40, 1, 0⟩, ⟨0x2000, 0, W0, bar40, 2, 0⟩] })),
    nx (.monxHome 3) ((withUpd paged (upd3 (.monx 0x2000 4) bar40)).modDie 0 (fun d => { d with mons := [⟨0x2001, 0, W0, bar40, 0, 0⟩] })) (fun t => (t.die 0).mons.length == 1 && (t.upd? 3).map (·.res) == some (some 0)),
    nx (.ticketClaim 0 .posted) (paged.modDie 0 (fun d => { d with postQ := [{ op := 7, offered := none }, { op := 8, offered := none }] })) (fun t => (t.die 0).postQ.map (·.offered) == [some 0, some 0]),
    (fun s : State => s.cycle 0 == 5000 && nx (.ticketClaim 0 (.chain 2)) s (fun t => t.txns.length == 1 && (t.die 0).queue (.chain 2) == [])) ((paged.modDev 0 (fun d => { d with cycle := 5000 })).modDie 0 (fun d => { d with chainQ := [(2, [{ op := 7, offered := some 904, txn := some { block := 0x400, kind := .rds, req := 1, acc := 0, started := false, bcast := false, waits := [], arrived := 0, since := 0 } }])] })),
    nx (.ticketExpiry 0 .monitor) ((paged.modDev 0 (fun d => { d with cycle := 5000 })).modDie 0 (fun d => { d with monQ := [{ op := 7, offered := some 903 }, { op := 8, offered := none }] })) (fun t => (t.die 0).monQ.map (fun (k : Ticket) => (k.op, k.offered)) == [(8, none), (7, none)]),
    (fun late : State → State => (fun s : State => !s.mayLapse { op := 3, offered := some 0 } && nx (.ticketExpiry 0 .monitor) s (fun t => (t.die 0).monQ.length == 1 && (t.die 0).monQ.all (·.offered.isSome)) &&
      nx (.ticketClaim 0 .monitor) s (fun t => (t.die 0).monQ == [] && (t.die 0).mons.map (·.word) == [0x2000])) (late paged) &&
      [(late paged).modWg W0.wg (fun g => { g with st := .swapped }), { late paged with lost := [0] }].all (fun s => s.mayLapse { op := 3, offered := some 0 } && nx (.ticketExpiry 0 .monitor) s (fun t => (t.die 0).monQ.map (fun (k : Ticket) => (k.op, k.offered)) == [(3, none)])))
      (fun s => ((withUpd s { upd3 (.mon 0x2000 4) bar40 with ticket := true }).modDev 0 (fun d => { d with cycle := 5000 })).modDie 0 (fun d => { d with monQ := [{ op := 3, offered := some 0 }] }))].all id = true := by decide +kernel

/-- A drain that takes an older epoch's block and a write-back under way; a MON that claims its ticket's slot. -/
theorem test_witness_DrainsAndClaims : [
    nx (.drainRequest 9) ({ paged with wbs := [{ wb1 with core := 0, epoch := 4 }], drains := [{ id := 9, core := 0, epoch := 5, wbs := none }] }.modCore 0 (fun c => { c with closed := [(4, 1), (5, 1)], l1 := [(0x400, { bytes := 0xAA, valid := 1, dirty := 1, epoch := 4 })] })) (fun t => t.wbs.length == 2 && t.drains.any (fun d => d.wbs == some (t.wbs.map (·.id))) && (t.l1Block 0 0x400).map (·.dirty) == some 0),
    nx (.ticketClaim 0 .monitor) (((withUpd paged { upd3 (.mon 0x2000 4) bar40 with ticket := true }).modDev 0 (fun d => { d with cycle := 5000 })).modDie 0 (fun d => { d with monQ := [{ op := 3, offered := some 904 }] })) (fun t => (t.die 0).monQ == [] && (t.die 0).mons.map (·.word) == [0x2000] && (t.upd? 3).map (fun (u : Upd) => (u.done, u.ticket)) == some (true, false))].all id = true := by decide +kernel

/-- Each wait with its condition met and not met, at the value where they meet; results, retirement, fetches, reports and halts. -/
theorem test_witness_WarpAndWaitEvents : [
    [(5, true), (4, false)].all (fun e => nx (.warpWake W0) (liveW (fun x => { x with park := [.cnt .chan e.1], ops := List.replicate 5 ⟨.chan, 1, false⟩ })) (fun t => (t.warp W0).map (fun (y : Warp) => y.park.isEmpty) == some e.2)),
    [(32772, false), (32773, true), (4, true), (5, false)].all (fun e => nx (.warpWake W0) ((withBar ⟨4, 3, 2, false, false, 0, 0⟩).modWarp W0 (fun x => { x with park := [.bar bar40 e.1 none none] })) (fun t => (t.warp W0).map (fun (y : Warp) => y.park) == some (if e.2 then [] else [.bar bar40 e.1 none (some false)]))),
    nx (.warpWake W0) (liveW (fun x => { x with park := [.bar bar40 0 none none] })) (fun t => (t.warp W0).map (fun (y : Warp) => y.park) == some [.bar bar40 0 none (some false)]),
    [(0x40, none), (0x80, some false)].all (fun (e : Nat × Option Bool) => nx (.warpWake W0) (withAcc (liveW (fun x => { x with park := [.bar bar40 0 none none] })) (acc1 .store .store [part1 (.spad W0.wg e.1 e.2.isNone) 0])) (fun t => (t.warp W0).map (fun (y : Warp) => y.park) == some [.bar bar40 0 none e.2])),
    nx (.warpWake W0) ((liveW (fun x => { x with park := [.bar bar40 0 (some .cg) (some true)] })).modCore 0 (fun c => { c with l1 := [(7, { bytes := 5, valid := 3, dirty := 1 }), (8, { bytes := 5, valid := 3 })] })) (fun t => (t.warp W0).map (fun (y : Warp) => y.park) == some [.fence .acq .cg (.acq (.todo .cg []))] && (t.l1Block 0 7).map (·.valid) == some 1 && t.l1Block 0 8 == none),
    [true, false].all (fun m => nx (.warpWake W0) (liveW (fun x => { x with park := [.tile 9 true m] })) (fun t => (t.warp W0).map (fun (y : Warp) => y.park.isEmpty) == some m)),
    nx (.warpWake W0) (liveW (fun x => { x with park := [.fence .sc .dm .ready] })) (fun t => (t.warp W0).map (fun (y : Warp) => y.park.isEmpty) == some true),
    [(50, true), (51, false)].all (fun e => nx (.sleepExpiry W0) ((liveW (fun x => { x with park := [.sleep e.1] })).modDev 0 (fun d => { d with cycle := 50 })) (fun t => (t.warp W0).map (fun (y : Warp) => y.park.isEmpty) == some e.2) && nx (.yieldExpiry W0) ((liveW (fun x => { x with yield := some ⟨[⟨W0.wg, 4⟩], e.1⟩ })).modDev 0 (fun d => { d with cycle := 50 })) (fun t => (t.warp W0).map (fun (y : Warp) => y.yield.isNone) == some e.2)),
    nx (.resultWriteback W0) (liveW (fun x => { x with pend := [⟨.s 5, some 0, 0, false, false, 1⟩, ⟨.s 6, some 1, 0, false, false, 1⟩] })) (fun t => (t.warp W0).map (fun (y : Warp) => y.pend.map (·.reg)) == some [.s 6]),
    nx (.resultWriteback W0) (withUpd (liveW (fun x => { x with pend := [⟨.s 5, none, 3, false, false, 1⟩] })) { upd3 (.tstat 5) bar40 with done := true, res := some 0x70002, cls := none }) (fun t => t.upds.isEmpty && (t.warp W0).map (fun (y : Warp) => (y.readS 5, y.pend)) == some (0x70002, [])),
    (fun s : State => (match s.warp W0, s.launch? 0 0 with | some x, some _ => x.mayRetire 0 | _, _ => false) && nx (.warpRetire W0) s (fun t => (t.wg W0.wg).map (fun (g : Wg) => (g.left, g.warps.map (·.done))) == some (1, [true, false]))) (launched ((liveW (fun x => { x with mask := 0, exited := allLanes })).modWg W0.wg (fun g => { g with left := 2, warps := g.warps ++ [newWarp 0 0] })) 0 (launch 3 1 [] .placing)),
    nx (.siblingHalt W0) ((liveW (fun x => { x with halt := some ⟨3, false⟩ })).modWg W0.wg (fun g => { g with owner := some 1 })) (fun t => (t.warp W0).map (·.halt) == some (some ⟨3, true⟩)),
    nx (.deferredTrapReport 9) { (handled (liveW (fun x => { x with park := [.cnt .load 0] }))) with reports := [{ id := 9, w := W0, t := { trapAt tMemUncorrectable 0x10000 [] with deferred := true } }] } (fun t => t.reports.isEmpty && (t.warp W0).map (fun (y : Warp) => (y.handler, y.frame.code)) == some (true, 0x18)),
    (fun s : State => (match s.warp W0 with | some x => decide (x.pc ≤ maxPc) | none => false) && (match s.rawLine 0 0 (lineVa (5 * 0x400)) with | (u, .ok (some _)) => !u.stall | _ => false) && nx (.lineFetch W0 0 0) s (fun t => ((t.coreAt 0).quad 0).ibuf.any (fun e => e.line == 0x400)) && nx (.lineFetch W0 1 0) s (fun t => ((t.coreAt 0).quad 0).ibuf.any (fun e => e.line == 0x400 && e.bits == 0)) && nx (.lineFetch W0 1 1) s (fun t => !((t.coreAt 0).quad 0).ibuf.any (fun e => e.line == 0x400) && t.wgs.isEmpty)) (pagedW (fun x => { x with pc := 5 * 0x400 })),
    (fun s : State => nx (.lineFetch W0 0 0) s (fun t => ((t.coreAt 0).quad 0).ibuf.any (fun e => e.line == 0x400 && e.bits == 3)) && nx (.lineFetch W0 0 0) live (fun t => t.cores == live.cores)) ((pagedW (fun x => { x with pc := 5 * 0x400 })).modCore 0 (fun c => c.modQuad 2 (fun (q : Quad) => { q with ibuf := [{ ctx := 0, line := 0x400, bits := 3 }] })))].all id = true := by decide +kernel

/-- Operands that pass and operands that each check refuses: kind 3, a low bit, tag operands without tags, a group that does not fit, a misaligned landing place. -/
theorem test_witness_ChannelIssue : [
    readyB (uniP [(2, 0x10000)]) (sysMode false) (chanDeps (uniP [(2, 0x10000)]) 2 6 (some 16)) && notFull paged .chan && readyB paged (sysMode false) (Deps.all [Deps.uni 2 2, Deps.uni 4 1, Deps.uni 8 2]) && readyB paged (sysMode false) (Deps.uni 48 16),
    [(0x10000, some 16, none), (0x10000 + 3 * 2 ^ 54, none, some 1), (0x10000 + 2 ^ 49, none, some 1), (0x10001, none, some 1), (0x10000, some 62, some 3), (0x10000 + 2 ^ 52, some 60, some 3), (0x10000, some 60, none)].all (fun (e : Nat × Option Nat × Option Nat) => Claims.chCheck (BitVec.ofNat 64 e.1) false e.2.1 == e.2.2) && Claims.chCheck 0x10000 true none == some 2,
    nx (.push false false true .dv 16 2 0) (uniP [(2, 0x10000), (16, 0x1234)]) (fun t => t.chops.map (fun o => (o.kind, o.handle, ofBytes o.rcd, o.rel)) == [(.push false, 0x10000, 0x1234, .todo .dv false)]),
    nx (.popTry false false false true .dg 16 2 0 6) (uniP [(2, 0x10000)]) (fun t => t.chops.map (fun o => (o.kind, o.acqSt)) == [(tryK, .todo .dg [])]),
    nx (.popWait false false false true .wg 8 2 0 9) (uniP [(2, 0x10000), (8, 0x80), (9, 0x40)]) (fun t => t.chops.map (fun o => (o.kind, o.acqSt)) == [(waitK, .none)]),
    nx (.chinit false true .dv 6 2 4 8 64) (uniP [(2, 0x10000), (4, 0x30050), (8, 0x11000)]) (fun t => t.chops.map (fun o => (o.kind, o.handle)) == [(.chinit 0x30050 0x11000 6, 0x500000000010040)]),
    [(0x10008, 0x30050), (0x10000, 0x31050)].all (fun (e : Word × Word) => nx (.chinit false true .dv 6 2 4 8 0) (uniP [(2, e.1), (4, e.2), (8, 0x11000)]) (fun t => t.chops.isEmpty)),
    nx (.launch false 1) (uniP []) (fun t => t.chops.map (fun o => (o.handle, o.launch, o.rcd.length)) == [(0x20000, true, 64)]) && nx (.launch false 1) (uniP [(17, 0x40000)]) (fun t => t.chops.isEmpty)].all id = true := by decide +kernel

/-- A match held in the table, no match with and without a window, a full table, and a window at its last cycle and before. -/
theorem test_witness_ChannelRouting : [
    (fun s : State => s.maySend (chop4 (.push false) 0x10000 .issued) && (s.lineClean 0 0x10000).2 && (fun u : State => !u.stall && !u.throttled 0x400 (chWho u (chop4 (.push false) 0x10000 .issued) 0x10000)) (s.warmChan (chop4 (.push false) 0x10000 .issued) 0x10000) && (match s.chanPlace (chop4 (.push false) 0x10000 .issued) 0x10000 64 with | .ok k => k == 0x10000 | .error _ => false) && nx (.routerArrival 4) s (fun t => (t.chop? 4).map (·.loc) == some .acked && (t.chop? 2).map (·.loc) == some (.delivered (some (bytesOf 16 0x1234)) 0)))
    { paged with chops := [{ chop4 tryK 0x10000 (.held 0x10000 9 0) with id := 2 }, chop4 (.push false) 0x10000 .issued] },
    [(0x10000, false), (0x10000 + 5 * 2 ^ 56, true)].all (fun (e : Nat × Bool) => (chop4 (.push false) (BitVec.ofNat 64 e.1) .issued).mayWait && nx (.routerArrival 4) (withChop paged (chop4 (.push false) (BitVec.ofNat 64 e.1) .issued)) (fun t => (t.chop? 4).map (fun (o : ChOp) => match o.loc with | .held k x _ => e.2 && k == 0x10000 && x == 5 | .forwarded k => !e.2 && k == 0x10000 | _ => false) == some true)),
    (fun s : State => (s.pairTable 0x10000).length == 32 && nx (.routerArrival 4) s (fun t => (t.chop? 4).map (·.loc) == some (.forwarded 0x10000))) { paged with chops := (List.range 32).map (fun i => { chop4 (.push false) 0x500000000010040 (.held 0x10040 9 i) with id := 10 + i }) ++ [chop4 (.push false) 0x500000000010000 .issued] },
    [(9, true), (8, false)].all (fun (e : Nat × Bool) => nx (.pairingExpiry 4) (withChop (paged.modDev 0 (fun d => { d with cycle := e.1 })) (chop4 (.push false) 0x500000000010000 (.held 0x10000 9 0))) (fun t => (t.chop? 4).map (·.loc) == some (if e.2 then .forwarded 0x10000 else .held 0x10000 9 0)))].all id = true := by decide +kernel

/-- A channel being made, one with room for its last record, one with its last record, one at the wrap of its counts, and an empty one. -/
theorem test_witness_ChannelHome : [
    nx (.chinitHome 4) (withChop paged (chop4 (.chinit 0x30050 0x11000 6) 0x500000000010000 (.forwarded 0x10000))) (fun t => Claims.desc t 0x10000 == [0x11000, 0x31050, 0, 0, 0, 0, 0, 0] && (t.chop? 4).map (·.loc) == some .acked),
    [(0, 3), (2 ^ 32 - 2, 1)].all (fun (e : Nat × Nat) => (fun s : State => descFault (chop4 (.push false) 0x10000 (.forwarded 0x10000)) (Claims.desc s 0x10000) == none && decide (descCount (Claims.desc s 0x10000) = 3 ∧ descCap (Claims.desc s 0x10000) = 4) && (s.engOrder W0 4 (0x11000 + 16 * (e.2 % 4))).2 && nx (.channelPushHome 4) s (fun t => descTail (Claims.desc t 0x10000) == e.2 + 1 && memRead t.hbm (0x11000 + 16 * (e.2 % 4)) 16 == 0x1234 && (t.chop? 4).map (·.loc) == some .acked)) (withChop (withChan e.1 e.2) (chop4 (.push false) 0x10000 (.forwarded 0x10000)))),
    (fun s : State => !(s.engOrder W0 4 0x11030).2 && nx (.channelPushHome 4) s (fun t => descTail (Claims.desc t 0x10000) == 3 && memGet t.hbm 0x11030 == memGet s.hbm 0x11030)) (withChop (withAcc (withChan 0 3) (acc1 .store .store [part1 (.home 0x11030) 5])) (chop4 (.push false) 0x10000 (.forwarded 0x10000))),
    [tryK, waitK].all (fun k => nx (.channelPopHome 4) (withChop (withChan (2 ^ 32 - 1) 0) (chop4 k 0x10000 (.forwarded 0x10000))) (fun t => descHead (Claims.desc t 0x10000) == 0 && (t.chop? 4).map (·.loc) == some (.delivered (some (bytesOf 16 0x77)) 0))),
    nx (.channelPopHome 4) (withChop (withChan 4 4) (chop4 tryK 0x10000 (.forwarded 0x10000))) (fun t => (t.chop? 4).map (·.loc) == some (.delivered none 0)) && nx (.channelPopHome 4) (withChop (withChan 4 4) (chop4 waitK 0x10000 (.forwarded 0x10000))) (fun t => (t.chop? 4).map (fun (o : ChOp) => match o.loc with | .posted k _ => k == 0x10000 | _ => false) == some true),
    (fun s : State => s.cut == [] && !s.stall && s.txns == [] && (match s.wg W0.wg with | some g => g.resident && (s.coreAt g.core).tlb.any (fun e => e.hits 0 (0x11030 / 2 ^ 16 * 2 ^ 16)) | none => false) && (match s.chanPlace (chop4 (.push false) 0x10000 (.forwarded 0x10000)) 0x11030 16 with | .ok k => k == 0x11030 | .error _ => false) && nx (.channelPushHome 4) s (fun t => memRead t.hbm 0x11030 16 == 0x1234 && (t.chop? 4).map (·.loc) == some .acked)) ((withChop (withChan 0 3) (chop4 (.push false) 0x10000 (.forwarded 0x10000))).modCore 0 (fun c => { c with tlb := [⟨0, 2, 0, 99⟩] })),
    (fun s : State => (s.postedOf 0x10000 0).isEmpty && s.errs.isEmpty && s.lost.isEmpty && s.hall (0x10000 / 64) == .home && s.hall (0x11000 / 64) == .home && Memory.wf s.hbm && (s.die 0).ovf.isEmpty && s.postedOn 0 == 0) (withChan 0 3)].all id = true := by decide +kernel

/-- A full ring, with room in the overflow queue and with none. -/
theorem test_witness_ChannelOverflow : [
    (fun s : State => (s.ringReady (chop4 (.push false) 0x10000 (.forwarded 0x10000)) 0x10000).2 && (s.warp W0).isSome && decide (descCap (Claims.desc s 0x10000) ≤ descCount (Claims.desc s 0x10000)) && nx (.channelPushHome 4) s (fun t => (t.chop? 4).isNone && t.reports.map (fun r => (r.t.code, r.t.deferred)) == [(tChannelOverflow, true)])) (withChop (withChan 0 4) (chop4 (.push false) 0x10000 (.forwarded 0x10000))),
    nx (.channelPushHome 4) ((withChop (withChan 0 4) (chop4 (.push false) 0x10000 (.forwarded 0x10000))).modDev 0 (fun d => { d with ctxs := [(0, [1 + 2 * 2 ^ 16, 0, 0, 64, 64, 0, 0, 0x40000000, 0x20000, 0])] })) (fun t => (t.chop? 4).map (·.loc) == some .acked && (t.die 0).ovf.map (fun (m : Send) => (m.desc, ofBytes m.rcd)) == [(0x10000, 0x1234)] && descTail (Claims.desc t 0x10000) == 4)].all id = true := by decide +kernel

theorem test_witness_ChannelCompletion : [
    nx (.channelAck 4) (withChop (withOps .chan 4) (chop4 (.push false) 0x10000 .acked)) (fun t => t.chops.isEmpty && (t.warp W0).map (fun (y : Warp) => y.cnt .chan) == some 0),
    nx (.channelAck 4) (withChop (liveW (fun x => { x with ops := [⟨.chan, 4, false⟩], pend := [⟨.s 6, none, 4, false, false, 1⟩, ⟨.s 7, none, 4, false, false, 1⟩] })) (chop4 (.chinit 0 0 6) 0x500000000010000 .acked)) (fun t => t.chops.isEmpty && (t.warp W0).map (fun (y : Warp) => (y.pairS 6, y.pend)) == some (0x500000000010000, [])),
    [some (bytesOf 16 0x1234), none].all (fun (r : Option (List Byte)) => nx (.channelDelivery 4) (withChop (liveW (fun x => { x with ops := [⟨.chan, 4, false⟩], pend := [16, 17, 18, 19, 6, 7].map (fun i => ⟨.s i, none, 4, false, false, 1⟩) })) (chop4 tryK 0x10000 (.delivered r 9))) (fun t => t.chops.isEmpty && (t.warp W0).map (fun (y : Warp) => (y.readS 16, y.readS 6, y.readS 7)) == some (if r.isSome then 0x1234 else 0, if r.isSome then 0 else 1, 9))),
    (fun s : State => !s.aheadOf W0 4 && nx (.channelDelivery 4) s (fun t => (t.wg W0.wg).map (fun (h : Wg) => memRead h.spad 0x80 16) == some 0x1234 && t.upds.map (fun u => (u.kind, u.bar, u.for_)) == [(.credit 16, bar40, .pop 4)] && (t.chop? 4).map (·.loc) == some .acked)) (withChop live (chop4 waitK 0x10000 (.delivered (some (bytesOf 16 0x1234)) 0))),
    nx (.channelDelivery 4) (withChop (withOps .chan 4) (chop4 waitK 0x10000 .acked)) (fun t => t.chops.isEmpty && (t.warp W0).map (fun (y : Warp) => y.cnt .chan) == some 0)].all id = true := by decide +kernel

/-- A command that passes, one with a reserved bit, one whose source leaves the partition's words; CPYX with a list; elements, the last one, a credit and an abort. -/
theorem test_witness_CopyCommands : [
    readyB (uniform (pairRegs 16 copyWords)) (sysMode false) ((Deps.uni 16 16).join (Deps.uni 6 2)) && notFull live .copy && decide (live.poolCount 0 < 64),
    nx (.cpy false 1) (uniform (pairRegs 16 copyWords)) (fun t => t.copies.map (fun o => (o.id, o.words.length, o.engine)) == [(1, 8, none)]) && nx (.cpy false 1) (uniform (pairRegs 16 (copyWords.set 0 (2 ^ 51)))) (fun t => t.copies.isEmpty),
    nx (.cpyx false 1 6 true false true) (uniform ((6, 0x500) :: pairRegs 16 copyWords)) (fun t => t.copies.map (·.lists) == [some ⟨some 0x500, none, true⟩]) && nx (.cpyx false 1 6 true false true) (uniform ((6, 0x502) :: pairRegs 16 copyWords)) (fun t => t.copies.isEmpty),
    withC live (fun c => ccOk ((copyWords ++ [0]).map (BitVec.ofNat 64)) && (live.spadPlace c 0x100 4).isSome && (live.spadPlace c 0x7FFF0 16).isSome),
    nx (.copyTake 0 3) { live with copies := [copyOf copyWords none 0 false none, { copyOf copyWords none 0 false none with id := 8 }] } (fun t => (t.copy? 5).map (·.engine) == some (some 3) && (t.copy? 8).map (·.engine) == some none),
    (fun s : State => (match s.copy? 5 with | some o => s.copyRuns o && o.wants 1 && decide (1 + 0 < 2) | none => false) && ((s.copyRead 5 1).copy? 5).map (·.got) == some [(1, 0x55)]) { liveG (fun g => { g with spad := [(0x104, 0x55)] }) with copies := [copyOf copyWords (some 0) 0 false none] },
    (fun s : State => (match s.copy? 5 with | some o => s.copyRuns o && decide (0 < ccUnits o.words) && ccUnitElems o.words 0 == [0, 1] && ccUnitAt o.words 0 == (0x200, 8) | none => false) && (match (s.copyStep 5 0).wg W0.wg with | some h => memRead h.spad 0x200 8 == 7 + 0x55 * 2 ^ 32 && Memory.wf h.spad | none => false) && ((s.copyStep 5 0).copy? 5).map (fun (o : CopyOp) => (o.next, o.got, o.wrote)) == some (2, [], 1)) { live with copies := [{ copyOf copyWords (some 0) 0 false none with got := [(0, 7), (1, 0x55)] }] },
    nx (.copyComplete 0 0) { withOps .copy 5 with copies := [copyOf copyWords (some 0) 2 false none] } (fun t => t.copies.isEmpty && (t.warp W0).map (fun (y : Warp) => y.cnt .copy) == some 0) && nx (.copyComplete 0 0) { withOps .copy 5 with copies := [copyOf copyWords (some 0) 2 true none] } (fun t => t.copies.isEmpty),
    nx (.copyComplete 0 0) { withOps .copy 5 with copies := [copyOf ((copyWords.set 1 (0x200 + 2 ^ 49 + 2 ^ 57)).set 6 (0x40 * 2 ^ 32)) (some 0) 2 false none] } (fun t => t.upds.map (fun u => (u.kind, u.bar, u.for_)) == [(.credit 8, bar40, .copy 5)] && (t.copyOn 0 0).map (·.done) == some true),
    nx (.copyAbort 0 0) { withOps .copy 5 with copies := [copyOf copyWords (some 0) 1 false (some (trapAt tCopyFault 0 []))] } (fun t => t.copies.isEmpty && t.reports.map (fun r => (r.t.code, r.t.deferred)) == [(0x2A, true)])].all id = true := by decide +kernel

theorem test_witness_ConvolutionTasks : [
    readyB (uniform [(5, 0x100)]) (sysMode false) (Deps.uni 5 1) && notFull live .conv && (live.engineWait W0 none).isEmpty && cvOk (convWords.map (BitVec.ofNat 32)) && cvTotal (convWords.map (BitVec.ofNat 32)) == 1,
    [(0x100, 1), (0x104, 0)].all (fun (e : Word × Nat) => nx (.convn false 5) ((uniform [(5, e.1)]).modWg W0.wg (fun g => { g with spad := memWrite [] e.1.toNat 64 ((convWords.zipIdx.map (fun x => x.1 * 2 ^ (32 * x.2))).sum) })) (fun t => t.convs.length == e.2 && t.convs.all (fun o => o.words == convWords.map (BitVec.ofNat 32)))),
    nx (.convn false 5) (uniform [(5, 0x100)]) (fun t => t.convs.isEmpty),
    nx (.convnTake 0) { live with convs := [convOf convWords none 0 false, { convOf convWords none 0 false with id := 8 }] } (fun t => t.convs.map (·.engine) == [some 0, none]),
    nx (.convnComplete 0) { withOps .conv 6 with convs := [convOf convWords (some 0) 1 false] } (fun t => t.convs.isEmpty && (t.warp W0).map (fun (y : Warp) => y.cnt .conv) == some 0),
    nx (.convnComplete 0) { withOps .conv 6 with convs := [convOf ((convWords.set 10 (2 ^ 19)).set 11 0x40) (some 0) 1 false] } (fun t => t.upds.map (fun u => (u.kind, u.bar, u.for_)) == [(.credit 4, bar40, .conv 6)] && (t.convOn 0).map (·.done) == some true)].all id = true := by decide +kernel

/-- The last tile of the grant and the first outside it, a use that fails its check, a core with every subarray fenced, and one with room. -/
theorem test_witness_MatrixIssue : [
    readyB mapped (sysMode false) (Deps.uni 8 4) && readyB mapped (sysMode false) ((Deps.uni 5 1).join (Deps.src 1 (v 9))) && readyB mapped (sysMode false) ((Deps.uni 5 1).join (Deps.dst 1 (.v 9))) && notFull mapped .mat && decide ((mapped.coreAt 0).mq.length < 16),
    withC mapped (fun c => c.inRange (.accz 7) && !{ c with g := { c.g with accN := 7 } }.inRange (.accz 7) && c.inRange (.accrd false 7 63 9 1) && !c.inRange (.accrd false 7 64 9 1)),
    withC mapped (fun c => (mapped.entryErr c (.tmma .zero (.inl 3) false 0 2 0)).trap.isNone && (mapped.entryErr c (.tmma .zero (.inl 4) false 0 2 0)).trap.isSome && (c.boundTiles (.tmma .zero (.inl 3) false 0 2 0)).all (fun e => e.st == .ready)),
    nx (.tmma false .zero false 0 2 3 0 0) mapped (fun t => (t.coreAt 0).mq.map (fun e => (e.id, e.op)) == [(1, .tmma .zero (.inl 3) false 0 2 0)]) && nx (.tmma false .zero false 0 2 4 0 0) mapped (fun t => (t.coreAt 0).mq.isEmpty),
    nx (.accz false 7) (mapped.modCore 0 (fun c => { c with fenced := 15 })) (fun t => (t.coreAt 0).mq.isEmpty) && nx (.accz false 7) (mapped.modCore 0 (fun c => { c with fenced := 7 })) (fun t => (t.coreAt 0).mq.length == 1),
    nx (.mapdef false (some 7) 3 8) (mapped.modWarp W0 (fun x => { x with s := [(8, 0x1000), (9, 64 + 2 ^ 16), (10, 1)] })) (fun t => (t.coreAt 0).mq.map (·.op) == [.mapdef 3 [0x1000, 64 + 2 ^ 16, 1, 0] (some 7)])].all id = true := by decide +kernel

/-- An entry that begins, a TMMA step with its maps, a WBLD step before the last, each entry of one step, and a touchstone run that leaves a subarray. -/
theorem test_witness_MatrixEvents : [
    nx (.matrixEntryStart 0) (withEntry live (entry (.accz 7) false 0)) (fun t => (t.coreAt 0).mq.map (·.running) == [true]),
    (fun s : State => match s.ctxFor W0 with | some c => !s.touchDue 0 && !s.mqStops 0 c.g && !s.stall && decide (0 < s.entrySteps c (.tmma .zero (.inl 3) false 0 2 0)) && (s.mapUse c 2 false).isSome && (s.mapUse c 3 false).isSome && decide (0 < c.g.acc.length) | none => false) (withEntry mapped (entry (.tmma .zero (.inl 3) false 0 2 0) true 0)),
    nx (.wbldStep 0) (withEntry live (entry (.wbld .sp2 5 0 0 0x2000 2) true 0)) (fun t => (t.wg W0.wg).map (fun (h : Wg) => (tabGet h.panels 0).map (fun (p : Panel) => (p.fmt, p.sp, p.c, p.bytes.length))) == some (some (5, .sp2, 2, 64 * (4 + recordQ .sp2 8))) && (t.coreAt 0).mq.map (·.next) == [1]),
    nx (.matrixEntryComplete 0) (withEntry (liveG (fun g => { g with acc := g.acc.set 7 [(5, 0x3F800000)] })) (entry (.accz 7) true 0)) (fun t => (t.coreAt 0).mq.isEmpty && (t.wg W0.wg).map (fun (h : Wg) => h.accAt 7 0 5) == some 0 && (t.warp W0).map (fun (y : Warp) => y.cnt .mat) == some 0),
    nx (.matrixEntryComplete 0) (withEntry live (entry (.accwr false 1 63 (3#64) [5, 6, 7]) true 0)) (fun t => (t.wg W0.wg).map (fun (h : Wg) => (h.accAt 1 63 0, h.accAt 1 63 1, h.accAt 1 63 2, h.accAt 1 0 0)) == some (5, 6, 0, 0)) && nx (.matrixEntryComplete 0) (withEntry live (entry (.accwr true 1 63 (3#64) [5, 6, 7]) true 0)) (fun t => (t.wg W0.wg).map (fun (h : Wg) => (h.accAt 1 0 63, h.accAt 1 1 63, h.accAt 1 2 63)) == some (5, 6, 0)),
    nx (.matrixEntryComplete 0) (withEntry live (entry (.mapdef 15 [0x1000, 64 + 2 ^ 16, 1, 0] (some 7)) true 0)) (fun t => (t.wg W0.wg).map (fun (h : Wg) => (tabGet h.maps 15).map (·.tile)) == some (some (some 7))),
    nx (.matrixEntryComplete 0) (withEntry (liveG (fun g => { g with panels := [(0, { fmt := 5, sp := .sp2, c := 2, bytes := [] }), (64, { fmt := 5, sp := .sp2, c := 2, bytes := [] })] })) (entry (.wbinv (some 64)) true 0)) (fun t => (t.wg W0.wg).map (fun (h : Wg) => h.panels.map (·.1)) == some [0]),
    (fun s : State => s.touchDue 0 && nx (.touchstoneRun 0 6) s (fun t => (t.coreAt 0).fenced == 7 && (t.coreAt 0).steps == 0 && (t.coreAt 0).mq.length == 1)) ((withEntry mapped (entry (.tmma .zero (.inl 3) false 0 2 0) true 0)).modCore 0 (fun c => { c with steps := 4096, fenced := 1 }))].all id = true := by decide +kernel

/-- The effects of the entries that read and write a tile, the partition and the warp; a panel in the buffer; the last step of a dense WBLD. -/
theorem test_witness_MatrixEffects : [
    nx (.matrixEntryComplete 0) (withEntry map256 (entry (.accadd .rn false 7 (BitVec.ofNat 64 (2 ^ 5)) [0, 0, 0, 0, 0, 0x40000000]) true 0)) (fun t => (t.wg W0.wg).map (fun (h : Wg) => (h.accAt 7 0 5, h.accAt 7 1 6)) == some (0x40400000, 0)),
    nx (.matrixEntryComplete 0) (withEntry map256 (entry (.accld .rn false 7 2) true 0)) (fun t => (t.wg W0.wg).map (fun (h : Wg) => (h.accAt 7 1 2, h.accAt 7 0 5)) == some (0x40000000, 0)),
    (fun s : State => (match s.ctxFor W0 with | some c => (s.entryErr c (.accst .rn false none 7 2)).trap.isNone && (s.mapUse c 2 true).isSome && Memory.wf c.g.spad | none => false)) (withEntry map256 (entry (.accst .rn false none 7 2) true 0)),
    nx (.matrixEntryComplete 0) (withEntry (map256.modWarp W0 (fun x => { x with v := [(9, [1, 2, 3, 4, 5, 6])], pend := [⟨.v 9, none, 7, false, false, 0x3F⟩] })) (entry (.accrd false 7 0 9 (0x7E#64)) true 0)) (fun t => (t.warp W0).map (fun (y : Warp) => ((y.readV 9).take 7, y.pend)) == some ([1, 0, 0, 0, 0, 0x3F800000, 0], [])),
    nx (.matrixEntryComplete 0) (withEntry (liveW (fun x => { x with pend := [⟨.s 5, none, 7, false, false, 1⟩] })) { entry (.ttest 5) true 0 with test := some 0x46 }) (fun t => (t.warp W0).map (fun (y : Warp) => (y.readS 5, y.pend)) == some (0x46, [])),
    nx (.touchstoneRun 0 6) (withEntry (live.modCore 0 (fun c => { c with fenced := 1 })) (entry (.ttest 5) true 0)) (fun t => (t.coreAt 0).mq.map (·.test) == [some 0x76] && (t.coreAt 0).fenced == 7),
    (fun s : State => match s.ctxFor W0 with | some c => decide (0 < s.entrySteps c (.tmma .zero (.inr 0) false 0 2 0)) && !s.touchDue 0 && (match tabGet c.g.panels 0 with | some p => p.here && p.lost.isEmpty && p.sp == .dense && Fmt.ofCode p.fmt == some .e4m3 | none => false) | none => false) (withEntry (liveG (fun g => { g with maps := [(2, ⟨[0x1000, 64 + 2 ^ 16, 5, 0], none⟩)], panels := [(0, { fmt := 5, sp := .dense, c := 1, bytes := [] })] })) (entry (.tmma .zero (.inr 0) false 0 2 0) true 0)),
    (fun s : State => (match s.ctxFor W0 with | some c => (match s.mapUse c 2 false with | some u => mapFmt u.words == 1 && mapChunks u.words == 1 | none => false) && c.g.spadErr.isEmpty && s.swapFits 0 0 2368 | none => false)) (withEntry mapped (entry (.wbld .dense 0 2 0 0 1) true 0)),
    nx (.wbldStep 0) (withEntry live (entry (.wbld .sp2 5 0 0 0x2000 1) true 0)) (fun t => (t.wg W0.wg).map (fun (h : Wg) => (tabGet h.panels 0).map (fun (p : Panel) => (p.c, p.bytes.length, p.here, p.area))) == some (some (1, 1280, true, false)))].all id = true := by decide +kernel

/-- Each command with a reserved bit, a record that breaks its table, the last index and the first beyond it, both sides of a range. -/
theorem test_witness_TableCommands : [
    [(Instr.ctxWrite (cmd [2 ^ 40]), 1), (.ctxDestroy (cmd [2 ^ 40]), 2), (.tlbInval (cmd [2 ^ 40]), 3), (.importWrite (cmd [2 ^ 40]), 4), (.evqWrite (cmd [2 ^ 40]), 6)].all (fun e => nx e.1 live (fun t => answered t e.2 1)),
    nx (.ctxWrite (cmd [63, 0x1000])) (withImage 1) (fun t => answered t 1 0 && t.ctxValid 0 63 && !t.ctxValid 0 62) && nx (.ctxWrite (cmd [63, 0x1000])) (withImage 0x101) (fun t => answered t 1 1 && !t.ctxValid 0 63),
    nx (.ctxDestroy (cmd [0])) paged (fun t => answered t 2 0 && !t.ctxValid 0 0 && t.wgs.isEmpty) && nx (.ctxDestroy (cmd [0])) (paged.modWg W0.wg (fun g => { g with ctx := 1 })) (fun t => t.wgs.length == 1),
    nx (.tlbInval (cmd [0, 65536, 1])) withTlb (fun t => answered t 3 0 && (t.coreAt 0).tlb.map (fun e => (e.ctx, e.page)) == [(0, 0), (1, 1)] && (t.cluster 0).tlb.length == 2),
    nx (.tlbInval (cmd [256, 0, 0])) withTlb (fun t => (t.coreAt 0).tlb.isEmpty && (t.cluster 0).tlb.all (fun e => e.ctx != 0)) && nx (.tlbInval (cmd [0, 2 ^ 40, 257])) withTlb (fun t => (t.coreAt 0).tlb.all (fun e => e.ctx != 0)),
    nx (.tlbInval (cmd [0, 65536, 1])) (withAcc withTlb { acc1 (.load false) .load [part1 (.home 0x10000) 0] with held := true }) (fun t => answered t 3 0) && nx (.tlbInval (cmd [0, 65536, 1])) (withAcc withTlb { acc1 (.load false) .load [part1 (.home 0x10000) 0] with addrs := [0x10000] }) (fun t => (t.dev 0).inval.isSome && (t.dev 0).msix.isEmpty),
    nx (.tlbInval (cmd [0, 65536, 1])) (withAcc (withTlb.modCore 0 (fun c => { c with tlb := [] })) { acc1 (.load false) .load [part1 (.home 0x10000) 0] with addrs := [0x10000] }) (fun t => answered t 3 0),
    nx (.importWrite (cmd [255, 2 ^ 27 - 1, 5, 6])) live (fun t => answered t 4 0 && tabGet (t.dev 0).imports 255 == some ⟨true, 4095, 63, 63, true, 5, 6⟩) && nx (.importWrite (cmd [255, 0, 5, 6])) (live.modDev 0 (fun d => { d with imports := [(255, ⟨true, 0, 0, 0, true, 0, 0⟩)] })) (fun t => (t.dev 0).imports.isEmpty),
    nx (.evqWrite (cmd [64 + 4 * 256, 64, 8])) live (fun t => answered t 6 0 && tabGet (t.dev 0).evqs 64 == some { ring := 64, k := 4, mirror := 8 }) && [[65 + 4 * 256, 64, 8], [64 + 3 * 256, 64, 8], [64 + 4 * 256, 63, 8], [64 + 4 * 256, 64, 7]].all (fun l => nx (.evqWrite (cmd l)) live (fun t => answered t 6 1))].all id = true := by decide +kernel

/-- Each command with a reserved bit; each mode of PREEMPT and the one that is none; a double-faulted warp with and without a handler; the others legal. -/
theorem test_witness_DeviceCommands : [
    [(Instr.preempt (cmd [2 ^ 40]), 5), (.dbgResume (cmd [2 ^ 40]), 7), (.fwStage (cmd [2 ^ 40]), 8), (.reset (cmd [2 ^ 40]), 9), (.attest (cmd [2 ^ 40]), 10)].all (fun e => nx e.1 live (fun t => answered t e.2 1)),
    nx (.preempt (cmd [0x300, 1])) paged (fun t => answered t 5 1) && nx (.preempt (cmd [1, 1])) paged (fun t => answered t 5 1),
    [(0, some WgSt.draining), (1, some .stopping), (2, none)].all (fun e => nx (.preempt (cmd [256 * e.1, 1])) paged (fun t => answered t 5 0 && (t.wg W0.wg).map (·.st) == e.2)) && nx (.preempt (cmd [512, 2])) paged (fun t => t.wgs.length == 1),
    nx (.dbgResume (cmd [0])) live (fun t => answered t 7 1) && nx (.dbgResume (cmd [0])) ((handled live).modWg W0.wg (fun g => { g with halted := true, owner := some 0 })) (fun t => answered t 7 0 && (t.warp W0).map (·.pc) == some 5 && (t.wg W0.wg).map (·.halted) == some false) && nx (.dbgResume (cmd [0])) (liveG (fun g => { g with halted := true, owner := some 0 })) (fun t => answered t 7 1),
    cmdLegal (cmd [0, 0x1000, 64]) [0, allBits, allBits] && Memory.wf live.host,
    nx (.reset (cmd [1])) (live.modDev 0 (fun d => { d with regs := { d.regs with failed := 2 } })) (fun t => answered t 9 0 && !(t.dev 0).up && ((t.dev 0).regs.fatal, (t.dev 0).regs.failed) == (7, 0)) && nx (.reset (cmd [0])) (live.modDev 0 (fun d => { d with regs := { d.regs with failed := 2 } })) (fun t => (t.dev 0).regs.failed == 2 && t.wgs.isEmpty)].all id = true := by decide +kernel

/-- The ends of a register's range, both apertures up to the last byte of a block, a window slot, a channel with room and a full one. -/
theorem test_witness_HostAccesses : [
    [(256, 256), (65536, 65536), (255, 4096), (65537, 4096)].all (fun e => nx (.registerWrite 0 0x4070 8 (BitVec.ofNat 64 e.1)) live (fun t => (t.dev 0).regs.interval == e.2)) && [0x4050, 0x4058, 0x4060].all (fun o => nx (.registerWrite 0 o 8 99) live (fun t => (t.dev 0).regs == (live.dev 0).regs && (t.dev 0).ns == 0)),
    nx (.registerWrite 0 0x38 8 0xAB) (live.modDev 0 (fun d => { d with mboxIn := List.range 56 })) (fun t => t.agenda == [.mailbox 0] && tabGetD (t.dev 0).mbox 0x38 0 == 0xAB) && nx (.registerWrite 0 0 8 0xAB) live (fun t => t.agenda.isEmpty),
    [(2, 0x20040), (4, 0x40)].all (fun e => match live.apertureKey 0 e.1 e.2 with | some k => (List.range 64).all (fun i => live.apertureKey 0 e.1 (e.2 + i) == some (k + i)) && quietB live (blockOf k) && live.hall (blockOf k) == .home && nx (.hostWrite 0 e.1 (e.2 + 62) [0xAA, 0xBB]) live (fun t => memGet t.hbm (k + 62) == 0xAA && memGet t.hbm (k + 63) == 0xBB && nx (.hostRead 0 e.1 (e.2 + 60) 4) t (fun u => (u.dev 0).hread == [0, 0, 0xAA, 0xBB] && !(u.dev 0).hpoison)) | none => false),
    nx (.hostWrite 0 0 0 (List.replicate 64 7)) live (fun t => t.agenda == [.mailbox 0] && tabGetD (t.dev 0).mbox 63 0 == 7),
    nx (.pushWindowWrite 0 0 0x3FFF [1, 2]) paged (fun t => (t.window 0 0).bytes == [(0x3FFF, 1)]),
    (fun s : State => (s.window 0 0).complete 0 && nx (.pushWindowConsume 0 0) s (fun t => (t.window 0 0).n == 1 && (t.window 0 0).bytes == [(64, 5)] && memGet t.hbm 0x11000 == 7 && memGet t.hbm 0x10014 == 1)) ((withLaunchRecord 3 [] 0).modDev 0 (fun d => { d with wins := [(0, { bytes := (List.range 64).map (fun i => (i, if i = 7 then 0 else 7)) ++ [(64, 5)] })] })),
    (fun s : State => nx (.pushWindowConsume 0 0) s (fun t => (t.window 0 0).n == 0 && (t.window 0 0).complete 0)) ((withLaunchRecord 3 [] 4).modDev 0 (fun d => { d with wins := [(0, { bytes := (List.range 64).map (fun i => (i, if i = 7 then 0 else 7)) })] })),
    nx (.msixSignal 0 64) (live.modDev 0 (fun d => { d with evqs := [(64, { vec := 5, signal := true })] })) (fun t => (t.dev 0).msix == [5]),
    nx (.freeCountUpdate 0 0) ((withLaunchRecord 3 [] 0).modDev 0 (fun d => { d with wins := [(0, { mirror := true })] })) (fun t => memRead t.host (hostKey 0 0x40) 4 == 256 && !(t.window 0 0).mirror)].all id = true := by decide +kernel

/-- A launch whose dependencies have been met for 5 ms and one for less; a record admitted, one refused; a dependency met, not met, unreadable. -/
theorem test_witness_LaunchAdmission : [
    [(4999999, false), (5000000, true)].all (fun e => nx (.launchAgeing 0) ((launched live 5 { launch 3 1 [] .placing with metAt := some 0 }).modDev 0 (fun d => { d with ns := e.1 })) (fun t => (t.launch? 0 5).map (·.aged) == some e.2)),
    (withLaunchRecord 3 [] 1).nextChannel 0 == some (0, 0, 0) && paged.nextChannel 0 == none,
    (fun s : State => (s.dev 0).freeEntry == some 0 && (match (s.ageing 0).waitingOn 0 0 0 with | some (o, key, dsc) => key == 0x10000 && (fun v : State => v.errs == [] && v.lost == [] && v.cut == [] && !v.stall && v.txns == [] && v.hall 0x400 == .home && v.hall 0x440 == .home && Memory.wf v.hbm && (v.die 0).ovf.isEmpty && (match v.chanPlace o (ringVa dsc 64 (descHead dsc)) 64 with | .ok k => k == 0x11000 | .error _ => false)) ((s.ageing 0).warmChan o (ringVa dsc 64 (descHead dsc))) | none => false)) (withLaunchRecord 3 [] 1),
    nx (.launchAdmit 0) (withLaunchRecord 3 [] 1) (fun t => (t.launch? 0 0).map (fun l => (l.seq, l.st, l.metAt, l.kd)) == some (1, .placing, some 0, words64 (kdWords 1)) && (t.dev 0).seqNext == 2 && memGet t.hbm 0x10010 == 1) && nx (.launchAdmit 0) (withLaunchRecord 0 [] 1) (fun t => t.launch? 0 0 == none && (t.dev 0).seqNext == 2) && nx (.launchAdmit 0) (withLaunchRecord 3 [2 ^ 61] 1) (fun t => t.launch? 0 0 == none && (t.die 0).evSeq == 2),
    (fun s : State => s.depTickets 0 5 == [] && (s.readDeps 0 (launch 3 1 [2 ^ 63 + 2 ^ 45 + 0x1400] .waiting)).2 == .ok (false, [0x2800]) && (fun t : State => !t.stall && (t.launch? 0 5).isSome && (List.range 4).all (fun a => (t.die a).monQ == [] && decide (t.monSlots a + 1 ≤ 4096))) (s.readDeps 0 (launch 3 1 [2 ^ 63 + 2 ^ 45 + 0x1400] .waiting)).1 && nx (.dependencyCheck 0 5) s (fun t => (t.launch? 0 5).map (·.watch) == some [0x2800])) (launched paged 5 (launch 3 1 [2 ^ 63 + 2 ^ 45 + 0x1400] .waiting)),
    nx (.dependencyCheck 0 5) (launched paged 5 (launch 3 1 [2 ^ 63 + 0xFFFF * 2 ^ 45 + 0x1400] .waiting)) (fun t => (t.launch? 0 5).map (fun l => (l.st, l.metAt)) == some (.placing, some 0)) && nx (.dependencyCheck 0 5) (launched paged 5 (launch 3 1 [2 ^ 63 + 2 ^ 40] .waiting)) (fun t => t.launch? 0 5 == none),
    (fun v : State => (fun u : State => [v, u].all (fun t => match t.translate 0 0 0x14000 with | .ok p => (match p.place with | .memory _ d _ => d == 0 | _ => false) && p.key == some 0x14000 && t.admitted 0 0 p 16 false | .error _ => false) && quietB u 0x500 && u.cut == [] && u.hall 0x500 == .home && Memory.wf u.hbm) (v.walked 0 0 0 0x14000)) (paged.walked 0 0 0 0x14000),
    nx (.pointStable 0) (launched live 5 (launch 3 1 [] .voting)) (fun t => (t.launch? 0 5).map (·.st) == some .placing)].all id = true := by decide +kernel

/-- A record that passes its checks and one that does not; a device with nothing to admit; records to drain; a ticket offered and one not; a claim. -/
theorem test_witness_LaunchAdmissionSteps : [
    (match popped (withLaunchRecord 3 [] 1) with | some (t, lr) => (match t.checkLaunch 0 0 lr with | (u, .ok _) => !u.stall | _ => false) && ([4, 5, 6, 7].all (fun i => bits (wordOf lr i) 63 1 == 0)) && bits (wordOf lr 3) 0 20 * bits (wordOf lr 3) 20 16 * bits (wordOf lr 3) 36 12 == 3 | none => false),
    (match popped (withLaunchRecord 3 [2 ^ 61] 1) with | some (t, lr) => (match t.checkLaunch 0 0 lr with | (u, .error _) => !u.stall | _ => false) | none => false),
    (paged.ageing 0).nextChannel 0 == none && !paged.stall,
    (fun s : State => (match s.readDeps 0 (launch 3 1 [2 ^ 63 + 0xFFFF * 2 ^ 45 + 0x1400] .waiting) with | (t, .ok (true, ws)) => !t.stall && t.depRecords 0 ws == [(3, 9)] | _ => false) && nx (.dependencyCheck 0 5) s (fun t => (t.launch? 0 5).map (·.st) == some .waiting && t.drains.map (fun d => (d.core, d.epoch)) == [(3, 9)]))
      { (waiting1 0xFFFF).modCore 3 (fun c => { c with epoch := 10, closed := [(9, 1)] }) with records := [{ line := lineOfBlock 0x500, core := 3, epoch := 9, sig := 1 }] },
    (match (waiting1 0xFFFF).readDeps 0 (launch 3 1 [2 ^ 63 + 0xFFFF * 2 ^ 45 + 0x1400] .waiting) with | (t, .ok (true, ws)) => !t.stall && (t.depRecords 0 ws).isEmpty | _ => false),
    (fun s : State => (s.depTickets 0 5).any (fun k => k.offered.isSome) && (match s.readDeps 0 (launch 3 1 [2 ^ 63 + 2 ^ 45 + 0x1400] .waiting) with | (t, .ok (false, ws)) => ws == [0x2800] && !t.stall && (t.launch? 0 5).map (·.watch) == some [] && (t.die 0).monQ == (s.die 0).monQ && t.cycle 0 == s.cycle 0 | _ => false) && nx (.dependencyCheck 0 5) s (fun t => (t.launch? 0 5).map (·.watch) == some [0x2800] && (t.die 0).monQ == [])) (ticketed (some 0)),
    nx (.dependencyCheck 0 5) (ticketed none) (fun t => (t.launch? 0 5).map (·.watch) == some [] && (t.die 0).monQ.length == 1)].all id = true := by decide +kernel

/-- The last cluster of the last die; a record out of range, one without room, one with room, and a restore. -/
theorem test_witness_LaunchPlacement : [
    (fun s : State => !s.blockedOn 0 0 143 && nx (.launchPlace 0 1023 place9) s (fun t => (t.cluster 143).slots.map (fun b => (bits b.w0.toNat 0 10, bits b.w0.toNat 16 32, bits b.w1.toNat 40 2, bits b.w1.toNat 48 2)) == [(1023, 0, 3, 2)] && (t.launch? 0 1023).map (fun l => (l.nextCg, l.cgLeft, l.dgDie, l.grid)) == some (1, [(0, 1)], [(0, 3)], 1))) (launched live 1023 (launch 3 1 [] .placing)),
    [(({ place9 with cores := [] } : Placing), ([] : List Nat)), (place9, [575])].all (fun e => nx (.launchPlace 0 1023 e.1) ((launched live 1023 (launch 3 1 [] .placing)).modDev 0 (fun d => { d with fused := e.2 })) (fun t => (t.cluster 143).slots.isEmpty && (t.dev 0).up)),
    [(0, 0), (5000000, 1)].all (fun e => nx (.launchPlace 0 5 place9) (live.modDev 0 (fun d => { d with ns := e.1, launches := [(5, { launch 3 1 [] .placing with metAt := some 0 }), (6, { launch 3 1 [] .placing with prio := 3 })] })) (fun t => (t.cluster 143).slots.length == e.2)),
    nx (.bindStep 0 0) (((launched live 5 (launch 3 1 [] .placing)).modDev 0 (fun d => { d with preempts := [⟨0, 0, [0], 100, 50, []⟩] })).modCluster 0 (fun c => { c with slots := [mkBind 5 2 2 1 [3] [2] false] })) (fun t => (t.cluster 0).slots.length == 1 && t.wgs.length == 1),
    nx (.bindStep 0 0) ((launched live 5 (launch 3 1 [] .placing)).modCluster 0 (fun c => { c with slots := [mkBind 5 3 3 1 [0] [0] false] })) (fun t => !(t.dev 0).up && (t.dev 0).regs.fatal == 2),
    nx (.bindStep 0 0) ((launched live 5 (launch 3 1 [] .placing)).modCluster 0 (fun c => { c with slots := [mkBind 5 2 2 1 [0] [0] false] })) (fun t => (t.cluster 0).slots.length == 1 && t.wgs.length == 1),
    nx (.bindStep 0 0) ((launched live 5 (launch 3 1 [] .placing)).modCluster 0 (fun c => { c with slots := [mkBind 5 2 2 1 [3] [2] false] })) (fun t => (t.cluster 0).slots.isEmpty && (t.wg ⟨0, 5, 2⟩).map (fun g => (g.core, g.q0, g.x, g.warps.map (fun (x : Warp) => (x.pc, x.readS 0)))) == some (3, 2, 2, [(0x500, 0x1340), (0x500, 0x1340)])),
    (fun s : State => (s.cgWgs ⟨0, 5, 2⟩).all (fun g => s.room 1 g.need) && nx (.bindStep 0 0) s (fun t => (t.cluster 0).slots.isEmpty && (t.wg ⟨0, 5, 2⟩).map (fun g => (g.core, g.st)) == some (1, .restoring))) (((launched { live with wgs := live.wgs ++ [{ newWg 0 5 (launch 3 1 [] .placing) 2 577 1 with st := .swapped }] } 5 (launch 3 1 [] .placing))).modCluster 0 (fun c => { c with slots := [mkBind 5 2 2 1 [1] [1] true] }))].all id = true := by decide +kernel

/-- Each deadline on its last ns and past it, a save with a running matrix entry, both ends of a save and of a restore. -/
theorem test_witness_Preemption : [
    [(99, some WgSt.draining), (100, some .stopping)].all (fun e => nx (.drainDeadline cg0) (preempted .draining .draining e.1 []) (fun t => (t.wg W0.wg).map (·.st) == e.2)),
    [(PgSt.stopping, 49, 1), (.saving, 50, 0)].all (fun e => nx (.swapDeadline cg0) (preempted .stopping e.1 e.2.1 []) (fun t => t.wgs.length == e.2.2)),
    nx (.saveStart cg0) (preempted .stopping .stopping 0 [entry (.tmma .zero (.inl 3) false 0 2 0) true 5]) (fun t => (t.wg W0.wg).map (fun g => (g.st, g.mq.map (fun (e : MEntry) => (e.running, e.resumed, e.next)))) == some (.saving, [(false, true, 5)]) && (t.coreAt 0).mq.isEmpty),
    (fun s : State => s.swapFits 0 0 ((s.cgWgs cg0).foldl (fun n x => n + x.imageBytes) 0) && nx (.saveComplete cg0 false) s (fun t => (t.wg W0.wg).map (fun g => (g.st, g.img, g.accAt 7 0 5)) == some (.swapped, some { slice := 0, bytes := 524288 + 32768 + 131072 }, 1)) && nx (.saveComplete cg0 true) s (fun t => t.wgs.isEmpty)) (preempted .saving .saving 0 []),
    (fun s : State => !s.swapFits 0 0 256 && nx (.saveComplete cg0 false) s (fun t => (t.wg W0.wg).map (fun g => (g.st, g.img, g.redir)) == some (.swapped, some { slice := 0, bytes := 256, area := true }, some 0) && t.free == s.free + 32))
      ((((preempted .saving .saving 0 []).modWg W0.wg (fun g => { g with spadN := 0, accN := 0 })).modWarp W0 (fun x => { x with v := [(1, [5])] })).modDev 0 (fun d => { d with regs := { d.regs with swapMask := 0 }, ctxs := [(0, [1, 0, 0, 0, 64, 0, 0, 0, 0x20000, 0, 0, 0, 0, 0, 0, 0, 0, 0, 0, 0x40000])] })),
    [(some 1, true), (some 0, false), (none, false)].all (fun e => nx (.restoreComplete cg0 false) ((preempted .restoring .swapped 0 []).modWg W0.wg (fun g => { g with img := e.1.map (fun n => { slice := 0, bytes := 64, bad := n = 1 }) })) (fun t => t.wgs.isEmpty == e.2)),
    nx (.restoreComplete cg0 false) (preempted .restoring .swapped 0 []) (fun t => (t.wg W0.wg).map (fun g => (g.st, g.accAt 7 0 5)) == some (.running, 1)) && nx (.restoreComplete cg0 true) (preempted .restoring .swapped 0 []) (fun t => t.wgs.isEmpty) && (preempted .restoring .swapped 0 []).wgs.all (fun g => g.warps.all (fun y => y.dq.isEmpty && y.ptrap.isNone))].all id = true := by decide +kernel

/-- The last cycle of a period and the first of the next. -/
theorem test_witness_SavedWaits : [
    nx (.saveComplete cg0 false) ((preempted .saving .saving 0 []).modWarp W0 (fun x => { x with pc := 7, park := [.cnt .mat 0] })) (fun t => (t.warp W0).map (fun (y : Warp) => (y.pc, y.behind, y.park)) == some (6, true, [.cnt .mat 0])),
    nx (.restoreComplete cg0 false) ((preempted .restoring .swapped 0 []).modWarp W0 (fun x => { x with pc := 6, behind := true, park := [.cnt .mat 0] })) (fun t => (t.warp W0).map (fun (y : Warp) => (y.pc, y.behind)) == some (7, false))].all id = true := by decide +kernel

theorem test_witness_TokenRefill : [
    nx (.tokenRefill 0) (weighted 1023) (fun t => (t.die 0).refill == 0) && nx (.tokenRefill 0) (weighted 1024) (fun t => (t.die 0).refill == 1 && tabGetD (t.die 0).level 0 0 == 1000 && tabGetD (t.die 0).level 1 0 == 1000)].all id = true := by decide +kernel

/-- A cap below the point in force; each cause; starts with two and with three failures before them. -/
theorem test_witness_ResetsAndStarts : [
    nx (.capChange 0 3) live (fun t => ((t.dev 0).regs.cap, (t.dev 0).regs.force, (t.die 0).evSeq) == (3, 3, 2)),
    nx (.thermalShutdown 0 2) live (fun t => !(t.dev 0).up && ((t.dev 0).regs.fatal, (t.dev 0).regs.fatalDie) == (1, 2)) && nx (.watchdogExpiry 0) live (fun t => (t.dev 0).regs.fatal == 6),
    nx (.start 0 0) (down 3) (fun t => ((t.dev 0).up, (t.dev 0).regs.failed, (t.dev 0).regs.minimal) == (true, 4, true) && (t.dev 0).fw.staged == some (9, 4)),
    nx (.start 0 0) ((down 2).modDev 0 (fun d => { d with fw := { d.fw with signed := false } })) (fun t => ((t.dev 0).up, (t.dev 0).regs.failed, (t.dev 0).regs.reason) == (false, 3, 1)),
    nx (.hostRead 0 0 0x4058 8) ((down 3).modDev 0 (fun d => { d with regs := { d.regs with reason := 5, minimal := true } })) (fun t => (t.dev 0).hread == bytesOf 8 (1 + 5 * 2 ^ 8 + 3 * 2 ^ 16) && !(t.dev 0).hpoison),
    nx (.start 0 1) (down 0) (fun t => !(t.dev 0).up && !(t.dev 0).fw.signed) && nx (.start 0 3) (down 2) (fun t => !(t.dev 0).up && (t.dev 0).fw.signed),
    nx (.startTimeout 0) (down 254) (fun t => !(t.dev 0).up && ((t.dev 0).regs.reason, (t.dev 0).regs.failed) == (6, 255)) && nx (.watchdogExpiry 0) (down 255) (fun t => ((t.dev 0).regs.reason, (t.dev 0).regs.failed) == (7, 255)) && nx (.start 0 8) (down 0) (fun t => !(t.dev 0).up)].all id = true := by decide +kernel

/-- A normal start runs an image whose version is the fused minimum. -/
theorem test_witness_rom_check : ({ staged := some (9, Config.fusedMinimum) } : Firmware).romReason = 0 := by simp [Firmware.romReason, Firmware.flash]

/-- A retired bank's failing word is given by its row, and fails no more. -/
theorem test_witness_BankMended : [
    nx (.spadBankFailure 0 8) ((liveG (fun g => { g with spadErr := [(8, 1), (9, 2)] })).modCore 0 (fun c => { c with banks := [(8, .rebuilt)], stuck := [8] })) (fun t => (t.wg W0.wg).map (·.spadErr) == some [(9, 2)] && tabGet (t.coreAt 0).banks 8 == some .retired)].all id = true := by decide +kernel

/-- Three bad symbols and four; a bank at each stage; a counter that reaches its limit; each class of link, a read and a write. -/
theorem test_witness_MemoryAndLinks : [
    (fun s : State => tagDecode (tagCode (s.block 0x400).tag) == some ((s.block 0x400).tag, false) && !(s.hall 0x400).isPoison && decide ((s.dev 0).regs.scrub ≠ 0)) (withErr 3),
    (match step { live with agenda := [.upset (.device 2)] } with | .next t => !(t.dev 0).up && ((t.dev 0).regs.fatal, (t.dev 0).regs.fatalDie) == (5, 2) | _ => false),
    nx (.patrolScrub 0x400) (withErr 3) (fun t => t.errs.isEmpty && memRead t.hbm 0x10000 4 == 0xFFFFFF - 0xFFFFFF && t.hall 0x400 == .home) && nx (.patrolScrub 0x400) (withErr 4) (fun t => t.hall 0x400 == .poison 4),
    nx (.spadBankFailure 575 543) (live.modCore 575 (fun c => { c with stuck := [543] })) (fun t => tabGet (t.coreAt 575).banks 543 == some .rebuilding) && [BankSt.rebuilding, .rebuilt].all (fun b => nx (.spadBankFailure 575 543) (live.modCore 575 (fun c => { c with banks := [(543, b)], ceBank := [(543, List.replicate 8 0)] })) (fun t => tabGet (t.coreAt 575).banks 543 == some .retired)) && nx (.spadBankFailure 575 543) (live.modCore 575 (fun c => { c with ceBank := [(543, List.replicate 7 0)] })) (fun t => tabGet (t.coreAt 575).banks 543 == none) && nx (.spadRebuildComplete 575 543) (live.modCore 575 (fun c => { c with banks := [(543, .rebuilding)] })) (fun t => tabGet (t.coreAt 575).banks 543 == some .rebuilt),
    [(4094, 1), (4095, 2)].all (fun e => nx (.linkTransferError 0 .device 23) (live.modDev 0 (fun d => { d with regs := { d.regs with devLinks := [(23, (e.1, 7))] } })) (fun t => tabGet (t.dev 0).regs.devLinks 23 == some (e.1 + 1, 8) && (t.die 0).evSeq == e.2)),
    nx (.linkReplayExhausted 0 .d2d 3 none 0) live (fun t => (t.dev 0).regs.retrain == [(.d2d, 3)]) && nx (.linkReplayExhausted 0 .device 23 (some 0) 0) live (fun t => (t.dev 0).regs.linksDown == [23]) && nx (.linkReplayExhausted 0 .hbm 767 none 0x400) live (fun t => t.hall 0x400 == .poison 5) && nx (.linkReplayExhausted 0 .hbm 767 (some 0) 0x400) live (fun t => t.cut == [0x400] && t.hall 0x400 == .home),
    nx (.linkReplayExhausted 0 .hbm 0 (some 1) 0x400) (withAcc live (acc1 (.load false) .load [part1 (.home 0x10004) 0])) (fun t => (t.acc? 1).map (fun (a : Acc) => (a.parts.map (·.done), a.lost.map (·.source))) == some ([true], some 4)),
    [(LinkClass.hbm, true, 0), (.hbm, false, 3), (.d2d, false, 4)].all (fun e => nx (.linkRetrainEnd 0 e.1 3 e.2.1) (live.modDev 0 (fun d => { d with regs := { d.regs with retrain := [(e.1, 3)] } })) (fun t => (t.dev 0).up == e.2.1 && (t.dev 0).regs.fatal == e.2.2))].all id = true := by decide +kernel

/-- An event row, an empty agenda, a slot that decodes and one that does not, a line with a reserved bit. -/
theorem test_witness_StepRunsDecoded : [
    (match step { live with agenda := [.act (.capChange 0 3)] } with | .next t => (t.dev 0).regs.cap == 3 | _ => false) && (match step live with | .next t => t.cycle 0 == 1 | _ => false) && (match step { live with agenda := [.act (.capChange 0 3)], hold := .off } with | .next t => (t.dev 0).regs.cap == 3 && t.hold == .none && t.mover == none | _ => false),
    (match step { paged with agenda := [.act (.pageWalk 0 0 0x10000)], txns := [{ block := 0x40, kind := .rdx, req := 1, acc := 0, started := true, bcast := false, waits := [(2, .inv)], arrived := 0, since := 0 }] } with | .next t => t.txns.map (fun x => (x.block, x.again)) == [(0x40, none), (0x40, some (.act (.pageWalk 0 0 0x10000)))] && (t.coreAt 0).tlb.isEmpty | _ => false),
    (match step { live with agenda := [.second W0 (lineOfSlot 0x101)] } with | .next t => (t.warp W0).map (·.pc) == some 1 | _ => false),
    (fun s : State => (match s.wg W0.wg, s.warp W0 with | some g, some x => !x.checked && (match s.lineOf g 0 x with | some ⟨_, _, l⟩ => !legalSlot l 0 | none => false) | _, _ => false) && (match step s with | .next t => t.wgs.isEmpty | _ => false)) ((State.reset.withFetchWord 96 1).modCore 0 (fun c => c.modQuad 0 (fun q => { q with ibuf := [{ ctx := 0, line := 0, bits := 1 }] }))),
    [(0x101, true, 1), (0x201, false, 0)].all (fun e => (fun s : State => (match s.agenda with | .issue c q :: rest => ({ s with agenda := rest, hold := .none, mover := some (.issue c q) } : State).pick c q == some (0, W0, false) | _ => false) && (match s.wg W0.wg, s.warp W0 with | some g, some x => x.checked && (match s.lineOf g 0 x with | some ⟨_, _, l⟩ => !lineReserved l && (match decodeSlot (slotBits l (slotOf x.pc)) with | .ok _ => e.2.1 | .error _ => !e.2.1) | _ => false) | _, _ => false) && (match step s with | .next t => (t.warp W0).map (·.pc) == (if e.2.1 then some e.2.2 else none) | _ => false)) (issuing e.1)),
    (fun s : State => (match s.wg W0.wg, s.warp W0 with | some g, some x => (match s.lineOf g 0 x with | some ⟨_, _, l⟩ => lineReserved l | _ => false) | _, _ => false) && (match step s with | .next t => t.wgs.isEmpty | _ => false)) ((issuing 1).modCore 0 (fun c => c.modQuad 0 (fun q => { q with ibuf := [{ ctx := 0, line := 0, bits := (lineOfSlot 1 ||| BitVec.ofNat 512 (2 ^ 489)) }] })))].all id = true := by decide +kernel

/-- An instruction that a slot can hold, and a word that decodes. -/
theorem test_witness_DecodeEncode : [
    decide (WellFormed (.bra true (some 3) true 0xFFFFFFFF)) && decodeSlot 0x101#96 == .ok (.nop true)].all id = true := by decide +kernel

/-- A state in canonical form whose step writes memory. -/
theorem test_witness_CanonicalKept : [
    Memory.wf paged.hbm && Memory.wf paged.host && (match step { paged with agenda := [.act (.hostWrite 0 2 0 [1, 2])] } with | .next t => Memory.wf t.hbm && t.hbm != paged.hbm | _ => false)].all id = true := by decide +kernel

end Sys2Proof.Tests
end

section
/-! SUPPORT. Every operation of the model keeps HBM and host memory in their canonical form (R2, log 4). The two writes of the model,
`State.setBytes` and `State.hostStore`, keep it by the laws of `memSet`; every other operation changes no memory but through these two.
There is one lemma for each operation that makes a state, in the order of the model's files, so the proof of each follows the branches
of its definition and cites the lemmas of what it calls: `h.tagRead.touched` says that `(s.tagRead b).touched b w` is canonical. -/

namespace Sys2Proof.Machine

variable {s t : State}

/-! ### Canonical states, outcomes and results -/

/-- Where an outcome is a next state, that state has its memories in canonical form. -/
def NextCanonical (r : Host.Outcome State Fault Refusal) : Prop := ∀ t, r = .next t → Canonical t

@[simp] theorem nextCanonical_next : NextCanonical (.next t) ↔ Canonical t := by simp [NextCanonical]
@[simp] theorem nextCanonical_fault {f : Fault} : NextCanonical (.fault f) := by simp [NextCanonical]

theorem NextCanonical.ite {c : Prop} [Decidable c] {q r : Host.Outcome State Fault Refusal} (hq : NextCanonical q)
    (hr : NextCanonical r) : NextCanonical (if c then q else r) := by
  split
  exacts [hq, hr]

/-- Where a result is a state, that state has its memories in canonical form. -/
def OkCanonical {ε : Type} (r : Except ε State) : Prop := ∀ t, r = .ok t → Canonical t

@[simp] theorem okCanonical_ok {ε : Type} : OkCanonical (.ok t : Except ε State) ↔ Canonical t := by simp [OkCanonical]
@[simp] theorem okCanonical_error {ε : Type} {e : ε} : OkCanonical (.error e) := by simp [OkCanonical]

theorem OkCanonical.ite {ε : Type} {c : Prop} [Decidable c] {q r : Except ε State} (hq : OkCanonical q) (hr : OkCanonical r) :
    OkCanonical (if c then q else r) := by
  split
  exacts [hq, hr]

theorem OkCanonical.map {ε : Type} {r : Except ε State} {f : State → State} (h : OkCanonical r)
    (hf : ∀ u, Canonical u → Canonical (f u)) : OkCanonical (r.map f) := by
  cases r with
  | error e => exact okCanonical_error
  | ok u => exact okCanonical_ok.2 (hf u (okCanonical_ok.1 h))

theorem Canonical.ite {c : Prop} [Decidable c] (hs : Canonical s) (ht : Canonical t) : Canonical (if c then s else t) := by
  split
  exacts [hs, ht]

/-- A change of other fields keeps the canonical form. -/
theorem Canonical.frame (h : Canonical s) (e : (t.hbm, t.host) = (s.hbm, s.host) := by rfl) : Canonical t := by
  obtain ⟨hb, hh⟩ := Prod.mk.inj e
  rwa [Canonical, hb, hh]

/-- A state that an operation returns beside a value. -/
theorem Canonical.of_eq {β : Type} {p : State × β} {x : β} (h : Canonical p.1) (e : p = (t, x)) : Canonical t := by
  rwa [e] at h

theorem Canonical.foldl {α : Type} {f : State → α → State} {l : List α} (h : Canonical s)
    (hf : ∀ u x, Canonical u → Canonical (f u x)) : Canonical (l.foldl f s) := by
  induction l generalizing s with
  | nil => exact h
  | cons x l ih => exact ih (hf s x h)

theorem Canonical.foldl_fst {α β : Type} {f : State × β → α → State × β} {l : List α} {a : State × β} (h : Canonical a.1)
    (hf : ∀ a x, Canonical a.1 → Canonical (f a x).1) : Canonical (l.foldl f a).1 := by
  induction l generalizing a with
  | nil => exact h
  | cons x l ih => exact ih (hf a x h)

/-! ### Parts of the state and event records -/

theorem Canonical.setDev {d v} (h : Canonical s) : Canonical (s.setDev d v) := h
theorem Canonical.modDev {d f} (h : Canonical s) : Canonical (s.modDev d f) := h
theorem Canonical.modDie {a f} (h : Canonical s) : Canonical (s.modDie a f) := h
theorem Canonical.modCluster {c f} (h : Canonical s) : Canonical (s.modCluster c f) := h
theorem Canonical.modCore {c f} (h : Canonical s) : Canonical (s.modCore c f) := h
theorem Canonical.fresh (h : Canonical s) : Canonical (s.fresh).2 := h
theorem Canonical.await {h'} (h : Canonical s) : Canonical (s.await h') := .ite h h
theorem Canonical.soon {m} (h : Canonical s) : Canonical (s.soon m) := h
theorem Canonical.modWg {id f} (h : Canonical s) : Canonical (s.modWg id f) := h
theorem Canonical.modWarp {w f} (h : Canonical s) : Canonical (s.modWarp w f) := h
theorem Canonical.modAcc {id f} (h : Canonical s) : Canonical (Machine.modAcc s id f) := h
theorem Canonical.dropAcc {id} (h : Canonical s) : Canonical (s.dropAcc id) := h
theorem Canonical.modChop {id f} (h : Canonical s) : Canonical (Machine.modChop s id f) := h
theorem Canonical.dropChop {id} (h : Canonical s) : Canonical (s.dropChop id) := h
theorem Canonical.modUpd {id f} (h : Canonical s) : Canonical (Machine.modUpd s id f) := h
theorem Canonical.dropUpd {id} (h : Canonical s) : Canonical (s.dropUpd id) := h
theorem Canonical.modCopy {id f} (h : Canonical s) : Canonical (Machine.modCopy s id f) := h
theorem Canonical.dropCopy {id} (h : Canonical s) : Canonical (s.dropCopy id) := h
theorem Canonical.modConv {id f} (h : Canonical s) : Canonical (Machine.modConv s id f) := h
theorem Canonical.dropConv {id} (h : Canonical s) : Canonical (s.dropConv id) := h
theorem Canonical.opBegin {w k id} (h : Canonical s) : Canonical (s.opBegin w k id) := h
theorem Canonical.opEnd {w k id} (h : Canonical s) : Canonical (s.opEnd w k id) := h
theorem Canonical.msi {d v} (h : Canonical s) : Canonical (s.msi d v) := h
theorem Canonical.hostStore {d a n v} (h : Canonical s) : Canonical (s.hostStore d a n v) := ⟨h.1, wf_memWrite _ _ _ _ h.2⟩

theorem Canonical.raiseEvent {d q die named ty pay} (h : Canonical s) : Canonical (s.raiseEvent d q die named ty pay) :=
  .ite h.modDie (.ite h.modDie.modDev ((h.modDie.foldl fun _ _ hu => hu.hostStore).hostStore.modDev))

/-! ### Home slices -/

theorem Canonical.setBlock {b v} (h : Canonical s) : Canonical (s.setBlock b v) := h
theorem Canonical.setErr {b e} (h : Canonical s) : Canonical (s.setErr b e) := h
theorem Canonical.clearErr {b} (h : Canonical s) : Canonical (s.clearErr b) := h

theorem Canonical.setHall {b h'} (h : Canonical s) : Canonical (s.setHall b h') := by
  unfold State.setHall
  refine Canonical.setBlock ?_
  split
  exacts [h, h.setErr]

theorem Canonical.setBytes {b x mask} (h : Canonical s) : Canonical (s.setBytes b x mask) := ⟨wf_storeMasked _ _ _ _ h.1, h.2⟩

theorem Canonical.l2Drop {agent b} (h : Canonical s) : Canonical (s.l2Drop agent b) := by
  unfold State.l2Drop
  split <;> exact h

theorem Canonical.setRep {agent b r} (h : Canonical s) : Canonical (s.setRep agent b r) := h
theorem Canonical.dropRep {agent b} (h : Canonical s) : Canonical (s.dropRep agent b) := h.frame.l2Drop

theorem Canonical.touch {b} (h : Canonical s) : Canonical (s.touch b) := by
  unfold State.touch
  split
  exacts [.ite h.setHall h, .ite h.setHall h, .ite h.setHall h, .ite h.setHall h, h]

theorem Canonical.debit {agent ctx n} (h : Canonical s) : Canonical (s.debit agent ctx n) := h

theorem Canonical.evictLine {key ctx} (h : Canonical s) : Canonical (s.evictLine key ctx) := by
  unfold State.evictLine
  split
  · exact h
  · refine Canonical.foldl h.frame fun u b hu => ?_
    split
    · exact .ite hu.clearErr.debit hu
    · split
      · exact .ite hu.setRep hu.dropRep
      · exact hu

theorem Canonical.fillSlice {agent b ctx cls} (h : Canonical s) : Canonical (s.fillSlice agent b ctx cls).1 := by
  unfold State.fillSlice
  dsimp only
  split
  · exact h
  · split
    · exact h
    · split
      exacts [h.evictLine, h]

theorem Canonical.fillL2 {b ctx cls} (h : Canonical s) : Canonical (s.fillL2 b ctx cls) := h.fillSlice

theorem Canonical.useL2 {agent b write} (h : Canonical s) : Canonical (s.useL2 agent b write) := by
  unfold State.useL2
  split <;> exact h

theorem Canonical.memError {b w reason} (h : Canonical s) : Canonical (s.memError b w reason) := h.raiseEvent
theorem Canonical.touched {b w} (h : Canonical s) : Canonical (s.touched b w) := .ite h.frame.raiseEvent h
theorem Canonical.corrected {b} (h : Canonical s) : Canonical (s.corrected b) := .ite h.modDev.raiseEvent h.modDev

theorem Canonical.tagLost {b} (h : Canonical s) : Canonical (s.tagLost b) := by
  unfold State.tagLost
  dsimp only
  split
  · exact (h.foldl fun _ _ hu => hu.dropRep).setHall.raiseEvent
  · exact (h.foldl fun _ _ hu => hu.dropRep).setHall.foldl fun _ _ hu => hu.raiseEvent

theorem Canonical.tagRead {b} (h : Canonical s) : Canonical (s.tagRead b) := by
  unfold State.tagRead
  split
  · exact h
  · split
    · exact h
    · dsimp only
      split
      exacts [h.tagLost, .ite h (.ite h.setBlock.setErr.corrected h.setBlock.setErr)]

theorem Canonical.relabel {b x h'} (h : Canonical s) : Canonical (s.relabel b x h') := .ite h h.setBytes.setBlock.setErr

theorem Canonical.readHome {b w cls} (h : Canonical s) : Canonical (s.readHome b w cls).1 := by
  unfold State.readHome
  dsimp only
  split
  · exact h.tagRead.touched
  · split
    · exact h.tagRead.useL2
    · split
      · exact h.tagRead
      · split
        exacts [h.tagRead.debit.setHall, (Canonical.ite h.tagRead.debit.corrected h.tagRead.debit).relabel.fillL2]

theorem Canonical.fire {b mask} (h : Canonical s) : Canonical (s.fire b mask) := by
  unfold State.fire
  grind [Canonical, Canonical.modDev, Canonical.modDie, Canonical.fresh, Canonical.foldl]

theorem Canonical.mergeHome {b x mask hdr w restore} (h : Canonical s) : Canonical (s.mergeHome b x mask hdr w restore) := by
  unfold State.mergeHome
  dsimp only
  split
  · exact .ite ((Canonical.ite h.tagRead.touched.useL2 h.tagRead.touched.debit).clearErr.setBytes.setBlock.fire) h.tagRead.touched
  · split
    · exact (Canonical.ite h.tagRead.useL2 h.tagRead.debit).clearErr.setBytes.setBlock.fire
    · split
      · exact h.tagRead.debit.setHall.memError
      · exact (Canonical.ite h.tagRead.debit.corrected h.tagRead.debit).setBytes.clearErr.setBytes.setBlock.fire

theorem Canonical.takeDirty {o b pay} (h : Canonical s) : Canonical (s.takeDirty o b pay) := by
  unfold State.takeDirty
  split
  exacts [.ite ((Canonical.ite h.useL2 h.debit).clearErr.setBytes.setBlock.fire) h, h]

theorem Canonical.answer {b a pay x} (h : Canonical s) : Canonical (s.answer b a pay x) := by
  unfold State.answer
  split
  · exact h.dropRep
  · exact h.takeDirty.dropRep
  · dsimp only
    split
    exacts [h.takeDirty.setRep, h.takeDirty]
  · split
    exacts [h.setRep, h]

theorem Canonical.awaitTurn {b k agent} (h : Canonical s) : Canonical (s.awaitTurn b k agent) := h.await

theorem Canonical.clearFor {b k w} (h : Canonical s) : Canonical (s.clearFor b k w) := by
  unfold State.clearFor
  split
  · exact h.awaitTurn
  · extract_lets s0
    split
    extract_lets s1 s2
    have h1 : Canonical s1 := h.tagRead.touch.foldl fun _ _ hu => hu.answer
    have h2 : Canonical s2 := .ite (h1.foldl fun _ _ hu => hu.answer) h1
    exact h2.setHall

theorem Canonical.hrdNow {b w} (h : Canonical s) : Canonical (s.hrdNow b w).1 := h.clearFor.readHome
theorem Canonical.hwrNow {b x mask hdr w restore} (h : Canonical s) : Canonical (s.hwrNow b x mask hdr w restore) := h.clearFor.mergeHome
theorem Canonical.orWait (h : Canonical s) (h1 : Canonical t) : Canonical (s.orWait t) := .ite h h1
theorem Canonical.writeHome {key bytes w} (h : Canonical s) : Canonical (s.writeHome key bytes w) := .ite h (h.foldl fun _ _ hu => hu.hwrNow)

theorem Canonical.readHomeBytes {key n w} (h : Canonical s) : Canonical (s.readHomeBytes key n w).1 := by
  unfold State.readHomeBytes
  grind [Canonical.hrdNow, Canonical.foldl_fst]

theorem Canonical.chain {t'} (h : Canonical s) : Canonical (s.chain t') := .ite h (.ite h h.modDie)
theorem Canonical.forget {m} (h : Canonical s) : Canonical (s.forget m) := h

theorem Canonical.queueMove {b req k m} (h : Canonical s) : Canonical (s.queueMove b req k m) := by
  unfold State.queueMove
  dsimp only
  exact .ite h h.forget.fresh.chain

theorem Canonical.homeStep {b k r acc} (h : Canonical s) : Canonical (s.homeStep b k r acc).1 := by
  unfold State.homeStep
  grind [Canonical, Canonical.chain, Canonical.modDie, Canonical.touch, Canonical.tagRead, Canonical.setHall]

theorem Canonical.leaveHome {b k r acc} (h : Canonical s) : Canonical (s.leaveHome b k r acc) := h

/-! ### Translation and walks -/

theorem Canonical.walkFrom {read : EntryRead} {dev va steps table} (h : Canonical s) (hr : ∀ u key, Canonical u → Canonical (read u key).1) :
    Canonical (Machine.walkFrom read dev va steps table s).1 := by
  induction steps generalizing table s with
  | nil => exact h
  | cons step steps ih =>
    unfold Machine.walkFrom
    have := hr s
    grind

theorem Canonical.entryRead {w key} (h : Canonical s) : Canonical (State.entryRead w s key).1 := by
  unfold State.entryRead
  grind [Canonical.hrdNow]

theorem Canonical.walkNow {agent dev ctx va} (h : Canonical s) : Canonical (s.walkNow agent dev ctx va).1 := by
  unfold State.walkNow
  split
  · exact h
  · exact h.walkFrom fun _ _ hu => hu.entryRead

theorem Canonical.walked {agent dev ctx va} (h : Canonical s) : Canonical (s.walked agent dev ctx va) := h.walkNow

theorem Canonical.asWalk {α} {core ctx va : Nat} {f : State → State × α} (h : Canonical s)
    (hf : ∀ u, Canonical u → Canonical (f u).1) : Canonical (s.asWalk core ctx va f).1 := by
  have hu := hf { s with mover := some (.act (.pageWalk core ctx va)) } h.frame
  exact .ite hu hu.frame.forget

theorem Canonical.pageWalk {core ctx va} (h : Canonical s) : Canonical (s.pageWalk core ctx va) := by
  unfold State.pageWalk
  grind [Canonical.asWalk, Canonical.walkNow, Canonical.modCore, Canonical.modCluster]

theorem Canonical.warmOne {core ctx va} (h : Canonical s) : Canonical (s.warmOne core ctx va) := by
  unfold State.warmOne
  split
  · exact h
  · split
    exacts [.ite h h.modCore, h.pageWalk]

theorem Canonical.warm {core ctx vas} (h : Canonical s) : Canonical (s.warm core ctx vas) := h.foldl fun _ _ hu => hu.warmOne

/-! ### L1 caches and write-backs -/

theorem Canonical.setL1 {core b x} (h : Canonical s) : Canonical (s.setL1 core b x) := h
theorem Canonical.dropL1 {core b} (h : Canonical s) : Canonical (s.dropL1 core b) := h
theorem Canonical.writeL1 {core b x mask ctx} (h : Canonical s) : Canonical (s.writeL1 core b x mask ctx) := h

theorem Canonical.startWb {core b} (h : Canonical s) : Canonical (s.startWb core b) := by
  unfold State.startWb
  split
  · exact h
  · split <;> exact h

theorem Canonical.startWbs {core sel} (h : Canonical s) : Canonical (s.startWbs core sel) := h.foldl fun _ _ hu => hu.startWb
theorem Canonical.dropClean {core sel} (h : Canonical s) : Canonical (s.dropClean core sel) := h
theorem Canonical.fillBlock {core b x h'} (h : Canonical s) : Canonical (s.fillBlock core b x h') := h
theorem Canonical.settleEpochs {core} (h : Canonical s) : Canonical (s.settleEpochs core) := h

theorem Canonical.mergeRep {agent w} (h : Canonical s) : Canonical (s.mergeRep agent w) := by
  unfold State.mergeRep
  split
  exacts [h.setRep, h]

theorem Canonical.mergeLost {w who src} (h : Canonical s) : Canonical (s.mergeLost w who src) := .ite h.mergeHome (.ite h.memError h.touched)
theorem Canonical.fillReplica {agent b r cls} (h : Canonical s) : Canonical (s.fillReplica agent b r cls) := .ite h.useL2.setRep h.fillSlice.setRep

theorem Canonical.settleRep {agent b} (h : Canonical s) : Canonical (s.settleRep agent b) := by
  unfold State.settleRep
  split
  exacts [.ite h.dropRep h, h]

theorem Canonical.ownNow {agent w} (h : Canonical s) : Canonical (s.ownNow agent w) := by
  unfold State.ownNow
  dsimp only
  split
  · split
    · exact h.mergeRep
    · split
      · exact h.clearFor.dropRep.mergeLost
      · split
        exacts [h.clearFor.setRep.mergeRep, h.clearFor]
  · split
    · next e => exact (h.clearFor.readHome.of_eq e).mergeLost
    · next e => exact (h.clearFor.readHome.of_eq e).fillReplica.mergeRep

theorem Canonical.wbkDone {agent b drop} (_ : Canonical s) (h1 : Canonical t) : Canonical (s.wbkDone t agent b drop) := by
  unfold State.wbkDone
  dsimp only
  split
  · exact (Canonical.ite h1.takeDirty h1).dropRep
  · split
    exacts [(Canonical.ite h1.takeDirty h1).setRep.settleRep, .ite h1.takeDirty h1]

theorem Canonical.wbkNow {agent b} (h : Canonical s) : Canonical (s.wbkNow agent b) :=
  .ite h.awaitTurn (h.tagRead.touch.wbkDone h.tagRead.touch.setHall)

theorem Canonical.flushNow {core} (h : Canonical s) : Canonical (s.flushNow core) := by
  unfold State.flushNow
  extract_lets agent s1 mine s2 s3
  have h2 : Canonical s2 := h.startWbs.frame
  have h3 : Canonical s3 := h2.foldl fun _ _ hu => .ite hu.hwrNow hu.ownNow
  exact .ite h.await (h3.foldl fun _ _ hu => hu.wbkNow).settleEpochs

/-! ### Retirement and kills -/

theorem Canonical.setLaunch {d e l} (h : Canonical s) : Canonical (s.setLaunch d e l) := h
theorem Canonical.repoint {d} (h : Canonical s) : Canonical (s.repoint d) := h
theorem Canonical.dropTickets {d e} (h : Canonical s) : Canonical (s.dropTickets d e) := h
theorem Canonical.dropLaunch {d e} (h : Canonical s) : Canonical (s.dropLaunch d e) := h
theorem Canonical.setPg {g st} (h : Canonical s) : Canonical (s.setPg g st) := h
theorem Canonical.settlePre {d} (h : Canonical s) : Canonical (s.settlePre d) := h.modDev.foldl fun _ _ hu => hu.raiseEvent
theorem Canonical.completion {d l die level index} (h : Canonical s) : Canonical (s.completion d l die level index) := .ite h.raiseEvent h

theorem Canonical.completionWord {d l} (h : Canonical s) : Canonical (s.completionWord d l) := by
  unfold State.completionWord
  dsimp only
  split
  · exact h.walked.raiseEvent
  · split
    · split
      · exact h.walked.raiseEvent
      · split
        · exact h.walked.raiseEvent
        · split
          exacts [h.walked.raiseEvent, h.walked.writeHome]
    · exact .ite h.walked.raiseEvent h.walked.hostStore
    · exact h.walked.raiseEvent

theorem Canonical.freeSlots {g sel} (h : Canonical s) : Canonical (s.freeSlots g sel) := h

theorem Canonical.cgDone {d e cg die} (h : Canonical s) : Canonical (s.cgDone d e cg die) := by
  unfold State.cgDone
  split
  · exact h
  · exact .ite h.completion.setLaunch (.ite h.completion.completion.setLaunch h.completion.completion.completionWord.completion.dropLaunch)

theorem Canonical.endLaunch {d e} (h : Canonical s) : Canonical (s.endLaunch d e) := by
  unfold State.endLaunch
  split
  exacts [.ite h.dropLaunch h, h]

theorem Canonical.freeCg {c} (h : Canonical s) : Canonical (s.freeCg c) := h

theorem Canonical.retire {w} (h : Canonical s) : Canonical (s.retire w) := by
  unfold State.retire
  split
  · dsimp only
    split
    · exact h
    · split
      · exact h.freeSlots.modWarp
      · split
        · exact h.freeSlots.modWarp.flushNow.completion.modWg
        · split
          · split
            · exact h.freeSlots.modWarp.flushNow.completion.modWg.completion.setLaunch
            · exact h.freeSlots.modWarp.flushNow.completion.modWg.completion
          · refine Canonical.settlePre (Canonical.setPg (Canonical.endLaunch (Canonical.cgDone (Canonical.freeCg ?_))))
            split
            · exact h.freeSlots.modWarp.flushNow.completion.modWg.completion.setLaunch
            · exact h.freeSlots.modWarp.flushNow.completion.modWg.completion
  · exact h

theorem Canonical.freeImage {g} (h : Canonical s) : Canonical (s.freeImage g) := by
  unfold State.freeImage
  split
  exacts [.ite h h.modCluster, h]

theorem Canonical.dropWork {sel} (h : Canonical s) : Canonical (s.dropWork sel) := h
theorem Canonical.recount {d ctx keys} (h : Canonical s) : Canonical (s.recount d ctx keys) := h.foldl fun _ _ hu => hu.hwrNow

theorem Canonical.kill {d ctx all on cause} (h : Canonical s) : Canonical (s.kill d ctx all on cause) := by
  unfold State.kill
  grind [Canonical, Canonical.dropWork, Canonical.freeImage, Canonical.modDev, Canonical.recount, Canonical.repoint, Canonical.endLaunch,
    Canonical.dropTickets, Canonical.raiseEvent, Canonical.settlePre, Canonical.setPg, Canonical.foldl]

/-! ### Swap areas and panels -/

theorem Canonical.areaWalks {k ctx n} (h : Canonical s) : Canonical (s.areaWalks k ctx n) := h.foldl fun _ _ hu => hu.walked

theorem Canonical.areaWrite {b x w} (h : Canonical s) : Canonical (s.areaWrite b x w).1 := by
  unfold State.areaWrite
  dsimp only
  split
  exacts [h.clearFor.readHome, h.clearFor.mergeHome]

theorem Canonical.spill {k ctx n} (h : Canonical s) : Canonical (s.spill k ctx n) := by
  unfold State.spill
  grind [Canonical, Canonical.areaWalks, Canonical.kill, Canonical.areaWrite, Canonical.foldl_fst]

theorem Canonical.unspill {k ctx n} (h : Canonical s) : Canonical (s.unspill k ctx n) := by
  unfold State.unspill
  grind [Canonical.areaWalks, Canonical.kill, Canonical.hrdNow, Canonical.foldl_fst]

theorem Canonical.modPanel {g off f} (h : Canonical s) : Canonical (s.modPanel g off f) := h

theorem Canonical.evictPanels {es total} (h : Canonical s) : Canonical (Machine.evictPanels es total s) := by
  induction es generalizing total s with
  | nil => exact h
  | cons e es ih =>
    unfold Machine.evictPanels
    grind [Canonical.modPanel]

theorem Canonical.placePanel {core g off} (h : Canonical s) : Canonical (s.placePanel core g off) := h.modPanel.evictPanels

theorem Canonical.backPanel {core g off} (h : Canonical s) : Canonical (s.backPanel core g off) := by
  unfold State.backPanel
  split
  · exact h
  · split
    exacts [h, .ite h.placePanel.modPanel.modPanel h.placePanel.modPanel.spill]

theorem Canonical.usePanel {core g off} (h : Canonical s) : Canonical (s.usePanel core g off) := by
  unfold State.usePanel
  split
  exacts [h, .ite h (.ite h.kill ((Canonical.ite h.unspill h).placePanel))]

/-! ### Traps and the issue of an instruction -/

theorem Canonical.doubleFault {w first second} (h : Canonical s) : Canonical (s.doubleFault w first second) := by
  unfold State.doubleFault
  split
  exacts [h, .ite h.modWg.modWarp.raiseEvent h.modWg.modWarp.kill]

theorem Canonical.enterTrap {w t'} (h : Canonical s) : Canonical (s.enterTrap w t') := by
  unfold State.enterTrap
  split
  · dsimp only
    split
    exacts [h.modWg.modWarp.doubleFault, h.modWg.modWarp]
  · exact h

theorem Canonical.pump {id} (h : Canonical s) : Canonical (s.pump id) := by
  unfold State.pump
  split
  · exact h
  · split
    · exact h
    · split
      · exact h
      · dsimp only
        split
        · exact h
        · split
          · exact h.modWarp.enterTrap
          · split
            exacts [h.modWarp.enterTrap, h]

theorem Canonical.defer {w t'} (h : Canonical s) : Canonical (s.defer w t') := h

theorem Canonical.takeTrap {w t'} (h : Canonical s) : Canonical (s.takeTrap w t') := by
  unfold State.takeTrap
  split
  · exact .ite h (.ite h.defer (.ite h.doubleFault (.ite h.modWg.modWarp.doubleFault (.ite h.modWg.pump h.modWarp))))
  · exact h

theorem Canonical.finishLost {w op words} (h : Canonical s) : Canonical (s.finishLost w op words) := by
  unfold State.finishLost
  dsimp only
  split
  · refine Canonical.opEnd ?_
    split
    exacts [h.dropAcc, h.dropAcc.modWarp]
  · split
    · refine Canonical.opEnd ?_
      split
      exacts [h.dropUpd, h.dropUpd.modWarp]
    · exact h

theorem Canonical.tret {w sw} (h : Canonical s) : Canonical (s.tret w sw) := by
  unfold State.tret
  grind [Canonical.finishLost, Canonical.modWg, Canonical.modWarp, Canonical.pump]

theorem Canonical.issue {m d hold body pre} (h : Canonical s)
    (hb : ∀ c u, Canonical u → OkCanonical (body c u)) (hp : ∀ c u, Canonical u → Canonical (pre c u)) :
    NextCanonical (s.issue m d hold body pre) := by
  unfold State.issue
  cases s.current with
  | none => exact nextCanonical_fault
  | some c =>
    have ok := hb c ((pre c s).modWarp c.w fun x => x.unmap d.lasts) (hp c s h).modWarp
    dsimp only
    repeat' split
    all_goals grind [Canonical.takeTrap, Canonical.modWarp, nextCanonical_next, okCanonical_ok]

theorem Canonical.issue_of_body {m d hold body} (h : Canonical s) (hb : ∀ c u, Canonical u → OkCanonical (body c u)) :
    NextCanonical (s.issue m d hold body) :=
  h.issue hb fun _ _ hu => hu

theorem Canonical.issueWarp {m d body} (h : Canonical s) : NextCanonical (s.issueWarp m d body) :=
  h.issue (fun _ _ hu => okCanonical_ok.2 hu.modWarp) (fun _ _ hu => hu)

/-! ### Control flow -/

theorem Canonical.jumpTo {c n} (h : Canonical s) : OkCanonical (s.jumpTo c n) := by
  unfold State.jumpTo
  split
  exacts [okCanonical_error, okCanonical_ok.2 h.modWarp]

theorem Canonical.execBra {sw cond inv off} (h : Canonical s) : NextCanonical (Machine.execBra sw cond inv off s) :=
  h.issue_of_body fun _ _ hu => .ite hu.jumpTo (okCanonical_ok.2 hu.modWarp)

theorem Canonical.indexJump {sw a} (h : Canonical s) : NextCanonical (Machine.indexJump sw a s) := h.issue_of_body fun _ _ hu => hu.jumpTo
theorem Canonical.execBrx {sw a} (h : Canonical s) : NextCanonical (Machine.execBrx sw a s) := h.indexJump
theorem Canonical.execRet {sw a} (h : Canonical s) : NextCanonical (Machine.execRet sw a s) := h.indexJump

theorem Canonical.execCall {sw d off} (h : Canonical s) : NextCanonical (Machine.execCall sw d off s) :=
  h.issue_of_body fun _ _ hu => hu.jumpTo.map fun _ hv => hv.modWarp

theorem Canonical.execBrd {sw q inv rejoin off} (h : Canonical s) : NextCanonical (Machine.execBrd sw q inv rejoin off s) := by
  refine h.issue_of_body fun c u hu => ?_
  grind [Canonical.modWarp, okCanonical_ok, okCanonical_error]

theorem Canonical.execJoin {sw} (h : Canonical s) : NextCanonical (Machine.execJoin sw s) :=
  h.issue_of_body fun _ _ hu => .ite okCanonical_error (okCanonical_ok.2 hu.modWarp)

theorem Canonical.execExit {sw} (h : Canonical s) : NextCanonical (Machine.execExit sw s) :=
  h.issue_of_body fun _ _ hu => .ite okCanonical_error (okCanonical_ok.2 hu.modWarp)

theorem Canonical.execYield {sw} (h : Canonical s) : NextCanonical (Machine.execYield sw s) :=
  h.issue_of_body fun _ _ hu => okCanonical_ok.2 hu.modWarp

/-! ### System instructions -/

theorem Canonical.execTrap {sw code} (h : Canonical s) : NextCanonical (Machine.execTrap sw code s) := h.issue_of_body fun _ _ _ => okCanonical_error
theorem Canonical.execBkpt {sw code} (h : Canonical s) : NextCanonical (Machine.execBkpt sw code s) := h.issue_of_body fun _ _ _ => okCanonical_error

theorem Canonical.execTret {sw} (h : Canonical s) : NextCanonical (Machine.execTret sw s) :=
  h.issue_of_body fun _ _ hu => .ite okCanonical_error (.ite okCanonical_error (okCanonical_ok.2 hu.tret))

theorem Canonical.execSysrd {sw d reg idx} (h : Canonical s) : NextCanonical (Machine.execSysrd sw d reg idx s) := by
  unfold Machine.execSysrd
  dsimp only
  exact h.issue_of_body fun _ _ hu => .ite okCanonical_error (okCanonical_ok.2 hu.modWarp)

theorem Canonical.mboxWrite {d i v} (h : Canonical s) : Canonical (s.mboxWrite d i v) := .ite h (.ite h.modDev.msi h.modDev)

theorem Canonical.execSyswr {sw a reg idx} (h : Canonical s) : NextCanonical (Machine.execSyswr sw a reg idx s) := by
  unfold Machine.execSyswr
  dsimp only
  refine h.issue_of_body fun _ _ hu => ?_
  split
  · exact okCanonical_error
  · refine okCanonical_ok.2 ?_
    split
    exacts [hu.modWarp, hu.modWarp, hu.modWarp, hu.modWarp, hu.modWarp, hu.modWarp, hu.mboxWrite, hu]

/-! ### Accesses -/

theorem Canonical.spadFix {id off n} (h : Canonical s) : Canonical (s.spadFix id off n) := by
  unfold State.spadFix
  split
  · exact h
  · split
    exacts [h, .ite h.modWg.modCore h.modWg]

theorem Canonical.askDrain {core e} (h : Canonical s) : Canonical (s.askDrain core e) := by
  unfold State.askDrain
  split <;> exact h

theorem Canonical.closeEpoch {core} (h : Canonical s) : Canonical (s.closeEpoch core).1 := h

theorem Canonical.relStep {w core id x} (h : Canonical s) : Canonical (s.relStep w core id x).1 := by
  unfold State.relStep
  grind [Canonical.askDrain, Canonical.closeEpoch, Canonical.startWbs, Canonical.settleEpochs]

theorem Canonical.acqStep {core x} (h : Canonical s) : Canonical (s.acqStep core x).1 := by
  unfold State.acqStep
  grind [Canonical, Canonical.fresh, Canonical.startWbs, Canonical.dropClean, Canonical.foldl_fst]

theorem Canonical.advanceAcc {a} (h : Canonical s) : Canonical (s.advanceAcc a) := by
  unfold State.advanceAcc
  dsimp only
  split
  · exact .ite h h.startWbs.modAcc
  · exact .ite h ((Canonical.ite h.dropClean h).modAcc)
  · exact .ite h h.acqStep.modAcc
  · exact h.relStep.modAcc

theorem Canonical.setParts {id f} (h : Canonical s) : Canonical (s.setParts id f) := h
theorem Canonical.loseParts {id sel source reason} (h : Canonical s) : Canonical (s.loseParts id sel source reason) := h
theorem Canonical.faultLanes {id ls t'} (h : Canonical s) : Canonical (s.faultLanes id ls t') := h
theorem Canonical.dropLine {core key} (h : Canonical s) : Canonical (s.dropLine core key) := h

theorem Canonical.lineClean {core key} (h : Canonical s) : Canonical (s.lineClean core key).1 := by
  unfold State.lineClean
  dsimp only
  split
  exacts [h.startWbs, h]

theorem Canonical.engOrder {w id key} (h : Canonical s) : Canonical (s.engOrder w id key).1 := by
  unfold State.engOrder
  split
  exacts [h, h.lineClean]

theorem Canonical.performOn {a : Acc} {sel rd} {wr : State → Part → Nat → State} (h : Canonical s)
    (hw : ∀ u p v, Canonical u → Canonical (wr u p v)) :
    Canonical (a.performOn sel rd wr s).1 :=
  h.foldl_fst (a := (s, [])) fun u p hu => by grind

theorem Canonical.performPart {id i} (h : Canonical s) : Canonical (s.performPart id i) := by
  unfold State.performPart
  split
  · exact h
  · split
    · exact h
    · split
      · exact h
      · split
        · exact h.setParts
        · extract_lets sel at_ reads s0
          split
          · exact h.setParts
          · have h0 : Canonical s0 := by
              unfold s0
              split
              · exact h.foldl fun _ _ hu => hu.spadFix
              · exact h
            dsimp only
            split
            · exact h.modWg.modAcc
            · exact h.modWg.modAcc
            · refine Canonical.modAcc (Canonical.modWg ?_)
              split
              · exact h0.loseParts
              · exact h0
        · dsimp only
          split
          · exact h
          · exact (Canonical.performOn h fun _ _ _ hu => hu.hostStore).modAcc
        · dsimp only
          repeat' split
          all_goals exact h
        · exact h

/-! ### Memory instructions -/

theorem Canonical.startAccess {c q dst lanes parts refused addr b cc} (h : Canonical s) :
    Canonical (s.startAccess c q dst lanes parts refused addr b cc) := by
  unfold State.startAccess
  grind [Canonical, Canonical.fresh, Canonical.opBegin, Canonical.modWarp, Canonical.faultLanes]

theorem Canonical.warmFor {c lanes addr} (h : Canonical s) : Canonical (s.warmFor c lanes addr) := h.warm
theorem Canonical.warmReq {c q lanes addr} (h : Canonical s) : Canonical (s.warmReq c q lanes addr) := .ite h.warmFor h

theorem Canonical.accessIssue {sw once deps q adr dst val b cc} (h : Canonical s) : NextCanonical (s.accessIssue sw once deps q adr dst val b cc) := by
  unfold State.accessIssue
  refine h.issue (fun _ _ hu => ?_) fun _ _ hu => hu.warmReq
  dsimp only
  split
  exacts [okCanonical_error, okCanonical_ok.2 hu.startAccess]

theorem Canonical.loadOf {o kind block} (h : Canonical s) : NextCanonical (Machine.loadOf o kind block s) := h.accessIssue
theorem Canonical.storeOf {o kind block} (h : Canonical s) : NextCanonical (Machine.storeOf o kind block s) := h.accessIssue
theorem Canonical.execLd {o} (h : Canonical s) : NextCanonical (Machine.execLd o s) := h.loadOf
theorem Canonical.execSt {o} (h : Canonical s) : NextCanonical (Machine.execSt o s) := h.storeOf
theorem Canonical.execLds {o} (h : Canonical s) : NextCanonical (Machine.execLds o s) := h.loadOf
theorem Canonical.execSts {o} (h : Canonical s) : NextCanonical (Machine.execSts o s) := h.storeOf
theorem Canonical.execLdhdr {o} (h : Canonical s) : NextCanonical (Machine.execLdhdr o s) := h.loadOf
theorem Canonical.execSthdr {o} (h : Canonical s) : NextCanonical (Machine.execSthdr o s) := h.storeOf
theorem Canonical.atomOf {o space cas ret} (h : Canonical s) : NextCanonical (Machine.atomOf o space cas ret s) := h.accessIssue
theorem Canonical.execAtom {o} (h : Canonical s) : NextCanonical (Machine.execAtom o s) := h.atomOf
theorem Canonical.execAtoms {o} (h : Canonical s) : NextCanonical (Machine.execAtoms o s) := h.atomOf
theorem Canonical.execCas {o} (h : Canonical s) : NextCanonical (Machine.execCas o s) := h.atomOf
theorem Canonical.execCass {o} (h : Canonical s) : NextCanonical (Machine.execCass o s) := h.atomOf
theorem Canonical.execRed {o} (h : Canonical s) : NextCanonical (Machine.execRed o s) := h.atomOf

theorem Canonical.execFence {sw o sc} (h : Canonical s) : NextCanonical (Machine.execFence sw o sc s) :=
  h.issue_of_body fun _ _ hu => okCanonical_ok.2 hu.modWarp

theorem Canonical.fenceNext {core recs o sc x} (h : Canonical s) : Canonical (s.fenceNext core recs o sc x).1 := by
  unfold State.fenceNext
  grind [Canonical.startWbs, Canonical.settleEpochs, Canonical.dropClean, Canonical.acqStep]

theorem Canonical.fenceMove {w} (h : Canonical s) : Canonical (s.fenceMove w) := by
  unfold State.fenceMove
  split
  · split
    · split
      · exact h
      · split
        next e => exact (h.fenceNext.of_eq e).modWarp
    · exact h
  · exact h

theorem Canonical.rdsNow {agent b w cls} (h : Canonical s) : Canonical (s.rdsNow agent b w cls) := by
  unfold State.rdsNow
  split
  · exact h
  · dsimp only
    split
    · exact h.clearFor.fillReplica
    · split
      · next e => exact h.clearFor.readHome.of_eq e
      · next e => exact (h.clearFor.readHome.of_eq e).fillReplica

theorem Canonical.prefetch {c l2 cls b} (h : Canonical s) : Canonical (s.prefetch c l2 cls b) := by
  unfold State.prefetch
  dsimp only
  split
  · exact h
  · split
    · split
      · next e => exact h.clearFor.readHome.of_eq e
      · next e => exact .ite (h.clearFor.readHome.of_eq e) ((h.clearFor.readHome.of_eq e).fillBlock)
    · split
      exacts [h.rdsNow.fillBlock.settleRep, h.rdsNow]

theorem Canonical.execPref {sw hint l2 adr} (h : Canonical s) : NextCanonical (Machine.execPref sw hint l2 adr s) := by
  unfold Machine.execPref
  grind [Canonical.issue, Canonical.prefetch, Canonical.warmFor, Canonical.foldl, okCanonical_ok]

theorem Canonical.startWait {c kind rel} (h : Canonical s) : Canonical (s.startWait c kind rel) := h

theorem Canonical.execCctl {sw op adr} (h : Canonical s) : NextCanonical (Machine.execCctl sw op adr s) := by
  unfold Machine.execCctl
  grind [Canonical.issue, Canonical.modCore, Canonical.startWait, Canonical.warmReq, okCanonical_ok, okCanonical_error]

theorem Canonical.setResi {c cls line} (h : Canonical s) : Canonical (s.setResi c cls line).1 := by
  unfold State.setResi
  dsimp only
  split
  · exact Canonical.ite (h.foldl fun _ _ hu => hu.clearFor.readHome) h
  · exact .ite (h.foldl fun _ _ hu => hu.clearFor.readHome) h

theorem Canonical.execResid {sw cls adr len} (h : Canonical s) : NextCanonical (Machine.execResid sw cls adr len s) := by
  unfold Machine.execResid
  refine h.issue (fun _ _ hu => ?_) fun _ _ hu => hu.warmReq
  dsimp only
  split
  exacts [okCanonical_error, okCanonical_ok.2 hu.startWait]

theorem Canonical.residStep {a} (h : Canonical s) : Canonical (s.residStep a) := by
  unfold State.residStep
  split
  · split
    · exact h
    · split
      next e => exact (Canonical.ite (h.setResi.of_eq e).raiseEvent (h.setResi.of_eq e)).modAcc
  · exact h

theorem Canonical.execVinv {sw x} (h : Canonical s) : NextCanonical (Machine.execVinv sw x s) :=
  h.issue_of_body fun _ _ hu => okCanonical_ok.2 hu.startWait

theorem Canonical.execEvt {sw a ty} (h : Canonical s) : NextCanonical (Machine.execEvt sw a ty s) :=
  h.issue_of_body fun _ _ hu => okCanonical_ok.2 hu.startWait

theorem Canonical.deliverAcc {a m} (h : Canonical s) : Canonical (s.deliverAcc a m) := by
  unfold State.deliverAcc
  split
  exacts [h, h.modWarp]

theorem Canonical.reportFault {a} (h : Canonical s) : Canonical (s.reportFault a) := by
  unfold State.reportFault
  split
  exacts [h.defer, h]

theorem Canonical.ackUpd {id k} (h : Canonical s) : Canonical (s.ackUpd id k) := by
  unfold State.ackUpd
  split
  · exact h
  · split
    · exact h
    · refine Canonical.opEnd (Canonical.dropUpd ?_)
      split
      exacts [h, h.modWarp]

theorem Canonical.execLoadComplete {id} (h : Canonical s) : NextCanonical (Machine.execLoadComplete id s) := by
  unfold Machine.execLoadComplete
  refine nextCanonical_next.2 ?_
  split
  · exact h.ackUpd
  · split
    · exact h
    · split
      exacts [h.deliverAcc.modAcc.reportFault.defer, h.deliverAcc.modWarp.dropAcc.opEnd.reportFault]

theorem Canonical.execStoreAck {id} (h : Canonical s) : NextCanonical (Machine.execStoreAck id s) := by
  unfold Machine.execStoreAck
  grind [Canonical.ackUpd, Canonical.raiseEvent, Canonical.modWarp, Canonical.reportFault, Canonical.opEnd, Canonical.dropAcc, nextCanonical_next]

/-! ### Views -/

theorem Canonical.readVa {agent dev ctx va n} (h : Canonical s) : Canonical (s.readVa agent dev ctx va n).1 := by
  unfold State.readVa
  dsimp only
  split
  · exact h.walked
  · split
    · exact h.walked
    · exact h.walked
    · split
      · exact h.walked
      · split
        · next e => exact h.walked.hrdNow.of_eq e
        · next e => exact h.walked.hrdNow.of_eq e

theorem Canonical.viewDesc {r} (h : Canonical s) : Canonical (s.viewDesc r).1 := by
  unfold State.viewDesc
  grind [Canonical.readVa, Canonical.modDie, Canonical.foldl_fst]

theorem Canonical.viewElem {r v q} (h : Canonical s) : Canonical (s.viewElem r v q).1 := by
  unfold State.viewElem
  split
  · exact h
  · exact h
  · next y _ =>
    extract_lets step
    have hs : Canonical ((List.range v.rank).foldl step (s, .ok (some 0))).1 := by
      refine h.foldl_fst (a := (s, _)) fun acc i ha => ?_
      obtain ⟨u, r⟩ := acc
      dsimp only [step]
      grind [Canonical.walked, Canonical.hrdNow]
    clear_value step
    grind

theorem Canonical.viewPieces {r v off n hdr} (h : Canonical s) : Canonical (s.viewPieces r v off n hdr).1 := by
  unfold State.viewPieces
  grind [Canonical.viewElem, Canonical.walked, Canonical.foldl_fst]

theorem Canonical.viewOpen {r a} (h : Canonical s) : Canonical (s.viewOpen r a).1 := by
  unfold State.viewOpen
  grind [Canonical.viewDesc, Canonical.walked]

theorem Canonical.execViewLineRequest {id line} (h : Canonical s) : NextCanonical (Machine.execViewLineRequest id line s) := by
  unfold Machine.execViewLineRequest
  refine nextCanonical_next.2 (h.orWait ?_)
  split
  · exact h
  · next a _ =>
    extract_lets inLine lanes hdr atom fail
    split
    · next p g _ _ =>
      split
      · extract_lets reqOf r unit held block
        have hfail (u e) (hu : Canonical u) : Canonical (fail u e) := by
          unfold fail
          split
          · exact hu.loseParts
          · exact hu.faultLanes
        clear_value fail inLine
        split
        · exact h
        · split
          · exact h
          · have hv := h.viewOpen (r := r) (a := a)
            split
            · next u e hu => exact hfail u e (hv.of_eq hu)
            · next u v hu =>
              extract_lets res
              have hres : Canonical res.1 := by
                refine Canonical.foldl_fst (hv.of_eq hu) fun acc q ha => ?_
                obtain ⟨w, x⟩ := acc
                cases x with
                | error e => exact ha
                | ok l =>
                  dsimp only
                  split
                  · exact ha
                  · split
                    · split
                      · next hw => exact ha.viewPieces.of_eq hw
                      · next hw => split <;> exact ha.viewPieces.of_eq hw
                    · exact ha
              obtain ⟨w, e | parts⟩ := res
              · exact hfail w e hres
              · exact hres.modAcc
      · exact h
    · exact h

/-! ### Coherence -/

theorem Canonical.scaleError {w die pc} (h : Canonical s) : Canonical (s.scaleError w die pc) := h.raiseEvent

theorem Canonical.takeBlock {a b sel x h'} (h : Canonical s) : Canonical (s.takeBlock a b sel x h') :=
  h.setParts.foldl fun _ _ hu => hu.scaleError.modAcc

theorem Canonical.send {id b sel} (h : Canonical s) : Canonical (s.send id b sel) := h

theorem Canonical.choose {plain shadow} (h : Canonical s) : Canonical (s.choose plain shadow).1 := by
  unfold State.choose
  split <;> exact h

theorem Canonical.readDone {a b} (h : Canonical s) : Canonical (s.readDone a b) := by
  unfold State.readDone
  extract_lets core mine strong home
  split
  · next e => exact (h.readHome.of_eq e).loseParts
  · next e =>
    have hu := h.readHome.of_eq e
    extract_lets u1 u2 u3
    have h2 : Canonical u2 := Canonical.takeBlock (.ite hu.fillBlock hu)
    have h3 : Canonical u3 := .ite h2.modAcc h2
    exact .ite h3.dropLine h3

theorem Canonical.execHrd {id b} (h : Canonical s) : NextCanonical (Machine.execHrd id b s) := by
  unfold Machine.execHrd
  refine nextCanonical_next.2 ?_
  split
  · grind [Canonical.homeStep]
  · next a _ =>
    extract_lets core r may home
    split
    · grind [Canonical.homeStep, Canonical.readDone]
    · split
      · exact h
      · split
        next s1 clean hc =>
        have h1 : Canonical s1 := by grind [Canonical.lineClean]
        clear hc
        clear_value may home core r
        split
        · exact h1
        · next s2 sh hs =>
          have h2 : Canonical s2 := by
            have := h1.choose (plain := clean && a.parts.any (may false)) (shadow := a.parts.any (may true))
            rwa [hs] at this
          grind [Canonical.send, Canonical.homeStep, Canonical.readDone]

theorem Canonical.recordReady {core b r} (h : Canonical s) : Canonical (s.recordReady core b r).1 := by
  unfold State.recordReady
  dsimp only
  split
  · exact h
  · split
    · split
      exacts [h, h.askDrain]
    · split
      · split
        exacts [h, h.askDrain]
      · exact h

theorem Canonical.storeRecord {b r} (h : Canonical s) : Canonical (s.storeRecord b r) := by
  unfold State.storeRecord
  dsimp only
  split
  · exact h
  · split
    · exact h
    · split
      exacts [.ite h h, h]

theorem Canonical.performHome {a b who} (h : Canonical s) : Canonical (s.performHome a b who) := by
  unfold State.performHome
  dsimp only
  split
  · split
    exacts [h.mergeHome.setParts, h]
  · split
    · next e =>
      have hu := h.readHome.of_eq e
      exact .ite (Canonical.loseParts (.ite hu.setHall.memError hu)) (Canonical.setParts (.ite hu.setHall.memError hu))
    · next e => exact (h.readHome.of_eq e).mergeHome.modAcc
  · exact h.mergeHome.setParts

theorem Canonical.dropWb {w} (h : Canonical s) : Canonical (s.dropWb w) := h

theorem Canonical.writeDone {a b} (h : Canonical s) : Canonical (s.writeDone a b) := by
  unfold State.writeDone
  grind [Canonical.performHome, Canonical.storeRecord, Canonical.modAcc, Canonical.dropLine]

theorem Canonical.execHwr {id b} (h : Canonical s) : NextCanonical (Machine.execHwr id b s) := by
  unfold Machine.execHwr
  refine nextCanonical_next.2 ?_
  split
  · next a _ _ =>
    extract_lets core r room go plain shadow
    have hroom (u) (hu : Canonical u) : Canonical (room u).1 := by
      unfold room
      split
      · exact hu.recordReady
      · exact hu
    have hgo (u) (hu : Canonical u) : Canonical (go u) := by
      unfold go
      split
      next v done e =>
      have hv := hu.homeStep.of_eq e
      split
      · split
        · exact hv.writeDone
        · exact hv
      · exact hv
    clear_value room go
    split
    · split
      next u ok hu =>
      have hu := (hroom s h).of_eq hu
      split
      · exact hgo u hu
      · exact hu.leaveHome
    · split
      · exact h
      · split
        next s1 clean hc =>
        have h1 : Canonical s1 := by
          split at hc
          · exact h.lineClean.of_eq hc
          · cases hc; exact h
        split
        · exact h1
        · next s2 sh hs =>
          have h2 := h1.choose.of_eq hs
          split
          next s3 ok h3 =>
          have h3 := (hroom s2 h2).of_eq h3
          split
          · exact hgo _ h3.send
          · exact h3
  · extract_lets
    split
    · exact h
    · split
      next u done hu =>
      have hu := h.homeStep.of_eq hu
      split
      · exact hu
      · exact hu.mergeHome.dropWb
  · split
    · exact h.homeStep
    · exact h

theorem Canonical.fillWaiting {agent b x h'} (h : Canonical s) : Canonical (s.fillWaiting agent b x h') := h.foldl fun _ _ hu => .ite hu.fillBlock hu

theorem Canonical.execRds {agent b} (h : Canonical s) : NextCanonical (Machine.execRds agent b s) := by
  unfold Machine.execRds
  refine nextCanonical_next.2 ?_
  dsimp only
  split
  · split
    · exact h
    · split
      · exact h.homeStep
      · split
        · exact h.homeStep.fillReplica.fillWaiting.settleRep
        · split
          · next e => exact (h.homeStep.readHome.of_eq e).fillReplica.fillWaiting.settleRep
          · next e => exact (h.homeStep.readHome.of_eq e).foldl fun _ _ hu => hu.loseParts
  · split
    · exact h
    · split
      · exact h.homeStep
      · split
        · exact h.homeStep.fillReplica.fillWaiting.settleRep
        · split
          · next e => exact (h.homeStep.readHome.of_eq e).fillReplica.fillWaiting.settleRep
          · next e => exact (h.homeStep.readHome.of_eq e).foldl fun _ _ hu => hu.loseParts

theorem Canonical.mergeWbs {agent b} (h : Canonical s) : Canonical (s.mergeWbs agent b) := h.foldl fun _ _ hu => hu.mergeRep.dropWb

theorem Canonical.loseWbs {agent b src} (h : Canonical s) : Canonical (s.loseWbs agent b src) := by
  unfold State.loseWbs
  grind [Canonical.dropWb, Canonical.mergeLost, Canonical.dropRep, Canonical.foldl_fst]

theorem Canonical.granted {agent b} (h : Canonical s) : Canonical (s.granted agent b) := by
  unfold State.granted
  split
  · exact h
  · split
    · exact h.loseWbs
    · split
      · exact h.setRep.mergeWbs
      · split
        · next e => exact (h.readHome.of_eq e).fillReplica.mergeWbs
        · next e => exact (h.readHome.of_eq e).loseWbs

theorem Canonical.execRdx {agent b} (h : Canonical s) : NextCanonical (Machine.execRdx agent b s) := by
  unfold Machine.execRdx
  refine nextCanonical_next.2 ?_
  dsimp only
  exact .ite h (.ite h.homeStep h.homeStep.granted)

theorem Canonical.execUpg {agent b} (h : Canonical s) : NextCanonical (Machine.execUpg agent b s) := by
  unfold Machine.execUpg
  refine nextCanonical_next.2 ?_
  dsimp only
  exact .ite h (.ite h.homeStep h.homeStep.granted)

theorem Canonical.execWbk {agent b drop} (h : Canonical s) : NextCanonical (Machine.execWbk agent b drop s) := by
  unfold Machine.execWbk
  refine nextCanonical_next.2 ?_
  dsimp only
  exact .ite h (.ite (h.tagRead.touch.wbkDone h.homeStep) h.homeStep)

theorem Canonical.answerAsk {agent b sel} (h : Canonical s) : Canonical (s.answerAsk agent b sel) := by
  unfold State.answerAsk
  split
  · exact h
  · split
    exacts [h, h.answer]

theorem Canonical.execInvalidate {agent b} (h : Canonical s) : NextCanonical (Machine.execInvalidate agent b s) := nextCanonical_next.2 h.answerAsk
theorem Canonical.execRecall {agent b} (h : Canonical s) : NextCanonical (Machine.execRecall agent b s) := nextCanonical_next.2 h.answerAsk
theorem Canonical.execForward {agent b} (h : Canonical s) : NextCanonical (Machine.execForward agent b s) := nextCanonical_next.2 h.answerAsk

theorem Canonical.execLostAgentTimeout {b agent} (h : Canonical s) : NextCanonical (Machine.execLostAgentTimeout b agent s) :=
  nextCanonical_next.2 (.ite ((h.foldl fun _ _ hu => hu.modDie).frame.raiseEvent) h)

theorem Canonical.execDrainRequest {id} (h : Canonical s) : NextCanonical (Machine.execDrainRequest id s) := by
  unfold Machine.execDrainRequest
  refine nextCanonical_next.2 ?_
  split
  exacts [h, .ite h h.startWbs]

theorem Canonical.execDrainAnswer {id} (h : Canonical s) : NextCanonical (Machine.execDrainAnswer id s) := by
  unfold Machine.execDrainAnswer
  refine nextCanonical_next.2 ?_
  split
  · exact h
  · split
    exacts [h, .ite h h.frame.settleEpochs]

theorem Canonical.execSerialisationRequest {w} (h : Canonical s) : NextCanonical (Machine.execSerialisationRequest w s) := by
  unfold Machine.execSerialisationRequest
  refine nextCanonical_next.2 ?_
  split
  · exact h
  · split
    exacts [h.frame.modWarp, h]

theorem Canonical.execVdDrop {id agent} (h : Canonical s) : NextCanonical (Machine.execVdDrop id agent s) := by
  unfold Machine.execVdDrop
  refine nextCanonical_next.2 ?_
  split
  · exact h
  · split
    exacts [.ite h h.modDie.modAcc, h]

theorem Canonical.execPageWalk {core ctx va} (h : Canonical s) : NextCanonical (Machine.execPageWalk core ctx va s) :=
  nextCanonical_next.2 (h.orWait h.pageWalk)

theorem Canonical.execDeferredTrapReport {id} (h : Canonical s) : NextCanonical (Machine.execDeferredTrapReport id s) := by
  unfold Machine.execDeferredTrapReport
  refine nextCanonical_next.2 ?_
  split
  exacts [h, h.frame.takeTrap]

theorem Canonical.execSiblingHalt {w} (h : Canonical s) : NextCanonical (Machine.execSiblingHalt w s) := nextCanonical_next.2 h.modWarp.pump

theorem Canonical.fillFromReplica {core b} (h : Canonical s) : Canonical (s.fillFromReplica core b) := by
  unfold State.fillFromReplica
  dsimp only
  split
  exacts [.ite h h.useL2.fillBlock, h]

theorem Canonical.evictL1 {core b} (h : Canonical s) : Canonical (s.evictL1 core b) := by
  unfold State.evictL1
  dsimp only
  split
  exacts [h.startWb.dropL1, .ite h.startWb.dropL1 h.startWb.dropL1.startWbs]

theorem Canonical.mergeOwned {id} (h : Canonical s) : Canonical (s.mergeOwned id) := by
  unfold State.mergeOwned
  split
  · exact h
  · dsimp only
    split
    exacts [.ite h.mergeRep.dropWb h, h]

/-! ### Barriers and waits -/

theorem Canonical.readBar {w x} (h : Canonical s) : Canonical (s.readBar w x).1 := by
  unfold State.readBar
  split
  · exact h
  · dsimp only
    split
    · exact h.spadFix
    · split <;> exact h.spadFix
  · dsimp only
    split
    · next e => exact h.clearFor.readHome.of_eq e
    · next e => exact h.clearFor.readHome.of_eq e

theorem Canonical.writeBar {w v x} (h : Canonical s) : Canonical (s.writeBar w v x) := by
  unfold State.writeBar
  split
  exacts [h, h.modWg, h.mergeHome]

theorem Canonical.meetBar {b phase} (h : Canonical s) : Canonical (s.meetBar b phase) := h
theorem Canonical.testTiles {g off} (h : Canonical s) : Canonical (s.testTiles g off) := h
theorem Canonical.settleTiles {g} (h : Canonical s) : Canonical (s.settleTiles g) := h
theorem Canonical.updDone {u res} (h : Canonical s) : Canonical (s.updDone u res) := .ite h.dropUpd h.modUpd

theorem Canonical.performUpd {u} (h : Canonical s) : Canonical (s.performUpd u) := by
  unfold State.performUpd
  split
  · next e =>
      dsimp only
      split
      · exact (h.readBar.of_eq e).updDone.defer
      · split
        exacts [(h.readBar.of_eq e).dropUpd.opEnd.defer, (h.readBar.of_eq e).dropUpd.defer]
  · next e =>
      dsimp only
      split
      · exact (h.readBar.of_eq e).updDone.defer
      · refine Canonical.updDone ?_
        split
        · split
          · refine Canonical.raiseEvent ?_
            split
            exacts [(h.readBar.of_eq e).writeBar.testTiles.meetBar, (h.readBar.of_eq e).writeBar]
          · split
            exacts [(h.readBar.of_eq e).writeBar.testTiles.meetBar, (h.readBar.of_eq e).writeBar]
        · split
          · refine Canonical.raiseEvent ?_
            split
            exacts [(h.readBar.of_eq e).writeBar.testTiles.meetBar, (h.readBar.of_eq e).writeBar]
          · split
            exacts [(h.readBar.of_eq e).writeBar.testTiles.meetBar, (h.readBar.of_eq e).writeBar]

theorem Canonical.firedRecords {u} (h : Canonical s) : Canonical (s.firedRecords u) := by
  unfold State.firedRecords
  split
  exacts [.ite h.modWarp h, h]

theorem Canonical.runUpd {id sel} (h : Canonical s) : Canonical (s.runUpd id sel) := by
  unfold State.runUpd
  split
  · exact h
  · dsimp only
    split
    · exact h
    · split
      · exact h.dropUpd
      · split
        · exact h
        · split
          · split
            exacts [h.orWait h.firedRecords.performUpd.dropLine, h.orWait h.firedRecords.performUpd]
          · split
            exacts [h.lineClean, h]

theorem Canonical.execBarrierInitUpdate {id} (h : Canonical s) : NextCanonical (Machine.execBarrierInitUpdate id s) := nextCanonical_next.2 h.runUpd
theorem Canonical.execBarrierArrival {id} (h : Canonical s) : NextCanonical (Machine.execBarrierArrival id s) := nextCanonical_next.2 h.runUpd
theorem Canonical.execBarrierExpectation {id} (h : Canonical s) : NextCanonical (Machine.execBarrierExpectation id s) := nextCanonical_next.2 h.runUpd
theorem Canonical.execBarrierCredit {id} (h : Canonical s) : NextCanonical (Machine.execBarrierCredit id s) := nextCanonical_next.2 h.runUpd
theorem Canonical.warmBar {c adr} (h : Canonical s) : Canonical (s.warmBar c adr) := .ite h.warm h

theorem Canonical.startUpd {c kind bar va cls rel} (h : Canonical s) : Canonical (s.startUpd c kind bar va cls rel) := by
  unfold State.startUpd
  grind [Canonical, Canonical.fresh, Canonical.opBegin, Canonical.modWarp]

theorem Canonical.execBinit {sw adr d} (h : Canonical s) : NextCanonical (Machine.execBinit sw adr d s) := by
  unfold Machine.execBinit
  refine h.issue (fun _ _ hu => ?_) fun _ _ hu => hu.warmBar
  split
  exacts [okCanonical_error, .ite okCanonical_error (okCanonical_ok.2 hu.startUpd)]

theorem Canonical.execArrive {sw withRet rel sc count adr d} (h : Canonical s) : NextCanonical (Machine.execArrive sw withRet rel sc count adr d s) := by
  unfold Machine.execArrive
  dsimp only
  refine h.issue (fun _ _ hu => ?_) fun _ _ hu => hu.warmBar
  split
  exacts [okCanonical_error, okCanonical_ok.2 hu.startUpd]

theorem Canonical.execExpect {sw arv rel sc adr d} (h : Canonical s) : NextCanonical (Machine.execExpect sw arv rel sc adr d s) := by
  unfold Machine.execExpect
  refine h.issue (fun _ _ hu => ?_) fun _ _ hu => hu.warmBar
  split
  exacts [okCanonical_error, okCanonical_ok.2 hu.startUpd]

theorem Canonical.execWait {sw acq sc a off d} (h : Canonical s) : NextCanonical (Machine.execWait sw acq sc a off d s) := by
  unfold Machine.execWait
  refine h.issue_of_body fun _ _ hu => ?_
  split
  exacts [okCanonical_error, okCanonical_ok.2 hu.modWarp]

theorem Canonical.setTile {g t' v} (h : Canonical s) : Canonical (s.setTile g t' v) := h

theorem Canonical.execTbind {sw t' d a} (h : Canonical s) : NextCanonical (Machine.execTbind sw t' d a s) := by
  unfold Machine.execTbind
  refine h.issue_of_body fun _ _ hu => ?_
  split
  exacts [okCanonical_error, .ite okCanonical_error (.ite okCanonical_error (okCanonical_ok.2 hu.setTile))]

theorem Canonical.execTrel {sw rearm t'} (h : Canonical s) : NextCanonical (Machine.execTrel sw rearm t' s) := by
  unfold Machine.execTrel
  refine h.issue_of_body fun _ _ hu => ?_
  split
  exacts [okCanonical_error, .ite okCanonical_error (okCanonical_ok.2 hu.setTile.settleTiles)]

theorem Canonical.execTwait {sw drained t'} (h : Canonical s) : NextCanonical (Machine.execTwait sw drained t' s) := by
  unfold Machine.execTwait
  refine h.issue_of_body fun _ _ hu => ?_
  split
  exacts [okCanonical_error, .ite okCanonical_error (okCanonical_ok.2 hu.modWarp)]

theorem Canonical.execTstat {sw t' d} (h : Canonical s) : NextCanonical (Machine.execTstat sw t' d s) := by
  unfold Machine.execTstat
  refine h.issue_of_body fun _ _ hu => ?_
  split
  exacts [okCanonical_error, okCanonical_ok.2 hu.startUpd.modUpd]

theorem Canonical.warmMon {c a bar} (h : Canonical s) : Canonical (s.warmMon c a bar) := .ite h.warm h

theorem Canonical.execMon {sw d a bar} (h : Canonical s) : NextCanonical (Machine.execMon sw d a bar s) := by
  unfold Machine.execMon
  refine h.issue (fun _ _ hu => ?_) fun _ _ hu => hu.warmMon
  split
  exacts [okCanonical_error, okCanonical_ok.2 hu.startUpd]

theorem Canonical.execMonx {sw d a bar} (h : Canonical s) : NextCanonical (Machine.execMonx sw d a bar s) := by
  unfold Machine.execMonx
  refine h.issue (fun _ _ hu => ?_) fun _ _ hu => hu.warmMon
  split
  exacts [okCanonical_error, okCanonical_ok.2 hu.startUpd]

theorem Canonical.armMon {u word} (h : Canonical s) : Canonical (s.armMon u word) := by
  unfold State.armMon
  dsimp only
  split
  · next e => exact (h.hrdNow.of_eq e).modUpd.defer
  · next e => exact (h.hrdNow.of_eq e).modDie.modUpd.dropLine

theorem Canonical.execMonitorArm {id} (h : Canonical s) : NextCanonical (Machine.execMonitorArm id s) := by
  unfold Machine.execMonitorArm
  refine nextCanonical_next.2 (h.orWait ?_)
  split
  · split
    exacts [.ite h (.ite (.ite h.lineClean h) (.ite h.armMon h.modUpd.modDie)), h]
  · exact h

theorem Canonical.execMonxHome {id} (h : Canonical s) : NextCanonical (Machine.execMonxHome id s) := by
  unfold Machine.execMonxHome
  refine nextCanonical_next.2 ?_
  split
  · split
    exacts [.ite h h.modDie.modUpd, h]
  · exact h

theorem Canonical.execWarpWake {w} (h : Canonical s) : NextCanonical (Machine.execWarpWake w s) := by
  unfold Machine.execWarpWake
  grind [Canonical.spadFix, Canonical.modWarp, Canonical.dropClean, Canonical.foldl, nextCanonical_next]

theorem Canonical.execSleepExpiry {w} (h : Canonical s) : NextCanonical (Machine.execSleepExpiry w s) := nextCanonical_next.2 h.modWarp
theorem Canonical.execYieldExpiry {w} (h : Canonical s) : NextCanonical (Machine.execYieldExpiry w s) := nextCanonical_next.2 h.modWarp

theorem Canonical.execResultWriteback {w} (h : Canonical s) : NextCanonical (Machine.execResultWriteback w s) := by
  unfold Machine.execResultWriteback
  grind [Canonical.modWarp, Canonical.dropUpd, Canonical.foldl, nextCanonical_next]

theorem Canonical.advanceUpd {u} (h : Canonical s) : Canonical (s.advanceUpd u) := by
  unfold State.advanceUpd
  split
  next e => exact (h.relStep.of_eq e).modUpd

/-! ### Channels -/

theorem Canonical.warmChan {o va} (h : Canonical s) : Canonical (s.warmChan o va) := by
  unfold State.warmChan
  split
  · exact h
  · split
    exacts [.ite h.warm h.walked, h.walked]

theorem Canonical.readDesc {o key} (h : Canonical s) : Canonical (s.readDesc o key).1 := by
  unfold State.readDesc
  split
  · next e => exact h.hrdNow.of_eq e
  · next e => exact h.hrdNow.of_eq e

theorem Canonical.chanDrop {o key} (h : Canonical s) : Canonical (s.chanDrop o key) := .ite h.dropLine h
theorem Canonical.writeDesc {o key d} (h : Canonical s) : Canonical (s.writeDesc o key d) := h.hwrNow.chanDrop
theorem Canonical.deliverTo {q rcd srctag} (h : Canonical s) : Canonical (s.deliverTo q rcd srctag) := h
theorem Canonical.ackChop {p} (h : Canonical s) : Canonical (s.ackChop p) := h
theorem Canonical.endChop {o} (h : Canonical s) : Canonical (s.endChop o) := h
theorem Canonical.failChop {o code info} (h : Canonical s) : Canonical (s.failChop o code info) := h
theorem Canonical.noteAge {o key} (h : Canonical s) : Canonical (s.noteAge o key) := .ite h h.modDie
theorem Canonical.keepAge {key f} (h : Canonical s) : Canonical (s.keepAge key f) := h

theorem Canonical.sendBlocks {a m} (h : Canonical s) : Canonical (s.sendBlocks a m).1 := by
  unfold State.sendBlocks
  dsimp only
  split
  · split
    · split <;> exact h.walked
    · exact h.walked
  · exact h.walked

theorem Canonical.keepSend {o a m} (h : Canonical s) : Canonical (s.keepSend o a m) := by
  unfold State.keepSend
  split
  next e => exact ((h.sendBlocks.of_eq e).foldl fun _ _ hu => hu.frame.hwrNow.chanDrop).modDie

theorem Canonical.fetchSend {a m} (h : Canonical s) : Canonical (s.fetchSend a m).1 := by
  unfold State.fetchSend
  grind [Canonical.sendBlocks, Canonical.hrdNow, Canonical.modDie, Canonical.foldl_fst]

theorem Canonical.moveUp {o key d d'} (h : Canonical s) (e : s.moveUp o key d = .ok (t, d')) : Canonical t := by
  dsimp only [State.moveUp] at e
  split at e
  · cases e; exact h
  · next m hm =>
    split at e
    · cases e; exact h
    · split at e
      · cases e
      · split at e
        · cases e
        · next u hu =>
          cases e
          have := (h.warmChan (o := o) (va := ringVa d (chSize o.handle) (descTail d))).fetchSend (a := agentOfKey key) (m := m)
          rw [hu] at this
          exact this.writeHome.chanDrop

theorem Canonical.takeRecord {q key d} (h : Canonical s) : Canonical (s.takeRecord q key d).1 := by
  dsimp only [State.takeRecord]
  split
  · split
    · exact h
    · have hw := h.warmChan (o := q) (va := ringVa d (chSize q.handle) (descHead d))
      split
      · exact hw
      · next k _ =>
        have hr := hw.readHomeBytes (key := k) (n := chSize q.handle) (w := chWho (s.warmChan q (ringVa d (chSize q.handle) (descHead d))) q k)
        grind [Canonical.keepAge, Canonical.moveUp]
  · split
    · exact h
    · grind [Canonical.fetchSend]

theorem Canonical.pushHome {p key} (h : Canonical s) : Canonical (s.pushHome p key).1 := by
  unfold State.pushHome
  split
  · next e => exact h.readDesc.of_eq e
  · next e =>
      split
      · exact h.readDesc.of_eq e
      · dsimp only
        split
        · exact (h.readDesc.of_eq e).deliverTo.writeDesc
        · split
          · split
            exacts [(h.readDesc.of_eq e).warmChan, (h.readDesc.of_eq e).warmChan.writeHome.chanDrop.noteAge.writeDesc]
          · split
            exacts [(h.readDesc.of_eq e).keepSend.noteAge.writeDesc, h.readDesc.of_eq e]

theorem Canonical.popHome {q key claim} (h : Canonical s) : Canonical (s.popHome q key claim) := by
  unfold State.popHome
  dsimp only
  split
  · next e => exact (h.readDesc.of_eq e).failChop
  · next e =>
      split
      · exact (h.readDesc.of_eq e).failChop
      · split
        · next e' => exact ((h.readDesc.of_eq e).takeRecord.of_eq e').failChop
        · next e' => exact ((h.readDesc.of_eq e).takeRecord.of_eq e').writeDesc.deliverTo
        · next e' =>
            split
            · exact .ite (((h.readDesc.of_eq e).takeRecord.of_eq e').fresh.modChop.writeDesc) (((h.readDesc.of_eq e).takeRecord.of_eq e').modChop.modDie)
            · exact ((h.readDesc.of_eq e).takeRecord.of_eq e').deliverTo

theorem Canonical.serveNew {o key d} (h : Canonical s) : Canonical (s.serveNew o key d) := by
  unfold State.serveNew
  grind [Canonical.moveUp, Canonical.takeRecord, Canonical.deliverTo, Canonical.writeDesc, Canonical.foldl_fst]

theorem Canonical.initHome {o key params storage} (h : Canonical s) : Canonical (s.initHome o key params storage) := h.keepAge.serveNew.ackChop

theorem Canonical.atRouter {o key} (h : Canonical s) : Canonical (s.atRouter o key) := by
  unfold State.atRouter
  dsimp only
  split
  · exact h.modChop
  · split
    exacts [h.deliverTo.ackChop, .ite h.fresh.modChop h.modChop]

theorem Canonical.execRouterArrival {id} (h : Canonical s) : NextCanonical (Machine.execRouterArrival id s) := by
  unfold Machine.execRouterArrival
  refine nextCanonical_next.2 ?_
  split
  · exact h
  · split
    · exact h
    · dsimp only
      split
      · exact h.orWait h.warmChan.failChop
      · exact h.orWait (Canonical.ite h (Canonical.ite h.warmChan.atRouter h.warmChan.lineClean))

theorem Canonical.execPairingExpiry {id} (h : Canonical s) : NextCanonical (Machine.execPairingExpiry id s) := by
  unfold Machine.execPairingExpiry
  refine nextCanonical_next.2 ?_
  split
  · split
    exacts [.ite h.modChop h, h]
  · exact h

theorem Canonical.execChinitHome {id} (h : Canonical s) : NextCanonical (Machine.execChinitHome id s) := by
  unfold Machine.execChinitHome
  refine nextCanonical_next.2 ?_
  split
  · split
    exacts [h.orWait h.initHome, h]
  · exact h

theorem Canonical.ringReady {o key} (h : Canonical s) : Canonical (s.ringReady o key).1 := by
  unfold State.ringReady
  split
  · exact h
  · split
    · exact h
    · dsimp only
      split
      exacts [h.engOrder, h]

theorem Canonical.execChannelPushHome {id} (h : Canonical s) : NextCanonical (Machine.execChannelPushHome id s) := by
  unfold Machine.execChannelPushHome
  refine nextCanonical_next.2 ?_
  split
  · split
    · split
      · next e => exact h.ringReady.of_eq e
      · split
        · next e' => exact h.orWait (h.pushHome.of_eq e').ackChop
        · next e' => exact h.orWait (h.pushHome.of_eq e').failChop
        · next e' => exact h.orWait (h.pushHome.of_eq e').failChop
    · exact h
  · exact h

theorem Canonical.execChannelPopHome {id} (h : Canonical s) : NextCanonical (Machine.execChannelPopHome id s) := by
  unfold Machine.execChannelPopHome
  refine nextCanonical_next.2 ?_
  split
  · split
    exacts [h.orWait h.popHome, h.orWait h.popHome, h]
  · exact h

theorem Canonical.execChannelAck {id} (h : Canonical s) : NextCanonical (Machine.execChannelAck id s) := by
  unfold Machine.execChannelAck
  refine nextCanonical_next.2 ?_
  split
  · split
    · exact h
    · split
      exacts [h.endChop, h.modWarp.endChop, h]
  · exact h

theorem Canonical.execChannelDelivery {id} (h : Canonical s) : NextCanonical (Machine.execChannelDelivery id s) := by
  unfold Machine.execChannelDelivery
  refine nextCanonical_next.2 ?_
  split
  · exact h
  · split
    · exact .ite h h.modWarp.endChop
    · split <;> exact h
    · exact .ite h h.endChop
    · exact h

theorem Canonical.advanceChop {o} (h : Canonical s) : Canonical (s.advanceChop o) := by
  unfold State.advanceChop
  split
  · split
    next e => exact (h.relStep.of_eq e).modChop
  · split
    next e => exact (h.acqStep.of_eq e).modChop
  · exact h

theorem Canonical.startChop {c kind h' rcd srctag sc rel acq launch dsts} (h : Canonical s) :
    Canonical (s.startChop c kind h' rcd srctag sc rel acq launch dsts) :=
  h

theorem Canonical.execChinit {sw rel sc d a b cc off} (h : Canonical s) : NextCanonical (Machine.execChinit sw rel sc d a b cc off s) := by
  unfold Machine.execChinit
  refine h.issue (fun _ _ hu => ?_) fun _ _ hu => .ite hu.warm hu
  dsimp only
  split_ifs
  exacts [okCanonical_error, okCanonical_error, okCanonical_error, okCanonical_error, okCanonical_ok.2 hu.startChop]

theorem Canonical.execPush {sw unord rel sc d a b} (h : Canonical s) : NextCanonical (Machine.execPush sw unord rel sc d a b s) := by
  unfold Machine.execPush
  refine h.issue_of_body fun _ _ hu => ?_
  dsimp only
  split
  exacts [okCanonical_error, okCanonical_ok.2 hu.startChop]

theorem Canonical.execPopTry {sw anysrc anytag acq sc d a b cc} (h : Canonical s) :
    NextCanonical (Machine.execPopTry sw anysrc anytag acq sc d a b cc s) := by
  unfold Machine.execPopTry
  refine h.issue_of_body fun _ _ hu => ?_
  dsimp only
  split
  exacts [okCanonical_error, okCanonical_ok.2 hu.startChop]

theorem Canonical.execPopWait {sw anysrc anytag acq sc d a b cc} (h : Canonical s) :
    NextCanonical (Machine.execPopWait sw anysrc anytag acq sc d a b cc s) := by
  unfold Machine.execPopWait
  refine h.issue_of_body fun _ _ hu => ?_
  dsimp only
  split
  · exact okCanonical_error
  · split
    · exact okCanonical_error
    · split
      exacts [okCanonical_error, okCanonical_error, okCanonical_ok.2 hu.startChop]

theorem Canonical.execLaunch {sw grp} (h : Canonical s) : NextCanonical (Machine.execLaunch sw grp s) := by
  unfold Machine.execLaunch
  extract_lets
  refine h.issue_of_body fun c u hu => ?_
  grind [Canonical.startChop, okCanonical_ok, okCanonical_error]

/-! ### Copy engine -/

theorem Canonical.engView {r hdrs} (h : Canonical s) : Canonical (s.engView r hdrs).1 := by
  unfold State.engView
  split
  · next e => exact h.viewDesc.of_eq e
  · next e =>
      split
      · exact h.viewDesc.of_eq e
      · dsimp only
        split
        · exact (h.viewDesc.of_eq e).walked
        · split <;> exact (h.viewDesc.of_eq e).walked

theorem Canonical.engBlock {w va key} (h : Canonical s) : Canonical (s.engBlock w va key).1 := by
  unfold State.engBlock
  dsimp only
  split
  · exact h
  · split
    · next e => exact h.hrdNow.of_eq e
    · next e => exact h.hrdNow.of_eq e

theorem Canonical.engPlace {w va n write hdrs} (h : Canonical s) : Canonical (s.engPlace w va n write hdrs).1 := by
  unfold State.engPlace
  grind [Canonical.walked, Canonical.engView]

theorem Canonical.engRead {w va n hdrs} (h : Canonical s) : Canonical (s.engRead w va n hdrs).1 := by
  unfold State.engRead
  have hp := h.engPlace (w := w) (va := va) (n := n) (write := false) (hdrs := hdrs)
  split
  · grind
  · grind [Canonical.engBlock]
  · grind
  · split
    · grind [Canonical.viewPieces]
    · next hv =>
      refine Canonical.foldl_fst (by grind [Canonical.viewPieces]) fun acc p ha => ?_
      obtain ⟨u, x⟩ := acc
      cases x <;> grind [Canonical.engBlock]

theorem Canonical.engTyped {w va} (h : Canonical s) : Canonical (s.engTyped w va).1 := by
  unfold State.engTyped
  grind [Canonical.engPlace, Canonical.engBlock, Canonical.viewPieces]

theorem Canonical.engWrite {w id va n v hdr} (h : Canonical s) : Canonical (s.engWrite w id va n v hdr).1 := by
  unfold State.engWrite
  grind [Canonical.hwrNow, Canonical.engPlace, Canonical.engOrder, Canonical.dropLine, Canonical.hostStore, Canonical.viewPieces, Canonical.foldl,
    Canonical.foldl_fst]

theorem Canonical.copyIssue {sw grp deps lists} (h : Canonical s) : NextCanonical (Machine.copyIssue sw grp deps lists s) := by
  unfold Machine.copyIssue
  extract_lets
  refine h.issue_of_body fun c u hu => ?_
  extract_lets
  split
  · exact okCanonical_error
  · split
    · exact okCanonical_error
    · exact okCanonical_ok.2 hu

theorem Canonical.execCpy {sw grp} (h : Canonical s) : NextCanonical (Machine.execCpy sw grp s) := h.copyIssue
theorem Canonical.execCpyx {sw grp d row col wide} (h : Canonical s) : NextCanonical (Machine.execCpyx sw grp d row col wide s) := h.copyIssue

theorem Canonical.execCopyTake {cluster engine} (h : Canonical s) : NextCanonical (Machine.execCopyTake cluster engine s) := by
  unfold Machine.execCopyTake
  refine nextCanonical_next.2 ?_
  dsimp only
  split
  · exact h
  · split
    · exact h.modCopy
    · split
      · exact h
      · split
        exacts [h.modCopy.modCluster, h]

theorem Canonical.spadTake {w a n} (h : Canonical s) : Canonical (s.spadTake w a n).1 := by
  unfold State.spadTake
  split
  · exact h
  · dsimp only
    split <;> exact h.spadFix

theorem Canonical.copyIndex {o l k plain} (h : Canonical s) : Canonical (s.copyIndex o l k plain).1 := by
  unfold State.copyIndex
  split
  · exact h
  · dsimp only
    exact h.spadTake

theorem Canonical.copyAt {o i j} (h : Canonical s) : Canonical (s.copyAt o i j).1 := by
  unfold State.copyAt
  dsimp only
  split
  · next e => exact h.copyIndex.of_eq e
  · next e =>
      split
      · next e' => exact (h.copyIndex.of_eq e).copyIndex.of_eq e'
      · next e' => exact (h.copyIndex.of_eq e).copyIndex.of_eq e'

theorem Canonical.copyBlock {o i j} (h : Canonical s) : Canonical (s.copyBlock o i j).1 := by
  unfold State.copyBlock
  dsimp only
  split
  · exact h
  · split
    · next e => exact h.copyAt.of_eq e
    · next e =>
        split
        exacts [h.copyAt.of_eq e, (h.copyAt.of_eq e).engTyped]

theorem Canonical.copyElem {o hand i j} (h : Canonical s) : Canonical (s.copyElem o hand i j).1 := by
  unfold State.copyElem
  grind [Canonical.copyAt, Canonical.spadTake, Canonical.engRead]

theorem Canonical.copyWrite {o u v} (h : Canonical s) : Canonical (s.copyWrite o u v).1 := by
  unfold State.copyWrite
  dsimp only
  split
  · split
    exacts [h, h.modWg]
  · exact h.engWrite

theorem Canonical.copyFails {o x e} (h : Canonical t) : Canonical (t.copyFails o x e) := .ite h h.modCopy

theorem Canonical.copyRead {id e} (h : Canonical s) : Canonical (s.copyRead id e) := by
  unfold State.copyRead
  grind [Canonical.orWait, Canonical.copyBlock, Canonical.copyFails, Canonical.copyElem, Canonical.modCopy, Canonical.foldl_fst]

theorem Canonical.copyStep {id u} (h : Canonical s) : Canonical (s.copyStep id u) := by
  unfold State.copyStep
  split
  · exact h
  · dsimp only
    split
    · exact h
    · split
      · next e => exact h.orWait (h.copyWrite.of_eq e).copyFails
      · next e => exact h.orWait (h.copyWrite.of_eq e).modCopy

theorem Canonical.copyScale {o} (h : Canonical s) : Canonical (s.copyScale o) := .ite h.scaleError h

theorem Canonical.execCopyComplete {cluster engine} (h : Canonical s) : NextCanonical (Machine.execCopyComplete cluster engine s) := by
  unfold Machine.execCopyComplete
  refine nextCanonical_next.2 ?_
  split
  · exact h
  · dsimp only
    split
    · exact h
    · split
      · exact .ite h h.dropCopy.opEnd
      · split
        exacts [h.copyScale.dropCopy.opEnd, h.copyScale.fresh.frame.modCopy]

theorem Canonical.execCopyAbort {cluster engine} (h : Canonical s) : NextCanonical (Machine.execCopyAbort cluster engine s) := by
  unfold Machine.execCopyAbort
  refine nextCanonical_next.2 ?_
  split
  · exact h
  · split
    exacts [h, h.copyScale.dropCopy.opEnd.defer]

/-! ### Matrix engine -/

theorem Canonical.matIssue {sw deps op dst} (h : Canonical s) : NextCanonical (s.matIssue sw deps op dst) := by
  unfold State.matIssue
  refine h.issue_of_body fun _ _ hu => ?_
  dsimp only
  split
  · exact okCanonical_error
  · split
    · exact okCanonical_error
    · split
      · exact okCanonical_error
      · split
        · exact okCanonical_error
        · refine okCanonical_ok.2 ?_
          refine Canonical.modCore ?_
          split
          exacts [hu.fresh.opBegin, hu.fresh.opBegin.modWarp]

theorem Canonical.execMapdef {sw bind m a} (h : Canonical s) : NextCanonical (Machine.execMapdef sw bind m a s) := h.matIssue
theorem Canonical.execTmma {sw mode wb t' ma mb d a} (h : Canonical s) : NextCanonical (Machine.execTmma sw mode wb t' ma mb d a s) := h.matIssue
theorem Canonical.execTmmas {sw mode t' ma d a} (h : Canonical s) : NextCanonical (Machine.execTmmas sw mode t' ma d a s) := h.matIssue
theorem Canonical.execWbld {sw sp fmt m d a n} (h : Canonical s) : NextCanonical (Machine.execWbld sw sp fmt m d a n s) := h.matIssue
theorem Canonical.execWbinv {sw all d} (h : Canonical s) : NextCanonical (Machine.execWbinv sw all d s) := h.matIssue
theorem Canonical.execAccz {sw t'} (h : Canonical s) : NextCanonical (Machine.execAccz sw t' s) := h.matIssue
theorem Canonical.execAccld {sw rm sat t' m} (h : Canonical s) : NextCanonical (Machine.execAccld sw rm sat t' m s) := h.matIssue
theorem Canonical.execAccst {sw rm sat scl t' m d} (h : Canonical s) : NextCanonical (Machine.execAccst sw rm sat scl t' m d s) := h.matIssue
theorem Canonical.execAccsc {sw rm t' a k} (h : Canonical s) : NextCanonical (Machine.execAccsc sw rm t' a k s) := h.matIssue
theorem Canonical.execAccadd {sw rm row t' a k} (h : Canonical s) : NextCanonical (Machine.execAccadd sw rm row t' a k s) := h.matIssue
theorem Canonical.execAccrd {sw col t' d a n} (h : Canonical s) : NextCanonical (Machine.execAccrd sw col t' d a n s) := h.matIssue
theorem Canonical.execAccwr {sw col t' d a k n} (h : Canonical s) : NextCanonical (Machine.execAccwr sw col t' d a k n s) := h.matIssue
theorem Canonical.execTtest {sw d} (h : Canonical s) : NextCanonical (Machine.execTtest sw d s) := h.matIssue
theorem Canonical.modEntry {core id f} (h : Canonical s) : Canonical (s.modEntry core id f) := h
theorem Canonical.endEntry {core e} (h : Canonical s) : Canonical (s.endEntry core e) := h.modCore.modWarp.opEnd.settleTiles

theorem Canonical.entryEvents {e se bad} (h : Canonical s) : Canonical (s.entryEvents e se bad) :=
  .ite ((Canonical.ite h.scaleError h).frame.raiseEvent) (.ite h.scaleError h)

theorem Canonical.failEntry {core e t'} (h : Canonical s) : Canonical (s.failEntry core e t') := h.endEntry.entryEvents.defer

theorem Canonical.execMatrixEntryStart {core} (h : Canonical s) : NextCanonical (Machine.execMatrixEntryStart core s) := by
  unfold Machine.execMatrixEntryStart
  refine nextCanonical_next.2 ?_
  split
  · exact h
  · split
    · exact h
    · split
      · exact h
      · split
        · exact h.failEntry
        · split
          exacts [h.failEntry, h.modEntry]

theorem Canonical.fixMap {u es} (h : Canonical s) : Canonical (s.fixMap u es) := by
  unfold State.fixMap
  split
  exacts [h, .ite h (h.foldl fun _ _ hu => hu.spadFix)]

theorem Canonical.setTileAcc {g t' f} (h : Canonical s) : Canonical (s.setTileAcc g t' f) := h

theorem Canonical.fixOperands {core e} (h : Canonical s) : Canonical (s.fixOperands core e) := by
  unfold State.fixOperands
  grind [Canonical.fixMap, Canonical.usePanel, Canonical.spadFix]

theorem Canonical.execTmmaStep {core} (h : Canonical s) : NextCanonical (Machine.execTmmaStep core s) := by
  unfold Machine.execTmmaStep
  refine nextCanonical_next.2 (h.orWait ?_)
  split
  · exact h
  · next e _ =>
    extract_lets u
    have hu : Canonical u := h.fixOperands
    clear_value u
    dsimp only
    repeat' split
    all_goals exact hu

theorem Canonical.execWbldStep {core} (h : Canonical s) : NextCanonical (Machine.execWbldStep core s) := by
  unfold Machine.execWbldStep
  refine nextCanonical_next.2 (h.orWait ?_)
  split
  · exact h
  · dsimp only
    split
    · split
      · exact h.fixOperands
      · split
        exacts [h.fixOperands, .ite h.fixOperands.modWg.modEntry.backPanel h.fixOperands.modWg.modEntry]
    · exact h.fixOperands

theorem Canonical.touchstone {core ctx failing} (h : Canonical s) : Canonical (s.touchstone core ctx failing) :=
  h.modCore.foldl fun _ _ hu => .ite hu.raiseEvent hu

theorem Canonical.execTouchstoneRun {core failing} (h : Canonical s) : NextCanonical (Machine.execTouchstoneRun core failing s) := by
  unfold Machine.execTouchstoneRun
  refine nextCanonical_next.2 ?_
  dsimp only
  split
  · exact h.touchstone.modEntry
  · split
    · exact h
    · split
      exacts [.ite h.touchstone.failEntry h.touchstone, h.touchstone]

theorem Canonical.runEntry {c e} (h : Canonical s) : Canonical (s.runEntry c e).1 := by
  unfold State.runEntry
  grind [Canonical.setTileAcc, Canonical.modWg, Canonical.modWarp]

theorem Canonical.execMatrixEntryComplete {core} (h : Canonical s) : NextCanonical (Machine.execMatrixEntryComplete core s) := by
  unfold Machine.execMatrixEntryComplete
  grind [Canonical.fixOperands, Canonical.runEntry, Canonical.entryEvents, Canonical.endEntry, nextCanonical_next]

/-! ### Convolutions -/

theorem Canonical.execConvn {sw a} (h : Canonical s) : NextCanonical (Machine.execConvn sw a s) := by
  unfold Machine.execConvn
  refine h.issue_of_body fun _ _ hu => ?_
  dsimp only
  split
  · exact okCanonical_error
  · split
    exacts [okCanonical_error, .ite okCanonical_error (okCanonical_ok.2 hu.spadFix.fresh)]

theorem Canonical.execConvnTake {cluster} (h : Canonical s) : NextCanonical (Machine.execConvnTake cluster s) := by
  unfold Machine.execConvnTake
  refine nextCanonical_next.2 ?_
  split
  · exact h
  · dsimp only
    split
    · exact h.modConv
    · split
      · exact h
      · split
        exacts [h.modConv.modCluster, h]

theorem Canonical.convRead {w sp a n} (h : Canonical s) : Canonical (s.convRead w sp a n).1 := by
  unfold State.convRead
  grind [Canonical.spadTake, Canonical.engRead, Canonical.foldl_fst]

theorem Canonical.convWrite {w id sp a n v} (h : Canonical s) : Canonical (s.convWrite w id sp a n v).1 := by
  unfold State.convWrite
  grind [Canonical.modWg, Canonical.engWrite, Canonical.foldl_fst]

theorem Canonical.convTerms {op oy ox o} (h : Canonical s) : Canonical (s.convTerms op oy ox o).1 := by
  unfold State.convTerms
  grind [Canonical.convRead, Canonical.spadTake, Canonical.foldl_fst]

theorem Canonical.convStep {id} (h : Canonical s) : Canonical (s.convStep id) := by
  unfold State.convStep
  split
  · exact h
  · dsimp only
    split
    · exact h
    · split
      · next e => exact h.orWait (Canonical.ite (h.convTerms.of_eq e) (h.convTerms.of_eq e).modConv)
      · next e =>
          split
          · next e' => exact h.orWait (Canonical.ite ((h.convTerms.of_eq e).convWrite.of_eq e') ((h.convTerms.of_eq e).convWrite.of_eq e').modConv)
          · next e' => exact h.orWait ((h.convTerms.of_eq e).convWrite.of_eq e').modConv

theorem Canonical.convScale {o} (h : Canonical s) : Canonical (s.convScale o) := .ite h.scaleError h

theorem Canonical.execConvnComplete {cluster} (h : Canonical s) : NextCanonical (Machine.execConvnComplete cluster s) := by
  unfold Machine.execConvnComplete
  refine nextCanonical_next.2 ?_
  split
  · exact h
  · dsimp only
    split
    · exact h.convScale.dropConv.opEnd.defer
    · split
      · exact h
      · split
        · exact .ite h h.dropConv.opEnd
        · split
          exacts [h.convScale.dropConv.opEnd, h.convScale.fresh.frame.modConv]

/-! ### Tickets -/

theorem Canonical.claim {r k} (h : Canonical s) : Canonical (s.claim r k) := by
  unfold State.claim
  split
  · split
    · split
      exacts [h.armMon, h]
    · exact h
  · split
    · split
      exacts [h.popHome, h]
    · exact h
  · split <;> exact h

theorem Canonical.execTicketClaim {agent r} (h : Canonical s) : NextCanonical (Machine.execTicketClaim agent r s) := by
  unfold Machine.execTicketClaim
  refine nextCanonical_next.2 ?_
  dsimp only
  split
  · exact h.modDie
  · split
    exacts [h.orWait h.modDie.claim, h]

theorem Canonical.execTicketExpiry {agent r} (h : Canonical s) : NextCanonical (Machine.execTicketExpiry agent r s) := by
  unfold Machine.execTicketExpiry
  refine nextCanonical_next.2 ?_
  dsimp only
  split
  exacts [h.modDie, h]

/-! ### Fatal errors and restarts -/

theorem Canonical.wipe {d} (h : Canonical s) : Canonical (s.wipe d) := h
theorem Canonical.deviceFatal {d cause die} (h : Canonical s) : Canonical (s.deviceFatal d cause die) := h

theorem Canonical.endStart {d r} (h : Canonical s) : Canonical (s.endStart d r) := by
  unfold State.endStart
  refine Canonical.raiseEvent ?_
  split <;> exact h.modDev.foldl fun _ _ hu => hu.modDie

theorem Canonical.execStart {d reason} (h : Canonical s) : NextCanonical (Machine.execStart d reason s) :=
  nextCanonical_next.2 (.ite h ((Canonical.ite h.wipe.modDev h).endStart))

theorem Canonical.execStartTimeout {d} (h : Canonical s) : NextCanonical (Machine.execStartTimeout d s) := nextCanonical_next.2 (.ite h h.endStart)

theorem Canonical.execThermalShutdown {d die} (h : Canonical s) : NextCanonical (Machine.execThermalShutdown d die s) :=
  nextCanonical_next.2 (.ite h.deviceFatal h)

theorem Canonical.execWatchdogExpiry {d} (h : Canonical s) : NextCanonical (Machine.execWatchdogExpiry d s) :=
  nextCanonical_next.2 (.ite h.deviceFatal h.endStart)

theorem Canonical.execCapChange {d cap} (h : Canonical s) : NextCanonical (Machine.execCapChange d cap s) :=
  nextCanonical_next.2 (.ite h h.modDev.repoint.raiseEvent)

theorem Canonical.execPointStable {d} (h : Canonical s) : NextCanonical (Machine.execPointStable d s) := nextCanonical_next.2 h.modDev

/-! ### Host link -/

theorem Canonical.putReg {d off v} (h : Canonical s) : Canonical (s.putReg d off v) :=
  .ite h.modDev.repoint (.ite (.ite h.modDev h) (.ite (.ite h.modDev h) (.ite (.ite h h.modDev) (.ite h.modDev (.ite h.modDev
    (.ite (.ite h h.modDev) h))))))

theorem Canonical.regWrite {d off n v} (h : Canonical s) : Canonical (s.regWrite d off n v) := .ite h h.putReg
theorem Canonical.setWindow {d c w} (h : Canonical s) : Canonical (s.setWindow d c w) := h

theorem Canonical.windowWrite {d c off data} (h : Canonical s) : Canonical (s.windowWrite d c off data) :=
  .ite h (h.setWindow.foldl fun _ _ hu => hu.raiseEvent)

theorem Canonical.execPushWindowWrite {d c off data} (h : Canonical s) : NextCanonical (Machine.execPushWindowWrite d c off data s) :=
  nextCanonical_next.2 (.ite h.windowWrite h)

theorem Canonical.execPushWindowConsume {d c} (h : Canonical s) : NextCanonical (Machine.execPushWindowConsume d c s) := by
  unfold Machine.execPushWindowConsume
  refine nextCanonical_next.2 (h.orWait ?_)
  dsimp only
  split
  · exact h
  · split
    · exact h.setWindow.raiseEvent
    · split
      · exact h.setWindow
      · split
        · exact h
        · next e => exact (h.pushHome.of_eq e).setWindow
        · next e => exact (h.pushHome.of_eq e).setWindow

theorem Canonical.execFreeCountUpdate {d c} (h : Canonical s) : NextCanonical (Machine.execFreeCountUpdate d c s) :=
  nextCanonical_next.2 (.ite h h.hostStore.setWindow)

theorem Canonical.execMsixSignal {d q} (h : Canonical s) : NextCanonical (Machine.execMsixSignal d q s) := by
  unfold Machine.execMsixSignal
  refine nextCanonical_next.2 ?_
  split
  exacts [.ite h.modDev.msi h, h]

theorem Canonical.bar0Write {d off data} (h : Canonical s) : Canonical (s.bar0Write d off data) :=
  .ite h.regWrite (.ite h.windowWrite (.ite h.modDev.soon h.modDev))

theorem Canonical.execRegisterWrite {d off size v} (h : Canonical s) : NextCanonical (Machine.execRegisterWrite d off size v s) :=
  nextCanonical_next.2 (.ite h.bar0Write h)

theorem Canonical.execHostWrite {d bar off data} (h : Canonical s) : NextCanonical (Machine.execHostWrite d bar off data s) :=
  nextCanonical_next.2 (h.orWait (Canonical.ite h (Canonical.ite h.bar0Write (Canonical.ite h (h.foldl fun _ _ hu => hu.hwrNow)))))

theorem Canonical.execHostRead {d bar off n} (h : Canonical s) : NextCanonical (Machine.execHostRead d bar off n s) := by
  unfold Machine.execHostRead
  refine nextCanonical_next.2 (h.orWait (.ite h (.ite h.modDev (.ite h ?_))))
  extract_lets keys blocks
  split
  next t got e =>
  have ht : Canonical (t, got).1 := e ▸ Canonical.foldl_fst (a := (s, [])) h fun _ _ hu => hu.hrdNow
  exact ht.modDev

/-! ### Management commands -/

theorem Canonical.respond {d code tag status result} (h : Canonical s) : Canonical (s.respond d code tag status result) := h

theorem Canonical.command {c code masks f} (h : Canonical s) (hf : ∀ t, f s = some t → Canonical t) : NextCanonical (s.command c code masks f) := by
  unfold State.command
  grind [Canonical.orWait, Canonical.respond, nextCanonical_next]

theorem Canonical.firmwareRead {d pa n} (h : Canonical s) : Canonical (s.firmwareRead d pa n).1 := by
  unfold State.firmwareRead
  grind [Canonical.hrdNow, Canonical.foldl_fst]

theorem Canonical.ctxImage {c} (h : Canonical s) : Canonical (s.ctxImage c).1 := by
  unfold State.ctxImage
  split
  · split
    · next e => exact h.firmwareRead.of_eq e
    · next e => exact h.firmwareRead.of_eq e
  · exact h

theorem Canonical.execCtxWrite {c} (h : Canonical s) : NextCanonical (Machine.execCtxWrite c s) := by
  unfold Machine.execCtxWrite
  grind [Canonical.command, Canonical.ctxImage, Canonical.modDev, Canonical.modDie, Canonical.foldl]

theorem Canonical.execCtxDestroy {c} (h : Canonical s) : NextCanonical (Machine.execCtxDestroy c s) := by
  unfold Machine.execCtxDestroy
  grind [Canonical.command, Canonical.modDev, Canonical.kill]

theorem Canonical.invalidate {d ctx all lo hi} (h : Canonical s) : Canonical (s.invalidate d ctx all lo hi) := h

theorem Canonical.endInval {d} (h : Canonical s) : Canonical (s.endInval d) := by
  unfold State.endInval
  split
  · exact h
  · split
    · exact h
    · dsimp only
      split
      exacts [h.modDev.respond, h.modDev]

theorem Canonical.execTlbInval {c} (h : Canonical s) : NextCanonical (Machine.execTlbInval c s) := by
  unfold Machine.execTlbInval
  grind [Canonical.command, Canonical.invalidate, Canonical.endInval, Canonical.modDev, nextCanonical_next]

theorem Canonical.execImportWrite {c} (h : Canonical s) : NextCanonical (Machine.execImportWrite c s) := by
  unfold Machine.execImportWrite
  grind [Canonical.command, Canonical.modDev]

theorem Canonical.execEvqWrite {c} (h : Canonical s) : NextCanonical (Machine.execEvqWrite c s) := by
  unfold Machine.execEvqWrite
  grind [Canonical.command, Canonical.modDev]

theorem Canonical.setCg {g f} (h : Canonical s) : Canonical (s.setCg g f) := h
theorem Canonical.stopCg {g} (h : Canonical s) : Canonical (s.stopCg g) := h

theorem Canonical.withdraw {d ctx clusters} (h : Canonical s) : Canonical (s.withdraw d ctx clusters) := by
  unfold State.withdraw
  grind [Canonical.setLaunch, Canonical.modCluster, Canonical.foldl]

theorem Canonical.execPreempt {c} (h : Canonical s) : NextCanonical (Machine.execPreempt c s) := by
  unfold Machine.execPreempt
  grind [Canonical.command, Canonical.withdraw, Canonical.modDev, Canonical.settlePre, Canonical.setCg, Canonical.stopCg, Canonical.kill,
    Canonical.foldl]

theorem Canonical.execDbgResume {c} (h : Canonical s) : NextCanonical (Machine.execDbgResume c s) := by
  unfold Machine.execDbgResume
  grind [Canonical.command, Canonical.modDev, Canonical.modWarp, Canonical.modWg]

theorem Canonical.execFwStage {c} (h : Canonical s) : NextCanonical (Machine.execFwStage c s) := by
  unfold Machine.execFwStage
  grind [Canonical.command, Canonical.modDev]

theorem Canonical.execReset {c} (h : Canonical s) : NextCanonical (Machine.execReset c s) := by
  unfold Machine.execReset
  grind [Canonical.command, Canonical.deviceFatal, Canonical.modDev]

theorem Canonical.execAttest {c} (h : Canonical s) : NextCanonical (Machine.execAttest c s) := by
  unfold Machine.execAttest
  grind [Canonical.command, Canonical.hostStore]

/-! ### Launches -/

theorem Canonical.coreRead {d ctx va n} (h : Canonical s) : Canonical (s.coreRead d ctx va n).1 := by
  unfold State.coreRead
  split
  · exact h
  · dsimp only
    split
    · exact h.walked
    · split
      · exact h.walked
      · split
        · exact h.walked
        · split
          · next e => exact h.walked.readHomeBytes.of_eq e
          · next e => exact h.walked.readHomeBytes.of_eq e
      · exact h.walked

theorem Canonical.variants {d ctx va n} (h : Canonical s) : Canonical (s.variants d ctx va n).1 := by
  induction n with
  | zero => exact h
  | succ n ih =>
    unfold State.variants
    grind [Canonical.coreRead]

theorem Canonical.readKd {d ctx va} (h : Canonical s) : Canonical (s.readKd d ctx va).1 := by
  unfold State.readKd
  split
  · next e => exact h.coreRead.of_eq e
  · next e => exact h.coreRead.of_eq e

theorem Canonical.chooseKd {d ctx lr} (h : Canonical s) : Canonical (s.chooseKd d ctx lr).1 := by
  unfold State.chooseKd
  split
  · next e => exact h.readKd.of_eq e
  · next e =>
      split
      · exact h.readKd.of_eq e
      · split
        · exact h.readKd.of_eq e
        · split
          · next e' => exact (h.readKd.of_eq e).variants.of_eq e'
          · next e' =>
              split
              · exact (h.readKd.of_eq e).variants.of_eq e'
              · split
                exacts [(h.readKd.of_eq e).variants.of_eq e', ((h.readKd.of_eq e).variants.of_eq e').readKd]

theorem Canonical.checkLaunch {d ctx lr} (h : Canonical s) : Canonical (s.checkLaunch d ctx lr).1 := by
  unfold State.checkLaunch
  split
  · exact h
  · split
    · next e => exact h.chooseKd.of_eq e
    · next e => split <;> exact h.chooseKd.of_eq e

theorem Canonical.refuseLaunch {d ctx seq lrVa r} (h : Canonical s) : Canonical (s.refuseLaunch d ctx seq lrVa r) := h.raiseEvent

theorem Canonical.launchMet {d e l} (h : Canonical s) : Canonical (s.launchMet d e l) :=
  .ite h.dropTickets.completionWord.completion.dropLaunch (.ite h.dropTickets.setLaunch.repoint h.dropTickets.setLaunch.repoint.setLaunch)

theorem Canonical.readDeps {d l} (h : Canonical s) : Canonical (s.readDeps d l).1 := by
  refine h.foldl_fst (a := (s, _)) fun acc i ha => ?_
  obtain ⟨u, r⟩ := acc
  have hu := ha.walked (dev := d) (agent := 4 * d) (ctx := l.ctx) (va := bits (wordOf l.lr i) 0 45 * 16)
  have hr := hu.coreRead (d := d) (ctx := l.ctx) (va := bits (wordOf l.lr i) 0 45 * 16) (n := 16)
  dsimp only
  repeat' split
  all_goals grind

theorem Canonical.watchWord {d e w} (h : Canonical s) : Canonical (s.watchWord d e w) := by
  unfold State.watchWord
  dsimp only
  split
  · exact h
  · split
    · exact h
    · split
      · split
        · split
          exacts [h.modDie.setLaunch, h.modDie]
        · exact h
      · split
        · split
          exacts [h.setLaunch, h]
        · exact h.modDie

theorem Canonical.checkDeps {d e l} (h : Canonical s) : Canonical (s.checkDeps d e l) := by
  unfold State.checkDeps
  split
  · next e' => exact (h.readDeps.of_eq e').dropLaunch.refuseLaunch
  · next e' =>
      split
      exacts [(h.readDeps.of_eq e').launchMet, (h.readDeps.of_eq e').foldl fun _ _ hu => hu.askDrain]
  · next e' => exact (h.readDeps.of_eq e').foldl fun _ _ hu => hu.watchWord

theorem Canonical.execDependencyCheck {d e} (h : Canonical s) : NextCanonical (Machine.execDependencyCheck d e s) := by
  unfold Machine.execDependencyCheck
  refine nextCanonical_next.2 (h.orWait ?_)
  split
  exacts [.ite h.checkDeps h, h]

theorem Canonical.ageing {d} (h : Canonical s) : Canonical (s.ageing d) := h
theorem Canonical.execLaunchAgeing {d} (h : Canonical s) : NextCanonical (Machine.execLaunchAgeing d s) := nextCanonical_next.2 (.ite h.ageing h)

theorem Canonical.execLaunchAdmit {d} (h : Canonical s) : NextCanonical (Machine.execLaunchAdmit d s) := by
  unfold Machine.execLaunchAdmit
  refine nextCanonical_next.2 (h.orWait ?_)
  have ha := h.ageing (d := d)
  dsimp only
  split
  · exact h
  · split
    · split
      · exact ha
      · next o key dsc _ =>
        have hr := ha.takeRecord (q := o) (key := key) (d := dsc)
        split
        · next u dsc' rcd _ hu =>
          rw [hu] at hr
          grind [Canonical.writeDesc, Canonical.modDev, Canonical.checkLaunch, Canonical.refuseLaunch, Canonical.setLaunch, Canonical.checkDeps]
        · exact ha
    · exact ha

theorem Canonical.placeNext {d e l p} (h : Canonical s) : Canonical (s.placeNext d e l p) := .ite h h.setLaunch.modCluster
theorem Canonical.placeRestore {d e l p cg} (h : Canonical s) : Canonical (s.placeRestore d e l p cg) := .ite h h.modCluster

theorem Canonical.execLaunchPlace {d e p} (h : Canonical s) : NextCanonical (Machine.execLaunchPlace d e p s) := by
  unfold Machine.execLaunchPlace
  refine nextCanonical_next.2 ?_
  split
  · exact h
  · dsimp only
    split
    · split
      · exact h.ageing
      · split
        exacts [h.ageing.placeRestore, .ite h.ageing h.ageing.placeNext]
    · split
      · exact h.ageing
      · split
        exacts [h.ageing.placeRestore, .ite h.ageing h.ageing.placeNext]

theorem Canonical.seat {g} (h : Canonical s) : Canonical (s.seat g) := h.foldl fun _ _ hu => hu.modCore
theorem Canonical.seatAll {gs} (h : Canonical s) : Canonical (s.seatAll gs) := h.foldl fun _ _ hu => hu.seat.dropClean

theorem Canonical.execBindStep {agent cluster} (h : Canonical s) : NextCanonical (Machine.execBindStep agent cluster s) := by
  unfold Machine.execBindStep
  refine nextCanonical_next.2 ?_
  dsimp only
  split
  · exact h
  · split
    · exact h
    · split
      exacts [.ite h (.ite (.ite h h.frame.seatAll) (.ite h h.modCluster.setCg.seatAll)), h.deviceFatal]

theorem Canonical.execWarpRetire {w} (h : Canonical s) : NextCanonical (Machine.execWarpRetire w s) := nextCanonical_next.2 (h.orWait h.retire)

theorem Canonical.rawLine {core ctx va} (h : Canonical s) : Canonical (s.rawLine core ctx va).1 := by
  unfold State.rawLine
  dsimp only
  split
  · exact h.warm
  · split
    · split
      · exact h.warm
      · split
        · exact h.warm.await
        · split
          · next e => exact h.warm.hrdNow.of_eq e
          · next e => exact h.warm.hrdNow.of_eq e
    · exact h.warm

theorem Canonical.fetchLine {core ctx va err1 err2} (h : Canonical s) : Canonical (s.fetchLine core ctx va err1 err2).1 := by
  unfold State.fetchLine
  grind [Canonical.rawLine]

theorem Canonical.execLineFetch {w err1 err2} (h : Canonical s) : NextCanonical (Machine.execLineFetch w err1 err2 s) := by
  unfold Machine.execLineFetch
  refine nextCanonical_next.2 ?_
  split
  · split
    · exact h
    · split
      · exact .ite h.takeTrap h
      · dsimp only
        split
        · exact h
        · split
          · next e => exact h.orWait (Canonical.ite (h.fetchLine.of_eq e).takeTrap (h.fetchLine.of_eq e))
          · next e => exact h.orWait (h.fetchLine.of_eq e).modCore
  · exact h

theorem Canonical.execIllegalOpcode {op} (h : Canonical s) : NextCanonical (Machine.execIllegalOpcode op s) := by
  unfold Machine.execIllegalOpcode
  split
  exacts [nextCanonical_fault, nextCanonical_next.2 h.takeTrap]

/-! ### Saves, restores and tokens -/

theorem Canonical.execDrainDeadline {g} (h : Canonical s) : NextCanonical (Machine.execDrainDeadline g s) := nextCanonical_next.2 (.ite h h.stopCg)

theorem Canonical.execSwapDeadline {g} (h : Canonical s) : NextCanonical (Machine.execSwapDeadline g s) := by
  unfold Machine.execSwapDeadline
  refine nextCanonical_next.2 ?_
  split
  exacts [h, h.kill]

theorem Canonical.unqueue {g} (h : Canonical s) : Canonical (s.unqueue g) := h.foldl fun _ _ hu => hu.modCore.modWg

theorem Canonical.execSaveStart {g} (h : Canonical s) : NextCanonical (Machine.execSaveStart g s) :=
  nextCanonical_next.2 (.ite h h.setCg.unqueue.modDev)

theorem Canonical.execSaveComplete {g bad} (h : Canonical s) : NextCanonical (Machine.execSaveComplete g bad s) := by
  unfold Machine.execSaveComplete
  refine nextCanonical_next.2 (h.orWait ?_)
  extract_lets gs n s0
  split
  · exact h
  · extract_lets k fits s1 s2 s3 s4
    have h0 : Canonical s0 := h.foldl fun _ _ hu => hu.flushNow
    have h1 : Canonical s1 := .ite h0 h0.spill
    have h2 : Canonical s2 := h1.foldl fun _ _ hu => hu.freeSlots
    have h3 : Canonical s3 := .ite h2.modCluster h2
    exact .ite h.kill (.ite h1 h3.setCg.setPg.settlePre)

theorem Canonical.execRestoreComplete {g bad} (h : Canonical s) : NextCanonical (Machine.execRestoreComplete g bad s) := by
  unfold Machine.execRestoreComplete
  refine nextCanonical_next.2 (h.orWait ?_)
  extract_lets gs now
  split
  · exact h
  · next w _ =>
    split
    · exact h.kill
    · split
      · exact h
      · extract_lets s0 s1 s2 s3
        have h0 : Canonical s0 := by
          unfold s0
          refine h.foldl fun u x hu => ?_
          split
          · split <;> [exact hu.unspill; exact hu]
          · exact hu
        split
        · exact h0
        · have h1 : Canonical s1 := h0.foldl fun _ _ hu => hu.modCore.dropClean
          have h3 : Canonical s3 := h1.setCg.foldl fun _ _ hu => hu.freeImage
          exact h3.foldl fun _ _ hu => hu.pump

theorem Canonical.execTokenRefill {agent} (h : Canonical s) : NextCanonical (Machine.execTokenRefill agent s) := by
  unfold Machine.execTokenRefill
  refine nextCanonical_next.2 ?_
  dsimp only
  exact .ite h h.modDie

/-! ### Scrubs, upsets and link errors -/

theorem Canonical.lostDirty {dev ctx b} (h : Canonical s) : Canonical (s.lostDirty dev ctx b) := (h.foldl fun _ _ hu => hu.dropRep).setHall.raiseEvent

theorem Canonical.warpLost {w} (h : Canonical s) : Canonical (s.warpLost w) := by
  unfold State.warpLost
  split
  · split
    · exact h
    · split
      exacts [h.modWarp.takeTrap, h.takeTrap]
  · exact h

theorem Canonical.upset {x} (h : Canonical s) : Canonical (s.upset x) := by
  unfold State.upset
  split
  · exact .ite h h.setErr
  · split
    exacts [h, .ite h.modCore h.modCore.lostDirty]
  · split
    exacts [h, .ite h.l2Drop.lostDirty h.l2Drop]
  · split
    exacts [h, .ite h.lostDirty h.dropRep]
  · exact h.l2Drop.tagLost
  · exact h.modPanel
  · exact h.modPanel
  · exact h.warpLost
  · exact h.modWg
  · exact .ite h h.modWg
  · exact .ite h h.modWg
  · exact .ite h.modCore h
  · exact .ite h.deviceFatal h

theorem Canonical.execPatrolScrub {b} (h : Canonical s) : NextCanonical (Machine.execPatrolScrub b s) := by
  unfold Machine.execPatrolScrub
  refine nextCanonical_next.2 ?_
  split
  · exact h
  · dsimp only
    split
    · exact h.tagRead
    · split
      · exact h.tagRead.frame.setHall
      · exact h.tagRead.frame.setHall
      · exact h.tagRead.frame.setHall
      · exact h.tagRead.frame.setHall
      · exact h.tagRead
    · exact .ite h.tagRead.relabel.clearErr.corrected h.tagRead.relabel.clearErr

theorem Canonical.spadRepair {core bank what} (h : Canonical s) : Canonical (s.spadRepair core bank what) := h.raiseEvent
theorem Canonical.mendBank {core bank} (h : Canonical s) : Canonical (s.mendBank core bank) := h

theorem Canonical.execSpadBankFailure {core bank} (h : Canonical s) : NextCanonical (Machine.execSpadBankFailure core bank s) := by
  unfold Machine.execSpadBankFailure
  refine nextCanonical_next.2 ?_
  split
  · exact h
  · dsimp only
    split
    exacts [h.modCore.spadRepair, h, h.modCore.mendBank.spadRepair.spadRepair]

theorem Canonical.execSpadRebuildComplete {core bank} (h : Canonical s) : NextCanonical (Machine.execSpadRebuildComplete core bank s) := by
  unfold Machine.execSpadRebuildComplete
  refine nextCanonical_next.2 ?_
  split
  exacts [h.modCore.mendBank.spadRepair, h]

theorem Canonical.linkError {d k i down} (h : Canonical s) : Canonical (s.linkError d k i down) := h.raiseEvent

theorem Canonical.execLinkTransferError {d k i} (h : Canonical s) : NextCanonical (Machine.execLinkTransferError d k i s) :=
  nextCanonical_next.2 (.ite h (.ite h.modDev.linkError h.modDev))

theorem Canonical.execLinkReplayExhausted {d k i rd b} (h : Canonical s) : NextCanonical (Machine.execLinkReplayExhausted d k i rd b s) := by
  unfold Machine.execLinkReplayExhausted
  refine nextCanonical_next.2 ?_
  split
  · exact h
  · dsimp only
    split
    · exact h.modDev
    · exact .ite h h.modDev.linkError
    · split
      · exact h
      · split
        exacts [.ite h.modDev h.modDev.setHall, .ite h h.modDev.loseParts, h]

theorem Canonical.execLinkRetrainEnd {d k i ok} (h : Canonical s) : NextCanonical (Machine.execLinkRetrainEnd d k i ok s) :=
  nextCanonical_next.2 (.ite h (.ite h.modDev h.deviceFatal))

/-! ### Dispatch -/

theorem Canonical.exec {i} (h : Canonical s) : NextCanonical (Machine.exec i s) := by
  unfold Machine.exec
  split
  exacts [
    h.issueWarp, h.execBra, h.execBrx, h.execBrd, h.execJoin, h.execCall, h.execRet, h.execExit, h.issueWarp, h.execYield, h.execLaunch, h.issueWarp,
    h.issueWarp, h.issueWarp, h.issueWarp, h.issueWarp, h.issueWarp, h.issueWarp, h.issueWarp, h.issueWarp, h.issueWarp, h.issueWarp, h.issueWarp,
    h.issueWarp, h.issueWarp, h.issueWarp, h.issueWarp, h.issueWarp, h.issueWarp, h.issueWarp, h.issueWarp, h.issueWarp, h.issueWarp, h.issueWarp,
    h.issueWarp, h.issueWarp, h.issueWarp, h.issueWarp, h.issueWarp, h.issueWarp, h.issueWarp, h.issueWarp, h.issueWarp, h.issueWarp, h.issueWarp,
    h.issueWarp, h.issueWarp, h.issueWarp, h.issueWarp, h.issueWarp, h.issueWarp, h.issueWarp, h.issueWarp, h.issueWarp, h.issueWarp, h.issueWarp,
    h.issueWarp, h.issueWarp, h.issueWarp, h.issueWarp, h.issueWarp, h.issueWarp, h.issueWarp, h.issueWarp, h.issueWarp, h.issueWarp, h.issueWarp,
    h.issueWarp, h.issueWarp, h.issueWarp, h.issueWarp, h.issueWarp, h.issueWarp, h.issueWarp, h.issueWarp, h.issueWarp, h.issueWarp, h.issueWarp,
    h.issueWarp, h.execLd, h.execSt, h.execLds, h.execSts, h.execLdhdr, h.execSthdr, h.execAtom, h.execAtoms, h.execCas, h.execCass, h.execRed,
    h.execFence, h.execPref, h.execCctl, h.execVinv, h.execResid, h.execChinit, h.execPush, h.execPopTry, h.execPopWait, h.execCpy, h.execCpyx,
    h.issueWarp, h.execBinit, h.execArrive, h.execExpect, h.execWait, h.execTwait, h.execMon, h.execMonx, h.execTbind, h.execTrel, h.execTstat,
    h.execMapdef, h.execTmma, h.execTmmas, h.execWbld, h.execWbinv, h.execAccz, h.execAccld, h.execAccst, h.execAccsc, h.execAccadd, h.execAccrd,
    h.execAccwr, h.execConvn, h.execTtest, h.execTrap, h.execTret, h.execSysrd, h.execSyswr, h.execBkpt, h.execEvt, h.issueWarp, h.execCtxWrite,
    h.execCtxDestroy, h.execTlbInval, h.execImportWrite, h.execPreempt, h.execEvqWrite, h.execDbgResume, h.execFwStage, h.execReset, h.execAttest,
    h.execRegisterWrite, h.execHostWrite, h.execHostRead, h.execPushWindowWrite, h.execPushWindowConsume, h.execLaunchAdmit, h.execLaunchAgeing,
    h.execDependencyCheck, h.execPointStable, h.execLaunchPlace, h.execBindStep, h.execWarpRetire, h.execLineFetch, h.execResultWriteback,
    h.execLoadComplete, h.execStoreAck, h.execWarpWake, h.execSleepExpiry, h.execYieldExpiry, h.execMatrixEntryStart, h.execTmmaStep, h.execWbldStep,
    h.execMatrixEntryComplete, h.execTouchstoneRun, h.execCopyTake, h.execCopyComplete, h.execCopyAbort, h.execConvnTake, h.execConvnComplete,
    h.execRouterArrival, h.execPairingExpiry, h.execChinitHome, h.execChannelPushHome, h.execChannelPopHome, h.execChannelAck, h.execChannelDelivery,
    h.execBarrierInitUpdate, h.execBarrierArrival, h.execBarrierExpectation, h.execBarrierCredit, h.execMonitorArm, h.execMonxHome,
    h.execTicketClaim, h.execTicketExpiry, h.execRds, h.execRdx, h.execUpg, h.execWbk, h.execHrd, h.execHwr, h.execInvalidate, h.execRecall,
    h.execForward, h.execDrainRequest, h.execDrainAnswer, h.execSerialisationRequest, h.execViewLineRequest, h.execVdDrop, h.execPageWalk,
    h.execLostAgentTimeout, h.execDeferredTrapReport, h.execSiblingHalt, h.execDrainDeadline, h.execSwapDeadline, h.execSaveStart,
    h.execSaveComplete, h.execRestoreComplete, h.execTokenRefill, h.execCapChange, h.execThermalShutdown, h.execWatchdogExpiry, h.execStart,
    h.execStartTimeout, h.execPatrolScrub, h.execSpadBankFailure, h.execSpadRebuildComplete, h.execLinkTransferError, h.execLinkReplayExhausted,
    h.execLinkRetrainEnd, h.execIllegalOpcode, h.execMsixSignal, h.execFreeCountUpdate]

/-! ### The issue stage and the moves -/

theorem Canonical.trySlot {w l i} (h : Canonical s) : NextCanonical (s.trySlot w l i) := by
  unfold State.trySlot
  split
  exacts [nextCanonical_next.2 h.takeTrap, h.frame.exec]

theorem Canonical.noted {w x} (h : Canonical s) : Canonical (s.noted w x) := by
  unfold State.noted
  split <;> exact h

theorem Canonical.runSlot {w l i} (h : Canonical s) : NextCanonical (s.runSlot w l i) := by
  unfold State.runSlot
  grind [Canonical, Canonical.takeTrap, Canonical.exec, Canonical.noted, nextCanonical_next]

theorem Canonical.issuedGroup {core w} (h : Canonical s) : Canonical (s.issuedGroup core w) := .ite h h

theorem Canonical.issueWarpSlot {w} (h : Canonical s) : NextCanonical (s.issueWarpSlot w) := by
  unfold State.issueWarpSlot
  grind [Canonical.takeTrap, Canonical.modWarp, Canonical.runSlot, Canonical.soon, Canonical.pump, nextCanonical_next]

theorem Canonical.issueSecond {w l} (h : Canonical s) : NextCanonical (s.issueSecond w l) := by
  unfold State.issueSecond
  grind [Canonical.runSlot, Canonical.pump, nextCanonical_next]

theorem Canonical.issueStage {core q} (h : Canonical s) : NextCanonical (s.issueStage core q) := by
  unfold State.issueStage
  split
  exacts [nextCanonical_next.2 h, h.modCore.issuedGroup.issueWarpSlot]

theorem Canonical.tickDev {d} (h : Canonical s) : Canonical (s.tickDev d) := .ite h.modDev h

theorem Canonical.advanceOp {id} (h : Canonical s) : Canonical (s.advanceOp id) := by
  unfold State.advanceOp
  split
  · split
    exacts [h.residStep, h.advanceAcc]
  · split
    · exact h.advanceUpd
    · split
      exacts [h.advanceChop, h.mergeOwned]

theorem Canonical.takeMail {d} (h : Canonical s) : NextCanonical (s.takeMail d) := by
  unfold State.takeMail
  split
  · exact nextCanonical_next.2 h
  · split
    · exact nextCanonical_next.2 h.endInval
    · split
      · exact nextCanonical_next.2 h
      · dsimp only
        split
        exacts [h.modDev.exec, nextCanonical_next.2 h.modDev.respond]

theorem Canonical.moveNow {x} (h : Canonical s) : NextCanonical (s.moveNow x) := by
  unfold State.moveNow
  split
  · exact nextCanonical_next.2 h.tickDev
  · exact h.issueStage
  · exact h.issueSecond
  · exact h.exec
  · exact nextCanonical_next.2 h.performPart
  · exact nextCanonical_next.2 h.fillFromReplica
  · exact nextCanonical_next.2 h.advanceOp
  · exact nextCanonical_next.2 h.fenceMove
  · exact nextCanonical_next.2 h.evictL1
  · exact nextCanonical_next.2 h.upset
  · exact nextCanonical_next.2 h.copyRead
  · exact nextCanonical_next.2 h.copyStep
  · exact nextCanonical_next.2 h.convStep
  · exact h.takeMail
  · exact nextCanonical_next.2 h.pump

theorem Canonical.moved {m} (h : Canonical s) (h1 : Canonical t) : Canonical (s.moved m t) := by
  unfold State.moved
  split
  exacts [h1.frame.forget, h, h.queueMove]

theorem Canonical.move {m} (h : Canonical s) : NextCanonical (s.move m) := by
  unfold State.move
  grind [Canonical, Canonical.moveNow, Canonical.moved, nextCanonical_next]

theorem Canonical.nextMove (h : Canonical s) : NextCanonical (s.nextMove) := by
  unfold State.nextMove
  split
  exacts [h.move, h.frame.move]

/-! ### The step -/

theorem Canonical.step (h : Canonical s) : NextCanonical (Machine.step s) := h.nextMove

end Sys2Proof.Machine
end

section
/-! The obligation of the scope chapter. -/

namespace Sys2Proof.Machine

/-- Settles O60, by the lemmas above along the definition of `step`: the two writes of memory keep its canonical form, and nothing else
touches it. -/
theorem canonicalKept : Obligations.CanonicalKept := by
  unfold Obligations.CanonicalKept
  exact fun s t h e => h.step t e

end Sys2Proof.Machine
end

section
/-! SUPPORT. What the device, die and host records read after each update, and what an event record leaves as it was; entries of
selected keys; bytes of numbers. -/

namespace Sys2Proof.Machine

variable (s : State)

/-! ### Devices and dies -/

@[simp] theorem dev_modDev (d : Nat) (f : Dev → Dev) : (s.modDev d f).dev d = f (s.dev d) := by simp [State.modDev, State.setDev, State.dev]
@[simp] theorem die_modDie (a : Nat) (f : Die → Die) : (s.modDie a f).die a = f (s.die a) := by simp [State.modDie, State.die]
@[simp] theorem die_modDev (d : Nat) (f : Dev → Dev) (a : Nat) : (s.modDev d f).die a = s.die a := rfl
@[simp] theorem dev_modDie (a : Nat) (f : Die → Die) (d : Nat) : (s.modDie a f).dev d = s.dev d := rfl

theorem die_modDie_other {a b : Nat} (f : Die → Die) (h : a ≠ b) : (s.modDie a f).die b = s.die b := by
  simp [State.modDie, State.die, tabGetD_set_other _ _ _ h]

/-! ### Event records (R390) -/

/-- Stores to host memory change nothing else. -/
theorem foldl_hostStore_eq (d : Nat) (l : List Nat) (f g : Nat → Nat) :
    ∃ host, l.foldl (fun (t : State) i => t.hostStore d (f i) 8 (g i)) s = { s with host := host } := by
  induction l generalizing s with
  | nil => exact ⟨s.host, rfl⟩
  | cons i l ih =>
    obtain ⟨host, h⟩ := ih (s.hostStore d (f i) 8 (g i))
    exact ⟨host, h⟩

/-- An event record takes a sequence number of its die, and changes host memory and the event queues of its device; nothing else. -/
theorem raiseEvent_eq (d q die named ty : Nat) (pay : List Nat) : ∃ devs host evqs,
    s.raiseEvent d q die named ty pay =
      { s.modDie (4 * d + die) (fun x => { x with evSeq := x.evSeq + 1 }) with devs := devs, host := host } ∧
    tabGetD devs d {} = { s.dev d with evqs := evqs } := by
  unfold State.raiseEvent
  extract_lets agent seq s1 e devEv w0 at_ rec_ s2 s3
  split
  · exact ⟨s.devs, s.host, (s.dev d).evqs, rfl, rfl⟩
  · split
    · exact ⟨_, _, _, rfl, tabGetD_set_same _ _ _ _⟩
    · obtain ⟨host, h⟩ : ∃ host, s2 = { s1 with host := host } := foldl_hostStore_eq ..
      simp only [s3, h]
      exact ⟨_, _, _, rfl, tabGetD_set_same _ _ _ _⟩

section
variable (d q die named ty : Nat) (pay : List Nat)

@[simp] theorem raiseEvent_hbm : (s.raiseEvent d q die named ty pay).hbm = s.hbm := by
  obtain ⟨devs, host, evqs, h, -⟩ := raiseEvent_eq s d q die named ty pay
  rw [h]; rfl

@[simp] theorem raiseEvent_wgs : (s.raiseEvent d q die named ty pay).wgs = s.wgs := by
  obtain ⟨devs, host, evqs, h, -⟩ := raiseEvent_eq s d q die named ty pay
  rw [h]; rfl

theorem raiseEvent_die : ((s.raiseEvent d q die named ty pay).die (4 * d + die)).evSeq = (s.die (4 * d + die)).evSeq + 1 := by
  obtain ⟨devs, host, evqs, h, -⟩ := raiseEvent_eq s d q die named ty pay
  rw [h]
  exact congrArg Die.evSeq (die_modDie s (4 * d + die) (fun x => { x with evSeq := x.evSeq + 1 }))

theorem raiseEvent_dev : ∃ evqs, (s.raiseEvent d q die named ty pay).dev d = { s.dev d with evqs := evqs } := by
  obtain ⟨devs, host, evqs, h, hd⟩ := raiseEvent_eq s d q die named ty pay
  exact ⟨evqs, by rw [h]; exact hd⟩

end

/-! ### Tables under a selection of keys -/

theorem tabGet_filter_key {α : Type} (t : Tab α) (p : Nat → Bool) (i : Nat) :
    tabGet (t.filter (fun e => p e.1)) i = if p i then tabGet t i else none := by
  induction t with
  | nil => simp [tabGet]
  | cons e t ih =>
    obtain ⟨k, v⟩ := e
    by_cases hk : k = i
    · subst hk; cases h : p k <;> simp_all [tabGet]
    · cases h : p k <;> simp_all [tabGet]

/-! ### Bytes of numbers -/

/-- The bytes of a number, lowest first. -/
theorem bytesOf_eq_map (n v : Nat) : bytesOf n v = (List.range n).map (fun i => BitVec.ofNat 8 (v / 256 ^ i)) := by
  induction n generalizing v with
  | zero => rfl
  | succ n ih => simp [bytesOf, ih, List.range_succ_eq_map, Function.comp_def, Nat.div_div_eq_div_mul, pow_succ']

@[simp] theorem length_bytesOf (n v : Nat) : (bytesOf n v).length = n := by simp [bytesOf_eq_map]

theorem ofBytes_bytesOf (n v : Nat) : ofBytes (bytesOf n v) = v % 256 ^ n := by
  induction n generalizing v with
  | zero => simp [bytesOf, ofBytes, Nat.mod_one]
  | succ n ih => rw [bytesOf, ofBytes, ih, BitVec.toNat_ofNat, show (2 : Nat) ^ 8 = 256 from rfl, Nat.pow_succ', Nat.mod_mul]

/-- A byte of a 64-bit value. -/
theorem getD_bytesOf (v : DWord) {i : Nat} (h : i < 8) : (bytesOf 8 v.toNat).getD i 0 = v.extractLsb' (8 * i) 8 := by
  apply BitVec.eq_of_toNat_eq
  simp [bytesOf_eq_map, h, BitVec.extractLsb'_toNat, Nat.shiftRight_eq_div_pow, pow_mul]

end Sys2Proof.Machine
end

section
/-! The obligation of the resets and starts (R23 to R25, R304, R367, R393, R394). -/

namespace Sys2Proof.Machine

variable (s : State) (d : Nat)

/-! ### The cap -/

/-- The point in force after a change stands at the target, which is not above the cap. -/
theorem repoint_dev : ((s.repoint d).dev d).regs.cap = (s.dev d).regs.cap ∧ ((s.repoint d).dev d).regs.force ≤ (s.dev d).regs.cap := by
  have hcap : (s.dev d).target ≤ (s.dev d).regs.cap := min_le_left _ _
  unfold State.repoint
  rw [dev_modDev]
  split
  · next h => exact ⟨rfl, h ▸ hcap⟩
  · exact ⟨rfl, hcap⟩

/-- A new cap bounds the point in force at once (log 72) and raises one event (R24). -/
theorem execCapChange_lowers (cap : BitVec 3) (hup : (s.dev d).up = true) (hne : (s.dev d).regs.cap ≠ cap.toNat) :
    ∃ t, execCapChange d cap s = .next t ∧ (t.dev d).regs.cap = cap.toNat ∧ (t.dev d).regs.force ≤ cap.toNat ∧
      (t.die (4 * d)).evSeq = (s.die (4 * d)).evSeq + 1 ∧ t.hbm = s.hbm ∧ t.wgs = s.wgs := by
  let u := (s.modDev d (fun x => { x with regs := { x.regs with cap := cap.toNat } })).repoint d
  have hu : (u.dev d).regs.cap = cap.toNat ∧ (u.dev d).regs.force ≤ cap.toNat := by
    simpa using repoint_dev (s.modDev d (fun x => { x with regs := { x.regs with cap := cap.toNat } })) d
  obtain ⟨evqs, hd⟩ := raiseEvent_dev u d 64 0 0 0x20 [cap.toNat]
  refine ⟨u.raiseEvent d 64 0 0 0x20 [cap.toNat], by simp [execCapChange, hup, hne, u], ?_, ?_, raiseEvent_die u d 64 0 0 0x20 _, ?_, ?_⟩
  · rw [hd]; exact hu.1
  · rw [hd]; exact hu.2
  · rw [raiseEvent_hbm]; rfl
  · rw [raiseEvent_wgs]; rfl

/-! ### Device-fatal faults -/

/-- A reset of a device takes its workgroups and leaves the others'. -/
theorem wipe_wgs : (s.wipe d).wgs = s.wgs.filter (fun g => g.id.dev != d) := rfl

/-- A reset of a device leaves its cores as they come up. -/
theorem coreAt_wipe {k : Nat} (h : devOfCore k = d) : (s.wipe d).coreAt k = {} := by
  have hk := tabGet_filter_key (s.dropWork (fun w => w.wg.dev = d)).cores (fun k => devOfCore k != d) k
  simp only [h, bne_self_eq_false, Bool.false_eq_true, if_false] at hk
  simp [State.coreAt, State.wipe, tabGetD, hk]

/-- What a device-fatal fault leaves of the record of its device. -/
theorem deviceFatal_dev (cause die : Nat) : (s.deviceFatal d cause die).dev d =
    let x := (s.dev d).afterReset
    { x with regs := { x.regs with fatal := cause, fatalDie := die }, msix := 0 :: x.msix } := by
  rw [State.deviceFatal, State.msi, dev_modDev, dev_modDev]
  rfl

/-- A device-fatal fault leaves its cause, takes the device's contexts, workgroups and cores, and signals vector 0 (R367); HBM and host memory
stay (log 68). -/
theorem deviceFatal_resets (cause die : Nat) : let t := s.deviceFatal d cause die
    (t.dev d).up = false ∧ (t.dev d).regs.fatal = cause ∧ (t.dev d).regs.fatalDie = die ∧ (t.dev d).ctxs = [] ∧
    (t.dev d).msix.head? = some 0 ∧ (∀ g ∈ t.wgs, g.id.dev ≠ d) ∧ (∀ g ∈ s.wgs, g.id.dev ≠ d → g ∈ t.wgs) ∧
    (∀ k, devOfCore k = d → t.coreAt k = {}) ∧ t.hbm = s.hbm ∧ t.host = s.host := by
  have hdev := deviceFatal_dev s d cause die
  have hwgs : (s.deviceFatal d cause die).wgs = s.wgs.filter (fun g => g.id.dev != d) := wipe_wgs s d
  refine ⟨by rw [hdev]; rfl, by rw [hdev], by rw [hdev], by rw [hdev]; rfl, by rw [hdev]; rfl, ?_, ?_, fun k hk => coreAt_wipe s d hk, rfl, rfl⟩
  · simp [hwgs]
  · simp +contextual [hwgs]

/-! ### Starts -/

/-- The refill counters of dies do not touch their event numbers. -/
theorem foldl_refill (l : List Nat) (f : Nat → Nat) (c : Nat) : ∃ dies,
    l.foldl (fun (t : State) i => t.modDie (f i) (fun y => { y with refill := c })) s = { s with dies := dies } ∧
    ∀ a, (tabGetD dies a {}).evSeq = (s.die a).evSeq := by
  induction l generalizing s with
  | nil => exact ⟨s.dies, rfl, fun _ => rfl⟩
  | cons i l ih =>
    obtain ⟨dies, h, hd⟩ := ih (s.modDie (f i) (fun y => { y with refill := c }))
    refine ⟨dies, h, fun a => (hd a).trans ?_⟩
    by_cases ha : f i = a
    · subst ha; simp
    · rw [die_modDie_other s _ ha]

/-- What the end of a start makes of the device (R394), and what it leaves: an image whose signature fails stays refused (log 10). -/
theorem endStart_dev (r : Nat) : let t := s.endStart d r
    let fw := (s.dev d).fw
    let minimal := decide (3 ≤ (s.dev d).regs.failed)
    let reason := s.startReason d r
    (t.dev d).up = decide (reason = 0) ∧ (t.dev d).regs.reason = reason ∧ (t.dev d).regs.minimal = minimal ∧
    (t.dev d).regs.failed = (if reason = 0 ∧ minimal = false then 0 else min 255 ((s.dev d).regs.failed + 1)) ∧
    (t.dev d).fw = (if reason ≠ 0 then (if reason = 1 ∧ minimal = false then { fw with signed := false } else fw)
      else if minimal then { fw with running := Config.recoveryDigest, version := Config.recoveryVersion, staged := some fw.flash }
      else { fw with running := fw.flash.1, version := fw.flash.2, staged := none }) ∧
    (t.die (4 * d)).evSeq = (s.die (4 * d)).evSeq + 1 ∧ t.hbm = s.hbm ∧ t.wgs = s.wgs := by
  dsimp only
  unfold State.endStart
  extract_lets x reason minimal count ok src fw ns failed s1 s2 s3
  obtain ⟨dies, h2, hseq⟩ : ∃ dies, s2 = { s1 with dies := dies } ∧ ∀ a, (tabGetD dies a {}).evSeq = (s1.die a).evSeq := foldl_refill ..
  obtain ⟨lost, h3⟩ : ∃ lost, s3 = { s1 with dies := dies, lost := lost } := by
    unfold s3; split <;> simp only [h2] <;> exact ⟨_, rfl⟩
  obtain ⟨evqs, hd⟩ := raiseEvent_dev s3 d 64 0 0 0x24 [if minimal then 1 else 0, reason, failed, x.regs.fatal]
  have hdev : s3.dev d = s1.dev d := by rw [h3]; rfl
  have hseq3 : (s3.die (4 * d)).evSeq = (s.die (4 * d)).evSeq := by rw [h3]; exact hseq _
  rw [hdev, dev_modDev] at hd
  refine ⟨by rw [hd], by rw [hd], by rw [hd], ?_, ?_, ?_, ?_, ?_⟩
  · rw [hd]; simp only [failed, ok, count, reason, minimal, x, Bool.and_eq_true, decide_eq_true_eq, Bool.not_eq_true']
  · rw [hd]; simp [fw, ok, reason, minimal, x, src, Firmware.atStart]
  · exact (raiseEvent_die s3 d 64 0 0 0x24 _).trans (congrArg (· + 1) hseq3)
  · rw [raiseEvent_hbm, h3]; rfl
  · rw [raiseEvent_wgs, h3]; rfl

/-- The reason with which a start ends, as R393 and log 10 give it. -/
theorem startReason_eq (r : Nat) : s.startReason d r =
    let fw := (s.dev d).fw
    let minimal := decide (3 ≤ (s.dev d).regs.failed)
    let r0 := if r = 2 ∧ Config.fusedMinimum ≤ (if minimal then Config.recoveryVersion else fw.flash.2) then 0 else r
    if r0 = 0 ∧ minimal = false then (if fw.signed = false then 1 else if fw.flash.2 < Config.fusedMinimum then 2 else 0) else r0 := by
  simp [State.startReason, Firmware.romReason, Firmware.startVersion]

/-- A START of a reason in Table 12, a START_TIMEOUT and a WATCHDOG_EXPIRY of a device that is not up end the start under way. -/
theorem exec_endStart {i : Instr} {r : Nat} (hup : (s.dev d).up = false)
    (hi : (∃ b : Byte, i = .start d b ∧ b.toNat = r ∧ r ≤ 7) ∨ (i = .startTimeout d ∧ r = 6) ∨ (i = .watchdogExpiry d ∧ r = 7)) :
    exec i s = .next (s.endStart d r) := by
  rcases hi with ⟨b, rfl, rfl, hb⟩ | ⟨rfl, rfl⟩ | ⟨rfl, rfl⟩
  · simp [dispatch_start, execStart, hup, Nat.not_lt.mpr hb]
  · simp [dispatch_startTimeout, execStartTimeout, hup]
  · simp [dispatch_watchdogExpiry, execWatchdogExpiry, hup]

/-! ### START_STATUS -/

/-- A failed start is read in START_STATUS while the device is down. -/
theorem execHostRead_startStatus (hup : (s.dev d).up = false) (hs : s.stall = false) :
    ∃ t, execHostRead d 0 0x4058 8 s = .next t ∧ (t.dev d).hpoison = false ∧ t.hbm = s.hbm ∧ t.wgs = s.wgs ∧
      (t.dev d).hread = bytesOf 8 ((if (s.dev d).regs.minimal then 1 else 0) + (s.dev d).regs.reason * 2 ^ 8 + (s.dev d).regs.failed * 2 ^ 16) := by
  let t := s.modDev d (fun x => { x with hread := (List.range 8).map (fun i => s.bar0Byte d (0x4058 + i)), hpoison := false })
  have ht : t.stall = false := hs
  refine ⟨t, by simp [execHostRead, hup, State.orWait, t, ht], by simp [t], rfl, rfl, ?_⟩
  rw [dev_modDev, bytesOf_eq_map]
  refine List.map_congr_left fun i hi => ?_
  have hi : i < 8 := List.mem_range.mp hi
  have h1 : (0x4058 + i) / 8 * 8 = 0x4058 := by omega
  have h2 : (0x4058 + i) % 8 = i := by omega
  simp only [State.bar0Byte, h1, h2]
  rw [if_neg (by omega), if_neg (by omega), if_neg (by omega), if_pos (by omega)]
  simp [State.reg64]

/-- Settles O54: the cap by the target of a change of point, the faults by `deviceFatal_resets`, the starts by `endStart_dev`. -/
theorem resetsAndStarts : Obligations.ResetsAndStarts := by
  unfold Obligations.ResetsAndStarts
  refine fun s d => ⟨fun cap hup hne => execCapChange_lowers s d cap hup hne, ?_, ?_, execHostRead_startStatus s d⟩
  · rintro i cause die hi hup
    rcases hi with ⟨rfl, rfl⟩ | ⟨rfl, rfl⟩
    · obtain ⟨h1, h2, h3, h⟩ := deviceFatal_resets s d 1 (die % 4)
      exact ⟨s.deviceFatal d 1 (die % 4), by simp [dispatch_thermalShutdown, execThermalShutdown, hup], h1, h2, fun _ => h3, h⟩
    · obtain ⟨h1, h2, -, h⟩ := deviceFatal_resets s d 6 0
      exact ⟨s.deviceFatal d 6 0, by simp [dispatch_watchdogExpiry, execWatchdogExpiry, hup], h1, h2, by simp, h⟩
  · intro i r hup hi
    have h := endStart_dev s d r
    rw [startReason_eq] at h
    exact ⟨s.endStart d r, exec_endStart s d hup hi, h⟩

end Sys2Proof.Machine
end

section
/-! SUPPORT. Runs of bytes put into a table. -/

namespace Sys2Proof.Machine

/-! ### Runs of table entries -/

/-- The keys and values of a run that begins at `off` with element `n` of a list. -/
def runFrom {α : Type} (off n : Nat) (l : List α) : List (Nat × α) := (l.zipIdx n).map (fun x => (off + x.2, x.1))

/-- The entries that a run has, written where the keys pass a check. -/
theorem tabGet_foldl_runFrom {α : Type} (p : Nat → Bool) (off n : Nat) (l : List α) (t : Tab α) (z : α) (j : Nat) :
    tabGet (((runFrom off n l).filter (fun x => p x.1)).foldl (fun t x => tabSet t x.1 x.2) t) j =
      if off + n ≤ j ∧ j < off + n + l.length ∧ p j = true then some (l.getD (j - (off + n)) z) else tabGet t j := by
  induction l generalizing n t with
  | nil => simp [runFrom, show ¬(off + n ≤ j ∧ j < off + n ∧ p j = true) by omega]
  | cons b l ih =>
    have ht : tabGet (if p (off + n) then tabSet t (off + n) b else t) j =
        if j = off + n ∧ p j = true then some b else tabGet t j := by
      by_cases hj : j = off + n
      · subst hj; split <;> simp_all
      · simp only [hj, false_and, if_false]; split <;> simp [tabGet_set_other _ _ (Ne.symm hj)]
    have hrun : runFrom off n (b :: l) = (off + n, b) :: runFrom off (n + 1) l := rfl
    have hstep : ((runFrom off n (b :: l)).filter (fun x => p x.1)).foldl (fun t x => tabSet t x.1 x.2) t =
        ((runFrom off (n + 1) l).filter (fun x => p x.1)).foldl (fun t x => tabSet t x.1 x.2) (if p (off + n) then tabSet t (off + n) b else t) := by
      rw [hrun, List.filter_cons]; split <;> simp_all
    rw [hstep, ih, ht]
    by_cases hp : p j = true
    · rcases lt_trichotomy j (off + n) with h | h | h
      · rw [if_neg (by omega), if_neg (by omega), if_neg (by omega)]
      · subst h; simp [hp]
      · have hd : j - (off + n) = (j - (off + (n + 1))) + 1 := by omega
        simp only [List.length_cons, hp, and_true, hd, List.getD_cons_succ]
        by_cases hl : j < off + n + 1 + l.length
        · rw [if_pos (by omega), if_pos (by omega)]
        · rw [if_neg (by omega), if_neg (by omega), if_neg (by omega)]
    · simp [hp]

end Sys2Proof.Machine
end

section
/-! SUPPORT. Host writes to BAR0 (Table 13) and push windows (R297, R298). -/

namespace Sys2Proof.Machine

variable (s : State) (d : Nat)

/-! ### Bring-up registers -/

/-- A register write of eight bytes reaches the register of its offset. -/
theorem execRegisterWrite_reg {off : Nat} (v : DWord) (hup : (s.dev d).up = true) (h1 : 0x4000 ≤ off) (h2 : off < 0x7000) (h3 : off % 8 = 0) :
    execRegisterWrite d off 8 v s = .next (s.putReg d off v.toNat) := by
  have hv : v.toNat % 18446744073709551616 = v.toNat := Nat.mod_eq_of_lt v.isLt
  simp [execRegisterWrite, hup, State.bar0Write, h1, h2, ofBytes_bytesOf, hv, State.regWrite, h3, Nat.div_mul_cancel (Nat.dvd_of_mod_eq_zero h3)]

/-- A register write to a read-only register changes nothing. -/
theorem execRegisterWrite_readOnly {off : Nat} (n : Nat) (v : DWord) (h : off = 0x4050 ∨ off = 0x4058 ∨ off = 0x4060) :
    execRegisterWrite d off n v s = .next s := by
  have hput : ∀ w, s.putReg d off w = s := by intro w; rcases h with rfl | rfl | rfl <;> rfl
  have h8 : off / 8 * 8 = off := by omega
  simp [execRegisterWrite, State.bar0Write, State.regWrite, h8, hput, show 0x4000 ≤ off by omega, show off < 0x7000 by omega]

/-! ### The command block (R391) -/

/-- Bytes put into the command block stand in the mailbox, and are noted. -/
theorem foldl_bar0Put {off : Nat} (n : Nat) (l : List Byte) (x : Dev) (h : off + n + l.length ≤ 0x40) :
    (l.zipIdx n).foldl (fun x bi => x.bar0Put (off + bi.2) bi.1) x =
      { x with mbox := (runFrom off n l).foldl (fun t y => tabSet t y.1 y.2) x.mbox
               mboxIn := (runFrom off n l).foldl (fun k y => (k ++ [y.1]).dedup) x.mboxIn } := by
  induction l generalizing n x with
  | nil => rfl
  | cons b l ih =>
    have hn : off + n < 0x40 := by simp at h; omega
    have hput : x.bar0Put (off + n) b = { x with mbox := tabSet x.mbox (off + n) b, mboxIn := (x.mboxIn ++ [off + n]).dedup } := by
      simp [Dev.bar0Put, hn]
    rw [List.zipIdx_cons, List.foldl_cons, hput, ih (n + 1) _ (by simp at h; omega)]
    rfl

/-- Noting a run of new offsets one by one lists each of them once. -/
theorem foldl_note_runFrom (off n : Nat) (l : List Byte) :
    (runFrom off n l).foldl (fun k y => (k ++ [y.1]).dedup) ((List.range n).map (off + ·)) = (List.range (n + l.length)).map (off + ·) := by
  induction l generalizing n with
  | nil => rfl
  | cons b l ih =>
    have hnew : ((List.range n).map (off + ·) ++ [off + n]).dedup = (List.range (n + 1)).map (off + ·) := by
      rw [List.range_succ, List.map_append]
      refine List.Nodup.dedup ?_
      rw [← List.map_singleton (f := (off + ·)), ← List.map_append, ← List.range_succ]
      exact List.nodup_range.map (fun _ _ => Nat.add_left_cancel)
    have hrun : runFrom off n (b :: l) = (off + n, b) :: runFrom off (n + 1) l := rfl
    rw [hrun, List.foldl_cons, hnew, ih, List.length_cons]
    congr 2; omega

/-- A host write into the command block: its bytes stand in the mailbox, and the command is taken once all are in (R391). -/
theorem bar0Write_mailbox (off : Nat) (l : List Byte) (h : off + l.length ≤ 0x40) (hoff : off < 0x40) : let t := s.bar0Write d off l
    (∀ j, tabGet (t.dev d).mbox j = if off ≤ j ∧ j < off + l.length then some (l.getD (j - off) 0) else tabGet (s.dev d).mbox j) ∧
    (t.dev d).mboxIn = (runFrom off 0 l).foldl (fun k y => (k ++ [y.1]).dedup) (s.dev d).mboxIn ∧
    ((t.dev d).mboxIn.length = 64 → Move.mailbox d ∈ t.agenda) ∧ t.hbm = s.hbm ∧ t.wgs = s.wgs ∧ t.hold = s.hold := by
  have hno1 : ¬(0x4000 ≤ off ∧ off < 0x7000) := by omega
  have hno2 : ¬(0x1000000 ≤ off ∧ off < 0x1100000) := by omega
  let u := s.modDev d (fun x => { x with
    mbox := (runFrom off 0 l).foldl (fun t y => tabSet t y.1 y.2) x.mbox
    mboxIn := (runFrom off 0 l).foldl (fun k y => (k ++ [y.1]).dedup) x.mboxIn })
  have hwrite : s.bar0Write d off l = if (u.dev d).mboxIn.length = 64 then u.soon (.mailbox d) else u := by
    simp only [State.bar0Write, if_neg hno1, if_neg hno2, foldl_bar0Put 0 l _ (show off + 0 + l.length ≤ 0x40 by omega), hoff, decide_true,
      Bool.true_and, decide_eq_true_eq, u]
  have hmbox : ∀ j, tabGet (u.dev d).mbox j = if off ≤ j ∧ j < off + l.length then some (l.getD (j - off) 0) else tabGet (s.dev d).mbox j := by
    intro j
    have := tabGet_foldl_runFrom (fun _ => true) off 0 l (s.dev d).mbox 0 j
    simpa [u] using this
  have hin : (u.dev d).mboxIn = (runFrom off 0 l).foldl (fun k y => (k ++ [y.1]).dedup) (s.dev d).mboxIn := by simp [u]
  simp only [hwrite]
  split
  · exact ⟨hmbox, hin, fun _ => List.mem_cons_self .., rfl, rfl, rfl⟩
  · next hlen => exact ⟨hmbox, hin, fun e => absurd e hlen, rfl, rfl, rfl⟩

/-- A register write of eight bytes of the command block. -/
theorem execRegisterWrite_mailbox (off : Nat) (v : DWord) (hup : (s.dev d).up = true) (h : off + 8 ≤ 0x40) :
    ∃ t, execRegisterWrite d off 8 v s = .next t ∧ (∀ i, i < 8 → tabGetD (t.dev d).mbox (off + i) 0 = v.extractLsb' (8 * i) 8) ∧
      (∀ i, i < off ∨ off + 8 ≤ i → tabGet (t.dev d).mbox i = tabGet (s.dev d).mbox i) ∧
      ((t.dev d).mboxIn.length = 64 → Move.mailbox d ∈ t.agenda) ∧ t.hbm = s.hbm := by
  obtain ⟨hbox, -, hgo, hhbm, -, -⟩ := bar0Write_mailbox s d off (bytesOf 8 v.toNat) (by simp; omega) (by omega)
  simp only [length_bytesOf] at hbox
  refine ⟨s.bar0Write d off (bytesOf 8 v.toNat), by simp [execRegisterWrite, hup], fun i hi => ?_, fun i hi => ?_, hgo, hhbm⟩
  · rw [tabGetD, hbox, if_pos (by omega), Nat.add_sub_cancel_left, getD_bytesOf v hi]
  · rw [hbox, if_neg (by omega)]

/-- An event that need not wait is what its row has made. -/
theorem orWait_of_hold {s t : State} (h : t.hold = s.hold) (hs : s.stall = false) : s.orWait t = t := by
  have ht : t.stall = false := by rw [State.stall, h]; exact hs
  simp [State.orWait, ht]

/-- A whole command block written in one access is taken. -/
theorem execHostWrite_commandBlock (data : List Byte) (hup : (s.dev d).up = true) (hlen : data.length = 64) (hin : (s.dev d).mboxIn = [])
    (hs : s.stall = false) : ∃ t, execHostWrite d 0 0 data s = .next t ∧ (∀ i, i < 64 → tabGetD (t.dev d).mbox i 0 = data.getD i 0) ∧
      Move.mailbox d ∈ t.agenda ∧ t.hbm = s.hbm ∧ t.wgs = s.wgs := by
  obtain ⟨hbox, hnoted, hgo, hhbm, hwgs, hhold⟩ := bar0Write_mailbox s d 0 data (by omega) (by omega)
  have hall : (runFrom 0 0 data).foldl (fun k y => (k ++ [y.1]).dedup) [] = (List.range (0 + data.length)).map (0 + ·) :=
    foldl_note_runFrom 0 0 data
  refine ⟨s.bar0Write d 0 data, by simp [execHostWrite, hup, orWait_of_hold hhold hs], fun i hi => ?_, hgo ?_, hhbm, hwgs⟩
  · rw [tabGetD, hbox, if_pos (by omega), Nat.sub_zero]
  · simp [hnoted, hin, hall, hlen]

/-! ### Push windows (R297, R298) -/

@[simp] theorem window_setWindow (c : Nat) (w : Window) : (s.setWindow d c w).window d c = w := by simp [State.window, State.setWindow]

/-- The part of a run of bytes that lies in a push window. -/
def windowRun (off : Nat) (data : List Byte) : List (Nat × Byte) := (runFrom off 0 data).filter (fun x => decide (x.1 < 0x4000))

/-- A host write that reaches no complete slot discards nothing and raises no event. -/
theorem windowWrite_free {c off : Nat} {data : List Byte} (hv : s.ctxValid d c = true)
    (hfree : ∀ x ∈ windowRun off data, (s.window d c).complete (x.1 / 64) = false) : s.windowWrite d c off data =
      s.setWindow d c { s.window d c with
        bytes := (windowRun off data).foldl (fun t x => tabSet t x.1 x.2) (s.window d c).bytes
        mirror := true } := by
  have hover : ((windowRun off data).map (fun x => x.1 / 64)).filter (s.window d c).complete = [] := by
    simp only [List.filter_eq_nil_iff, List.mem_map]
    rintro _ ⟨x, hx, rfl⟩
    simp [hfree x hx]
  have hall : (windowRun off data).filter (fun x => !(s.window d c).complete (x.1 / 64)) = windowRun off data :=
    List.filter_eq_self.mpr (by simpa using hfree)
  unfold State.windowWrite
  extract_lets w at_ over_ bytes
  have hat : at_ = windowRun off data := rfl
  have hover' : over_ = [] := by simp only [over_, hat, w, hover, List.dedup_nil]
  have hbytes : bytes = (windowRun off data).foldl (fun t x => tabSet t x.1 x.2) (s.window d c).bytes := by
    simp only [bytes, hat, w, hall]
  simp [hv, hover', hbytes, w]

/-- A host write to slots of a push window that are not complete puts its bytes there (R297). -/
theorem execPushWindowWrite_takes (c off : Nat) (data : List Byte) (hup : (s.dev d).up = true) (hv : s.ctxValid d c = true)
    (hfree : ∀ i, i < data.length → (s.window d c).complete ((off + i) / 64) = false) :
    ∃ t, execPushWindowWrite d c off data s = .next t ∧ t.hbm = s.hbm ∧ t.host = s.host ∧ (t.window d c).n = (s.window d c).n ∧
      ∀ j, tabGet (t.window d c).bytes j = if off ≤ j ∧ j < off + data.length ∧ j < 0x4000 then some (data.getD (j - off) 0)
        else tabGet (s.window d c).bytes j := by
  have hrun : ∀ x ∈ windowRun off data, (s.window d c).complete (x.1 / 64) = false := by
    intro x hx
    obtain ⟨⟨b, i⟩, hbi, rfl⟩ := List.mem_map.mp (List.mem_of_mem_filter hx)
    exact hfree i (by simpa using List.snd_lt_of_mem_zipIdx hbi)
  have hexec : execPushWindowWrite d c off data s = .next (s.windowWrite d c off data) := by simp [execPushWindowWrite, hup]
  refine ⟨_, hexec.trans (congrArg _ (windowWrite_free s d hv hrun)), rfl, rfl, by simp, fun j => ?_⟩
  have hbyte := tabGet_foldl_runFrom (fun k => decide (k < 0x4000)) off 0 data (s.window d c).bytes 0 j
  simpa [windowRun] using hbyte

/-- Consuming a slot clears its bytes and no others (R297). -/
theorem consume_bytes (w : Window) (i : Nat) : tabGet w.consume.bytes i = if i / 64 = w.n % 256 then none else tabGet w.bytes i := by
  rw [Window.consume, tabGet_filter_key w.bytes (fun k => k / 64 != w.n % 256) i]
  by_cases h : i / 64 = w.n % 256 <;> simp [h]

/-- The next complete record of a push window: with its channel full it stays, otherwise it is pushed and its slot consumed, also where the
push meets a fault (R297, R299; log 74). -/
theorem execPushWindowConsume_pushes {c : Nat} {u : State} {key : Nat} {got : PushGot} (hup : (s.dev d).up = true) (hv : s.ctxValid d c = true)
    (hfull : (s.window d c).complete ((s.window d c).n % 256) = true) : let w := s.window d c
    let rcd := (List.range 64).map (fun i => tabGetD w.bytes (64 * (w.n % 256) + i) 0)
    let h := s.ctxWord d c (8 + bits (ofBytes rcd) 56 3)
    let o := coreChop d c (.push false) (BitVec.ofNat 64 h) rcd
    h ≠ 0 → chHandleOk (BitVec.ofNat 64 h) = true → s.chanPlace o (chVa (BitVec.ofNat 64 h)) 64 = .ok key →
    s.pushHome o key = (u, got) → u.stall = false →
    execPushWindowConsume d c s = .next (if got = .full then s else u.setWindow d c w.consume) := by
  intro w rcd h o hh hok hplace hpush hu
  have hs : s.orWait s = s := by unfold State.orWait; split <;> rfl
  have ht : s.orWait (u.setWindow d c w.consume) = u.setWindow d c w.consume := by
    have : (u.setWindow d c w.consume).stall = false := hu
    simp [State.orWait, this]
  unfold execPushWindowConsume
  extract_lets k' rcd' h' o'
  have hslot : w.complete k' = true := hfull
  have hkey : (if chHandleOk o'.handle then s.chanPlace o' (chVa o'.handle) 64 else .error 1) = .ok key := by
    rw [← hplace]; exact if_pos hok
  have hpush' : s.pushHome o' key = (u, got) := hpush
  rw [if_neg (by simp [hup, hv, hslot]), if_neg hh]
  simp only [hkey, hpush']
  cases got with
  | full => simp [hs]
  | ok => simp [ht]
  | fault n => simp [ht]

/-- The merged free count of a push window reaches the host (R298). -/
theorem execFreeCountUpdate_stores (c : Nat) (hv : s.ctxValid d c = true) (hm : (s.window d c).mirror = true) (hwf : Memory.wf s.host = true) :
    ∃ t, execFreeCountUpdate d c s = .next t ∧ memRead t.host (hostKey d (s.ctxWord d c 6)) 4 = (s.window d c).free ∧
      (∀ a, a < hostKey d (s.ctxWord d c 6) ∨ hostKey d (s.ctxWord d c 6) + 4 ≤ a → memGet t.host a = memGet s.host a) ∧
      (t.window d c).mirror = false ∧ t.hbm = s.hbm := by
  refine ⟨(s.hostStore d (s.ctxWord d c 6) 4 (s.window d c).free).setWindow d c { s.window d c with mirror := false },
    by simp [execFreeCountUpdate, hv, hm], ?_, fun a ha => memGet_memWrite_other _ _ _ _ _ ha, by simp, rfl⟩
  have hfree : (s.window d c).free < 256 ^ 4 := by unfold Window.free; omega
  exact (memRead_memWrite s.host _ _ _ hwf).trans (Nat.mod_eq_of_lt hfree)

/-- A waiting MSI-X signal of an event queue is given (R390). -/
theorem execMsixSignal_signals (q : Nat) (e : Evq) (he : tabGet (s.dev d).evqs q = some e) (hsig : e.signal = true) :
    ∃ t, execMsixSignal d q s = .next t ∧ (t.dev d).msix = e.vec :: (s.dev d).msix ∧
      tabGet (t.dev d).evqs q = some { e with signal := false } ∧ t.hbm = s.hbm ∧ t.host = s.host := by
  refine ⟨(s.modDev d (fun x => { x with evqs := tabSet x.evqs q { e with signal := false } })).msi d e.vec,
    by simp [execMsixSignal, he, hsig], ?_, ?_, rfl, rfl⟩ <;> simp [State.msi]

end Sys2Proof.Machine
end

section
/-! SUPPORT. Bytes and masks of a block, and what a whole access at a home at rest does to memory (R233, R260). -/

namespace Sys2Proof.Machine

/-! ### Bytes of a block -/

/-- A byte of a list of bytes read from memory. -/
theorem memRead_byte (m : Mem) (a n i : Nat) (h : i < n) : memRead m a n / 256 ^ i % 256 = (memGet m (a + i)).toNat := by
  induction n generalizing a i with
  | zero => omega
  | succ n ih =>
    have hb := (memGet m a).isLt
    cases i with
    | zero => simp [memRead]; omega
    | succ i =>
      have hdiv : ((memGet m a).toNat + 256 * memRead m (a + 1) n) / 256 = memRead m (a + 1) n := by omega
      rw [memRead, Nat.pow_succ', ← Nat.div_div_eq_div_mul, hdiv, ih _ _ (by omega)]
      congr 2; omega

theorem blockByte_toNat (x : BitVec 512) (i : Nat) : (blockByte x i).toNat = x.toNat / 256 ^ i % 256 := by
  simp [blockByte, BitVec.extractLsb'_toNat, Nat.shiftRight_eq_div_pow, pow_mul]

theorem two_pow_512 : 256 ^ 64 = 2 ^ 512 := by rw [show 256 = 2 ^ 8 from rfl, ← pow_mul]

theorem toNat_ofNat_of_lt {w n : Nat} (h : n < 2 ^ w) : (BitVec.ofNat w n).toNat = n := by
  rw [BitVec.toNat_ofNat, Nat.mod_eq_of_lt h]

/-- A number of 64 bytes is a block. -/
theorem toNat_ofNat_512 {n : Nat} (h : n < 256 ^ 64) : (BitVec.ofNat 512 n).toNat = n := toNat_ofNat_of_lt (h.trans_eq two_pow_512)

theorem memRead_lt (m : Mem) (a n : Nat) : memRead m a n < 256 ^ n := by
  induction n generalizing a with
  | zero => simp [memRead]
  | succ n ih => have := ih (a + 1); have := (memGet m a).isLt; rw [memRead, Nat.pow_succ']; omega

/-- HBM's copy of a block, byte by byte. -/
theorem blockByte_blockBytes (s : State) (b : Nat) {i : Nat} (h : i < 64) : blockByte (s.blockBytes b) i = memGet s.hbm (64 * b + i) := by
  apply BitVec.eq_of_toNat_eq
  rw [blockByte_toNat, State.blockBytes, toNat_ofNat_512 (memRead_lt ..), memRead_byte _ _ _ _ h, keyOfBlock, Nat.mul_comm]

theorem blockByte_or (x y : BitVec 512) (i : Nat) : blockByte (x ||| y) i = blockByte x i ||| blockByte y i := by
  simp [blockByte, BitVec.extractLsb'_or]

/-- One byte at its place in a block. -/
theorem blockByte_place (b : Byte) {o : Nat} (ho : o < 64) (i : Nat) :
    blockByte (BitVec.ofNat 512 (b.toNat * 256 ^ o)) i = if i = o then b else 0 := by
  apply BitVec.eq_of_toNat_eq
  have hb := b.isLt
  have hlt : b.toNat * 256 ^ o < 256 ^ (o + 1) := by
    rw [Nat.pow_succ']; exact Nat.mul_lt_mul_of_pos_right hb (by positivity)
  rw [blockByte_toNat, toNat_ofNat_512 (hlt.trans_le (Nat.pow_le_pow_right (by norm_num) ho))]
  rcases lt_trichotomy i o with h | rfl | h
  · obtain ⟨k, rfl⟩ : ∃ k, o = i + (k + 1) := ⟨o - i - 1, by omega⟩
    rw [pow_add, mul_left_comm, Nat.mul_div_cancel_left _ (by positivity), pow_succ]
    simp [← mul_assoc]
  · simp [Nat.mul_div_cancel _ (show 0 < 256 ^ i by positivity), Nat.mod_eq_of_lt hb]
  · have := hlt.trans_le (Nat.pow_le_pow_right (by norm_num) h)
    simp [Nat.div_eq_of_lt this, h.ne']

theorem maskAt_one_getLsbD {o i : Nat} (hi : i < 64) : (maskAt o 1).getLsbD i = decide (i = o) := by
  rw [maskAt, BitVec.getLsbD_ofNat, show (2 ^ 1 - 1) * 2 ^ o = 2 ^ o by omega, Nat.testBit_two_pow]
  simp [hi, eq_comm]

/-! ### Bytes of a run within one block -/

/-- The bytes of a run of keys, at their places in a block. -/
def runBytes (l : List (Nat × Byte)) : BitVec 512 :=
  l.foldl (fun v x => v ||| BitVec.ofNat 512 (x.2.toNat * 256 ^ (x.1 % 64))) 0

/-- The mask of a run of keys in a block. -/
def runMask (l : List (Nat × Byte)) : BitVec 64 := l.foldl (fun m x => m ||| maskAt (x.1 % 64) 1) 0

theorem foldl_place_runFrom (k n : Nat) (l : List Byte) (v : BitVec 512) (h : k % 64 + n + l.length ≤ 64) {i : Nat} (hi : i < 64) :
    blockByte ((runFrom k n l).foldl (fun v x => v ||| BitVec.ofNat 512 (x.2.toNat * 256 ^ (x.1 % 64))) v) i =
      if k % 64 + n ≤ i ∧ i < k % 64 + n + l.length then blockByte v i ||| l.getD (i - (k % 64 + n)) 0 else blockByte v i := by
  induction l generalizing n v with
  | nil => rw [if_neg (by simp)]; rfl
  | cons b l ih =>
    rw [List.length_cons] at h
    have hrun : runFrom k n (b :: l) = (k + n, b) :: runFrom k (n + 1) l := rfl
    have ho : (k + n) % 64 = k % 64 + n := by omega
    rw [hrun, List.foldl_cons, ih (n + 1) _ (by omega), blockByte_or, ho, blockByte_place b (by omega), List.length_cons]
    rcases lt_trichotomy i (k % 64 + n) with hlt | rfl | hgt
    · rw [if_neg (by omega), if_neg (by omega), if_neg (by omega)]; simp
    · rw [if_neg (by omega), if_pos rfl, if_pos (by omega)]; simp
    · have hd : i - (k % 64 + n) = (i - (k % 64 + (n + 1))) + 1 := by omega
      rw [if_neg (by omega : ¬i = k % 64 + n), hd, List.getD_cons_succ]
      by_cases hl : i < k % 64 + (n + 1) + l.length
      · rw [if_pos (by omega), if_pos (by omega)]; simp
      · rw [if_neg (by omega), if_neg (by omega)]; simp

theorem foldl_mask_runFrom (k n : Nat) (l : List Byte) (m : BitVec 64) (h : k % 64 + n + l.length ≤ 64) {i : Nat} (hi : i < 64) :
    ((runFrom k n l).foldl (fun m x => m ||| maskAt (x.1 % 64) 1) m).getLsbD i =
      (m.getLsbD i || decide (k % 64 + n ≤ i ∧ i < k % 64 + n + l.length)) := by
  induction l generalizing n m with
  | nil => simp [runFrom]
  | cons b l ih =>
    rw [List.length_cons] at h
    have hrun : runFrom k n (b :: l) = (k + n, b) :: runFrom k (n + 1) l := rfl
    have ho : (k + n) % 64 = k % 64 + n := by omega
    rw [hrun, List.foldl_cons, ih (n + 1) _ (by omega), BitVec.getLsbD_or, ho, maskAt_one_getLsbD hi, Bool.or_assoc, ← Bool.decide_or,
      List.length_cons]
    congr 2
    apply propext; omega

theorem blockByte_runBytes (k : Nat) (l : List Byte) (h : k % 64 + l.length ≤ 64) {i : Nat} (hi : i < l.length) :
    blockByte (runBytes (runFrom k 0 l)) (k % 64 + i) = l.getD i 0 := by
  rw [runBytes, foldl_place_runFrom k 0 l 0 (by omega) (by omega), if_pos (by omega)]
  simp [blockByte]

theorem getLsbD_runMask (k : Nat) (l : List Byte) (h : k % 64 + l.length ≤ 64) {i : Nat} (hi : i < 64) :
    (runMask (runFrom k 0 l)).getLsbD i = decide (k % 64 ≤ i ∧ i < k % 64 + l.length) := by
  rw [runMask, foldl_mask_runFrom k 0 l 0 (by omega) hi]
  simp

/-! ### Stores under a mask -/

theorem memGet_foldl_masked (l : List Nat) (hl : l.Nodup) (m : Mem) (base : Nat) (x : BitVec 512) (mask : BitVec 64) (hwf : Memory.wf m = true)
    (a : Nat) : memGet (l.foldl (fun m i => if mask.getLsbD i then memSet m (base + i) (blockByte x i) else m) m) a =
      if base ≤ a ∧ a - base ∈ l ∧ mask.getLsbD (a - base) = true then blockByte x (a - base) else memGet m a := by
  induction l generalizing m with
  | nil => simp
  | cons i l ih =>
    obtain ⟨hil, hl⟩ := List.nodup_cons.mp hl
    have hwf' : Memory.wf (if mask.getLsbD i then memSet m (base + i) (blockByte x i) else m) = true := by
      split <;> [exact wf_memSet _ _ _ hwf; exact hwf]
    rw [List.foldl_cons, ih hl _ hwf']
    by_cases ha : a = base + i
    · subst ha
      simp only [Nat.add_sub_cancel_left, hil, false_and, and_false, if_false, List.mem_cons, true_or, true_and, Nat.le_add_right]
      split <;> simp [hwf]
    · have hne : base ≤ a → a - base ≠ i := by omega
      have hkeep : memGet (if mask.getLsbD i then memSet m (base + i) (blockByte x i) else m) a = memGet m a := by
        split <;> [exact memGet_set_other _ _ (Ne.symm ha); rfl]
      rw [hkeep]
      congr 1
      apply propext
      constructor
      · rintro ⟨h1, h2, h3⟩; exact ⟨h1, List.mem_cons_of_mem _ h2, h3⟩
      · rintro ⟨h1, h2, h3⟩; exact ⟨h1, (List.mem_cons.mp h2).resolve_left (hne h1), h3⟩

/-- A masked store of a block, byte by byte. -/
theorem memGet_storeMasked (m : Mem) (base : Nat) (x : BitVec 512) (mask : BitVec 64) (hwf : Memory.wf m = true) (a : Nat) :
    memGet (storeMasked m base x mask) a =
      if base ≤ a ∧ a < base + 64 ∧ mask.getLsbD (a - base) = true then blockByte x (a - base) else memGet m a := by
  rw [storeMasked, memGet_foldl_masked _ List.nodup_range m base x mask hwf a]
  congr 1
  apply propext
  constructor
  · rintro ⟨h1, h2, h3⟩; exact ⟨h1, by have := List.mem_range.mp h2; omega, h3⟩
  · rintro ⟨h1, h2, h3⟩; exact ⟨h1, List.mem_range.mpr (by omega), h3⟩

theorem setBytes_hbm (s : State) (b : Nat) (x : BitVec 512) (mask : BitVec 64) :
    (s.setBytes b x mask).hbm = storeMasked s.hbm (keyOfBlock b) x mask := rfl

/-- HBM's copy of a block stored over itself. -/
theorem memGet_storeMasked_blockBytes (s : State) (b : Nat) (mask : BitVec 64) (hwf : Memory.wf s.hbm = true) (a : Nat) :
    memGet (storeMasked s.hbm (keyOfBlock b) (s.blockBytes b) mask) a = memGet s.hbm a := by
  rw [memGet_storeMasked _ _ _ _ hwf]
  split
  · next h =>
    obtain ⟨h1, h2, -⟩ := h
    rw [keyOfBlock] at h1 h2 ⊢
    rw [blockByte_blockBytes s b (by omega)]
    congr 1; omega
  · rfl

end Sys2Proof.Machine
end

section
/-! SUPPORT. A read and a write in one instant at a home at rest whose hallmark is HOME (R233, R260), and host accesses over BAR2 and BAR4 (R17). -/

namespace Sys2Proof.Machine

variable {s t u : State} {b : Nat}

/-! ### What L2 and the monitors leave -/

/-- HBM's bytes, the workgroups and what a move waits for are as before. -/
def SameStore (s t : State) : Prop := t.hbm = s.hbm ∧ t.wgs = s.wgs ∧ t.hold = s.hold

theorem SameStore.refl (s : State) : SameStore s s := ⟨rfl, rfl, rfl⟩

theorem SameStore.trans (h1 : SameStore s t) (h2 : SameStore t u) : SameStore s u :=
  ⟨h2.1.trans h1.1, h2.2.1.trans h1.2.1, h2.2.2.trans h1.2.2⟩

theorem SameStore.ite {c : Prop} [Decidable c] (h1 : SameStore s t) (h2 : SameStore s u) : SameStore s (if c then t else u) := by
  split
  exacts [h1, h2]

theorem SameStore.foldl {α : Type} {f : State → α → State} (l : List α) (s : State) (hf : ∀ u x, SameStore u (f u x)) :
    SameStore s (l.foldl f s) := by
  induction l generalizing s with
  | nil => exact .refl s
  | cons x l ih => exact (hf s x).trans (ih _)

theorem sameStore_l2Drop (s : State) (agent b : Nat) : SameStore s (s.l2Drop agent b) := by
  unfold State.l2Drop
  split <;> exact ⟨rfl, rfl, rfl⟩

theorem sameStore_dropRep (s : State) (agent b : Nat) : SameStore s (s.dropRep agent b) := sameStore_l2Drop _ agent b

theorem sameStore_evictLine (s : State) (key ctx : Nat) : SameStore s (s.evictLine key ctx) := by
  unfold State.evictLine
  split
  · exact .refl s
  · refine SameStore.foldl _ { s with l2 := tabErase s.l2 key } fun u b => ?_
    refine .ite (.ite ⟨rfl, rfl, rfl⟩ (.refl u)) ?_
    split
    · exact .ite ⟨rfl, rfl, rfl⟩ (sameStore_dropRep u _ b)
    · exact .refl u

theorem sameStore_fillSlice (s : State) (agent b ctx : Nat) (cls : Resi) : SameStore s (s.fillSlice agent b ctx cls).1 := by
  unfold State.fillSlice
  dsimp only
  split
  · exact ⟨rfl, rfl, rfl⟩
  · split
    · exact .refl s
    · split
      · exact sameStore_evictLine s _ ctx
      · exact ⟨rfl, rfl, rfl⟩

theorem sameStore_useL2 (s : State) (agent b : Nat) (write : Option (Nat × Nat)) : SameStore s (s.useL2 agent b write) := by
  unfold State.useL2
  split <;> exact ⟨rfl, rfl, rfl⟩

/-- Monitors that fire make arrivals and are gone; memory, hallmarks and workgroups stay (R335). -/
theorem fire_keeps (s : State) (b : Nat) (mask : BitVec 64) : SameStore s (s.fire b mask) ∧ (s.fire b mask).blocks = s.blocks := by
  unfold State.fire
  extract_lets a reach hit s1
  have hs1 : SameStore s s1 ∧ s1.blocks = s.blocks := by
    unfold s1; split <;> exact ⟨⟨rfl, rfl, rfl⟩, rfl⟩
  exact List.foldlRecOn (motive := fun v => SameStore s v ∧ v.blocks = s.blocks) _ _ hs1 fun _ h _ _ => h

section
variable (s : State)

@[simp] theorem debit_hbm (agent ctx n : Nat) : (s.debit agent ctx n).hbm = s.hbm := rfl
@[simp] theorem debit_wgs (agent ctx n : Nat) : (s.debit agent ctx n).wgs = s.wgs := rfl
@[simp] theorem debit_hold (agent ctx n : Nat) : (s.debit agent ctx n).hold = s.hold := rfl
@[simp] theorem clearErr_hbm (b : Nat) : (s.clearErr b).hbm = s.hbm := rfl
@[simp] theorem clearErr_wgs (b : Nat) : (s.clearErr b).wgs = s.wgs := rfl
@[simp] theorem clearErr_hold (b : Nat) : (s.clearErr b).hold = s.hold := rfl
@[simp] theorem setBytes_wgs (b : Nat) (x : BitVec 512) (mask : BitVec 64) : (s.setBytes b x mask).wgs = s.wgs := rfl
@[simp] theorem setBytes_hold (b : Nat) (x : BitVec 512) (mask : BitVec 64) : (s.setBytes b x mask).hold = s.hold := rfl

end

/-! ### A home at rest whose hallmark is HOME -/

theorem hallOf_hallByte_home (b : Nat) : (hallOf (hallByte .home)).shift (domainBase b) = .home := rfl

/-- A read or write from outside the protocol finds nobody to ask and leaves the hallmark HOME (Table 8). -/
theorem clearFor_home (q : Quiet s b) (hh : s.hall b = .home) (k : ReqKind) (hk : k = .hrd ∨ k = .hwr) (w : Who) :
    s.clearFor b k w = s.setBlock b { s.block b with hall := hallByte .home } := by
  obtain ⟨hfree, hsound, hall⟩ := q
  have hlost : s.isLost w.agent = false := by simp [State.isLost, hall]
  have hturn : s.turn b k = true := by
    have : s.txns.find? (fun t => t.block = b) = none := by simpa [List.find?_eq_none] using hfree
    simp [State.turn, this]
  have hask : s.asks b k w.agent = ([], false) := by rcases hk with rfl | rfl <;> simp [State.asks, hh]
  have hafter : hallAfter (agentOfBlock b) k w.agent .home = .home := by rcases hk with rfl | rfl <;> rfl
  unfold State.clearFor
  simp only [hlost, hturn, Bool.not_true, Bool.or_self, Bool.false_eq_true, if_false, tagRead_sound hsound, touch_all b hall, hask, hh, hafter,
    List.foldl_nil]
  simp [State.setHall, hsound]

/-- The state that a request of the host finds at a home at rest. -/
theorem atHome_clearFor (q : Quiet s b) (hh : s.hall b = .home) (k : ReqKind) (hk : k = .hrd ∨ k = .hwr) (w : Who) :
    SameStore s (s.clearFor b k w) ∧ tabGet (s.clearFor b k w).errs b = none ∧ (s.clearFor b k w).hall b = .home ∧
      (s.clearFor b k w).cut = s.cut := by
  rw [clearFor_home q hh k hk w]
  refine ⟨⟨rfl, rfl, rfl⟩, q.sound, ?_, rfl⟩
  simp [State.hall, State.block, State.setBlock, hallOf_hallByte_home b]

/-- A read of a sound block with hallmark HOME changes neither memory nor workgroups. -/
theorem sameStore_readHome (hs : tabGet s.errs b = none) (hh : s.hall b = .home) (hc : s.cut.contains b = false) (w : Who) (cls : Resi) :
    SameStore s (s.readHome b w cls).1 := by
  have hd := decoded_sound (s := s.debit (agentOfBlock b) w.pay 1) (b := b) hs
  have hr := relabel_same (s.debit (agentOfBlock b) w.pay 1) b
  unfold State.readHome
  simp only [tagRead_sound hs, hh]
  split
  · exact sameStore_useL2 s _ b none
  · simp only [hc, Bool.false_eq_true, if_false, hd, hr]
    exact sameStore_fillSlice _ _ b w.pay cls

/-- A read of the host at a home at rest gives HBM's bytes. -/
theorem hrdNow_home (q : Quiet s b) (hh : s.hall b = .home) (hc : s.cut.contains b = false) (w : Who) :
    SameStore s (s.hrdNow b w).1 ∧ ∃ h, (s.hrdNow b w).2 = .ok (s.blockBytes b, h) := by
  obtain ⟨hsame, hsound, hhall, hcut⟩ := atHome_clearFor q hh .hrd (.inl rfl) w
  have hbytes : (s.clearFor b .hrd w).blockBytes b = s.blockBytes b := by rw [State.blockBytes, hsame.1, State.blockBytes]
  refine ⟨hsame.trans (sameStore_readHome hsound hhall (hcut ▸ hc) w .normal), ((s.clearFor b .hrd w).block b).sideband, ?_⟩
  rw [← hbytes]
  exact readHome_sound w .normal hsound (by rw [hhall]; rfl) (hcut ▸ hc)

/-- A write of the host merged at a home whose hallmark is HOME: a masked store over HBM's bytes, with the hallmark HOME afterwards. -/
theorem mergeHome_home (hs : tabGet s.errs b = none) (hh : s.hall b = .home) (hwf : Memory.wf s.hbm = true) (x : BitVec 512) (mask : BitVec 64)
    (w : Who) : ∃ (v : State) (blk : Block), s.mergeHome b x mask none w = ((v.setBytes b x mask).setBlock b blk).fire b mask ∧ blk.hall = 0 ∧
      v.wgs = s.wgs ∧ v.hold = s.hold ∧ Memory.wf v.hbm = true ∧ ∀ a, memGet v.hbm a = memGet s.hbm a := by
  have hside : ∀ h : Word, (({ s.block b with hall := 0 } : Block).withSideband h).hall = 0 := by
    intro h; unfold Block.withSideband; split <;> rfl
  unfold State.mergeHome
  simp only [tagRead_sound hs, hh]
  split
  · have hplace : ∀ c : Bool, SameStore s (if c = true then s.useL2 (agentOfBlock b) b (some (w.dev, w.queue))
        else s.debit (agentOfBlock b) w.pay 1) := fun c => .ite (sameStore_useL2 s _ b _) ⟨rfl, rfl, rfl⟩
    obtain ⟨hhbm, hwgs, hhold⟩ := hplace (s.l2Holds b)
    exact ⟨State.clearErr _ b, _, rfl, hside _, hwgs, hhold, by rw [← hhbm] at hwf; exact hwf, fun a => congrArg (memGet · a) hhbm⟩
  · have hd := decoded_sound (s := s.debit (agentOfBlock b) w.pay 2) (b := b) hs
    simp only [hd]
    refine ⟨((s.debit (agentOfBlock b) w.pay 2).setBytes b (s.blockBytes b) (BitVec.allOnes 64)).clearErr b, _, rfl,
      hside _, by simp, by simp, ?_, ?_⟩
    · rw [clearErr_hbm, setBytes_hbm, debit_hbm]; exact wf_storeMasked _ _ _ _ hwf
    · rw [clearErr_hbm, setBytes_hbm, debit_hbm]; exact memGet_storeMasked_blockBytes s b _ hwf

/-- A write of the host at a home at rest: the bytes of the mask, and no others, and the block is HOME again. -/
theorem hwrNow_home (q : Quiet s b) (hh : s.hall b = .home) (hwf : Memory.wf s.hbm = true) (x : BitVec 512) (mask : BitVec 64) (w : Who) :
    let t := s.hwrNow b x mask none w
    (∀ a, memGet t.hbm a = if keyOfBlock b ≤ a ∧ a < keyOfBlock b + 64 ∧ mask.getLsbD (a - keyOfBlock b) = true
      then blockByte x (a - keyOfBlock b) else memGet s.hbm a) ∧ t.hall b = .home ∧ t.wgs = s.wgs ∧ t.hold = s.hold := by
  obtain ⟨⟨hhbm, hwgs, hhold⟩, hsound, hhall, -⟩ := atHome_clearFor q hh .hwr (.inr rfl) w
  obtain ⟨v, blk, hmerge, hblk, hvw, hvh, hvwf, hv⟩ := mergeHome_home hsound hhall (hhbm ▸ hwf) x mask w
  obtain ⟨⟨fhbm, fwgs, fhold⟩, fblocks⟩ := fire_keeps ((v.setBytes b x mask).setBlock b blk) b mask
  dsimp only
  rw [State.hwrNow, hmerge]
  refine ⟨fun a => ?_, ?_, fwgs.trans (hvw.trans hwgs), fhold.trans (hvh.trans hhold)⟩
  · rw [fhbm, ← hhbm, ← hv a]
    exact memGet_storeMasked v.hbm (keyOfBlock b) x mask hvwf a
  · have hb : ((v.setBytes b x mask).setBlock b blk).block b = blk := by simp [State.block, State.setBlock]
    have : (State.fire ((v.setBytes b x mask).setBlock b blk) b mask).block b = blk := by
      rw [State.block, fblocks]; exact hb
    rw [State.hall, this, hblk]
    rfl

end Sys2Proof.Machine
end

section
/-! The obligation of the host accesses (R17, R297 to R299, R390, R391, R395). -/

namespace Sys2Proof.Machine

variable (s : State) (d : Nat)

/-! ### BAR2 and BAR4 (R17) -/

/-- A run of keys inside one block. -/
theorem blockOf_runFrom {k : Nat} {l : List Byte} (h : k % 64 + l.length ≤ 64) {x : Nat × Byte} (hx : x ∈ runFrom k 0 l) :
    blockOf x.1 = blockOf k := by
  obtain ⟨⟨b, i⟩, hbi, rfl⟩ := List.mem_map.mp hx
  have : i < l.length := by simpa using List.snd_lt_of_mem_zipIdx hbi
  simp only [blockOf]; omega

/-- Keys of one block name that block once. -/
theorem dedup_map_const {α : Type} {f : α → Nat} {l : List α} {c : Nat} (hl : l ≠ []) (h : ∀ x ∈ l, f x = c) : (l.map f).dedup = [c] := by
  rw [List.map_congr_left h, List.map_const', List.replicate_dedup (by simpa using hl)]

/-- A host write of bytes that lie in one block is one write at the block's home. -/
theorem execHostWrite_block {bar off k : Nat} {data : List Byte} (hup : (s.dev d).up = true) (hbar : bar = 2 ∨ bar = 4) (hne : data ≠ [])
    (hlen : k % 64 + data.length ≤ 64) (hkey : ∀ i, i < data.length → s.apertureKey d bar (off + i) = some (k + i)) :
    execHostWrite d bar off data s =
      .next (s.orWait (s.hwrNow (blockOf k) (runBytes (runFrom k 0 data)) (runMask (runFrom k 0 data)) none (hostWho d))) := by
  have hbytes : data.zipIdx.filterMap (fun (b, i) => (s.apertureKey d bar (off + i)).map (fun k => (k, b))) = runFrom k 0 data := by
    rw [runFrom, ← List.filterMap_eq_map]
    refine List.filterMap_congr fun ⟨b, i⟩ hbi => ?_
    simp [hkey i (by simpa using List.snd_lt_of_mem_zipIdx hbi)]
  have hblocks := dedup_map_const (f := fun x => blockOf x.1) (l := runFrom k 0 data) (by simpa [runFrom] using hne) (fun x => blockOf_runFrom hlen)
  have hmine : (runFrom k 0 data).filter (fun x => decide (blockOf x.1 = blockOf k)) = runFrom k 0 data :=
    List.filter_eq_self.mpr (fun x hx => by simpa using blockOf_runFrom hlen hx)
  have h0 : bar ≠ 0 := by omega
  have h24 : (bar != 2 && bar != 4) = false := by rcases hbar with rfl | rfl <;> rfl
  unfold execHostWrite
  simp only [hup, h0, h24, hbytes, hblocks, List.foldl_cons, List.foldl_nil, hmine, Bool.not_true, Bool.false_eq_true, if_false]
  rfl

/-- A host read of bytes that lie in one block is one read at the block's home. -/
theorem execHostRead_block {bar off k n : Nat} {t : State} {x : BitVec 512} {h : Word} (hup : (s.dev d).up = true) (hbar : bar = 2 ∨ bar = 4)
    (hne : n ≠ 0) (hlen : k % 64 + n ≤ 64) (hkey : ∀ i, i < n → s.apertureKey d bar (off + i) = some (k + i))
    (hread : s.hrdNow (blockOf k) (hostWho d) = (t, .ok (x, h))) :
    execHostRead d bar off n s = .next (s.orWait (t.modDev d (fun y => { y with
      hread := (List.range n).map (fun i => blockByte x ((k + i) % 64)), hpoison := false }))) := by
  have hin : ∀ i ∈ List.range n, blockOf (k + i) = blockOf k := by
    intro i hi
    have := List.mem_range.mp hi
    simp only [blockOf]; omega
  have hkeys : (List.range n).map (fun i => s.apertureKey d bar (off + i)) = (List.range n).map (fun i => some (k + i)) :=
    List.map_congr_left fun i hi => hkey i (List.mem_range.mp hi)
  have hblocks : (((List.range n).map (fun i => some (k + i))).filterMap (fun k => k.map blockOf)).dedup = [blockOf k] := by
    have : ((List.range n).map (fun i => some (k + i))).filterMap (fun k => k.map blockOf) = (List.range n).map (fun i => blockOf (k + i)) := by
      rw [List.filterMap_map, ← List.filterMap_eq_map]; rfl
    rw [this, dedup_map_const (by simpa using hne) hin]
  have h0 : bar ≠ 0 := by omega
  have h24 : (bar != 2 && bar != 4) = false := by rcases hbar with rfl | rfl <;> rfl
  unfold execHostRead
  simp only [hup, h0, h24, hkeys, hblocks, List.foldl_cons, List.foldl_nil, hread, tabSet, Bool.not_true, Bool.false_and, Bool.false_eq_true, if_false]
  rw [List.map_map, List.map_congr_left (g := fun i => blockByte x ((k + i) % 64)) ?_]
  · rfl
  · intro i hi
    simp [tabGet, hin i hi]

/-- A host write inside a block at rest puts its bytes, and no others, into HBM at their home. -/
theorem execHostWrite_writes {bar off k : Nat} {data : List Byte} (hup : (s.dev d).up = true) (hbar : bar = 2 ∨ bar = 4) (hne : data ≠ [])
    (hlen : k % 64 + data.length ≤ 64) (hkey : ∀ i, i < data.length → s.apertureKey d bar (off + i) = some (k + i)) (q : Quiet s (blockOf k))
    (hh : s.hall (blockOf k) = .home) (hs : s.stall = false) (hwf : Memory.wf s.hbm = true) :
    ∃ t, execHostWrite d bar off data s = .next t ∧ (∀ i, i < data.length → memGet t.hbm (k + i) = data.getD i 0) ∧
      (∀ a, a < k ∨ k + data.length ≤ a → memGet t.hbm a = memGet s.hbm a) ∧ t.hall (blockOf k) = .home ∧ t.wgs = s.wgs := by
  obtain ⟨hbyte, hhall, hwgs, hhold⟩ :=
    hwrNow_home q hh hwf (runBytes (runFrom k 0 data)) (runMask (runFrom k 0 data)) (hostWho d)
  have hbase : keyOfBlock (blockOf k) + k % 64 = k := by simp only [keyOfBlock, blockOf]; omega
  refine ⟨_, by rw [execHostWrite_block s d hup hbar hne hlen hkey, orWait_of_hold hhold hs], fun i hi => ?_, fun a ha => ?_, hhall, hwgs⟩
  · have hi' : k + i - keyOfBlock (blockOf k) = k % 64 + i := by omega
    have hmask : (runMask (runFrom k 0 data)).getLsbD (k % 64 + i) = true := by
      rw [getLsbD_runMask k data hlen (by omega)]; simp [hi]
    rw [hbyte, hi', if_pos ⟨by omega, by omega, hmask⟩, blockByte_runBytes k data hlen hi]
  · rw [hbyte, if_neg]
    rintro ⟨h1, h2, h3⟩
    rw [getLsbD_runMask k data hlen (by omega)] at h3
    simp only [decide_eq_true_eq] at h3
    omega

/-- A host read inside a block at rest returns HBM's bytes, with no poisoned-data indication. -/
theorem execHostRead_reads {bar off k n : Nat} (hup : (s.dev d).up = true) (hbar : bar = 2 ∨ bar = 4) (hne : n ≠ 0)
    (hlen : k % 64 + n ≤ 64) (hkey : ∀ i, i < n → s.apertureKey d bar (off + i) = some (k + i)) (q : Quiet s (blockOf k))
    (hh : s.hall (blockOf k) = .home) (hc : s.cut.contains (blockOf k) = false) (hs : s.stall = false) :
    ∃ t, execHostRead d bar off n s = .next t ∧ (t.dev d).hread = (List.range n).map (fun i => memGet s.hbm (k + i)) ∧
      (t.dev d).hpoison = false ∧ t.hbm = s.hbm ∧ t.wgs = s.wgs := by
  obtain ⟨⟨hhbm, hwgs, hhold⟩, h, hdata⟩ := hrdNow_home q hh hc (hostWho d)
  have hexec := execHostRead_block s d hup hbar hne hlen hkey (Prod.ext rfl hdata)
  rw [orWait_of_hold (by exact hhold) hs] at hexec
  refine ⟨_, hexec, ?_, by rw [dev_modDev], hhbm, hwgs⟩
  rw [dev_modDev]
  refine List.map_congr_left fun i hi => ?_
  have hi := List.mem_range.mp hi
  rw [blockByte_blockBytes s _ (Nat.mod_lt _ (by norm_num))]
  congr 1
  simp only [blockOf]; omega

/-! ### The obligation -/

/-- The interval register keeps to its limits; bits above its field are ignored (log 73). -/
theorem execRegisterWrite_interval (v : DWord) (hup : (s.dev d).up = true) : let n := v.toNat % 2 ^ 17
    if 256 ≤ n ∧ n ≤ 65536 then ∃ t, execRegisterWrite d 0x4070 8 v s = .next t ∧
      (t.dev d).regs = { (s.dev d).regs with interval := n } ∧ t.hbm = s.hbm ∧ t.wgs = s.wgs
    else execRegisterWrite d 0x4070 8 v s = .next s := by
  intro n
  have hput : s.putReg d 0x4070 v.toNat =
      if 256 ≤ n ∧ n ≤ 65536 then s.modDev d (fun x => { x with regs := { x.regs with interval := n } }) else s := rfl
  rw [execRegisterWrite_reg s d v hup (by norm_num) (by norm_num) rfl, hput]
  split
  · exact ⟨_, rfl, by rw [dev_modDev], rfl, rfl⟩
  · rfl

/-- Settles O49: registers and command blocks by the writes to BAR0, apertures by one access at a home at rest, push windows by the run of
bytes written and by the push of the record. -/
theorem hostAccesses : Obligations.HostAccesses := by
  unfold Obligations.HostAccesses
  refine fun s d hup => ⟨fun v => execRegisterWrite_interval s d v hup, fun off n v h => execRegisterWrite_readOnly s d n v h,
    fun off v h => execRegisterWrite_mailbox s d off v hup h, fun data hlen hin hs => execHostWrite_commandBlock s d data hup hlen hin hs, ?_,
    fun c off data hv hfree => execPushWindowWrite_takes s d c off data hup hv hfree, ?_,
    fun q e he hsig => execMsixSignal_signals s d q e he hsig, fun c hv hm hwf => execFreeCountUpdate_stores s d c hv hm hwf⟩
  · intro bar off data k hbar hne hlen hkey q hh hc hs hwf
    exact ⟨execHostWrite_writes s d hup hbar hne hlen hkey q hh hs hwf,
      execHostRead_reads s d hup hbar (by simpa using hne) hlen hkey q hh hc hs⟩
  · intro c u key got w k rcd h o hv hfull hh hok hplace hpush hu
    have hexec := execPushWindowConsume_pushes s d hup hv hfull hh hok hplace hpush hu
    refine ⟨fun hgot => hexec.trans (by rw [if_pos hgot]),
      fun hgot => ⟨u.setWindow d c w.consume, hexec.trans (by rw [if_neg hgot]), rfl, ?_, ?_, ?_⟩⟩
    · rw [window_setWindow]; rfl
    · intro i hi
      rw [window_setWindow, consume_bytes, if_pos hi]
    · intro i hi
      rw [window_setWindow, consume_bytes, if_neg hi]

end Sys2Proof.Machine
end

section
/-! SUPPORT. What the check of ageing leaves (R300), the fields of a bind record (Table 2), the state of a new workgroup (R28), and what
seating workgroups changes (R307). -/

namespace Sys2Proof.Machine

variable (s : State) (d : Nat)

/-! ### Launches and clusters -/

theorem launch?_setLaunch (e : Nat) (l : Launch) : (s.setLaunch d e l).launch? d e = some l := by
  simp [State.launch?, State.setLaunch]

@[simp] theorem launch?_modCluster (k : Nat) (f : Cluster → Cluster) (e : Nat) : (s.modCluster k f).launch? d e = s.launch? d e := rfl

@[simp] theorem cluster_modCluster (k : Nat) (f : Cluster → Cluster) : (s.modCluster k f).cluster k = f (s.cluster k) := by
  simp [State.modCluster, State.cluster]

theorem slots_modCluster (k : Nat) (slots : List Bind) : ((s.modCluster k (fun c => { c with slots := slots })).cluster k).slots = slots := by simp

theorem cluster_modCluster_other {j k : Nat} (f : Cluster → Cluster) (h : j ≠ k) : (s.modCluster k f).cluster j = s.cluster j := by
  simp [State.modCluster, State.cluster, tabGetD_set_other _ _ _ h.symm]

/-- The entry of a key after a change of every value. -/
theorem tabGet_map_snd {α β : Type} (t : Tab α) (f : α → β) (i : Nat) : tabGet (t.map (fun e => (e.1, f e.2))) i = (tabGet t i).map f := by
  induction t with
  | nil => rfl
  | cons e t ih =>
    obtain ⟨k, v⟩ := e
    by_cases hk : k = i
    · simp [tabGet, hk]
    · simp [tabGet, hk, ih]

/-! ### Ageing -/

/-- The check of ageing changes the marks of the device's launches and channels, and nothing else. -/
theorem ageing_eq : ∃ (f : Launch → Launch) (old : List Nat), s.ageing d =
    s.modDev d (fun x => { x with launches := x.launches.map (fun e => (e.1, f e.2)), agedCh := old }) :=
  ⟨fun l => { l with aged := match l.metAt with | some t => decide (t + ageNs ≤ s.clock d) | none => false }, _, rfl⟩

@[simp] theorem ageing_fused : ((s.ageing d).dev d).fused = (s.dev d).fused := by simp [State.ageing]
@[simp] theorem ageing_regs : ((s.ageing d).dev d).regs = (s.dev d).regs := by simp [State.ageing]
@[simp] theorem ageing_blockedOn (ctx k : Nat) : (s.ageing d).blockedOn d ctx k = s.blockedOn d ctx k := by simp [State.ageing, State.blockedOn]
@[simp] theorem ageing_cluster (k : Nat) : (s.ageing d).cluster k = s.cluster k := rfl

/-- The check of ageing admits no launch. -/
theorem launch?_of_ageing {e : Nat} {l : Launch} (h : (s.ageing d).launch? d e = some l) : ∃ l₀, s.launch? d e = some l₀ := by
  obtain ⟨f, old, heq⟩ := ageing_eq s d
  rw [heq, State.launch?, dev_modDev, tabGet_map_snd, Option.map_eq_some_iff] at h
  obtain ⟨l₀, h₀, -⟩ := h
  exact ⟨l₀, h₀⟩

/-! ### Bind records -/

/-- The packed two-bit fields of a bind record stay below the bits that they take. -/
theorem packed_lt (l : List Nat) (m : Nat) : (List.range m).foldl (fun n k => n + l.getD k 0 % 4 * 4 ^ k) 0 < 4 ^ m := by
  induction m with
  | zero => simp
  | succ m ih =>
    have hdigit : l.getD m 0 % 4 * 4 ^ m ≤ 3 * 4 ^ m := Nat.mul_le_mul_right _ (by omega)
    rw [List.range_succ, List.foldl_append, List.foldl_cons, List.foldl_nil]
    omega

/-- The fields of a written bind record: entry, cluster group, first workgroup and Restore bit. -/
theorem mkBind_fields {e cg first m : Nat} (cores quads : List Nat) (restore : Bool) (he : e < 1024) (hcg : cg < 2 ^ 32) (hm : m < 8) :
    let b := mkBind e cg first m cores quads restore
    bits b.w0.toNat 0 10 = e ∧ bits b.w0.toNat 16 32 = cg ∧ bits b.w1.toNat 0 32 = first % 2 ^ 32 ∧
      bits b.w1.toNat 63 1 = if restore then 1 else 0 := by
  have hput : ∀ l : List Nat, (List.range m).foldl (fun n k => n + l.getD k 0 % 4 * 4 ^ k) 0 < 4 ^ 7 := fun l =>
    (packed_lt l m).trans_le (Nat.pow_le_pow_right (by norm_num) (by omega))
  have hc := hput cores
  have hq := hput quads
  simp only [mkBind, bits, BitVec.toNat_ofNat]
  generalize (List.range m).foldl (fun n k => n + cores.getD k 0 % 4 * 4 ^ k) 0 = c at hc ⊢
  generalize (List.range m).foldl (fun n k => n + quads.getD k 0 % 4 * 4 ^ k) 0 = q at hq ⊢
  refine ⟨by omega, by omega, ?_, ?_⟩
  · split <;> omega
  · split <;> omega

theorem Launch.groupSize_lt (l : Launch) (cg : Nat) : l.groupSize cg < 8 :=
  (min_le_left _ _).trans_lt (Nat.mod_lt _ (by norm_num))

/-! ### New workgroups -/

/-- A new warp's argument pointer stands in s0 and s1. -/
theorem newWarp_args (pc : Nat) {args : Nat} (h : args < 2 ^ 64) :
    ((newWarp pc args).readS 0).toNat + 2 ^ 32 * ((newWarp pc args).readS 1).toNat = args := by
  simp only [newWarp, Warp.readS, tabGetD, tabGet, BitVec.toNat_ofNat, if_true, if_neg (show ¬ (0 : Nat) = 1 by norm_num)]
  omega

/-- The warps of a new workgroup at their creation (R28). -/
theorem newWg_warp {e i core q0 : Nat} {l : Launch} {x : Warp} (hx : x ∈ (newWg d e l i core q0).warps) :
    x.pc = 5 * (kdCode l.kd / 64) + kdEntry l.kd ∧ (x.readS 0).toNat + 2 ^ 32 * (x.readS 1).toNat = bits (wordOf l.lr 1) 0 43 * 64 ∧
      x.mask = allLanes ∧ x.exited = 0 ∧ x.hstat = 0 := by
  have hptr : bits (wordOf l.lr 1) 0 43 * 64 < 2 ^ 64 := by simp only [bits]; omega
  rw [List.eq_of_mem_replicate hx]
  exact ⟨rfl, newWarp_args _ hptr, rfl, rfl, rfl⟩

/-! ### Seating -/

/-- Changes of cores only, one after another, change cores only. -/
theorem foldl_cores {α : Type} {f : State → α → State} (hf : ∀ t x, ∃ cores, f t x = { t with cores := cores }) (l : List α) :
    ∃ cores, l.foldl f s = { s with cores := cores } := by
  induction l generalizing s with
  | nil => exact ⟨s.cores, rfl⟩
  | cons x l ih =>
    obtain ⟨c, hc⟩ := hf s x
    obtain ⟨cores, h⟩ := ih (f s x)
    exact ⟨cores, by rw [List.foldl_cons, h, hc]⟩

/-- Seating workgroups changes cores only. -/
theorem seatAll_eq (gs : List Wg) : ∃ cores, s.seatAll gs = { s with cores := cores } := by
  refine foldl_cores s (fun t g => ?_) gs
  obtain ⟨cores, h⟩ : ∃ cores, t.seat g = { t with cores := cores } := foldl_cores t (fun _ _ => ⟨_, rfl⟩) g.live
  exact ⟨_, by rw [h]; rfl⟩

/-- A workgroup after a change of those of its cluster group. -/
theorem wg_setCg {cg : CgId} {f : Wg → Wg} (hf : ∀ g, (f g).id = g.id) {i : WgId} {g : Wg} (hg : s.wg i = some g)
    (hin : g.id.dev = cg.dev ∧ g.id.launch = cg.launch ∧ g.cg = cg.cg) : (s.setCg cg f).wg i = some (f g) := by
  have hid : ((fun g : Wg => decide (g.id = i)) ∘ fun h => if h.id.dev = cg.dev && h.id.launch = cg.launch && h.cg = cg.cg then f h else h) =
      fun g => decide (g.id = i) := by
    funext h
    simp only [Function.comp_apply]
    split
    · rw [hf]
    · rfl
  rw [State.wg] at hg
  rw [State.wg, State.setCg, List.find?_map, hid, hg]
  simp [hin]

end Sys2Proof.Machine
end

section
/-! The obligation of placement and dispatch (R26 to R28, R300, R305 to R308, R46). -/

namespace Sys2Proof.Machine

variable (s : State) (d : Nat)

/-! ### Placement -/

/-- The cores named for the next cluster group pass the check of placement where they are distinct and live (R27). -/
theorem coresOk_iff {l : Launch} {p : Placing} (hdie : p.die < 4) (hcl : p.cluster < 36) :
    s.coresOk d (144 * d + 36 * p.die + p.cluster) (l.groupSize l.nextCg) (p.cores.map (·.toNat)) = true ↔ Claims.LiveCores s d l p := by
  have hk : (144 * d + 36 * p.die + p.cluster) % 144 = 36 * p.die + p.cluster := by omega
  have hnodup : ∀ (c : List Nat) (m : Nat), c.length = m → (c.dedup.length = m ↔ c.Nodup) := fun c m hm =>
    ⟨fun h => List.dedup_eq_self.mp ((List.dedup_sublist c).eq_of_length (h.trans hm.symm)), fun h => by rw [List.dedup_eq_self.mpr h, hm]⟩
  simp only [State.coresOk, Claims.LiveCores, Launch.groupSize, hk, Bool.and_eq_true, List.all_eq_true, Bool.not_eq_true',
    List.contains_eq_mem, decide_eq_false_iff_not, and_assoc]
  exact (and_congr decide_eq_true_iff (and_congr_left' decide_eq_true_iff)).trans (and_congr_right fun hm => and_congr_left' (hnodup _ _ hm))

/-- A launch that places and has groups left may be placed on a cluster of its die group's die (R304, R305). -/
theorem placeable_of_placing {k die : Nat} {l : Launch} (hst : l.st = .placing) (hend : l.ended = false) (hagain : l.again = [])
    (hpoint : l.cgLeft ≠ [] ∨ (s.dev d).regs.want = none) (hcg : l.nextCg < l.cgs) (hdg : ∀ x, tabGet l.dgDie (l.nextCg / 36) = some x → x = die)
    (hfree : s.blockedOn d l.ctx k = false) : s.placeable d k die l = true := by
  have hstable : (l.cgLeft.isEmpty && (s.dev d).regs.want.isSome) = false := by
    rcases hpoint with h | h <;> simp [h]
  cases h : tabGet l.dgDie (l.nextCg / 36) with
  | none => simp [State.placeable, *]
  | some v => simp [State.placeable, hdg v h, *]

/-- A launch of higher rank that can be placed on a cluster keeps others away from it (R300, log 81). -/
theorem outranked_iff {k die : Nat} {l : Launch} :
    (s.dev d).launches.any (fun o => decide (l.rank < o.2.rank) && s.placeable d k die o.2) = true ↔
      ∃ o ∈ (s.dev d).launches, (if l.aged then 7 else l.prio) < (if o.2.aged then 7 else o.2.prio) ∧ s.placeable d k die o.2 = true := by
  simp [Launch.rank]

/-- LAUNCH_PLACE of the next group of a launch that may be placed on a cluster with room in its slot table. -/
theorem execLaunchPlace_next {e : Nat} {l : Launch} {p : Placing} (hl : (s.ageing d).launch? d e = some l) (hcl : p.cluster < 36)
    (hdie : p.die < if (s.dev d).regs.minimal then 1 else 4) (hfree : s.blockedOn d l.ctx (144 * d + 36 * p.die + p.cluster) = false)
    (hroom : (s.cluster (144 * d + 36 * p.die + p.cluster)).slots.length < 32) (hnew : p.restore = none)
    (hp : (s.ageing d).placeable d (144 * d + 36 * p.die + p.cluster) p.die l = true) :
    execLaunchPlace d e p s = .next (if ((s.ageing d).dev d).launches.any (fun o => decide (l.rank < o.2.rank) &&
      (s.ageing d).placeable d (144 * d + 36 * p.die + p.cluster) p.die o.2) then s.ageing d else (s.ageing d).placeNext d e l p) := by
  obtain ⟨l₀, h₀⟩ := launch?_of_ageing s d hl
  unfold execLaunchPlace
  rw [h₀]
  dsimp only
  rw [hl, Option.getD_some]
  rw [hp, Bool.not_true, Bool.false_or, if_neg (by simp [hfree, Nat.not_le.mpr hcl, Nat.not_le.mpr hdie, Nat.not_le.mpr hroom]), hnew]

/-- A launch after its next cluster group is placed on a die, its counters set (R46, R305). -/
def Launch.placed (l : Launch) (die : Nat) : Launch :=
  { l with
    grid := if l.nextCg = 0 then (l.cgs + 35) / 36 else l.grid
    cgLeft := tabSet l.cgLeft l.nextCg (l.groupSize l.nextCg)
    dgLeft := if l.nextCg % 36 = 0 then tabSet l.dgLeft (l.nextCg / 36) (min 36 (l.cgs - l.nextCg)) else l.dgLeft
    dgDie := tabSet l.dgDie (l.nextCg / 36) die
    nextCg := l.nextCg + 1
    again := [] }

/-- The bind record of a launch's next cluster group. -/
def Launch.nextBind (l : Launch) (e : Nat) (p : Placing) : Bind :=
  mkBind e l.nextCg (l.g * l.nextCg) (l.groupSize l.nextCg) (p.cores.map (·.toNat)) (p.quads.map (·.toNat)) false

/-- The state with a launch's next cluster group placed: counted, and its record at the end of the slot table. -/
def State.bindNext (s : State) (d e : Nat) (l : Launch) (p : Placing) : State :=
  (s.setLaunch d e (l.placed p.die)).modCluster (144 * d + 36 * p.die + p.cluster) (fun c => { c with slots := c.slots ++ [l.nextBind e p] })

/-- What placing a group writes (R46, R305), and that it leaves HBM and the workgroups. -/
theorem bindNext_spec (e : Nat) (l : Launch) (p : Placing) : let k := 144 * d + 36 * p.die + p.cluster
    let t := s.bindNext d e l p
    (t.cluster k).slots = (s.cluster k).slots ++ [l.nextBind e p] ∧ t.launch? d e = some (l.placed p.die) ∧ t.hbm = s.hbm ∧ t.wgs = s.wgs := by
  refine ⟨?_, ?_, rfl, rfl⟩
  · rw [State.bindNext, cluster_modCluster]; rfl
  · rw [State.bindNext, launch?_modCluster, launch?_setLaunch]

/-- The counters of a placed group: its workgroups, and the die of its die group (R27, R46). -/
theorem placed_counters (l : Launch) (die : Nat) : let x := l.placed die
    x.nextCg = l.nextCg + 1 ∧ tabGet x.cgLeft l.nextCg = some (l.groupSize l.nextCg) ∧ tabGet x.dgDie (l.nextCg / 36) = some die :=
  ⟨rfl, tabGet_set_same .., tabGet_set_same ..⟩

/-- The next group of a launch that has no group to place again is placed where its cores pass the check, and only there: its bind record is
written and its workgroups are counted (R46, R305). -/
theorem placeNext_eq {e : Nat} {l : Launch} {p : Placing} (hagain : l.again = []) (hcg : l.nextCg < l.cgs)
    (hdg : ∀ x, tabGet l.dgDie (l.nextCg / 36) = some x → x = p.die) :
    s.placeNext d e l p =
      if s.coresOk d (144 * d + 36 * p.die + p.cluster) (l.groupSize l.nextCg) (p.cores.map (·.toNat)) then
        s.bindNext d e l p else s := by
  unfold State.placeNext
  rw [hagain, List.headD_nil]
  cases hc : s.coresOk d (144 * d + 36 * p.die + p.cluster) (l.groupSize l.nextCg) (p.cores.map (·.toNat)) with
  | false => simp [hc]
  | true =>
    cases hd : tabGet l.dgDie (l.nextCg / 36) with
    | none => simp [hc, hd, Nat.not_le.mpr hcg, Launch.placed, State.bindNext, Launch.nextBind]
    | some v => simp [hc, hd, hdg v hd, Nat.not_le.mpr hcg, Launch.placed, State.bindNext, Launch.nextBind]

theorem liveCores_ageing {l : Launch} {p : Placing} : Claims.LiveCores (s.ageing d) d l p ↔ Claims.LiveCores s d l p := by
  simp [Claims.LiveCores]

/-! ### Dispatch -/

/-- The workgroups of a bind record of a launch on cluster `k`, as dispatch creates them (R306, R307). -/
def boundWgs (d e : Nat) (l : Launch) (k : Nat) (b : Bind) : List Wg :=
  (List.range (bits b.w1.toNat 32 3)).map (fun i => newWg d e l (l.g * bits b.w0.toNat 16 32 + i) (4 * k + bits b.w1.toNat (40 + 2 * i) 2)
    (bits b.w1.toNat (48 + 2 * i) 2))

/-- The workgroups of a bind record at their creation (R28). -/
theorem mem_boundWgs {e k : Nat} {l : Launch} {b : Bind} {g : Wg} (hg : g ∈ boundWgs d e l k b) :
    g.ctx = l.ctx ∧ g.seq = l.seq ∧ g.st = .running ∧ g.warps.length = l.w ∧ g.spad = [] ∧ ∀ x ∈ g.warps, x.pc = 5 * (kdCode l.kd / 64) + kdEntry l.kd ∧
      (x.readS 0).toNat + 2 ^ 32 * (x.readS 1).toNat = bits (wordOf l.lr 1) 0 43 * 64 ∧ x.mask = allLanes ∧ x.exited = 0 ∧ x.hstat = 0 := by
  obtain ⟨i, -, rfl⟩ := List.mem_map.mp hg
  exact ⟨rfl, rfl, rfl, List.length_replicate, rfl, fun x hx => newWg_warp d hx⟩

/-- The head record of cluster `k` leaves its slot table, and new workgroups are created and seated (R307). -/
def State.dispatchNew (s : State) (k : Nat) (rest : List Bind) (gs : List Wg) : State :=
  { s.modCluster k (fun c => { c with slots := rest }) with wgs := s.wgs ++ gs }.seatAll gs

/-- The head record of cluster `k` leaves its slot table, and the workgroups of a swapped group take their seats again (R362). -/
def State.dispatchRestore (s : State) (k : Nat) (rest : List Bind) (cg : CgId) : State :=
  let t := (s.modCluster k (fun c => { c with slots := rest })).setCg cg (fun g => { g with st := .restoring, core := 4 * k + g.pos })
  t.seatAll (t.cgWgs cg)

/-- Creation adds the workgroups, takes the record out of its cluster's table and leaves HBM and the other clusters. -/
theorem dispatchNew_spec (k : Nat) (rest : List Bind) (gs : List Wg) : let t := s.dispatchNew k rest gs
    (t.cluster k).slots = rest ∧ t.wgs = s.wgs ++ gs ∧ t.hbm = s.hbm ∧ ∀ j, j ≠ k → t.cluster j = s.cluster j := by
  obtain ⟨cores, h⟩ := seatAll_eq { s.modCluster k (fun c => { c with slots := rest }) with wgs := s.wgs ++ gs } gs
  rw [State.dispatchNew, h]
  exact ⟨slots_modCluster s k rest, rfl, rfl, fun j hj => cluster_modCluster_other s (fun c => { c with slots := rest }) hj⟩

/-- A restore gives each workgroup of the group the core of its position, takes the record out of its cluster's table and leaves HBM. -/
theorem dispatchRestore_spec (k : Nat) (rest : List Bind) (cg : CgId) : let t := s.dispatchRestore k rest cg
    (t.cluster k).slots = rest ∧ t.hbm = s.hbm ∧ ∀ i g, s.wg i = some g → g.id.dev = cg.dev → g.id.launch = cg.launch → g.cg = cg.cg →
      t.wg i = some { g with st := .restoring, core := 4 * k + g.pos } := by
  let t := (s.modCluster k (fun c => { c with slots := rest })).setCg cg (fun g => { g with st := .restoring, core := 4 * k + g.pos })
  obtain ⟨cores, h⟩ := seatAll_eq t (t.cgWgs cg)
  rw [State.dispatchRestore, h]
  exact ⟨slots_modCluster s k rest, rfl, fun i g hg hdev hlaunch hcg =>
    wg_setCg (s.modCluster k (fun c => { c with slots := rest })) (f := fun g => { g with st := .restoring, core := 4 * k + g.pos })
      (fun _ => rfl) hg ⟨hdev, hlaunch, hcg⟩⟩

section
variable {agent cluster : Nat} {b : Bind} {rest : List Bind} (hcl : cluster < 36) (hslots : (s.cluster (36 * agent + cluster)).slots = b :: rest)
include hcl hslots

/-- A bind record that breaks Table 2 is device-fatal (R306, log 83). -/
theorem execBindStep_bad (hbad : bindOk (s.dev (devOfAgent agent)) (36 * agent + cluster) b = false) :
    execBindStep agent cluster s = .next (s.deviceFatal (devOfAgent agent) 2 (agent % 4)) := by
  simp [execBindStep, Nat.not_le.mpr hcl, hslots, hbad]

/-- A legal record waits where its context is being driven from the cluster (R358, log 82) or Table 6 leaves no room; else it is dispatched. -/
theorem execBindStep_legal {l : Launch} (hok : bindOk (s.dev (devOfAgent agent)) (36 * agent + cluster) b = true)
    (hl : s.launch? (devOfAgent agent) (b.w0.toNat % 1024) = some l) :
    let k := 36 * agent + cluster
    let gs := boundWgs (devOfAgent agent) (b.w0.toNat % 1024) l k b
    let cg : CgId := ⟨devOfAgent agent, b.w0.toNat % 1024, bits b.w0.toNat 16 32⟩
    execBindStep agent cluster s = .next (
      if s.blockedOn (devOfAgent agent) l.ctx k then s
      else if bits b.w1.toNat 63 1 = 0 then
        if !gs.all (fun g => s.room g.core g.need) then s else s.dispatchNew k rest gs
      else if (s.cgWgs cg).isEmpty || !(s.cgWgs cg).all (fun g => g.st == .swapped && s.room (4 * k + g.pos) g.need) then s
      else s.dispatchRestore k rest cg) := by
  rw [State.launch?] at hl
  unfold execBindStep
  rw [if_neg (Nat.not_le.mpr hcl), hslots]
  dsimp only
  rw [hok, hl]
  rfl

end

/-! ### The obligation -/

/-- Settles O51: placement by the guards of LAUNCH_PLACE and the fields of the record that it writes; dispatch by the check of the record, and
by what is created and seated where the room of Table 6 is there. -/
theorem launchPlacement : Obligations.LaunchPlacement := by
  unfold Obligations.LaunchPlacement
  refine fun s d => ⟨?_, ?_⟩
  · rintro e l p _ rfl he hl hend hst hagain hnew hcl hdie hfree hroom hpoint hcg hcgs hdg k
    have hdie4 : p.die < 4 := hdie.trans_le (by split <;> omega)
    have hp := placeable_of_placing (s.ageing d) d hst hend hagain (by simpa using hpoint) hcg hdg (by simpa using hfree)
    have hexec := execLaunchPlace_next s d hl hcl hdie hfree hroom hnew hp
    rw [placeNext_eq _ d hagain hcg hdg] at hexec
    have hcores := (coresOk_iff (s.ageing d) d (l := l) hdie4 hcl).trans (liveCores_ageing s d)
    have hout := outranked_iff (s.ageing d) d (k := k) (die := p.die) (l := l)
    refine ⟨fun h => hexec.trans (by rw [if_pos (hout.mpr h)]), fun h => hexec.trans (by rw [if_neg (mt hcores.mp h), ite_self]), fun hlive hnone => ?_⟩
    have hfirst : ¬ ∃ o ∈ ((s.ageing d).dev d).launches, (if l.aged then 7 else l.prio) < (if o.2.aged then 7 else o.2.prio) ∧
        (s.ageing d).placeable d k p.die o.2 = true := fun ⟨o, ho, hlt, hpl⟩ => by simp [hnone o ho hlt] at hpl
    obtain ⟨hbe, hbcg, hbfirst, hbres⟩ := mkBind_fields (first := l.g * l.nextCg) (p.cores.map (·.toNat)) (p.quads.map (·.toNat)) false he
      (hcg.trans_le hcgs) (l.groupSize_lt l.nextCg)
    obtain ⟨hslots, hlaunch, hhbm, hwgs⟩ := bindNext_spec (s.ageing d) d e l p
    obtain ⟨hnext, hleft, hdgDie⟩ := placed_counters l p.die
    exact ⟨_, l.nextBind e p, l.placed p.die, hexec.trans (by rw [if_neg (mt hout.mp hfirst), if_pos (hcores.mpr hlive)]), hslots, hbe, hbcg, hbres,
      hbfirst, hlaunch, hnext, hleft, hdgDie, hhbm, hwgs⟩
  · rintro agent cluster b rest hcl rfl hslots
    refine ⟨execBindStep_bad s hcl hslots, fun l hok hl hb => ?_, fun l hok hl hb hnew => ?_, fun l hok hl hb hres hne hall => ?_⟩
    all_goals
      have hexec := execBindStep_legal s hcl hslots hok hl
      dsimp only at hexec
    · exact hexec.trans (congrArg _ (if_pos hb))
    · rw [if_neg (Bool.eq_false_iff.mp hb), if_pos hnew] at hexec
      refine ⟨fun h => hexec.trans (congrArg _ (if_pos ?_)), fun h => ?_⟩
      · rw [List.not_all_eq_any_not]; exact h
      · obtain ⟨hrest, hwgs, hhbm, hother⟩ := dispatchNew_spec s (36 * agent + cluster) rest
          (boundWgs (devOfAgent agent) (b.w0.toNat % 1024) l (36 * agent + cluster) b)
        exact ⟨_, hexec.trans (congrArg _ (if_neg (Bool.eq_false_iff.mp (congrArg not h)))), hrest, hwgs, hhbm, hother, fun g hg => mem_boundWgs _ hg⟩
    · rw [if_neg (Bool.eq_false_iff.mp hb), if_neg (by rw [hres]; decide), if_neg (by simpa [hne] using hall)] at hexec
      exact ⟨_, hexec, dispatchRestore_spec s (36 * agent + cluster) rest ⟨devOfAgent agent, b.w0.toNat % 1024, bits b.w0.toNat 16 32⟩⟩

end Sys2Proof.Machine
end

section
/-! The obligation of the reset state (R34, R304, R343, R382, R394, R395). -/

namespace Sys2Proof.Machine

/-- The bring-up registers at reset (R395, Table 14; logs 7 and 9). -/
theorem reg64_reset : let s := State.reset
    s.reg64 0 0x4070 = 4096 ∧ s.reg64 0 0x4078 = 24 ∧ s.reg64 0 0x4080 = 0xFC00 ∧ s.reg64 0 0x40A0 = 1024 ∧ s.reg64 0 0x40A8 = 4096 ∧
      s.reg64 0 0x4068 = 7 + 7 * 2 ^ 8 + 7 * 2 ^ 16 ∧ s.reg64 0 0x4050 = 0 :=
  ⟨rfl, rfl, rfl, rfl, rfl, rfl, rfl⟩

/-- Settles O59: the reset state lists no memory, block, agent or work, and its device record holds the values of Table 14. -/
theorem resetState : Obligations.ResetState := by
  unfold Obligations.ResetState
  obtain ⟨hinterval, hscrub, hswap, hce, hlink, hpoint, hfatal⟩ := reg64_reset
  exact ⟨⟨rfl, rfl⟩, rfl, rfl, rfl, rfl, rfl, fun _ => rfl, fun _ => rfl, fun _ => rfl, hinterval, hscrub, hswap, hce, hlink, hpoint, hfatal,
    fun b => hallOf_hallByte_home b, fun _ => rfl⟩

end Sys2Proof.Machine
end

section
/-! SUPPORT. Reading back the fields of a slot (R58 to R64): codes, operands and the function fields of the formats. -/

namespace Sys2Proof

/-! ### Slots and their fields -/

theorem Fields.ofBits_toBits (f : Fields) : Fields.ofBits f.toBits = f := by
  obtain ⟨op, sw, u, la, lb, lc, ra, rb, rc, d, a, b, c, fn, imm⟩ := f
  simp (disch := decide) only [Fields.ofBits, Fields.toBits, BitVec.extractLsb'_append_eq_of_add_le, BitVec.extractLsb'_append_eq_of_le,
    Nat.reduceSub, BitVec.extractLsb'_eq_self]
  simp only [BitVec.getLsbD_append]
  simp

theorem Fields.toBits_ofBits (w : BitVec 96) : (Fields.ofBits w).toBits = w := by
  apply BitVec.eq_of_getLsbD_eq
  intro i hi
  simp only [Fields.ofBits, Fields.toBits, BitVec.getLsbD_append, BitVec.getLsbD_extractLsb', BitVec.getLsbD_ofBool]
  interval_cases i <;> simp

/-! ### Codes -/

@[simp] theorem Ty.ofCode_code (t : Ty) : Ty.ofCode t.code = t := by cases t <;> rfl
@[simp] theorem Rm.ofCode_code (r : Rm) : Rm.ofCode r.code = r := by cases r <;> rfl
@[simp] theorem Scope.ofCode_code (s : Scope) : Scope.ofCode s.code = s := by cases s <;> rfl
@[simp] theorem Order.ofCode_code (o : Order) : Order.ofCode o.code = o := by cases o <;> rfl
@[simp] theorem Hint.ofCode_code (h : Hint) : Hint.ofCode h.code = h := by cases h <;> rfl
@[simp] theorem Size.ofCode_code (z : Size) : Size.ofCode z.code = z := by cases z <;> rfl
@[simp] theorem Space.ofCode_code (p : Space) : Space.ofCode p.code = p := by cases p <;> rfl
@[simp] theorem Cmp.ofCode_code (c : Cmp) : Cmp.ofCode c.code = c := by cases c <;> rfl
@[simp] theorem FCmp.ofCode_code (c : FCmp) : FCmp.ofCode c.code = c := by cases c <;> rfl
@[simp] theorem Comb.ofCode_code (c : Comb) : Comb.ofCode c.code = c := by cases c <;> rfl
@[simp] theorem RedOp.ofCode_code (o : RedOp) : RedOp.ofCode o.code = o := by cases o <;> rfl
@[simp] theorem ShflMode.ofCode_code (m : ShflMode) : ShflMode.ofCode m.code = m := by cases m <;> rfl
@[simp] theorem VoteMode.ofCode_code (m : VoteMode) : VoteMode.ofCode m.code = m := by cases m <;> rfl
@[simp] theorem AtomOp.ofCode_code (o : AtomOp) : AtomOp.ofCode o.code = o := by cases o <;> rfl
@[simp] theorem CctlOp.ofCode_code (o : CctlOp) : CctlOp.ofCode o.code = o := by cases o <;> rfl
@[simp] theorem Resi.ofCode_code (r : Resi) : Resi.ofCode r.code = r := by cases r <;> rfl
@[simp] theorem CntClass.ofCode_code (c : CntClass) : CntClass.ofCode c.code = c := by cases c <;> rfl
@[simp] theorem MmaMode.ofCode_code (m : MmaMode) : MmaMode.ofCode m.code = m := by cases m <;> rfl
@[simp] theorem Sparse.ofCode_code (s : Sparse) : Sparse.ofCode s.code = s := by cases s <;> rfl

/-- The scope and order codes of a strong access are not 0, which marks a weak one (R60). -/
theorem Order.code_ne_zero (o : Order) : o.code ≠ 0#3 := by cases o <;> decide
theorem Scope.code_ne_zero (s : Scope) : s.code ≠ 0#3 := by cases s <;> decide

/-- A predicate is named by the low four bits of its code (Table 9), which is what an instruction with a four-bit predicate field holds. -/
@[simp] theorem PReg.ofCode_code (q : PReg) : PReg.ofCode q.code = q := by
  cases q with
  | p r => revert r; decide
  | k r => revert r; decide

@[simp] theorem PReg.ofCode_code_four (q : PReg) : PReg.ofCode ((q.code.setWidth 4).setWidth 8) = q := by
  cases q with
  | p r => revert r; decide
  | k r => revert r; decide

@[simp] theorem PReg.setWidth_code_k (k : BitVec 2) : (PReg.k k).code.setWidth 2 = k := by revert k; decide

/-! ### Operand fields -/

@[simp] theorem markerOf_eq (m : Marker) : markerOf (m == .last) (m == .reuse) = m := by cases m <;> rfl

@[simp] theorem dstOf_field (d : Dst) : dstOf d.isS d.field = d := by cases d <;> simp [dstOf, Dst.isS, Dst.field]

theorem srcS_field {s : Src} (h : s.isS = true) : srcS s.field = s := by
  cases s <;> simp_all [Src.isS, srcS, Src.field]

theorem srcV_field {s : Src} (h : s.isV = true) : srcV s.field s.last s.reuse = s := by
  cases s <;> simp_all [Src.isV, srcV, Src.field, Src.last, Src.reuse]

theorem srcA_field {s : Src} {u : Bool} (h : s.okA u = true) : (if u then srcS s.field else srcV s.field s.last s.reuse) = s := by
  cases u
  · exact srcV_field h
  · exact srcS_field h

theorem srcC_field {s : Src} {u : Bool} (h : s.okC u = true) :
    (if u || (!u && s.isS) then srcS s.field else srcV s.field s.last s.reuse) = s := by
  cases s <;> cases u <;> simp_all [Src.okC, Src.isS, Src.isV, srcS, srcV, Src.field, Src.last, Src.reuse]

theorem srcB_field {s : Src} {u i : Bool} (h : s.okB u i = true) :
    (if s.isImm then .imm s.immOf else if u || (!u && s.isS) then srcS s.field else srcV s.field s.last s.reuse) = s := by
  cases s with
  | imm w => rfl
  | v r m => exact srcC_field (s := .v r m) (by cases i <;> simpa [Src.okB, Src.okC, Src.isImm] using h)
  | s r => exact srcC_field (s := .s r) rfl

/-! ### The function field of Table 5 -/

section
variable (i : Bool) (sub : BitVec 6) (sat : Bool) (rm : Rm) (ty : BitVec 4) (cu bu : Bool)

/-- What the fields of `fnAlu` read. -/
theorem fnAlu_bits : (fnAlu i sub sat rm ty cu bu).getLsbD 15 = i ∧ (fnAlu i sub sat rm ty cu bu).extractLsb' 9 6 = sub ∧
    (fnAlu i sub sat rm ty cu bu).getLsbD 8 = sat ∧ (fnAlu i sub sat rm ty cu bu).extractLsb' 6 2 = rm.code ∧
    (fnAlu i sub sat rm ty cu bu).extractLsb' 2 4 = ty ∧ (fnAlu i sub sat rm ty cu bu).getLsbD 1 = cu ∧
    (fnAlu i sub sat rm ty cu bu).getLsbD 0 = bu := by
  simp (disch := decide) only [fnAlu, BitVec.getLsbD_append, BitVec.extractLsb'_append_eq_of_add_le, BitVec.extractLsb'_append_eq_of_le,
    Nat.reduceSub, BitVec.extractLsb'_eq_self]
  simp

end

section
variable (op : BitVec 8) (sw : Bool) (d : Dst) (a b c : Src) (sub : BitVec 6) (sat : Bool) (rm : Rm) (ty : BitVec 4)

@[simp] theorem aluFields_dst : (aluFields op sw d a b c sub sat rm ty).dst = d := dstOf_field d
@[simp] theorem aluFields_sub : (aluFields op sw d a b c sub sat rm ty).sub = sub := by
  obtain ⟨_, h, _⟩ := fnAlu_bits b.isImm sub sat rm ty (!d.isS && c.isS) (!d.isS && b.isS)
  exact h
@[simp] theorem aluFields_sat : (aluFields op sw d a b c sub sat rm ty).sat = sat := by
  obtain ⟨_, _, h, _⟩ := fnAlu_bits b.isImm sub sat rm ty (!d.isS && c.isS) (!d.isS && b.isS)
  exact h
@[simp] theorem aluFields_rm : (aluFields op sw d a b c sub sat rm ty).rm = rm := by
  obtain ⟨_, _, _, h, _⟩ := fnAlu_bits b.isImm sub sat rm ty (!d.isS && c.isS) (!d.isS && b.isS)
  simp [Fields.rm, aluFields, h]
@[simp] theorem aluFields_ty : (aluFields op sw d a b c sub sat rm ty).ty = Ty.ofCode ty := by
  obtain ⟨_, _, _, _, h, _⟩ := fnAlu_bits b.isImm sub sat rm ty (!d.isS && c.isS) (!d.isS && b.isS)
  simp [Fields.ty, aluFields, h]

theorem aluFields_srcA (h : a.okA d.isS = true) : (aluFields op sw d a b c sub sat rm ty).srcA = a := srcA_field h
theorem aluFields_srcB {i : Bool} (h : b.okB d.isS i = true) : (aluFields op sw d a b c sub sat rm ty).srcB = b := by
  obtain ⟨h1, _, _, _, _, _, h7⟩ := fnAlu_bits b.isImm sub sat rm ty (!d.isS && c.isS) (!d.isS && b.isS)
  simp only [Fields.srcB, aluFields, h1, h7]
  exact srcB_field h
theorem aluFields_srcC (h : c.okC d.isS = true) : (aluFields op sw d a b c sub sat rm ty).srcC = c := by
  obtain ⟨_, _, _, _, _, h6, _⟩ := fnAlu_bits b.isImm sub sat rm ty (!d.isS && c.isS) (!d.isS && b.isS)
  simp only [Fields.srcC, aluFields, h6]
  exact srcC_field h

@[simp] theorem unFields_dst : (unFields op sw d a sub sat rm ty).dst = d := dstOf_field d
@[simp] theorem unFields_sub : (unFields op sw d a sub sat rm ty).sub = sub := by
  obtain ⟨_, h, _⟩ := fnAlu_bits false sub sat rm ty false false
  exact h
@[simp] theorem unFields_sat : (unFields op sw d a sub sat rm ty).sat = sat := by
  obtain ⟨_, _, h, _⟩ := fnAlu_bits false sub sat rm ty false false
  exact h
@[simp] theorem unFields_rm : (unFields op sw d a sub sat rm ty).rm = rm := by
  obtain ⟨_, _, _, h, _⟩ := fnAlu_bits false sub sat rm ty false false
  simp [Fields.rm, unFields, h]
@[simp] theorem unFields_ty : (unFields op sw d a sub sat rm ty).ty = Ty.ofCode ty := by
  obtain ⟨_, _, _, _, h, _⟩ := fnAlu_bits false sub sat rm ty false false
  simp [Fields.ty, unFields, h]
theorem unFields_srcA (h : a.okA d.isS = true) : (unFields op sw d a sub sat rm ty).srcA = a := srcA_field h

end

/-! ### Operand groups -/

section
variable (op : BitVec 8) (sw : Bool) (d : Dst) (a b c : Src) (sub : BitVec 6) (sat : Bool) (rm : Rm) (ty : BitVec 4)

/-- A b or c operand that an instruction with `n` sources names is read back; one that it does not name is cleared. -/
theorem aluFields_srcB_upto {i : Bool} {n : Nat} (h : (if 2 ≤ n then b.okB d.isS i else b.isNone) = true) :
    (if 2 ≤ n then (aluFields op sw d a b c sub sat rm ty).srcB else .imm 0) = b := by
  split at h
  · next hn => rw [if_pos hn]; exact aluFields_srcB _ _ _ _ _ _ _ _ _ _ h
  · next hn => rw [if_neg hn]; exact (beq_iff_eq.mp h).symm

theorem aluFields_srcC_upto {n : Nat} (h : (if 3 ≤ n then c.okC d.isS else c.isNone) = true) :
    (if 3 ≤ n then (aluFields op sw d a b c sub sat rm ty).srcC else .imm 0) = c := by
  split at h
  · next hn => rw [if_pos hn]; exact aluFields_srcC _ _ _ _ _ _ _ _ _ _ h
  · next hn => rw [if_neg hn]; exact (beq_iff_eq.mp h).symm

end

theorem Alu.enc_alu {o : Alu} {n : Nat} {i sat : Bool} {tys : List Ty} (h : o.ok n i tys sat = true) (hn : 1 ≤ n) (op : BitVec 8) (sub : BitVec 6) :
    (o.enc op sub).alu n = o := by
  simp only [Alu.ok, if_pos hn, Bool.and_eq_true] at h
  obtain ⟨⟨⟨_, ha⟩, hb⟩, hc⟩ := h
  simp only [Fields.alu, Alu.enc, aluFields_srcA _ _ _ _ _ _ _ _ _ _ ha, aluFields_srcB_upto _ _ _ _ _ _ _ _ _ _ hb,
    aluFields_srcC_upto _ _ _ _ _ _ _ _ _ _ hc, aluFields_dst, aluFields_sat, aluFields_ty, Ty.ofCode_code]
  rfl

theorem Alu.un_alu {o : Alu} {i sat : Bool} {tys : List Ty} (h : o.ok 1 i tys sat = true) (op : BitVec 8) : (o.un op).alu 1 = o := by
  simp only [Alu.ok, le_refl, if_true, Nat.reduceLeDiff, if_false, Bool.and_eq_true] at h
  obtain ⟨⟨⟨_, ha⟩, hb⟩, hc⟩ := h
  obtain ⟨sw, ty, sat, d, a, b, c⟩ := o
  simp only [Fields.alu, Alu.un, unFields_srcA _ _ _ _ _ _ _ _ ha, unFields_dst, unFields_sat, unFields_ty, Ty.ofCode_code]
  simp_all [unFields, Fields.zero, Src.isNone]

/-- The source modifiers (R130) of an `FOp` are those that `sub` holds, or none. -/
theorem FOp.enc_fop {o : FOp} {n : Nat} {i mods anyRm : Bool} {tys : List Ty} (h : o.ok n i tys mods anyRm = true) (op : BitVec 8) (sub : BitVec 6)
    (hs : mods = true → sub = o.sub) : (o.enc op sub).fop n mods = o := by
  simp only [FOp.ok, Bool.and_eq_true] at h
  obtain ⟨⟨⟨⟨⟨⟨_, hm⟩, _⟩, _⟩, ha⟩, hb⟩, hc⟩ := h
  simp only [Fields.fop, FOp.enc, aluFields_srcA _ _ _ _ _ _ _ _ _ _ ha, aluFields_srcB_upto _ _ _ _ _ _ _ _ _ _ hb,
    aluFields_srcC_upto _ _ _ _ _ _ _ _ _ _ hc, aluFields_dst, aluFields_sub, aluFields_rm, aluFields_ty, Ty.ofCode_code]
  cases mods with
  | false =>
    obtain ⟨sw, ty, rm, na, nb, nc, aa, ab, ac, d, a, b, c⟩ := o
    simp_all [FOp.noMods, aluFields, Fields.zero]
  | true =>
    rw [hs rfl]
    simp only [FOp.sub, BitVec.getLsbD_append]
    simp [aluFields, Fields.zero]

theorem FOp.un_fop {o : FOp} {i anyRm : Bool} {tys : List Ty} (h : o.ok 1 i tys false anyRm = true) (op : BitVec 8) : (o.un op).fop 1 false = o := by
  simp only [FOp.ok, Nat.reduceLeDiff, if_false, Bool.and_eq_true] at h
  obtain ⟨⟨⟨⟨⟨⟨_, hm⟩, _⟩, _⟩, ha⟩, hb⟩, hc⟩ := h
  obtain ⟨sw, ty, rm, na, nb, nc, aa, ab, ac, d, a, b, c⟩ := o
  simp only [Fields.fop, FOp.un, unFields_srcA _ _ _ _ _ _ _ _ ha, unFields_dst, unFields_rm, unFields_ty, Ty.ofCode_code]
  simp_all [FOp.noMods, unFields, Fields.zero, Src.isNone]

/-- The source type in the function field of a conversion (R139). -/
theorem cv_src_ty (t : Ty) : Ty.ofCode ((t.code ++ (0 : BitVec 2) : BitVec 6).extractLsb' 2 4) = t := by cases t <;> rfl

theorem Cv.un_cv {o : Cv} (src : Bool) (ha : o.a.okA o.d.isS = true) (hb : o.b.isNone = true) (op : BitVec 8) (sub : BitVec 6)
    (hs : (if src then Ty.ofCode (sub.extractLsb' 2 4) else .f32) = o.ts) : (o.un op sub).cv src false = o := by
  simp only [Fields.cv, Cv.un, unFields_srcA _ _ _ _ _ _ _ _ ha, unFields_dst, unFields_sub, unFields_sat, unFields_rm, unFields_ty,
    Ty.ofCode_code, hs, Bool.false_eq_true, if_false, ← beq_iff_eq.mp hb]
  rfl

theorem Cv.enc_cv {o : Cv} (src : Bool) (ha : o.a.okA o.d.isS = true) {i : Bool} (hb : o.b.okB o.d.isS i = true) (op : BitVec 8) (sub : BitVec 6)
    (hs : (if src then Ty.ofCode (sub.extractLsb' 2 4) else .f32) = o.ts) : (o.enc op sub).cv src true = o := by
  simp only [Fields.cv, Cv.enc, aluFields_srcA _ _ _ _ _ _ _ _ _ _ ha, aluFields_srcB _ _ _ _ _ _ _ _ _ _ hb, aluFields_dst, aluFields_sub,
    aluFields_sat, aluFields_rm, aluFields_ty, Ty.ofCode_code, hs, if_true]
  rfl

/-! ### The function fields of the memory and barrier formats -/

theorem fnMem_bits (x : Bool) (h z s o p : BitVec 3) : (fnMem x h z s o p).getLsbD 15 = x ∧ (fnMem x h z s o p).extractLsb' 12 3 = h ∧
    (fnMem x h z s o p).extractLsb' 9 3 = z ∧ (fnMem x h z s o p).extractLsb' 6 3 = s ∧ (fnMem x h z s o p).extractLsb' 3 3 = o ∧
    (fnMem x h z s o p).extractLsb' 0 3 = p ∧ (fnMem x h z s o p).getLsbD 4 = o.getLsbD 1 := by
  simp (disch := decide) only [fnMem, BitVec.getLsbD_append, BitVec.extractLsb'_append_eq_of_add_le, BitVec.extractLsb'_append_eq_of_le,
    Nat.reduceSub, BitVec.extractLsb'_eq_self]
  simp

theorem fnBar_bits (sc : BitVec 3) (o gl x : Bool) (t : BitVec 6) : (fnBar sc o gl x t).extractLsb' 13 3 = sc ∧
    (fnBar sc o gl x t).getLsbD 12 = o ∧ (fnBar sc o gl x t).getLsbD 11 = gl ∧ (fnBar sc o gl x t).getLsbD 6 = x ∧
    (fnBar sc o gl x t).extractLsb' 0 6 = t := by
  simp (disch := decide) only [fnBar, BitVec.getLsbD_append, BitVec.extractLsb'_append_eq_of_add_le, BitVec.extractLsb'_append_eq_of_le,
    Nat.reduceSub, BitVec.extractLsb'_eq_self]
  simp

/-! ### Memory accesses and atomics -/

/-- The order code 0 marks a weak access (R60), and no order has it. -/
theorem MemOp.enc_strength (o : MemOp) (op : BitVec 8) : (o.enc op).strength = o.str := by
  obtain ⟨-, -, -, hs, ho, -⟩ := fnMem_bits o.sext o.hint.code o.size.code o.str.scopeCode o.str.orderCode o.sp.code
  simp only [Fields.strength, MemOp.enc, hs, ho]
  cases o.str with
  | weak => rfl
  | strong r sc => simp [Strength.orderCode, Strength.scopeCode, Order.code_ne_zero]

theorem MemOp.enc_mem {o : MemOp} (h : o.adr.base.okA o.d.isS = true) (op : BitVec 8) : (o.enc op).mem = o := by
  obtain ⟨hx, hh, hz, -, -, hp, -⟩ := fnMem_bits o.sext o.hint.code o.size.code o.str.scopeCode o.str.orderCode o.sp.code
  have ha : (o.enc op).srcA = o.adr.base := srcA_field h
  have hd : (o.enc op).dst = o.d := dstOf_field o.d
  simp only [Fields.mem, MemOp.enc_strength, ha, hd]
  simp only [MemOp.enc, hx, hh, hz, hp, Hint.ofCode_code, Size.ofCode_code, Space.ofCode_code]
  rfl

theorem MemOp.okA_of_ok {o : MemOp} {load shared : Bool} (h : o.ok load shared = true) : o.adr.base.okA o.d.isS = true := by
  simp only [MemOp.ok, Bool.and_eq_true] at h
  obtain ⟨⟨⟨_, ha⟩, _⟩, _⟩ := h
  exact ha

theorem MemOp.okA_of_okHdr {o : MemOp} {load : Bool} (h : o.okHdr load = true) : o.adr.base.okA o.d.isS = true := by
  simp only [MemOp.okHdr, Bool.and_eq_true, Bool.not_eq_true'] at h
  obtain ⟨⟨⟨⟨_, hd⟩, hv⟩, _⟩, _⟩ := h
  simpa [hd, Src.okA] using hv

/-- An atomic without a c register holds its type and operation in the c field; the size of CAS and CASS tells their type (R220). -/
theorem AtomI.enc_atom {o : AtomI} {gl cas red : Bool} (h : o.ok gl cas red = true) (op : BitVec 8) (space : Space) :
    (o.enc op space cas).atom cas = o := by
  simp only [AtomI.ok, Bool.and_eq_true] at h
  obtain ⟨⟨⟨⟨⟨⟨hc, _⟩, _⟩, ha⟩, _⟩, hb⟩, _⟩ := h
  obtain ⟨-, -, hz, hs, ho, -⟩ := fnMem_bits false 0 (if o.ty.is64 then 3 else 2) o.sc.code o.o.code space.code
  have ha' : srcV (o.enc op space cas).a (o.enc op space cas).la (o.enc op space cas).ra = o.adr.base := srcV_field ha
  have hb' : srcV (o.enc op space cas).b (o.enc op space cas).lb (o.enc op space cas).rb = o.b := srcV_field hb
  have hfn : (o.enc op space cas).fn = fnMem false 0 (if o.ty.is64 then 3 else 2) o.sc.code o.o.code space.code := rfl
  simp only [Fields.atom, ha', hb', hfn, hz, hs, ho, Scope.ofCode_code, Order.ofCode_code]
  cases cas with
  | false =>
    have hty : ((o.ty.code ++ o.op.code : BitVec 8).extractLsb' 4 4) = o.ty.code := by
      simp (disch := decide) only [BitVec.extractLsb'_append_eq_of_le, Nat.reduceSub, BitVec.extractLsb'_eq_self]
    have hop : ((o.ty.code ++ o.op.code : BitVec 8).extractLsb' 0 4) = o.op.code := by
      simp (disch := decide) only [BitVec.extractLsb'_append_eq_of_add_le, BitVec.extractLsb'_eq_self]
    have hc0 : o.c = .imm 0 := by simp_all [Src.isNone]
    simp only [AtomI.enc, Bool.false_eq_true, if_false, hty, hop, Ty.ofCode_code, AtomOp.ofCode_code, ← hc0]
    rfl
  | true =>
    simp only [if_true, Bool.and_eq_true, Bool.or_eq_true, beq_iff_eq] at hc
    obtain ⟨⟨⟨hop, hty⟩, hv⟩, _⟩ := hc
    have hc' : srcV (o.enc op space true).c (o.enc op space true).lc (o.enc op space true).rc = o.c := by simpa [AtomI.enc] using srcV_field hv
    simp only [if_true, hc', ← hop]
    rcases hty with e | e <;> simp [e, Ty.is64, Ty.width] <;> rw [← e] <;> rfl

end Sys2Proof
end

section
/-! SUPPORT. Parsing the fields of an instruction gives it back, by the operand group or by the fields of its own format. -/

namespace Sys2Proof

/-! ### Small fields in wide ones -/

@[simp] theorem extractLsb'_group (g : BitVec 2) : (g.setWidth 8 <<< 4).extractLsb' 4 2 = g := by revert g; decide
@[simp] theorem extractLsb'_setWidth_four (m : BitVec 4) : (m.setWidth 8).extractLsb' 0 4 = m := by revert m; decide
@[simp] theorem extractLsb'_setWidth_three (m : BitVec 3) : (m.setWidth 8).extractLsb' 0 3 = m := by revert m; decide
@[simp] theorem extractLsb'_setWidth_two (m : BitVec 2) : (m.setWidth 8).extractLsb' 0 2 = m := by revert m; decide
@[simp] theorem extractLsb'_counter (m : BitVec 3) : (m.setWidth 16 <<< 6).extractLsb' 6 3 = m := by revert m; decide

/-- The two fields of a special register's number in imm32 (R379). -/
theorem sysReg_fields (i : BitVec 10) (r : Byte) :
    ((i ++ r : BitVec 18).setWidth 32).setWidth 8 = r ∧ ((i ++ r : BitVec 18).setWidth 32).extractLsb' 8 10 = i := by
  constructor <;> apply BitVec.eq_of_getLsbD_eq <;> intro k hk <;>
    simp only [BitVec.getLsbD_setWidth, BitVec.getLsbD_extractLsb', BitVec.getLsbD_append]
  · simp [hk, show k < 32 by omega]
  · simp [hk, show 8 + k < 32 by omega]

theorem getLsbD_flag (z : BitVec 5) (b : Bool) : (z ++ BitVec.ofBool b : BitVec 6).getLsbD 0 = b := by
  simp only [BitVec.getLsbD_append]; simp

/-! ### Parsing the fields of an instruction -/

/-- `parse` with the two halves of the opcode given. -/
def parseGroup (f : Fields) (hi lo : Nat) : Instr :=
  match hi with
  | 0 => parseControl f lo
  | 1 => parseInt1 f lo
  | 2 => parseInt2 f lo
  | 3 => parseFloat f lo
  | 4 => parseHalf f lo
  | 5 => parseConv f lo
  | 6 => parseMem f lo
  | 7 => parseAtom f lo
  | 8 => parseChan f lo
  | 9 => parseBar f lo
  | 10 => parseMatrix f lo
  | 11 => parseSys f lo
  | _ => .illegalOpcode f.op

theorem opcode_halves : ∀ hi lo : Fin 16, ((BitVec.ofNat 8 (16 * hi + lo)).extractLsb' 4 4).toNat = hi ∧
    ((BitVec.ofNat 8 (16 * hi + lo)).extractLsb' 0 4).toNat = lo := by decide

theorem parse_eq_parseGroup {f : Fields} (hi lo : Fin 16) (h : f.op = BitVec.ofNat 8 (16 * hi + lo)) : parse f = parseGroup f hi lo := by
  obtain ⟨h1, h2⟩ := opcode_halves hi lo
  rw [← h] at h1 h2
  simp only [parse, h1, h2]; rfl

section
variable {f : Fields}

/-! What `parse` reads of the opcodes that hold more than an operand group, or than two operand groups. -/

theorem parse_0x12 (h : f.op = 0x12) : parse f = .iaddc (f.alu 2) (f.sub.getLsbD 0) (PReg.ofCode ((f.sub.extractLsb' 2 4).setWidth 8))
    (if f.sub.getLsbD 1 then some (PReg.ofCode f.c) else none) := parse_eq_parseGroup 1 2 h
theorem parse_0x1D (h : f.op = 0x1D) : parse f = .icmp ((f.alu 2).withDst (predDst f.u)) (Cmp.ofCode (f.sub.extractLsb' 3 3))
    (Comb.ofCode (f.sub.extractLsb' 1 2)) (f.sub.getLsbD 0) (PReg.ofCode f.d) (PReg.ofCode f.c) := parse_eq_parseGroup 1 13 h
theorem parse_0x1E (h : f.op = 0x1E) : parse f = .pick (f.alu 2) (f.sub.getLsbD 0) (PReg.ofCode f.c) := parse_eq_parseGroup 1 14 h
theorem parse_0x23 (h : f.op = 0x23) : parse f = .shf (f.alu 3) (f.sub.getLsbD 0) (f.sub.getLsbD 1) := parse_eq_parseGroup 2 3 h
theorem parse_0x24 (h : f.op = 0x24) : parse f = if f.fn.getLsbD 15 then .logt (f.alu 2) f.c else .logt (f.alu 3) (f.imm.setWidth 8) :=
  parse_eq_parseGroup 2 4 h
theorem parse_0x2B (h : f.op = 0x2B) : parse f =
    if f.sub.getLsbD 0 then .lea64 (f.alu 2) (f.sub.extractLsb' 1 5) else .lea (f.alu 2) (f.sub.extractLsb' 1 5) := parse_eq_parseGroup 2 11 h
theorem parse_0x2C (h : f.op = 0x2C) : parse f =
    if f.sub.getLsbD 0 then .idp2 (f.alu 3) (f.sub.getLsbD 1) else .idp4 (f.alu 3) (f.sub.getLsbD 1) := parse_eq_parseGroup 2 12 h
theorem parse_0x2D (h : f.op = 0x2D) : parse f =
    if f.fn.getLsbD 15 then .movi f.sw f.dst f.imm else .mov ((f.alu 2).withA (.imm 0)) := parse_eq_parseGroup 2 13 h
theorem parse_0x35 (h : f.op = 0x35) : parse f = .fcmp ((f.fop 2 false).withDst (predDst f.u)) (FCmp.ofCode (f.sub.extractLsb' 2 4))
    (Comb.ofCode (f.sub.extractLsb' 0 2)) (PReg.ofCode f.d) (PReg.ofCode f.c) := parse_eq_parseGroup 3 5 h
theorem parse_0x51 (h : f.op = 0x51) : parse f = .cvtp (f.cv true (f.cv true false).packs) := parse_eq_parseGroup 5 1 h
theorem parse_0x53 (h : f.op = 0x53) : parse f = .qblk (f.cv false false) (f.sub.getLsbD 0) (f.sub.getLsbD 1) := parse_eq_parseGroup 5 3 h
theorem parse_0x58 (h : f.op = 0x58) : parse f =
    .shfl f.sw (f.sub.extractLsb' 3 3) (ShflMode.ofCode (f.sub.extractLsb' 1 2)) f.d f.srcA f.srcB := parse_eq_parseGroup 5 8 h

end

/-- What `parse` reads of a comparison's destination is its class alone (R107, R114). -/
theorem predDst_of_predsOk {d : Dst} {comb : Comb} {inv : Bool} {q c : PReg} (h : predsOk d comb inv q c = true) : predDst d.isS = d := by
  simp only [predsOk, Bool.and_eq_true, beq_iff_eq] at h
  obtain ⟨⟨hd, _⟩, _⟩ := h
  exact hd.symm

@[simp] theorem Alu.enc_sub (op : BitVec 8) (o : Alu) (sub : BitVec 6) : (o.enc op sub).sub = sub := aluFields_sub _ _ _ _ _ _ _ _ _ _
@[simp] theorem FOp.enc_sub (op : BitVec 8) (o : FOp) (sub : BitVec 6) : (o.enc op sub).sub = sub := aluFields_sub _ _ _ _ _ _ _ _ _ _
/-- A flag in the low bit of the sub-field. -/
theorem Alu.enc_flag (op : BitVec 8) (o : Alu) (n : Bool) : (o.enc op ((0 : BitVec 5) ++ BitVec.ofBool n)).sub.getLsbD 0 = n := by
  rw [Alu.enc_sub, getLsbD_flag]
theorem FOp.enc_flag (op : BitVec 8) (o : FOp) (n : Bool) : (o.enc op ((0 : BitVec 5) ++ BitVec.ofBool n)).sub.getLsbD 0 = n := by
  rw [FOp.enc_sub, getLsbD_flag]

@[simp] theorem Cv.un_sub (op : BitVec 8) (o : Cv) (sub : BitVec 6) : (o.un op sub).sub = sub := unFields_sub _ _ _ _ _ _ _ _

theorem parse_encode_iaddc {o : Alu} {s : Bool} {q : PReg} {ci : Option PReg} (h : WellFormed (.iaddc o s q ci)) :
    parse (encodeFields (.iaddc o s q ci)) = .iaddc o s q ci := by
  have ho : (encodeFields (.iaddc o s q ci)).alu 2 = o := Alu.enc_alu (Bool.and_elim_left (Bool.and_elim_left h)) (by decide) 0x12 _
  have hs : (encodeFields (.iaddc o s q ci)).sub = q.code.setWidth 4 ++ BitVec.ofBool ci.isSome ++ BitVec.ofBool s := Alu.enc_sub 0x12 o _
  have hc : (encodeFields (.iaddc o s q ci)).c = (ci.map PReg.code).getD 0 := by cases ci <;> rfl
  rw [parse_0x12 rfl, ho, hs, hc]
  simp (disch := decide) only [BitVec.getLsbD_append, BitVec.extractLsb'_append_eq_of_le, Nat.reduceSub, BitVec.extractLsb'_eq_self,
    PReg.ofCode_code_four]
  cases ci <;> simp

theorem parse_encode_icmp {o : Alu} {cmp : Cmp} {comb : Comb} {inv : Bool} {q c : PReg} (h : WellFormed (.icmp o cmp comb inv q c)) :
    parse (encodeFields (.icmp o cmp comb inv q c)) = .icmp o cmp comb inv q c := by
  have ha : ((encodeFields (.icmp o cmp comb inv q c)).alu 2).withDst o.d = o :=
    have e := congrArg (Alu.withDst · o.d)
      (Alu.enc_alu (Bool.and_elim_left (Bool.and_elim_left h)) (by decide) 0x1D (cmp.code ++ comb.code ++ BitVec.ofBool inv))
    e
  have hs : (encodeFields (.icmp o cmp comb inv q c)).sub = cmp.code ++ comb.code ++ BitVec.ofBool inv := Alu.enc_sub 0x1D o _
  have hu : (encodeFields (.icmp o cmp comb inv q c)).u = o.d.isS := rfl
  have hd : (encodeFields (.icmp o cmp comb inv q c)).d = q.code := rfl
  have hc : (encodeFields (.icmp o cmp comb inv q c)).c = c.code := rfl
  rw [parse_0x1D rfl, hu, predDst_of_predsOk (Bool.and_elim_right h), ha, hs, hd, hc]
  simp (disch := decide) only [BitVec.getLsbD_append, BitVec.extractLsb'_append_eq_of_le, BitVec.extractLsb'_append_eq_of_add_le, Nat.reduceSub,
    BitVec.extractLsb'_eq_self, Cmp.ofCode_code, Comb.ofCode_code, PReg.ofCode_code]
  simp

theorem parse_encode_fcmp {o : FOp} {cmp : FCmp} {comb : Comb} {q c : PReg} (h : WellFormed (.fcmp o cmp comb q c)) :
    parse (encodeFields (.fcmp o cmp comb q c)) = .fcmp o cmp comb q c := by
  have ha : ((encodeFields (.fcmp o cmp comb q c)).fop 2 false).withDst o.d = o :=
    have e := congrArg (FOp.withDst · o.d) (FOp.enc_fop (Bool.and_elim_left h) 0x35 (cmp.code ++ comb.code) nofun)
    e
  have hs : (encodeFields (.fcmp o cmp comb q c)).sub = cmp.code ++ comb.code := FOp.enc_sub 0x35 o _
  have hu : (encodeFields (.fcmp o cmp comb q c)).u = o.d.isS := rfl
  have hd : (encodeFields (.fcmp o cmp comb q c)).d = q.code := rfl
  have hc : (encodeFields (.fcmp o cmp comb q c)).c = c.code := rfl
  rw [parse_0x35 rfl, hu, predDst_of_predsOk (Bool.and_elim_right h), ha, hs, hd, hc]
  simp (disch := decide) only [BitVec.extractLsb'_append_eq_of_le, BitVec.extractLsb'_append_eq_of_add_le, Nat.reduceSub,
    BitVec.extractLsb'_eq_self, FCmp.ofCode_code, Comb.ofCode_code, PReg.ofCode_code]

/-- Without the I bit no operand is read from imm32. -/
theorem Fields.alu_with_imm {f : Fields} (h : f.fn.getLsbD 15 = false) (n : Nat) (w : Word) : ({ f with imm := w } : Fields).alu n = f.alu n := by
  simp only [Fields.alu, Fields.srcB, h, Bool.false_eq_true, if_false]
  rfl

/-- The I bit tells where LOGT has its table (R119). -/
theorem parse_encode_logt {o : Alu} {t : Byte} (h : WellFormed (.logt o t)) : parse (encodeFields (.logt o t)) = .logt o t := by
  obtain ⟨hi, -⟩ := fnAlu_bits o.b.isImm 0 o.sat .rn o.ty.code (!o.d.isS && o.c.isS) (!o.d.isS && o.b.isS)
  have hI : (o.enc 0x24).fn.getLsbD 15 = o.b.isImm := hi
  cases hb : o.b.isImm with
  | true =>
    have ho : o.ok 2 true [.n32] false = true := (if_pos hb).symm.trans h
    have he : encodeFields (.logt o t) = { o.enc 0x24 with c := t } := if_pos hb
    rw [he, parse_0x24 rfl]
    exact (if_pos (hI.trans hb)).trans (congrArg (Instr.logt · t) (Alu.enc_alu ho (by decide) 0x24 0))
  | false =>
    have hn : ¬ o.b.isImm = true := Bool.eq_false_iff.mp hb
    have ho : o.ok 3 false [.n32] false = true := (if_neg hn).symm.trans h
    have he : encodeFields (.logt o t) = { o.enc 0x24 with imm := t.setWidth 32 } := if_neg hn
    have ht : (t.setWidth 32).setWidth 8 = t := by simp
    have e := (Fields.alu_with_imm (hI.trans hb) 3 (t.setWidth 32)).trans (Alu.enc_alu ho (by decide) 0x24 0)
    rw [he, parse_0x24 rfl]
    exact (if_neg (Bool.eq_false_iff.mp (hI.trans hb))).trans (congrArg₂ Instr.logt e ht)

theorem parse_encode_shfl {sw : Bool} {w : BitVec 3} {m : ShflMode} {d : BitVec 8} {a b : Src} (h : WellFormed (.shfl sw w m d a b)) :
    parse (encodeFields (.shfl sw w m d a b)) = .shfl sw w m d a b := by
  have he : encodeFields (.shfl sw w m d a b) = aluFields 0x58 sw (.v d) a b (.imm 0) (w ++ m.code ++ (0 : BitVec 1)) false .rn Ty.n32.code := rfl
  have ha : a.okA (Dst.v d).isS = true := Bool.and_elim_right (Bool.and_elim_left h)
  have hb : b.okB (Dst.v d).isS true = true := Bool.and_elim_right h
  rw [he, parse_0x58 rfl, aluFields_srcA _ _ _ _ _ _ _ _ _ _ ha, aluFields_srcB _ _ _ _ _ _ _ _ _ _ hb, aluFields_sub]
  simp (disch := decide) only [BitVec.extractLsb'_append_eq_of_le, BitVec.extractLsb'_append_eq_of_add_le, Nat.reduceSub, BitVec.extractLsb'_eq_self,
    ShflMode.ofCode_code]
  rfl

/-- Whether a conversion packs does not turn on its b operand. -/
theorem Fields.cv_packs (f : Fields) (src b : Bool) : (f.cv src b).packs = (f.cv src false).packs := rfl

theorem parse_encode_cvtp {o : Cv} (h : WellFormed (.cvtp o)) : parse (encodeFields (.cvtp o)) = .cvtp o := by
  obtain ⟨ha, hb⟩ := Bool.and_eq_true_iff.mp h
  have hts := cv_src_ty o.ts
  cases hk : o.packs with
  | true =>
    have e := Cv.enc_cv true ha ((if_pos hk).symm.trans hb) 0x51 (o.ts.code ++ (0 : BitVec 2)) hts
    have he : encodeFields (.cvtp o) = o.enc 0x51 (o.ts.code ++ (0 : BitVec 2)) := if_pos hk
    rw [he, parse_0x51 rfl, ← Fields.cv_packs _ true true, e, hk, e]
  | false =>
    have hn : ¬ o.packs = true := Bool.eq_false_iff.mp hk
    have e := Cv.un_cv true ha (Bool.and_elim_left ((if_neg hn).symm.trans hb)) 0x51 (o.ts.code ++ (0 : BitVec 2)) hts
    have he : encodeFields (.cvtp o) = o.un 0x51 (o.ts.code ++ (0 : BitVec 2)) := if_neg hn
    rw [he, parse_0x51 rfl, e, hk, e]

theorem getLsbD_flags (z : BitVec 4) (x y : Bool) : (z ++ BitVec.ofBool x ++ BitVec.ofBool y : BitVec 6).getLsbD 0 = y ∧
    (z ++ BitVec.ofBool x ++ BitVec.ofBool y : BitVec 6).getLsbD 1 = x := by
  simp only [BitVec.getLsbD_append]; simp

theorem parse_encode_pick {o : Alu} {inv : Bool} {c : PReg} (h : WellFormed (.pick o inv c)) :
    parse (encodeFields (.pick o inv c)) = .pick o inv c := by
  have ho : (encodeFields (.pick o inv c)).alu 2 = o := Alu.enc_alu (Bool.and_elim_left (Bool.and_elim_left h)) (by decide) 0x1E _
  have hs : (encodeFields (.pick o inv c)).sub = (0 : BitVec 5) ++ BitVec.ofBool inv := Alu.enc_sub 0x1E o _
  have hc : (encodeFields (.pick o inv c)).c = c.code := rfl
  rw [parse_0x1E rfl, ho, hs, hc, getLsbD_flag, PReg.ofCode_code]

theorem parse_encode_shf {o : Alu} {r cl : Bool} (h : WellFormed (.shf o r cl)) : parse (encodeFields (.shf o r cl)) = .shf o r cl := by
  have ho : (encodeFields (.shf o r cl)).alu 3 = o := Alu.enc_alu h (by decide) 0x23 _
  have hs : (encodeFields (.shf o r cl)).sub = (0 : BitVec 4) ++ BitVec.ofBool cl ++ BitVec.ofBool r := Alu.enc_sub 0x23 o _
  obtain ⟨hr, hcl⟩ := getLsbD_flags 0 cl r
  rw [parse_0x23 rfl, ho, hs, hr, hcl]

/-- Two instructions share opcode 0x2B, and two 0x2C: the low bit of the sub-field tells which. -/
theorem sub_shift_fields (sh : BitVec 5) (b : Bool) : (sh ++ BitVec.ofBool b : BitVec 6).extractLsb' 1 5 = sh := by
  simp (disch := decide) only [BitVec.extractLsb'_append_eq_of_le, Nat.reduceSub, BitVec.extractLsb'_eq_self]

theorem parse_encode_lea {o : Alu} {sh : BitVec 5} (h : WellFormed (.lea o sh)) : parse (encodeFields (.lea o sh)) = .lea o sh := by
  have ho : (encodeFields (.lea o sh)).alu 2 = o := Alu.enc_alu h (by decide) 0x2B _
  have hs : (encodeFields (.lea o sh)).sub = sh ++ BitVec.ofBool false := Alu.enc_sub 0x2B o _
  rw [parse_0x2B rfl, ho, hs, getLsbD_flag, sub_shift_fields, if_neg Bool.false_ne_true]

theorem parse_encode_lea64 {o : Alu} {sh : BitVec 5} (h : WellFormed (.lea64 o sh)) : parse (encodeFields (.lea64 o sh)) = .lea64 o sh := by
  have ho : (encodeFields (.lea64 o sh)).alu 2 = o := Alu.enc_alu (Bool.and_elim_left (Bool.and_elim_left h)) (by decide) 0x2B _
  have hs : (encodeFields (.lea64 o sh)).sub = sh ++ BitVec.ofBool true := Alu.enc_sub 0x2B o _
  rw [parse_0x2B rfl, ho, hs, getLsbD_flag, sub_shift_fields, if_pos rfl]

theorem parse_encode_idp4 {o : Alu} {bs : Bool} (h : WellFormed (.idp4 o bs)) : parse (encodeFields (.idp4 o bs)) = .idp4 o bs := by
  have ho : (encodeFields (.idp4 o bs)).alu 3 = o := Alu.enc_alu h (by decide) 0x2C _
  have hs : (encodeFields (.idp4 o bs)).sub = (0 : BitVec 4) ++ BitVec.ofBool bs ++ BitVec.ofBool false := Alu.enc_sub 0x2C o _
  obtain ⟨h0, hbs⟩ := getLsbD_flags 0 bs false
  rw [parse_0x2C rfl, ho, hs, h0, hbs, if_neg Bool.false_ne_true]

theorem parse_encode_idp2 {o : Alu} {bs : Bool} (h : WellFormed (.idp2 o bs)) : parse (encodeFields (.idp2 o bs)) = .idp2 o bs := by
  have ho : (encodeFields (.idp2 o bs)).alu 3 = o := Alu.enc_alu h (by decide) 0x2C _
  have hs : (encodeFields (.idp2 o bs)).sub = (0 : BitVec 4) ++ BitVec.ofBool bs ++ BitVec.ofBool true := Alu.enc_sub 0x2C o _
  obtain ⟨h0, hbs⟩ := getLsbD_flags 0 bs true
  rw [parse_0x2C rfl, ho, hs, h0, hbs, if_pos rfl]

/-- MOV has its source in b; the I bit makes the slot a MOVI (R125). -/
theorem parse_encode_mov {o : Alu} (h : WellFormed (.mov o)) : parse (encodeFields (.mov o)) = .mov o := by
  have hall : ((o.ty == .n32 || o.ty == .n64) && !o.sat && o.a.isNone && o.b.okB o.d.isS false && o.c.isNone && o.pairs true false true) = true := h
  simp only [Bool.and_eq_true, beq_iff_eq, Src.isNone] at hall
  obtain ⟨⟨⟨⟨_, ha⟩, hb⟩, hc⟩, _⟩ := hall
  have hi : o.b.isImm = false := by
    cases e : o.b <;> simp_all [Src.okB, Src.isImm, Src.isS, Src.isV]
  have hI : (o.enc 0x2D).fn.getLsbD 15 = false := by
    obtain ⟨h15, -⟩ := fnAlu_bits o.b.isImm 0 o.sat .rn o.ty.code (!o.d.isS && o.c.isS) (!o.d.isS && o.b.isS)
    exact h15.trans hi
  have ho : ((o.enc 0x2D).alu 2).withA (.imm 0) = o := by
    have hB : (o.enc 0x2D).srcB = o.b := aluFields_srcB _ _ _ _ _ _ _ _ _ _ hb
    have ht : (o.enc 0x2D).ty = o.ty := by simp [Alu.enc]
    have hs : (o.enc 0x2D).sat = o.sat := aluFields_sat _ _ _ _ _ _ _ _ _ _
    have hd : (o.enc 0x2D).dst = o.d := aluFields_dst _ _ _ _ _ _ _ _ _ _
    simp only [Fields.alu, Alu.withA, hB, ht, hs, hd]
    obtain ⟨sw, ty, sat, d, a, b, c⟩ := o
    simp_all [Alu.enc, aluFields, Fields.zero]
  have he : encodeFields (.mov o) = o.enc 0x2D := rfl
  rw [he, parse_0x2D rfl, hI, ho, if_neg Bool.false_ne_true]

theorem parse_encode_cvt {o : Cv} (h : WellFormed (.cvt o)) : parse (encodeFields (.cvt o)) = .cvt o := by
  have hall : o.okCvt = true := h
  simp only [Cv.okCvt, Bool.and_eq_true] at hall
  obtain ⟨⟨⟨⟨⟨⟨_, ha⟩, hb⟩, _⟩, _⟩, _⟩, _⟩ := hall
  exact (parse_eq_parseGroup 5 0 rfl).trans (congrArg Instr.cvt (Cv.un_cv true ha hb 0x50 _ (cv_src_ty o.ts)))

theorem parse_encode_cvt8 {o : Cv} (h : WellFormed (.cvt8 o)) : parse (encodeFields (.cvt8 o)) = .cvt8 o := by
  obtain ⟨ha, hb⟩ := Bool.and_eq_true_iff.mp (Bool.and_elim_left h)
  exact (parse_eq_parseGroup 5 2 rfl).trans (congrArg Instr.cvt8 (Cv.un_cv true ha hb 0x52 _ (cv_src_ty o.ts)))

theorem parse_encode_qblk {o : Cv} {p s : Bool} (h : WellFormed (.qblk o p s)) : parse (encodeFields (.qblk o p s)) = .qblk o p s := by
  obtain ⟨h, hb⟩ := Bool.and_eq_true_iff.mp (Bool.and_elim_left (Bool.and_elim_left h))
  obtain ⟨h, ha⟩ := Bool.and_eq_true_iff.mp h
  obtain ⟨h, hd⟩ := Bool.and_eq_true_iff.mp (Bool.and_elim_left h)
  have ht : .f32 = o.ts := (beq_iff_eq.mp (Bool.and_elim_right h)).symm
  have hA : o.a.okA o.d.isS = true := by rw [(Bool.not_eq_true' _).mp hd]; exact ha
  have ho : (encodeFields (.qblk o p s)).cv false false = o := Cv.un_cv false hA hb 0x53 _ ht
  have hs : (encodeFields (.qblk o p s)).sub = (0 : BitVec 4) ++ BitVec.ofBool s ++ BitVec.ofBool p := Cv.un_sub 0x53 o _
  obtain ⟨hp, hs'⟩ := getLsbD_flags 0 s p
  rw [parse_0x53 rfl, ho, hs, hp, hs']

theorem parse_encode_dqblk {o : Cv} (h : WellFormed (.dqblk o)) : parse (encodeFields (.dqblk o)) = .dqblk o := by
  obtain ⟨h, hb⟩ := Bool.and_eq_true_iff.mp h
  obtain ⟨h, ha⟩ := Bool.and_eq_true_iff.mp h
  obtain ⟨h, hd⟩ := Bool.and_eq_true_iff.mp (Bool.and_elim_left h)
  have ht : .f32 = o.ts := (beq_iff_eq.mp (Bool.and_elim_right h)).symm
  have hS : o.d.isS = false := (Bool.not_eq_true' _).mp hd
  have hA : o.a.okA o.d.isS = true := by rw [hS]; exact ha
  have hB : o.b.okB o.d.isS false = true := by simpa [hS, Src.okB, Src.okC] using hb
  exact (parse_eq_parseGroup 5 4 rfl).trans (congrArg Instr.dqblk (Cv.enc_cv false hA hB 0x54 _ ht))

/-- The order codes RLX with REL, and RLX with ACQ, differ in bit 1 (Table 7). -/
@[simp] theorem orderBit_rel (b : Bool) : (if b = true then 3#3 else 1#3).getLsbD 1 = b := by cases b <;> rfl
@[simp] theorem orderBit_acq (b : Bool) : (if b = true then 2#3 else 1#3).getLsbD 1 = b := by cases b <;> rfl

theorem scopeOpt_read (s : Option Scope) : (if scopeOpt s = 0#3 then none else some (Scope.ofCode (scopeOpt s))) = s := by
  cases s with
  | none => rfl
  | some s => exact (if_neg (Scope.code_ne_zero s)).trans (by simp [scopeOpt])

theorem syswr_src {a : Src} {x : Bool} (h : (a.isS || (x && a.isV && !a.last && !a.reuse)) = true) :
    (if a.isS then srcS a.field else .v a.field .none) = a := by
  cases a with
  | s r => simp [Src.isS, srcS, Src.field]
  | imm w => simp [Src.isS, Src.isV] at h
  | v r m => cases m <;> simp_all [Src.isS, Src.isV, Src.last, Src.reuse, Src.field]

/-- The source of REDUX and SCAN is a vector register (R149). -/
theorem isV_of_reduxOk {ty : Ty} {op : RedOp} {rm : Rm} {sat : Bool} {a : Src} (h : reduxOk ty op rm sat a = true) : a.isV = true := by
  simp only [reduxOk, Bool.and_eq_true] at h
  obtain ⟨⟨⟨⟨ha, _⟩, _⟩, _⟩, _⟩ := h
  exact ha

theorem parse_encodeFields {i : Instr} (h : WellFormed i) : parse (encodeFields i) = i := by
  cases i
  case nop | brx | brd | join | call | ret | exit | pred | yield | launch =>
    unfold encodeFields
    simp (disch := decide) [-Nat.reduceAdd, -BitVec.getLsbD_eq_getElem, BitVec.getLsbD_append, BitVec.extractLsb'_append_eq_of_le,
      BitVec.extractLsb'_append_eq_of_add_le, parse, parseControl, Fields.zero]
  case bra sw cond inv off =>
    unfold encodeFields
    cases cond <;> simp [-Nat.reduceAdd, -BitVec.getLsbD_eq_getElem, BitVec.getLsbD_append, parse, parseControl, Fields.zero]
  case iadd o => exact (parse_eq_parseGroup 1 0 rfl).trans (congrArg Instr.iadd (Alu.enc_alu (Bool.and_elim_left h) (by decide) 0x10 0))
  case iadd3 o n => exact (parse_eq_parseGroup 1 1 rfl).trans (congrArg₂ Instr.iadd3 (Alu.enc_alu h (by decide) 0x11 _)
      (Alu.enc_flag 0x11 o n))
  case iaddc o s q ci => exact parse_encode_iaddc h
  case isub o => exact (parse_eq_parseGroup 1 3 rfl).trans (congrArg Instr.isub (Alu.enc_alu (Bool.and_elim_left h) (by decide) 0x13 0))
  case ineg o => exact (parse_eq_parseGroup 1 4 rfl).trans (congrArg Instr.ineg (Alu.un_alu (Bool.and_elim_left h) 0x14))
  case iabs o => exact (parse_eq_parseGroup 1 5 rfl).trans (congrArg Instr.iabs (Alu.un_alu (Bool.and_elim_left h) 0x15))
  case imul o => exact (parse_eq_parseGroup 1 6 rfl).trans (congrArg Instr.imul (Alu.enc_alu h (by decide) 0x16 0))
  case imulhi o => exact (parse_eq_parseGroup 1 7 rfl).trans (congrArg Instr.imulhi (Alu.enc_alu h (by decide) 0x17 0))
  case imad o => exact (parse_eq_parseGroup 1 8 rfl).trans (congrArg Instr.imad (Alu.enc_alu h (by decide) 0x18 0))
  case imad64 o =>
    exact (parse_eq_parseGroup 1 9 rfl).trans (congrArg Instr.imad64 (Alu.enc_alu (Bool.and_elim_left (Bool.and_elim_left h)) (by decide) 0x19 0))
  case imin o => exact (parse_eq_parseGroup 1 10 rfl).trans (congrArg Instr.imin (Alu.enc_alu (Bool.and_elim_left h) (by decide) 0x1A 0))
  case imax o => exact (parse_eq_parseGroup 1 11 rfl).trans (congrArg Instr.imax (Alu.enc_alu (Bool.and_elim_left h) (by decide) 0x1B 0))
  case isad o => exact (parse_eq_parseGroup 1 12 rfl).trans (congrArg Instr.isad (Alu.enc_alu h (by decide) 0x1C 0))
  case icmp o cmp cb inv q c => exact parse_encode_icmp h
  case pick o inv c => exact parse_encode_pick h
  case shl o => exact (parse_eq_parseGroup 2 0 rfl).trans (congrArg Instr.shl (Alu.enc_alu (Bool.and_elim_left h) (by decide) 0x20 0))
  case shr o => exact (parse_eq_parseGroup 2 1 rfl).trans (congrArg Instr.shr (Alu.enc_alu (Bool.and_elim_left h) (by decide) 0x21 0))
  case sar o => exact (parse_eq_parseGroup 2 2 rfl).trans (congrArg Instr.sar (Alu.enc_alu (Bool.and_elim_left h) (by decide) 0x22 0))
  case shf o r cl => exact parse_encode_shf h
  case logt o t => exact parse_encode_logt h
  case popc o => exact (parse_eq_parseGroup 2 5 rfl).trans (congrArg Instr.popc (Alu.un_alu (Bool.and_elim_left h) 0x25))
  case clz o => exact (parse_eq_parseGroup 2 6 rfl).trans (congrArg Instr.clz (Alu.un_alu (Bool.and_elim_left h) 0x26))
  case brev o => exact (parse_eq_parseGroup 2 7 rfl).trans (congrArg Instr.brev (Alu.un_alu (Bool.and_elim_left h) 0x27))
  case bfe o => exact (parse_eq_parseGroup 2 8 rfl).trans (congrArg Instr.bfe (Alu.enc_alu h (by decide) 0x28 0))
  case bfi o => exact (parse_eq_parseGroup 2 9 rfl).trans (congrArg Instr.bfi (Alu.enc_alu h (by decide) 0x29 0))
  case bsel o => exact (parse_eq_parseGroup 2 10 rfl).trans (congrArg Instr.bsel (Alu.enc_alu h (by decide) 0x2A 0))
  case lea o sh => exact parse_encode_lea h
  case lea64 o sh => exact parse_encode_lea64 h
  case idp4 o bs => exact parse_encode_idp4 h
  case idp2 o bs => exact parse_encode_idp2 h
  case mov o => exact parse_encode_mov h
  case fadd o => exact (parse_eq_parseGroup 3 0 rfl).trans (congrArg Instr.fadd (FOp.enc_fop h 0x30 o.sub fun _ => rfl))
  case fmul o => exact (parse_eq_parseGroup 3 1 rfl).trans (congrArg Instr.fmul (FOp.enc_fop h 0x31 o.sub fun _ => rfl))
  case ffma o => exact (parse_eq_parseGroup 3 2 rfl).trans (congrArg Instr.ffma (FOp.enc_fop h 0x32 o.sub fun _ => rfl))
  case fmin o n => exact (parse_eq_parseGroup 3 3 rfl).trans (congrArg₂ Instr.fmin (FOp.enc_fop h 0x33 _ nofun)
      (FOp.enc_flag 0x33 o n))
  case fmax o n => exact (parse_eq_parseGroup 3 4 rfl).trans (congrArg₂ Instr.fmax (FOp.enc_fop h 0x34 _ nofun)
      (FOp.enc_flag 0x34 o n))
  case fcmp o cmp cb q c => exact parse_encode_fcmp h
  case frnd o => exact (parse_eq_parseGroup 3 6 rfl).trans (congrArg Instr.frnd (FOp.un_fop h 0x36))
  case fclass o => exact (parse_eq_parseGroup 3 7 rfl).trans (congrArg Instr.fclass (FOp.un_fop h 0x37))
  case fdp2 o => exact (parse_eq_parseGroup 3 8 rfl).trans (congrArg Instr.fdp2 (FOp.enc_fop h 0x38 o.sub fun _ => rfl))
  case hadd2 o => exact (parse_eq_parseGroup 4 0 rfl).trans (congrArg Instr.hadd2 (FOp.enc_fop h 0x40 o.sub fun _ => rfl))
  case hmul2 o => exact (parse_eq_parseGroup 4 1 rfl).trans (congrArg Instr.hmul2 (FOp.enc_fop h 0x41 o.sub fun _ => rfl))
  case hfma2 o => exact (parse_eq_parseGroup 4 2 rfl).trans (congrArg Instr.hfma2 (FOp.enc_fop h 0x42 o.sub fun _ => rfl))
  case hmin2 o n => exact (parse_eq_parseGroup 4 3 rfl).trans (congrArg₂ Instr.hmin2 (FOp.enc_fop h 0x43 _ nofun)
      (FOp.enc_flag 0x43 o n))
  case hmax2 o n => exact (parse_eq_parseGroup 4 4 rfl).trans (congrArg₂ Instr.hmax2 (FOp.enc_fop h 0x44 _ nofun)
      (FOp.enc_flag 0x44 o n))
  case frcp o => exact (parse_eq_parseGroup 4 8 rfl).trans (congrArg Instr.frcp (FOp.un_fop h 0x48))
  case frsq o => exact (parse_eq_parseGroup 4 9 rfl).trans (congrArg Instr.frsq (FOp.un_fop h 0x49))
  case fsqrt o => exact (parse_eq_parseGroup 4 10 rfl).trans (congrArg Instr.fsqrt (FOp.un_fop h 0x4A))
  case fex2 o => exact (parse_eq_parseGroup 4 11 rfl).trans (congrArg Instr.fex2 (FOp.un_fop h 0x4B))
  case flg2 o => exact (parse_eq_parseGroup 4 12 rfl).trans (congrArg Instr.flg2 (FOp.un_fop h 0x4C))
  case fsin o => exact (parse_eq_parseGroup 4 13 rfl).trans (congrArg Instr.fsin (FOp.un_fop h 0x4D))
  case fcos o => exact (parse_eq_parseGroup 4 14 rfl).trans (congrArg Instr.fcos (FOp.un_fop h 0x4E))
  case ftanh o => exact (parse_eq_parseGroup 4 15 rfl).trans (congrArg Instr.ftanh (FOp.un_fop h 0x4F))
  case cvt o => exact parse_encode_cvt h
  case cvtp o => exact parse_encode_cvtp h
  case cvt8 o => exact parse_encode_cvt8 h
  case qblk o p s => exact parse_encode_qblk h
  case dqblk o => exact parse_encode_dqblk h
  case shfl sw w m d a b => exact parse_encode_shfl h
  case ld o => exact (parse_eq_parseGroup 6 0 rfl).trans (congrArg Instr.ld (MemOp.enc_mem (MemOp.okA_of_ok h) 0x60))
  case st o => exact (parse_eq_parseGroup 6 1 rfl).trans (congrArg Instr.st (MemOp.enc_mem (MemOp.okA_of_ok h) 0x61))
  case lds o => exact (parse_eq_parseGroup 6 2 rfl).trans (congrArg Instr.lds (MemOp.enc_mem (MemOp.okA_of_ok h) 0x62))
  case sts o => exact (parse_eq_parseGroup 6 3 rfl).trans (congrArg Instr.sts (MemOp.enc_mem (MemOp.okA_of_ok h) 0x63))
  case ldhdr o => exact (parse_eq_parseGroup 6 4 rfl).trans (congrArg Instr.ldhdr (MemOp.enc_mem (MemOp.okA_of_okHdr h) 0x64))
  case sthdr o => exact (parse_eq_parseGroup 6 5 rfl).trans (congrArg Instr.sthdr (MemOp.enc_mem (MemOp.okA_of_okHdr h) 0x65))
  case atom o => exact (parse_eq_parseGroup 7 0 rfl).trans (congrArg Instr.atom (AtomI.enc_atom h 0x70 .gl))
  case atoms o => exact (parse_eq_parseGroup 7 1 rfl).trans (congrArg Instr.atoms (AtomI.enc_atom h 0x71 .sp))
  case cas o => exact (parse_eq_parseGroup 7 2 rfl).trans (congrArg Instr.cas (AtomI.enc_atom h 0x72 .gl))
  case cass o => exact (parse_eq_parseGroup 7 3 rfl).trans (congrArg Instr.cass (AtomI.enc_atom h 0x73 .sp))
  case red o => exact (parse_eq_parseGroup 7 4 rfl).trans (congrArg Instr.red (AtomI.enc_atom h 0x74 .gl))
  case plog | p2v | v2p =>
    unfold encodeFields
    simp [parse, parseInt1, parseInt2, Fields.zero]
  case movi sw d w =>
    obtain ⟨hi, -⟩ := fnAlu_bits true 0 false .rn Ty.n32.code false false
    have hd : (encodeFields (.movi sw d w)).dst = d := dstOf_field d
    have hI : (encodeFields (.movi sw d w)).fn.getLsbD 15 = true := hi
    rw [parse_0x2D rfl, hI, hd]
    rfl
  case vote | ballot =>
    unfold encodeFields
    simp (disch := decide) [-Nat.reduceAdd, -BitVec.getLsbD_eq_getElem, BitVec.getLsbD_append, BitVec.extractLsb'_append_eq_of_le, parse, parseConv,
      Fields.zero, Fields.sub, fnAlu_bits]
  case redux sw ty op rm sat d a =>
    have ha : a.isV = true := isV_of_reduxOk h
    unfold encodeFields
    simp (disch := decide) [-Nat.reduceAdd, -BitVec.getLsbD_eq_getElem, BitVec.extractLsb'_append_eq_of_le, parse, parseConv,
      Fields.zero, Fields.sub, fnAlu_bits, Fields.ty, Fields.rm, Fields.sat, Fields.vecA, srcV_field ha]
  case scan sw ty op rm sat ex d a =>
    have ha : a.isV = true := isV_of_reduxOk h
    unfold encodeFields
    simp (disch := decide) [-Nat.reduceAdd, -BitVec.getLsbD_eq_getElem, BitVec.getLsbD_append, BitVec.extractLsb'_append_eq_of_le, parse, parseConv,
      Fields.zero, Fields.sub, fnAlu_bits, Fields.ty, Fields.rm, Fields.sat, Fields.vecA, srcV_field ha]
  case matchLanes sw ty all d a =>
    have ha : a.isV = true := Bool.and_elim_right (Bool.and_elim_left (Bool.and_elim_left h))
    unfold encodeFields
    simp (disch := decide) [-Nat.reduceAdd, -BitVec.getLsbD_eq_getElem, BitVec.getLsbD_append, parse, parseConv, Fields.zero,
      Fields.sub, fnAlu_bits, Fields.ty, Fields.vecA, srcV_field ha]
  case fence =>
    unfold encodeFields
    simp [parse, parseAtom, Fields.zero, Fields.order, Fields.scope, fnMem_bits]
  case pref sw k l2 adr =>
    have ha : adr.base.isV = true := Bool.and_elim_right (Bool.and_elim_left h)
    unfold encodeFields
    simp [-BitVec.getLsbD_eq_getElem, parse, parseAtom, Fields.zero, fnMem_bits, Fields.adr, Fields.vecA, srcV_field ha]
  case cctl sw op adr =>
    have ha : adr.base.isV = true := Bool.and_elim_left (Bool.and_elim_left h)
    unfold encodeFields
    simp [parse, parseAtom, Fields.zero, Fields.adr, Fields.vecA, srcV_field ha]
  case resid sw cls adr len =>
    have ha : adr.base.isV = true := Bool.and_elim_left (Bool.and_elim_left h)
    have hl : len.isV = true := Bool.and_elim_right h
    unfold encodeFields
    simp [parse, parseAtom, Fields.zero, Fields.adr, Fields.vecA, srcV_field ha, srcV_field hl]
  case vinv sw x =>
    unfold encodeFields
    cases x <;> simp [parse, parseAtom, Fields.zero]
  case chinit | push | popTry | popWait | cpy | cpyx | waitcnt =>
    unfold encodeFields
    simp (disch := decide) [-Nat.reduceAdd, -BitVec.getLsbD_eq_getElem, BitVec.getLsbD_append, parse, parseChan, Fields.zero,
      Fields.scope, fnMem_bits]
  case binit | arrive | expect | wait | twait | mon | monx | tbind | trel | tstat =>
    unfold encodeFields
    simp (disch := decide) [-Nat.reduceAdd, -BitVec.getLsbD_eq_getElem, BitVec.extractLsb'_append_eq_of_le, parse, parseBar,
      Fields.zero, barFields, Fields.bar, Fields.barScope, Fields.tile, fnBar_bits, scopeOpt_read]
  case mapdef sw bind m a =>
    unfold encodeFields
    cases bind <;>
      simp (disch := decide) [-Nat.reduceAdd, -BitVec.getLsbD_eq_getElem, BitVec.getLsbD_append, BitVec.extractLsb'_append_eq_of_add_le, parse,
        parseMatrix, Fields.zero, Fields.tile]
  case tmma | tmmas | wbld | wbinv | accz | accld | accst | accsc | accadd | accrd | accwr | convn | ttest =>
    unfold encodeFields
    simp (disch := decide) [-Nat.reduceAdd, -BitVec.getLsbD_eq_getElem, BitVec.getLsbD_append, BitVec.extractLsb'_append_eq_of_le,
      BitVec.extractLsb'_append_eq_of_add_le, parse, parseMatrix, Fields.zero, Fields.rm2]
  case trap | tret | bkpt | evt | sleep =>
    unfold encodeFields
    simp [parse, parseSys, Fields.zero]
  case sysrd sw d r i =>
    obtain ⟨hr, hi⟩ := sysReg_fields i r
    unfold encodeFields
    simp [parse, parseSys, Fields.zero, hr, hi]
  case syswr sw a r i =>
    obtain ⟨hr, hi⟩ := sysReg_fields i r
    unfold encodeFields
    simp [parse, parseSys, Fields.zero, syswr_src (Bool.and_elim_right h), hr, hi]
  case illegalOpcode op => exact beq_iff_eq.mp h
  all_goals exact absurd h Bool.false_ne_true

end Sys2Proof
end

section
/-! The obligations of the encoding chapter about slots (R51, R58 to R72). -/

namespace Sys2Proof

theorem decodeSlot_encode {i : Instr} (h : WellFormed i) : decodeSlot (encode i) = .ok i := by
  simp only [decodeSlot, encode, Fields.ofBits_toBits, decodeFields, parse_encodeFields h]
  split
  · rfl
  · simp [h]

theorem encode_of_decodeSlot {w : BitVec 96} {i : Instr} (h : decodeSlot w = .ok i) :
    (∃ op, i = .illegalOpcode op) ∨ (WellFormed i ∧ encode i = w) := by
  simp only [decodeSlot, decodeFields] at h
  split at h
  · exact .inl ⟨_, (Except.ok.inj h).symm⟩
  · split at h
    · next hc =>
      rw [Bool.and_eq_true, beq_iff_eq] at hc
      obtain ⟨hw, he⟩ := hc
      cases h
      exact .inr ⟨hw, by rw [encode, he, Fields.toBits_ofBits]⟩
    · cases h

end Sys2Proof

namespace Sys2Proof.Machine

/-- Settles O58, by parsing back the fields that each instruction encodes to; the fields of a slot are the slot itself. -/
theorem decodeEncode : Obligations.DecodeEncode := by
  unfold Obligations.DecodeEncode
  exact ⟨fun _ h => decodeSlot_encode h, fun _ _ h => encode_of_decodeSlot h⟩

/-- Settles O57: each slot is evaluated. -/
theorem decodeWords : Obligations.DecodeWords := by
  unfold Obligations.DecodeWords
  decide

end Sys2Proof.Machine
end

section
/-! SUPPORT. Instructions whose body runs on the state itself, and what `advance` leaves of a warp. -/

namespace Sys2Proof.Machine

/-! ### An instruction without vector sources -/

theorem unmap_nil (x : Warp) : x.unmap [] = x := rfl

theorem modWarp_id (s : State) (w : WarpId) : s.modWarp w (fun x => x) = s := by
  have hw : ∀ l : List Wg, l.map (fun g => if g.id = w.wg then { g with warps := g.warps.modify w.warp (fun x => x) } else g) = l := by
    intro l
    conv_rhs => rw [← List.map_id l]
    apply List.map_congr_left
    intro g _
    split
    · rw [show g.warps.modify w.warp (fun x => x) = g.warps from List.modify_id ..]; rfl
    · rfl
  unfold State.modWarp State.modWg
  rw [hw]

/-- An instruction that nothing keeps from its effect and that reads no vector register runs its body on the state itself. -/
theorem issue_ready_scalar {s : State} {c : Ctx} {m : Mode} {d : Deps} (h : Ready s c m d) (hl : d.lasts = []) (hm : m.raw = false)
    (body : Ctx → State → Except TrapInfo State) :
    s.issue m d (fun _ _ => false) body = (match body c s with
      | .error t => .next (s.takeTrap c.w t)
      | .ok t => .next (t.modWarp c.w (fun x => x.advance c.now m.sw m.jump c.x.pfx.isSome))) := by
  rw [issue_ready h _ _ rfl, hl]
  simp only [unmap_nil, modWarp_id, hm]
  rfl

theorem changes_issue {i : Instr} {s : State} {c : Ctx} {m : Mode} {d : Deps} {body : Ctx → State → Except TrapInfo State} {f : Warp → Warp}
    {P : Warp → Prop} (hi : exec i s = s.issue m d (fun _ _ => false) body) (h : Ready s c m d) (hl : d.lasts = []) (hm : m.raw = false)
    (hb : body c s = .ok (s.modWarp c.w f)) (hP : P ((f c.x).advance c.now m.sw m.jump c.x.pfx.isSome)) : Changes i s c P :=
  ⟨_, by rw [hi, issue_ready_scalar h hl hm, hb]; exact congrArg Host.Outcome.next (modWarp_modWarp _ _ _ _), hP⟩

theorem takesTrap_issue {i : Instr} {s : State} {c : Ctx} {m : Mode} {d : Deps} {body : Ctx → State → Except TrapInfo State} {t : TrapInfo}
    (hi : exec i s = s.issue m d (fun _ _ => false) body) (h : Ready s c m d) (hl : d.lasts = []) (hm : m.raw = false)
    (hb : body c s = .error t) : exec i s = .next (s.takeTrap c.w t) := by
  rw [hi, issue_ready_scalar h hl hm, hb]

/-! ### What `advance` leaves -/

theorem sameRegs_advance {x z : Warp} {lasts vs ss : List Nat} (h : SameRegs x z lasts vs ss) (now : Nat) (sw jump covered : Bool) :
    SameRegs x (z.advance now sw jump covered) lasts vs ss := by
  obtain ⟨hv, hs⟩ := h
  exact ⟨fun r hr => by simpa [Warp.readV] using hv r hr, fun r hr => by simpa [Warp.readS] using hs r hr⟩

theorem samePreds_advance {x z : Warp} {qs : List PReg} (h : SamePreds x z qs) (now : Nat) (sw jump covered : Bool) :
    SamePreds x (z.advance now sw jump covered) qs := fun q hq =>
  (predMask_eq (advance_p z now sw jump covered) (advance_k z now sw jump covered) q).trans (h q hq)

theorem sameRegs_of_eq {x z : Warp} (hv : z.v = x.v) (hs : z.s = x.s) : SameRegs x z [] [] [] :=
  ⟨fun r _ => by simp [Warp.readV, hv, unmap_nil], fun r _ => by simp [Warp.readS, hs]⟩

theorem samePreds_of_eq {x z : Warp} (hp : z.p = x.p) (hk : z.k = x.k) : SamePreds x z [] := fun q _ => predMask_eq hp hk q

/-- What an instruction may own of its warp's parks, ahead of the marker that issue adds. -/
theorem stepped_own {x y : Warp} {now : Nat} {sw : Bool} {own : List Park} (h : Stepped now sw [] { x with park := own ++ x.park } y) :
    Stepped now sw own x y := by
  obtain ⟨hp, hh, hx⟩ := h
  exact ⟨by rw [hp]; simp, hh, hx⟩

/-- `advance` neither reads nor, for an instruction that no prefix covers, writes the prefix. -/
theorem advance_with_pfx (x : Warp) (p : Option Prefix) (now : Nat) (sw jump : Bool) :
    ({ x with pfx := p } : Warp).advance now sw jump false = { x.advance now sw jump false with pfx := p } := by
  change _ = (fun y : Warp => { y with pfx := p }) (x.advance now sw jump false)
  cases jump <;>
  · simp only [Warp.advance, apply_ite (fun y : Warp => { y with pfx := p })]
    rfl

end Sys2Proof.Machine
end

section
/-! The control instructions that move to the next slot (R69, R319, R381). -/

namespace Sys2Proof.Machine

/-- `advance` neither reads nor writes what a YIELD waits for. -/
theorem advance_with_yield (x : Warp) (l : Option Yield) (now : Nat) (sw jump covered : Bool) :
    ({ x with yield := l } : Warp).advance now sw jump covered = { x.advance now sw jump covered with yield := l } := by
  change _ = (fun y : Warp => { y with yield := l }) (x.advance now sw jump covered)
  cases jump <;> cases covered <;>
  · simp only [Warp.advance, apply_ite (fun y : Warp => { y with yield := l })]
    rfl

variable {s : State} {c : Ctx} {sw : Bool}

theorem changes_nop (h : Ready s c { once := true, sw := sw } {}) : Changes (.nop sw) s c (fun y =>
    SameRegs c.x y [] [] [] ∧ SamePreds c.x y [] ∧ SameRest c.x y ∧ Stepped c.now sw [] c.x y ∧ y.pend = c.x.pend ∧ y.pc = c.x.pc + 1) :=
  changes_issueWarp (dispatch_nop s sw) h rfl
    ⟨sameRegs_advance (sameRegs_of_eq rfl rfl) _ _ _ _, samePreds_advance (samePreds_of_eq rfl rfl) _ _ _ _,
      sameRest_advance _ (by exact ⟨rfl, rfl⟩) _ _ _ _, stepped_advance ⟨rfl, rfl, rfl⟩ _ _ _, advance_pend _ _ _ _ _, advance_pc _ _ _ _ _⟩

/-- Issue of an instruction that starts a prefix does no more than that of another that none covers. -/
theorem stepped_starting_prefix (x : Warp) (p : Option Prefix) (hx : x.pfx = none) (now : Nat) (sw : Bool) :
    Stepped now sw [] x { ({ x with pfx := p } : Warp).advance now sw false false with pfx := none } := by
  have hs := stepped_advance (x := x) (y := { x with pfx := none }) ⟨rfl, rfl, hx.symm⟩ now sw false
  rw [hx, Option.isSome_none, advance_with_pfx] at hs
  rw [advance_with_pfx]
  exact hs

theorem changes_pred {q : PReg} {inv : Bool} {m e : BitVec 4} (h : Ready s c { once := true, cover := false, sw := sw } (Deps.pred q)) :
    Changes (.pred sw q inv m e) s c (fun y =>
      y.pfx = some
        { remaining := m.toNat + e.toNat, thenLeft := m.toNat, base := c.x.mask, cond := if inv then ~~~(c.x.predMask q) else c.x.predMask q } ∧
      SameRegs c.x y [] [] [] ∧ SamePreds c.x y [] ∧ SameRest c.x y ∧ Stepped c.now sw [] c.x { y with pfx := c.x.pfx } ∧ y.pend = c.x.pend ∧
      y.pc = c.x.pc + 1) := by
  have hp : c.x.pfx = none := h.allowed.resolve_right Bool.false_ne_true
  refine changes_issueWarp (dispatch_pred s sw q inv m e) h rfl ?_
  rw [hp, Option.isSome_none]
  refine ⟨?_, sameRegs_advance (sameRegs_of_eq rfl rfl) _ _ _ _, samePreds_advance (samePreds_of_eq rfl rfl) _ _ _ _,
    sameRest_advance _ (by exact ⟨rfl, rfl⟩) _ _ _ _, ?_, advance_pend _ _ _ _ _, advance_pc _ _ _ _ _⟩
  · exact congrArg Warp.pfx (advance_with_pfx c.x _ c.now sw false)
  · exact stepped_starting_prefix c.x _ hp c.now sw

/-- A YIELD names the other warps that are eligible as it issues, each once for each slot it stands in. -/
theorem mem_others {l : List (Nat × WarpId)} {w v : WarpId} : w ∈ (l.map (·.2)).filter (· != v) ↔ w ≠ v ∧ ∃ n, (n, w) ∈ l := by
  simp only [List.mem_filter, List.mem_map, bne_iff_ne, ne_eq, Prod.exists, exists_eq_right]
  exact and_comm

theorem changes_yield (h : Ready s c { once := true, sw := sw } {}) : Changes (.yield sw) s c (fun y =>
    (∃ l, y.yield = some { others := l, until_ := c.now + 64 } ∧
      ∀ w, w ∈ l ↔ w ≠ c.w ∧ ∃ n, (n, w) ∈ s.eligible c.core (quadOf c.g c.w.warp) c.now) ∧
    SameRest c.x { y with yield := c.x.yield } ∧ Stepped c.now sw [] c.x y ∧ SameRegs c.x y [] [] [] ∧ SamePreds c.x y [] ∧ y.pc = c.x.pc + 1) := by
  refine changes_issue (dispatch_yield s sw) h rfl rfl rfl ⟨⟨_, by rw [advance_with_yield], fun w => mem_others⟩, ?_,
    stepped_advance ⟨rfl, rfl, rfl⟩ _ _ _, sameRegs_advance (sameRegs_of_eq rfl rfl) _ _ _ _,
    samePreds_advance (samePreds_of_eq rfl rfl) _ _ _ _, advance_pc _ _ _ _ _⟩
  rw [← advance_with_yield]
  exact sameRest_advance _ (by exact ⟨rfl, rfl⟩) _ _ _ _

theorem changes_sleep {n : BitVec 20} (h : Ready s c { once := true, sw := sw } {}) : Changes (.sleep sw n) s c (fun y =>
    Stepped c.now sw [if c.x.halt.isSome then .slept n.toNat else .sleep (c.now + n.toNat)] c.x y ∧
    SameRegs c.x y [] [] [] ∧ SamePreds c.x y [] ∧ SameRest c.x y ∧ y.pc = c.x.pc + 1) :=
  changes_issueWarp (dispatch_sleep s sw n) h rfl
    ⟨stepped_own (stepped_advance (x := { c.x with park := _ :: c.x.park }) ⟨rfl, rfl, rfl⟩ _ _ _), sameRegs_advance (sameRegs_of_eq rfl rfl) _ _ _ _,
      samePreds_advance (samePreds_of_eq rfl rfl) _ _ _ _, sameRest_advance _ (by exact ⟨rfl, rfl⟩) _ _ _ _, advance_pc _ _ _ _ _⟩

theorem nopPredYieldSleep : Claims.NopPredYieldSleep :=
  ⟨fun _ _ _ h => changes_nop h, fun _ _ _ _ _ _ _ h => changes_pred h, fun _ _ _ h => changes_yield h, fun _ _ _ _ h => changes_sleep h⟩

/-- The prefix after a covered instruction has issued. -/
theorem advance_pfx_covered (x : Warp) (now : Nat) (sw jump : Bool) : (x.advance now sw jump true).pfx = x.pfx.bind Prefix.next := by
  cases jump <;> simp only [Warp.advance, Warp.pfxStep, apply_ite Warp.pfx, ite_self, if_true, Bool.false_eq_true, if_false]

theorem prefixSides : Claims.PrefixSides := by
  refine ⟨fun sw q inv m e h => ?_, fun x p hp => ⟨fun h => ?_, fun h => ?_, fun now sw jump => ⟨fun h => ?_, fun h => ?_⟩⟩⟩
  · simpa only [WellFormed, Instr.accepts, Bool.and_eq_true, decide_eq_true_eq] using h
  · simp [Warp.lanes, hp, h]
  · simp [Warp.lanes, hp, h]
  · simp [advance_pfx_covered, hp, Prefix.next, h]
  · simp [advance_pfx_covered, hp, Prefix.next, Nat.not_le.mpr h]

/-- Settles O15, by the bodies of the four instructions on a warp that issues, and by `advance` for the prefix they leave. -/
theorem plainControl : Obligations.PlainControl := by
  unfold Obligations.PlainControl
  exact ⟨nopPredYieldSleep, prefixSides⟩

end Sys2Proof.Machine
end

section
/-! Transfers of control and the check of their targets (R52, R53, R315, R316). -/

namespace Sys2Proof.Machine

/-! ### The check of a target -/

theorem legalSlot_eq (l : BitVec 512) {i : Nat} (h : i < 32) : legalSlot l i = l.getLsbD (480 + i) := by
  simp only [legalSlot, lineWord, BitVec.getLsbD_extractLsb', h, decide_true, Bool.true_and]

theorem targetCheck : Claims.TargetCheck := by
  refine fun s g w n => ⟨fun h => if_pos h, fun l h0 h1 hl => ?_⟩
  have hlegal : legalSlot l (slotOf n.toNat) = l.getLsbD (480 + n.toNat % 5) := legalSlot_eq l (by unfold slotOf; omega)
  unfold State.checkTarget lineVa
  rw [if_neg (by omega), hl]
  simp only [hlegal]

/-! ### Transfers of control -/

theorem jumpTo_ok {s : State} {c : Ctx} {i : Int} {n : Nat} (h : s.checkTarget c.g c.w.warp i = .ok n) :
    s.jumpTo c i = .ok (s.modWarp c.w (fun x => { x with pc := n })) := by simp only [State.jumpTo, h]

theorem jumpTo_error {s : State} {c : Ctx} {i : Int} {t : TrapInfo} (h : s.checkTarget c.g c.w.warp i = .error t) :
    s.jumpTo c i = .error t := by simp only [State.jumpTo, h]

theorem advance_pfx_uncovered (x : Warp) (now : Nat) (sw jump : Bool) : (x.advance now sw jump false).pfx = x.pfx := by
  cases jump <;> simp only [Warp.advance, apply_ite Warp.pfx, ite_self, if_true, Bool.false_eq_true, if_false]

/-- A warp whose path has moved, after issue. No prefix covers it, since none may cover a transfer of control. -/
theorem moved_advance (x : Warp) (hx : x.pfx = none) (n now : Nat) (sw : Bool) :
    Claims.Moved now sw x (({ x with pc := n } : Warp).advance now sw true x.pfx.isSome) n := by
  refine ⟨?_, ?_, stepped_advance ⟨rfl, rfl, rfl⟩ _ _ _, advance_pc _ _ _ _ _⟩
  · have hp := advance_pfx_uncovered { x with pc := n } now sw true
    obtain ⟨pc, pfx, halt, park, dq, e, -⟩ := advance_eq { x with pc := n } now sw true false
    have hc : x.pfx.isSome = false := by rw [hx]; rfl
    rw [hc]
    rw [e] at hp ⊢
    change pfx = x.pfx at hp
    rw [hp]
  · obtain ⟨-, h⟩ := sameRest_advance (z := x) { x with pc := n } (by exact ⟨rfl, rfl⟩) now sw true x.pfx.isSome
    exact h

variable {s : State} {c : Ctx} {sw : Bool}

/-- A transfer of control that is issued is covered by no prefix. -/
theorem Ready.pfx_none {d : Deps} (h : Ready s c (ctl sw) d) : c.x.pfx = none := h.allowed.resolve_right Bool.false_ne_true

/-- A transfer of control whose body sets the PC to `n`. -/
theorem changes_ctl {i : Instr} {d : Deps} {body : Ctx → State → Except TrapInfo State} {n : Nat}
    (hi : exec i s = s.issue (ctl sw) d (fun _ _ => false) body) (h : Ready s c (ctl sw) d) (hl : d.lasts = [])
    (hb : body c s = .ok (s.modWarp c.w (fun x => { x with pc := n }))) : Changes i s c (fun y => Claims.Moved c.now sw c.x y n) :=
  changes_issue hi h hl rfl hb (moved_advance c.x h.pfx_none n c.now sw)

/-- BRA moves the path to its target where its condition holds, and to the next slot where it does not (R316). -/
theorem changes_bra {i : Instr} {d : Deps} {taken : Bool} {target : Int} {body : Ctx → State → Except TrapInfo State}
    (hi : exec i s = s.issue (ctl sw) d (fun _ _ => false) body) (h : Ready s c (ctl sw) d) (hl : d.lasts = [])
    (hb : body c s = if taken then s.jumpTo c target else .ok (s.modWarp c.w (fun x => { x with pc := x.pc + 1 }))) :
    (taken = false → Changes i s c (fun y => Claims.Moved c.now sw c.x y (c.x.pc + 1))) ∧
    (∀ n, taken = true → s.checkTarget c.g c.w.warp target = .ok n → Changes i s c (fun y => Claims.Moved c.now sw c.x y n)) ∧
    (∀ t, taken = true → s.checkTarget c.g c.w.warp target = .error t → exec i s = .next (s.takeTrap c.w t)) := by
  refine ⟨fun ht => ?_, fun n ht hn => ?_, fun t ht hn => ?_⟩
  · refine changes_issue hi h hl rfl (hb.trans (if_neg (Bool.eq_false_iff.mp ht))) ?_
    exact moved_advance c.x h.pfx_none (c.x.pc + 1) c.now sw
  · exact changes_ctl hi h hl (hb.trans ((if_pos ht).trans (jumpTo_ok hn)))
  · exact takesTrap_issue hi h hl rfl (hb.trans ((if_pos ht).trans (jumpTo_error hn)))

/-- BRX and RET have one meaning (R316). -/
theorem changes_indexJump {i : Instr} {a : BitVec 6} (hi : exec i s = indexJump sw a s) (h : Ready s c (ctl sw) (Deps.uni a.toNat 1)) :
    let index : Int := ((s.codeBase c + (c.x.readS a.toNat).toNat : Nat) : Int)
    (∀ n, s.checkTarget c.g c.w.warp index = .ok n → Changes i s c (fun y => Claims.Moved c.now sw c.x y n)) ∧
    (∀ t, s.checkTarget c.g c.w.warp index = .error t → exec i s = .next (s.takeTrap c.w t)) :=
  ⟨fun _ hn => changes_ctl hi h rfl (jumpTo_ok hn), fun _ ht => takesTrap_issue hi h rfl rfl (jumpTo_error ht)⟩

/-- The warp that a CALL leaves at slot `n`, before issue goes on: s[d] holds `back` and is pending to no later instruction (R316). -/
def calledWarp (n d : Nat) (back : Word) (x : Warp) : Warp :=
  { x with pc := n, s := tabSet x.s d back, pend := x.pend.filter (fun e => e.reg != .s d) }

theorem calledWarp_sameRegs (x : Warp) (n d : Nat) (back : Word) : SameRegs x (calledWarp n d back x) [] [] [d] :=
  ⟨fun _ _ => rfl, fun _ hr => tabGetD_set_other _ _ _ (fun e => hr (by simp [e]))⟩

theorem calledWarp_sameRest (x : Warp) (n d : Nat) (back : Word) : SameRest x (calledWarp n d back x) := ⟨rfl, rfl⟩

theorem changes_call {d : BitVec 6} {off : Word} {n : Nat} (h : Ready s c (ctl sw) {})
    (hn : s.checkTarget c.g c.w.warp ((c.x.pc : Int) + off.toInt) = .ok n) : Changes (.call sw d off) s c (fun y =>
      y.pc = n ∧ y.readS d.toNat = BitVec.ofInt 32 ((c.x.pc : Int) + 1 - (s.codeBase c : Int)) ∧ y.pending c.now (.s d.toNat) = false ∧
      SameRegs c.x y [] [] [d.toNat] ∧ SamePreds c.x y [] ∧ SameRest c.x y ∧ Stepped c.now sw [] c.x y) := by
  let back : Word := BitVec.ofInt 32 ((c.x.pc : Int) + 1 - (s.codeBase c : Int))
  have hb : (s.jumpTo c ((c.x.pc : Int) + off.toInt)).map (fun t =>
      t.modWarp c.w (fun x => { x with s := tabSet x.s d.toNat back, pend := x.pend.filter (fun e => e.reg != .s d.toNat) })) =
      .ok (s.modWarp c.w (calledWarp n d.toNat back)) := by
    rw [jumpTo_ok hn]
    exact congrArg Except.ok (modWarp_modWarp _ _ _ _)
  refine changes_issue (dispatch_call s sw d off) h rfl rfl hb ⟨advance_pc _ _ _ _ _, ?_, ?_, sameRegs_advance (calledWarp_sameRegs _ _ _ _) _ _ _ _,
    samePreds_advance (samePreds_of_eq rfl rfl) _ _ _ _, sameRest_advance _ (calledWarp_sameRest _ _ _ _) _ _ _ _,
    stepped_advance (y := calledWarp n d.toNat back c.x) ⟨rfl, rfl, rfl⟩ _ _ _⟩
  · simp [Warp.readS, calledWarp, back]
  · simp only [Warp.pending, advance_pend, calledWarp, List.any_filter, List.any_eq_false]
    intro e _
    by_cases hr : e.reg = .s d.toNat <;> simp [hr]

theorem branches : Claims.Branches := by
  refine ⟨fun sw cond inv off s c h => ?_, fun sw a s c h => ?_, fun sw d off s c h => ⟨fun n hn => changes_call h hn, fun t ht => ?_⟩⟩
  · cases cond with
    | none => exact changes_bra (taken := true) (dispatch_bra s sw none inv off) h rfl rfl
    | some k => exact changes_bra (dispatch_bra s sw (some k) inv off) h rfl rfl
  · obtain ⟨hbrx, tbrx⟩ := changes_indexJump (dispatch_brx s sw a) h
    obtain ⟨hret, tret⟩ := changes_indexJump (dispatch_ret s sw a) h
    exact ⟨fun n hn => ⟨hbrx n hn, hret n hn⟩, fun t ht => ⟨tbrx t ht, tret t ht⟩⟩
  · exact takesTrap_issue (dispatch_call s sw d off) h rfl rfl (congrArg (Except.map _) (jumpTo_error ht))

/-- Settles O16: a body that moves the PC is carried through issue by `changes_ctl`, one that traps by `takesTrap_issue`. -/
theorem branchesAndTargets : Obligations.BranchesAndTargets := by
  unfold Obligations.BranchesAndTargets
  exact ⟨branches, targetCheck⟩

end Sys2Proof.Machine
end

section
/-! The instructions that trap (R72, R376, R377). -/

namespace Sys2Proof.Machine

/-- The detail word of TRAP and BKPT is their code (R377). -/
theorem trapAt_code (t : Nat) (code : BitVec 16) : trapAt t 0 [code.toNat] = { code := t, deferred := false, info := [code.setWidth 32] } := by
  simp only [trapAt, List.map_cons, List.map_nil, BitVec.ofNat_toNat]

theorem exec_illegalOpcode {s : State} {c : Ctx} (h : s.current = some c) (op : Byte) :
    exec (.illegalOpcode op) s = .next (s.takeTrap c.w (trapOf tIllegalOpcode)) := by
  change execIllegalOpcode op s = _
  simp only [execIllegalOpcode, h]

/-- Settles O18: the bodies of TRAP and BKPT answer their trap, and an unlisted opcode traps before the frame of issue. -/
theorem trappingInstructions : Obligations.TrappingInstructions := by
  unfold Obligations.TrappingInstructions
  exact ⟨fun sw code s c h => ⟨takesTrap_issue (dispatch_trap s sw code) h rfl rfl (congrArg Except.error (trapAt_code tSwTrap code)),
      takesTrap_issue (dispatch_bkpt s sw code) h rfl rfl (congrArg Except.error (trapAt_code tBreakpoint code))⟩,
    fun opc s c h => exec_illegalOpcode h opc⟩

end Sys2Proof.Machine
end

section
/-! The step: what the next move of the agenda does (R52, R56, R57, R72, R311). -/

namespace Sys2Proof.Machine

/-! ### What a move does after the step of an instruction -/

/-- Go on from the state an outcome has reached; a fault or a refusal stands. -/
def onNext (f : State → State) : Host.Outcome State Fault Refusal → Host.Outcome State Fault Refusal
  | .next t => .next (f t)
  | .fault e => .fault e
  | .refused r => .refused r

theorem onNext_onNext (f h : State → State) (r : Host.Outcome State Fault Refusal) : onNext f (onNext h r) = onNext (fun t => f (h t)) r := by
  cases r <;> rfl

variable {s : State} {w : WarpId} {l : BitVec 512}

theorem move_eq (s : State) (m : Move) : s.move m =
    onNext (({ s with hold := .none, mover := none } : State).moved m) (({ s with hold := .none, mover := some m } : State).moveNow m) := by
  simp only [State.move]
  cases ({ s with hold := .none, mover := some m } : State).moveNow m <;> rfl

theorem step_of_cons {m : Move} {rest : List Move} (h : s.agenda = m :: rest) : step s = ({ s with agenda := rest } : State).move m := by
  simp only [step, State.nextMove, h]

theorem step_of_nil (h : s.agenda = []) : step s = s.move (.tick s.behind) := by
  simp only [step, State.nextMove, h]

theorem moved_of_none {t : State} (s : State) (m : Move) (h : t.hold = .none) : s.moved m t = ({ t with mover := none } : State).forget m := by
  simp only [State.moved, h]

theorem moved_of_off {t : State} (s : State) (m : Move) (h : t.hold = .off) : s.moved m t = s := by
  simp only [State.moved, h]

theorem moved_of_chain {t : State} {b req k} (s : State) (m : Move) (h : t.hold = .chain b req k none) : s.moved m t = s.queueMove b req k m := by
  simp only [State.moved, h, Option.getD_none]

/-! ### A slot -/

theorem slotInstr_of_listed {n : Nat} {i : Instr} (hl : lineReserved l = false) (h : decodeSlot (slotBits l n) = .ok i) : slotInstr l n = .ok i := by
  unfold slotInstr
  rw [h, hl]
  cases i <;> rfl

theorem slotInstr_of_unlisted {n : Nat} {op : Byte} (h : decodeSlot (slotBits l n) = .ok (.illegalOpcode op)) :
    slotInstr l n = .ok (.illegalOpcode op) := by
  simp only [slotInstr, h]

theorem slotInstr_of_reserved {n : Nat} (hl : lineReserved l = true) (h : ∀ op, decodeSlot (slotBits l n) ≠ .ok (.illegalOpcode op)) :
    slotInstr l n = .error (trapOf tIllegalEncoding) := by
  unfold slotInstr
  split
  · next op e => exact absurd e (h op)
  · rw [if_pos hl]
  · rfl

theorem slotInstr_of_illegal {n : Nat} {e} (h : decodeSlot (slotBits l n) = .error e) : slotInstr l n = .error (trapOf tIllegalEncoding) := by
  simp only [slotInstr, h]

theorem runSlot_of_ok {n : Nat} {i : Instr} (h : slotInstr l n = .ok i) :
    s.runSlot w l n = onNext (fun t => { t with cur := none, heldNow := [] }) (exec i { s.noted w i with cur := some w }) := by
  simp only [State.runSlot, h]
  cases exec i { s.noted w i with cur := some w } <;> rfl

theorem runSlot_of_error {n : Nat} {t : TrapInfo} (h : slotInstr l n = .error t) : s.runSlot w l n = .next (s.takeTrap w t) := by
  simp only [State.runSlot, h]

/-! ### The slots that the issue stage issues -/

theorem issueSecond_eq {x : Warp} (h : s.warp w = some x) :
    s.issueSecond w l = onNext (fun t => t.pump w.wg) (s.runSlot w l (slotOf x.pc)) := by
  simp only [State.issueSecond, h]
  cases s.runSlot w l (slotOf x.pc) <;> rfl

/-- The state from which a warp's next slot runs: its entry slot is checked once. -/
def State.checkedEntry (s : State) (w : WarpId) (x : Warp) : State :=
  if x.checked then s else s.modWarp w (fun x => { x with checked := true })

/-- What follows the slot at `n` of a line: the second slot of an honoured pair, or the workgroup's next trap. -/
def State.afterSlot (s : State) (w : WarpId) (l : BitVec 512) (n : Nat) (t : State) : State :=
  if honoured l n && s.wentOn t w then t.soon (.second w l) else t.pump w.wg

variable {g : Wg} {x : Warp} {e : IbLine}

theorem issueWarpSlot_of_illegal (hg : s.wg w.wg = some g) (hx : s.warp w = some x) (hl : s.lineOf g w.warp x = some e) (hc : x.checked = false)
    (ht : legalSlot e.bits (slotOf x.pc) = false) : s.issueWarpSlot w = .next (s.takeTrap w (trapOf tBadTarget)) := by
  simp only [State.issueWarpSlot, hg, hx, hl, hc, ht]
  rfl

theorem issueWarpSlot_of_legal (hg : s.wg w.wg = some g) (hx : s.warp w = some x) (hl : s.lineOf g w.warp x = some e)
    (hc : x.checked = true ∨ legalSlot e.bits (slotOf x.pc) = true) : s.issueWarpSlot w =
    onNext ((s.checkedEntry w x).afterSlot w e.bits (slotOf x.pc)) ((s.checkedEntry w x).runSlot w e.bits (slotOf x.pc)) := by
  have hno : (!x.checked && !legalSlot e.bits (slotOf x.pc)) = false := by
    rcases hc with h | h <;> rw [h] <;> simp
  simp only [State.issueWarpSlot, hg, hx, hl, hno]
  change (match (s.checkedEntry w x).runSlot w e.bits (slotOf x.pc) with | .next t => _ | r => r) = _
  cases (s.checkedEntry w x).runSlot w e.bits (slotOf x.pc) <;> rfl

/-- The state in which the stage issues a slot of the warp it has picked. -/
def State.pickedState (s : State) (core q n : Nat) (w : WarpId) (vec : Bool) : State :=
  let now := s.cycle (devOfCore core)
  (s.modCore core (fun c => c.modQuad q (fun (x : Quad) =>
    { x with
      last := some now, vptr := if vec then n else x.vptr, nptr := if vec then x.nptr else n
      vfree := if vec then now + 4 else x.vfree }))).issuedGroup core w

theorem issueStage_of_pick {core q n : Nat} {vec : Bool} (h : s.pick core q = some (n, w, vec)) :
    s.issueStage core q = (s.pickedState core q n w vec).issueWarpSlot w := by
  simp only [State.issueStage, h]
  rfl

/-! ### The step -/

theorem step_act {i : Instr} {rest : List Move} (h : s.agenda = .act i :: rest) :
    let s0 : State := { s with agenda := rest, hold := .none, mover := none }
    step s = onNext (s0.moved (.act i)) (exec i { s0 with mover := some (.act i) }) :=
  (step_of_cons h).trans (move_eq _ _)

theorem step_idle (h : s.agenda = []) : let s0 : State := { s with hold := .none, mover := none }
    step s = .next (s0.moved (.tick s.behind) (({ s0 with mover := some (.tick s.behind) } : State).tickDev s.behind)) :=
  (step_of_nil h).trans (move_eq _ _)

theorem step_second {rest : List Move} {x : Warp} {i : Instr} (h : s.agenda = .second w l :: rest) (hx : s.warp w = some x)
    (hi : slotInstr l (slotOf x.pc) = .ok i) :
    let s0 : State := { s with agenda := rest, hold := .none, mover := none }
    let m : Move := .second w l
    step s = onNext (fun t => s0.moved m (({ t with cur := none, heldNow := [] } : State).pump w.wg))
      (exec i { ({ s0 with mover := some m } : State).noted w i with cur := some w }) := by
  intro s0 m
  have hrun : ({ s0 with mover := some m } : State).issueSecond w l = _ := (issueSecond_eq (s := { s0 with mover := some m }) hx).trans
    (congrArg (onNext _) (runSlot_of_ok hi))
  calc step s = onNext (s0.moved m) (({ s0 with mover := some m } : State).issueSecond w l) := (step_of_cons h).trans (move_eq _ _)
    _ = _ := by rw [hrun, onNext_onNext, onNext_onNext]

/-- An issue move issues the next slot of the warp that the stage picks. -/
theorem step_issue {core q n : Nat} {vec : Bool} {rest : List Move} (h : s.agenda = .issue core q :: rest)
    (hp : ({ s with agenda := rest, hold := .none, mover := some (.issue core q) } : State).pick core q = some (n, w, vec)) :
    let s0 : State := { s with agenda := rest, hold := .none, mover := none }
    step s = onNext (s0.moved (.issue core q))
      ((({ s0 with mover := some (.issue core q) } : State).pickedState core q n w vec).issueWarpSlot w) :=
  (step_of_cons h).trans ((move_eq _ _).trans (congrArg (onNext _) (issueStage_of_pick hp)))

/-- Settles O56: each move by the equation of `step` for it, and a picked slot by what it decodes to. -/
theorem stepRunsDecoded : Obligations.StepRunsDecoded := by
  unfold Obligations.StepRunsDecoded
  refine ⟨fun s i rest h => step_act h, fun s h => step_idle h, fun s t m h => moved_of_none s m h, fun s t m h => moved_of_off s m h,
    fun s t m b req k h => moved_of_chain s m h, fun s w l rest x i h hx hl hd => step_second h hx (slotInstr_of_listed hl hd), ?_⟩
  intro s core q rest n w vec g x c a l h hp now m s0 s1 after hg hx hl
  have hstep : step s = onNext (s0.moved m) (s1.issueWarpSlot w) := step_issue h hp
  refine ⟨fun hc ht => ?_, fun hc => ?_⟩
  · rw [hstep, issueWarpSlot_of_illegal hg hx hl hc ht]
    rfl
  intro s2
  have hrun : step s = onNext (fun t => s0.moved m (after s2 t)) (s2.runSlot w l (slotOf x.pc)) := by
    rw [hstep, issueWarpSlot_of_legal hg hx hl hc, onNext_onNext]
    rfl
  refine ⟨fun i hl hd => ?_, fun hd => ?_⟩
  · have hi : slotInstr l (slotOf x.pc) = .ok i := by
      rcases hl with hl | ⟨op, rfl⟩
      · exact slotInstr_of_listed hl hd
      · exact slotInstr_of_unlisted hd
    rw [hrun, runSlot_of_ok hi, onNext_onNext]
    rfl
  · have hi : slotInstr l (slotOf x.pc) = .error (trapOf tIllegalEncoding) := by
      rcases hd with ⟨hl, hd⟩ | hd
      · exact slotInstr_of_reserved hl hd
      · exact slotInstr_of_illegal hd
    rw [hrun, runSlot_of_error hi]
    rfl

end Sys2Proof.Machine
end

section
/-! SUPPORT. Operands and results of an integer type as bit vectors of its width (R104, R105). -/

namespace Sys2Proof.Machine

/-! ### Operands -/

/-- Sign extension reads the low `n` bits as a signed number. -/
theorem sextNat_eq_toInt (x n : Nat) : sextNat x n = (BitVec.ofNat n x).toInt := by
  rw [BitVec.toInt_eq_toNat_cond, BitVec.toNat_ofNat]
  cases n with
  | zero => simp [sextNat, Nat.mod_one]
  | succ n =>
    have h : (2 ^ n ≤ x % 2 ^ (n + 1)) = ¬ 2 * (x % 2 ^ (n + 1)) < 2 ^ (n + 1) := by rw [Nat.pow_succ]; apply propext; omega
    simp only [sextNat, ne_eq, Nat.add_one_ne_zero, not_false_eq_true, true_and, Nat.add_sub_cancel, h, ite_not]

theorem sextNat_toNat {w : Nat} (v : BitVec w) : sextNat v.toNat w = v.toInt := by rw [sextNat_eq_toInt, BitVec.ofNat_toNat, BitVec.setWidth_eq]

/-- The number that a bit vector is under the signedness of a type. -/
def valueOf {w : Nat} (sg : Bool) (v : BitVec w) : Int := if sg then v.toInt else v.toNat

theorem opnd_eq_valueOf (t : Ty) (x : DWord) : opnd t x = valueOf (tySigned t) (x.setWidth t.width) := by
  simp [opnd, valueOf, sextNat_eq_toInt, BitVec.ofNat_toNat]

theorem opnd_unsigned {t : Ty} (h : tySigned t = false) (x : DWord) : opnd t x = (x.setWidth t.width).toNat := by
  rw [opnd_eq_valueOf, h]; rfl

theorem opnd_signed {t : Ty} (h : tySigned t = true) (x : DWord) : opnd t x = (x.setWidth t.width).toInt := by
  rw [opnd_eq_valueOf, h]; rfl

/-- An operand of a type of at most 32 bits is one register or the immediate (R105). -/
theorem operand_of_narrow {t : Ty} (h : t.is64 = false) (x : Warp) (a : Src) (l : Nat) : x.operand t a l = (x.lane a l).setWidth 64 := by
  cases a with
  | imm w =>
    have ht : t ≠ .s64 := by rintro rfl; cases h
    simp [Warp.operand, Warp.lane, Warp.laneAt, ht]
  | v r m => simp [Warp.operand, h]
  | s r => simp [Warp.operand, h]

/-! ### Results -/

theorem lo32_setWidth (w : Word) : lo32 (w.setWidth 64) = w := by rw [lo32, BitVec.setWidth_setWidth_of_le _ (by omega), BitVec.setWidth_eq]

theorem setWidth_ofInt {w : Nat} (v : Nat) (y : Int) (h : v ≤ w) : (BitVec.ofInt w y).setWidth v = BitVec.ofInt v y := by
  apply BitVec.eq_of_toInt_eq
  rw [← BitVec.signExtend_eq_setWidth_of_le _ h, BitVec.toInt_signExtend_eq_toInt_bmod_of_le _ h, BitVec.toInt_ofInt, BitVec.toInt_ofInt,
    Int.bmod_bmod_of_dvd (Nat.pow_dvd_pow 2 h)]

/-- The integer that `fit` writes: clamped to the range of the type under `.sat`. -/
def clampedTo (t : Ty) (y : Int) (sat : Bool) : Int := if sat then clampInt y (tyMin t) (tyMax t) else y

theorem width_le_64 (t : Ty) : t.width ≤ 64 := by cases t <;> decide

theorem width_le_32 {t : Ty} (h : t.width ≠ 64) : t.width ≤ 32 := by cases t <;> simp_all [Ty.width]

/-- `fit` as an extension of a bit vector of the type's width. -/
theorem fit_eq (t : Ty) (y : Int) (sat : Bool) : fit t y sat =
    if t.width = 64 then BitVec.ofInt 64 (clampedTo t y sat)
    else if tySigned t then ((BitVec.ofInt t.width (clampedTo t y sat)).signExtend 32).setWidth 64
    else (BitVec.ofInt t.width (clampedTo t y sat)).setWidth 64 := by
  have hbits : (BitVec.ofInt 64 (clampedTo t y sat)).toNat % 2 ^ t.width = (BitVec.ofInt t.width (clampedTo t y sat)).toNat := by
    rw [← BitVec.toNat_setWidth, setWidth_ofInt _ _ (width_le_64 t)]
  change (if t.width = 64 then BitVec.ofInt 64 (clampedTo t y sat)
    else if tySigned t then (BitVec.ofInt 32 (sextNat ((BitVec.ofInt 64 (clampedTo t y sat)).toNat % 2 ^ t.width) t.width)).setWidth 64
    else BitVec.ofNat 64 ((BitVec.ofInt 64 (clampedTo t y sat)).toNat % 2 ^ t.width)) = _
  rw [hbits, sextNat_toNat, BitVec.ofNat_toNat]
  rfl

theorem setWidth_signExtend_of_le {v w : Nat} (h : w ≤ v) (x : BitVec w) : (x.signExtend v).setWidth w = x := by
  rw [BitVec.signExtend, setWidth_ofInt _ _ h, BitVec.ofInt_toInt]

/-- What `fit` writes, read back under the width of the type. -/
theorem setWidth_fit (t : Ty) (y : Int) (sat : Bool) : (fit t y sat).setWidth t.width = BitVec.ofInt t.width (clampedTo t y sat) := by
  rw [fit_eq]
  split
  · exact setWidth_ofInt _ _ (width_le_64 t)
  · next hw =>
    split
    · rw [BitVec.setWidth_setWidth_of_le _ (width_le_64 t), setWidth_signExtend_of_le (width_le_32 hw)]
    · rw [BitVec.setWidth_setWidth_of_le _ (width_le_64 t), BitVec.setWidth_eq]

theorem opnd_fit (t : Ty) (y : Int) (sat : Bool) : opnd t (fit t y sat) = valueOf (tySigned t) (BitVec.ofInt t.width (clampedTo t y sat)) := by
  rw [opnd_eq_valueOf, setWidth_fit]

/-- A result of at most 32 bits, extended to its register. -/
theorem lo32_fit {t : Ty} (h : t.width ≠ 64) (y : Int) (sat : Bool) : lo32 (fit t y sat) =
    if tySigned t then (BitVec.ofInt t.width (clampedTo t y sat)).signExtend 32 else (BitVec.ofInt t.width (clampedTo t y sat)).setWidth 32 := by
  rw [fit_eq, if_neg h]
  split
  · exact lo32_setWidth _
  · rw [lo32, BitVec.setWidth_setWidth_of_le _ (by omega)]

end Sys2Proof.Machine
end

section
/-! Clamping and wrapping, sums and products (R104, R108, R110, R113). -/

namespace Sys2Proof.Machine

/-! ### Clamping and wrapping (R104) -/

theorem width_pos (t : Ty) : 0 < t.width := by cases t <;> decide

/-- A bit vector of a type's width is a value of the type (R82). -/
theorem valueOf_mem_range (t : Ty) (v : BitVec t.width) : tyMin t ≤ valueOf (tySigned t) v ∧ valueOf (tySigned t) v ≤ tyMax t := by
  unfold tyMin tyMax valueOf
  split
  · have hlo := v.le_toInt
    have hhi := v.toInt_lt
    push_cast
    omega
  · have := v.isLt
    omega

/-- A value of a type is kept by its bits. -/
theorem valueOf_ofInt {t : Ty} {z : Int} (hlo : tyMin t ≤ z) (hhi : z ≤ tyMax t) : valueOf (tySigned t) (BitVec.ofInt t.width z) = z := by
  unfold tyMin at hlo
  unfold tyMax at hhi
  cases hs : tySigned t <;> simp only [hs, Bool.false_eq_true, if_false, if_true] at hlo hhi
  · change ((BitVec.ofInt t.width z).toNat : Int) = z
    rw [BitVec.toNat_ofInt, Int.emod_eq_of_lt hlo (by omega), Int.toNat_of_nonneg hlo]
  · push_cast at hlo hhi
    exact BitVec.toInt_ofInt_eq_self (width_pos t) hlo (by omega)

/-- Bits of an integer have its value modulo 2 to the width. -/
theorem valueOf_ofInt_sub_emod (sg : Bool) (w : Nat) (z : Int) : (valueOf sg (BitVec.ofInt w z) - z) % (2 ^ w : Nat) = 0 := by
  unfold valueOf
  split
  · rw [BitVec.toInt_ofInt, Int.sub_emod, Int.bmod_emod, sub_self, Int.zero_emod]
  · rw [BitVec.toNat_ofInt, Int.toNat_of_nonneg (Int.emod_nonneg _ (by positivity)), Int.sub_emod, Int.emod_emod, sub_self, Int.zero_emod]

theorem tyMin_le_tyMax (t : Ty) : tyMin t ≤ tyMax t := by cases t <;> decide

theorem clampInt_eq {lo hi : Int} (h : lo ≤ hi) (y : Int) : clampInt y lo hi = max lo (min hi y) := by
  unfold clampInt
  omega

theorem fitClampsOrWraps : Claims.FitClampsOrWraps := by
  intro t y sat _
  obtain ⟨hlo, hhi⟩ := valueOf_mem_range t (BitVec.ofInt t.width (clampedTo t y sat))
  have hle := tyMin_le_tyMax t
  rw [opnd_fit]
  refine ⟨hlo, hhi, fun hs => ?_, fun hs => ?_, fun hw => ?_⟩
  · have hz : clampedTo t y sat = max (tyMin t) (min (tyMax t) y) := by rw [clampedTo, if_pos hs, clampInt_eq hle]
    rw [hz]
    exact valueOf_ofInt (le_max_left _ _) (max_le hle (min_le_left _ _))
  · have hz : clampedTo t y sat = y := by rw [clampedTo, hs]; rfl
    rw [hz]
    exact valueOf_ofInt_sub_emod _ _ _
  · rw [lo32_fit hw]
    have hw32 := width_le_32 hw
    cases htS : tySigned t
    · exact congrArg Nat.cast (BitVec.toNat_setWidth_of_le hw32)
    · exact BitVec.toInt_signExtend_of_le hw32

/-! ### Exact integers written through `fit` (R108, R110, R113) -/

/-- The result of an instruction whose meaning is `alu`, stated by equal words. -/
theorem regResult_alu_of_eq {i : Instr} {sw : Bool} {d : Dst} {n lat : Nat} {srcs : Deps} {f g : Warp → Nat → List Word}
    (hi : ∀ s, exec i s = s.alu sw d n lat srcs f) (hfg : ∀ x l, f x l = g x l) : RegResult i sw d n lat srcs g :=
  regResult_congr (regResult_alu hi) (fun x l _ _ => by rw [hfg])

/-- The high word of a 64-bit wrap (R110). -/
theorem hi32_ofInt (z : Int) : hi32 (BitVec.ofInt 64 z) = BitVec.ofInt 32 (z / 2 ^ 32) := by
  apply BitVec.eq_of_toNat_eq
  rw [hi32, BitVec.extractLsb'_toNat, BitVec.toNat_ofInt, BitVec.toNat_ofInt, Nat.shiftRight_eq_div_pow]
  omega

theorem ofInt_add_toNat (z : Int) (v : DWord) : BitVec.ofInt 64 (z + (v.toNat : Int)) = BitVec.ofInt 64 z + v := by
  rw [BitVec.ofInt_add, BitVec.ofInt_natCast, BitVec.ofNat_toNat, BitVec.setWidth_eq]

/-- Settles O1: each meaning is an `alu` operation with the words of the statement; the two wraps to 64 bits by `hi32_ofInt` and
`ofInt_add_toNat`. -/
theorem integerArithmetic : Obligations.IntegerArithmetic := by
  unfold Obligations.IntegerArithmetic
  intro o
  refine ⟨regResult_alu (fun s => dispatch_iadd s o), regResult_alu (fun s => dispatch_isub s o), fun negc => ?_,
    regResult_alu (fun s => dispatch_ineg s o), ?_, regResult_alu (fun s => dispatch_imul s o), regResult_alu (fun s => dispatch_imad s o),
    regResult_alu_of_eq (fun s => dispatch_imulhi s o) (fun _ _ => congrArg (fun w => [w]) (hi32_ofInt _)),
    regResult_alu_of_eq (fun s => dispatch_imad64 s o) (fun _ _ => congrArg words2 (ofInt_add_toNat _ _)),
    fun _ => ⟨regResult_alu (fun s => dispatch_imin s o), regResult_alu (fun s => dispatch_imax s o)⟩⟩
  · have hsum (x y z : Int) : x + y + (if negc then -1 else 1) * z = if negc then x + y - z else x + y + z := by
      cases negc <;> simp [sub_eq_add_neg]
    simp only [hsum]
    exact regResult_alu (fun s => dispatch_iadd3 s o negc)
  · simp only [← Int.natCast_natAbs]
    exact regResult_alu (fun s => dispatch_iabs s o)

end Sys2Proof.Machine
end

section
/-! IADDC (R109): a register result and a predicate result of one instruction. -/

namespace Sys2Proof.Machine

variable {x y z : Warp} {lasts vs ss : List Nat}

theorem putDst_frame (x : Warp) (d : Dst) (m : LaneMask) (vals : List Lanes) (due : Nat) :
    (x.putDst d m vals due).p = x.p ∧ (x.putDst d m vals due).k = x.k ∧ (x.putDst d m vals due).pc = x.pc ∧
      SameRest x (x.putDst d m vals due) := by
  cases d with
  | v r =>
    obtain ⟨-, -, -, h⟩ := putDst_vec x r m vals due
    exact h
  | s r =>
    obtain ⟨-, -, -, h⟩ := putDst_uni x r m vals due
    exact h

/-- A destination group written after last-read unmapping, from the lanes that run. -/
theorem wrote_putDst (x : Warp) (lasts : List Nat) (d : Dst) {n : Nat} (due : Nat) {f : Nat → List Word} {val : Nat → Nat → Word}
    (hval : ∀ j l, j < n → (f l).getD j 0 = val j l) :
    let m := if isUniform d then allLanes else x.lanes
    let y := (x.unmap lasts).putDst d m (laneVals (isUniform d) m n f) due
    Wrote x y x.lanes lasts d n due val ∧ SameRegs x y lasts (vecsOf n d) (unisOf n d) := by
  intro m y
  cases d with
  | v r =>
    obtain ⟨hw, ho, hs, -⟩ := putDst_vec (x.unmap lasts) r m (laneVals false m n f) due
    rw [laneVals_length] at hw ho
    refine ⟨fun j hj => ⟨(hw j hj).1, fun l hl => (congrArg (List.getD · l 0) (hw j hj).2).trans ?_⟩, ho,
      fun r' _ => congrArg (tabGetD · r' 0) hs⟩
    rw [mergeLanes_getD _ _ _ _ hl, ← hval j l hj]
    by_cases hm : x.lanes.getLsbD l = true
    · exact (if_pos hm).trans ((laneVals_vec _ _ _ _ _ hj hl hm).trans (if_pos hm).symm)
    · exact (if_neg hm).trans (if_neg hm).symm
  | s r =>
    obtain ⟨hw, ho, hv, -⟩ := putDst_uni (x.unmap lasts) r m (laneVals true m n f) due
    rw [laneVals_length] at hw ho
    refine ⟨fun j hj => ⟨(hw j hj).1, (hw j hj).2.trans ?_⟩, fun r' _ => congrArg (tabGetD · r' zeroLanes) hv, ho⟩
    rw [← hval j 0 hj]
    exact laneVals_uni _ _ _ _ hj

/-- A warp with the same registers, whose results of registers are due as before, has the same results. -/
theorem wrote_of_eq {m : LaneMask} {d : Dst} {n due : Nat} {val : Nat → Nat → Word} (h : Wrote x y m lasts d n due val) (hv : z.v = y.v)
    (hs : z.s = y.s) (hdv : ∀ r, DueAt y (.v r) due → DueAt z (.v r) due) (hds : ∀ r, DueAt y (.s r) due → DueAt z (.s r) due) :
    Wrote x z m lasts d n due val := by
  cases d with
  | v r => exact fun j hj => ⟨hdv _ (h j hj).1, by rw [Warp.readV, hv]; exact (h j hj).2⟩
  | s r => exact fun j hj => ⟨hds _ (h j hj).1, by rw [Warp.readS, hs]; exact (h j hj).2⟩

theorem sameRegs_congr (h : SameRegs x y lasts vs ss) (hv : z.v = y.v) (hs : z.s = y.s) : SameRegs x z lasts vs ss := by
  obtain ⟨h1, h2⟩ := h
  exact ⟨fun r hr => by rw [Warp.readV, hv]; exact h1 r hr, fun r hr => by rw [Warp.readS, hs]; exact h2 r hr⟩

theorem dueAt_advance {r : PendReg} {due : Nat} (h : DueAt x r due) (now : Nat) (sw jump covered : Bool) :
    DueAt (x.advance now sw jump covered) r due := by
  unfold DueAt
  rw [advance_pend]
  exact h

theorem predAt_advance (x : Warp) (q : PReg) (l now : Nat) (sw jump covered : Bool) : (x.advance now sw jump covered).predAt q l = x.predAt q l :=
  congrArg (BitVec.getLsbD · l) (predMask_eq (advance_p x now sw jump covered) (advance_k x now sw jump covered) q)

/-- A predicate write leaves the pending results of registers. -/
theorem dueAt_putPred_other {r : PendReg} {due : Nat} (h : DueAt x r due) (hr : ∀ i, r ≠ .p i ∧ r ≠ .k i) (q : PReg) (m b : LaneMask)
    (due' : Nat) : DueAt (x.putPred q m b due') r due := by
  cases q with
  | p i => exact dueAt_mark_other x h (hr i.toNat).1 (some due') 0 m false
  | k i => exact dueAt_mark_other x h (hr i.toNat).2 (some due') 0 allLanes false

/-- A predicate destination written from the lanes that run, or from lane 0 in the uniform form. -/
theorem predAt_putPred {q : PReg} {u : Bool} (hq : q.okDst u = true) (hp : y.p = x.p) (hk : y.k = x.k) (f : Nat → Bool) (due : Nat) {l : Nat}
    (hl : l < 64) : let m := if u then allLanes else x.lanes
    (y.putPred q m (laneBits (if u then 1 else m) f) due).predAt q l = if u then f 0 else if x.lanes.getLsbD l then f l else x.predAt q l := by
  intro m
  cases q with
  | p r =>
    obtain rfl : u = false := by cases u <;> [rfl; exact absurd hq Bool.false_ne_true]
    have hx : y.predAt (.p r) l = x.predAt (.p r) l := congrArg (BitVec.getLsbD · l) (predMask_eq hp hk _)
    refine (predAt_putPred_p y r x.lanes (laneBits x.lanes f) due l hl).trans ?_
    rw [laneBits_getLsbD _ _ _ hl, hx]
    cases x.lanes.getLsbD l <;> rfl
  | k r =>
    obtain rfl : u = true := by cases u <;> [exact absurd hq Bool.false_ne_true; rfl]
    refine (predAt_putPred_k y r allLanes (laneBits 1 f) due l hl).trans ?_
    rw [laneBits_getLsbD _ _ _ (by decide)]
    rfl

/-! ### IADDC (R109) -/

/-- The exact sum of IADDC. -/
def carrySum (sub : Bool) (a b : Word) (cin : Option Bool) : Nat :=
  a.toNat + (if sub then ~~~b else b).toNat + (if cin.getD sub then 1 else 0)

theorem laneAddc_eq (sub : Bool) (a b : Word) (cin : Option Bool) :
    laneAddc sub a b cin = (BitVec.ofNat 64 (carrySum sub a b cin % 2 ^ 32), decide (2 ^ 32 ≤ carrySum sub a b cin)) := by
  have hb : (if sub then ~~~b else b).toNat = if sub then 0xFFFFFFFF - b.toNat else b.toNat := by
    cases sub
    · rfl
    · exact BitVec.toNat_not
  unfold carrySum
  rw [hb]
  cases cin <;> rfl

theorem lo32_ofNat_mod (n : Nat) : lo32 (BitVec.ofNat 64 (n % 2 ^ 32)) = BitVec.ofNat 32 n := by
  rw [lo32, BitVec.setWidth_ofNat_of_le (by decide)]
  exact BitVec.eq_of_toNat_eq (by simp)

/-- The pending register of a predicate. -/
def pendOf : PReg → PendReg | .p r => .p r.toNat | .k r => .k r.toNat

/-- The sum and the carry-out at a lane of a warp. -/
def addcLane (o : Alu) (sub : Bool) (cin : Option PReg) (x : Warp) (l : Nat) : DWord × Bool :=
  laneAddc sub (x.lane o.a l) (x.lane o.b l) (cin.map (fun p => x.predAt p l))

/-- The dependence on a carry-in. -/
def carryDeps (cin : Option PReg) : Deps := match cin with | some p => Deps.pred p | none => {}

theorem lasts_iaddcDeps (o : Alu) (cin : Option PReg) : (((deps2 o).join (carryDeps cin)).join (Deps.dst 1 o.d)).lasts = (deps2 o).lasts := by
  cases cin <;> cases o.d <;> simp [carryDeps, Deps.join, Deps.dst, Deps.pred]

/-- What IADDC makes of the record of its warp: `x` is read, `y` is written. -/
def addcWarp (o : Alu) (q : PReg) (due : Nat) (r : Nat → DWord × Bool) (x y : Warp) : Warp :=
  let m := if isUniform o.d then allLanes else x.lanes
  (y.putDst o.d m (laneVals (isUniform o.d) m 1 (fun l => [lo32 (r l).1])) due).putPred q m
    (laneBits (if isUniform o.d then 1 else m) (fun l => (r l).2)) due

/-- The record of a warp after IADDC, its results `r` being the words `w` and the carries `b`. -/
theorem advance_addcWarp (o : Alu) {q : PReg} (hq : q.okDst (isUniform o.d) = true) (x : Warp) (lasts : List Nat) (now due : Nat)
    {r : Nat → DWord × Bool} {w : Nat → Word} {b : Nat → Bool} (hw : ∀ l, lo32 (r l).1 = w l) (hb : ∀ l, (r l).2 = b l) :
    let y := (addcWarp o q due r x (x.unmap lasts)).advance now o.sw false x.pfx.isSome
    Wrote x y x.lanes lasts o.d 1 due (fun _ l => w l) ∧
    (∀ l, l < 64 → y.predAt q l = if isUniform o.d then b 0 else if x.lanes.getLsbD l then b l else x.predAt q l) ∧
    DueAt y (pendOf q) due ∧ SameRegs x y lasts (vecsOf 1 o.d) (unisOf 1 o.d) ∧ SamePreds x y [q] ∧ SameRest x y ∧
    Stepped now o.sw [] x y ∧ y.pc = x.pc + 1 := by
  obtain rfl : w = fun l => lo32 (r l).1 := funext fun l => (hw l).symm
  obtain rfl : b = fun l => (r l).2 := funext fun l => (hb l).symm
  intro y
  let m := if isUniform o.d then allLanes else x.lanes
  let y1 := (x.unmap lasts).putDst o.d m (laneVals (isUniform o.d) m 1 (fun l => [lo32 (r l).1])) due
  let bits := laneBits (if isUniform o.d then 1 else m) (fun l => (r l).2)
  obtain ⟨hwrote, hregs⟩ := wrote_putDst x lasts o.d due (n := 1) (f := fun l => [lo32 (r l).1]) (val := fun _ l => lo32 (r l).1)
    (fun j l hj => by rw [Nat.lt_one_iff.mp hj]; rfl)
  obtain ⟨hp, hk, hpc, hrest⟩ := putDst_frame (x.unmap lasts) o.d m (laneVals (isUniform o.d) m 1 (fun l => [lo32 (r l).1])) due
  have hv : y.v = y1.v := (advance_v _ _ _ _ _).trans (putPred_v y1 q m bits due)
  have hs : y.s = y1.s := (advance_s _ _ _ _ _).trans (putPred_s y1 q m bits due)
  refine ⟨wrote_of_eq hwrote hv hs (fun r h => ?_) (fun r h => ?_), fun l hl => ?_, ?_, sameRegs_congr hregs hv hs, fun q' hq' => ?_, ?_, ?_, ?_⟩
  · exact dueAt_advance (dueAt_putPred_other h (fun _ => ⟨by simp, by simp⟩) q m bits due) _ _ _ _
  · exact dueAt_advance (dueAt_putPred_other h (fun _ => ⟨by simp, by simp⟩) q m bits due) _ _ _ _
  · exact (predAt_advance _ _ _ _ _ _ _).trans (predAt_putPred (y := y1) hq hp hk (fun l => (r l).2) due hl)
  · exact dueAt_advance (dueAt_putPred y1 q m bits due) _ _ _ _
  · have hput : (y1.putPred q m bits due).predMask q' = x.predMask q' :=
      (predMask_putPred_other y1 m bits due (by simpa using hq')).trans (predMask_eq hp hk q')
    exact (predMask_eq (advance_p _ _ _ _ _) (advance_k _ _ _ _ _) q').trans hput
  · exact sameRest_advance _ (sameRest_putPred y1 (sameRest_trans (sameRest_unmap x lasts) hrest) q m bits due) _ _ _ _
  · exact stepped_advance (sameIssue_trans (sameIssue_unmap x lasts) (sameIssue_trans (sameIssue_putDst _ _ _ _ _)
      (sameIssue_putPred y1 q m bits due))) _ _ _
  · rw [show y.pc = (y1.putPred q m bits due).pc + 1 from advance_pc _ _ _ _ _, putPred_pc]
    exact congrArg (· + 1) hpc

theorem isS_eq_isUniform (d : Dst) : d.isS = isUniform d := by cases d <;> rfl

theorem addWithCarry : Claims.AddWithCarry := by
  intro o sub q cin hwf s c h due sum
  have hq : q.okDst (isUniform o.d) = true := by
    simp only [WellFormed, Instr.accepts, Bool.and_eq_true] at hwf
    obtain ⟨⟨-, hq⟩, -⟩ := hwf
    rwa [isS_eq_isUniform] at hq
  have hlane (l : Nat) : addcLane o sub cin c.x l = (BitVec.ofNat 64 (sum l % 2 ^ 32), decide (2 ^ 32 ≤ sum l)) := by
    rw [addcLane, laneAddc_eq]
    cases cin <;> rfl
  have hwarp := advance_addcWarp o hq c.x (deps2 o).lasts c.now due (r := addcLane o sub cin c.x) (w := fun l => BitVec.ofNat 32 (sum l))
    (b := fun l => decide (2 ^ 32 ≤ sum l)) (fun l => by rw [hlane, lo32_ofNat_mod]) (fun l => by rw [hlane])
  refine changes_issueWarp (d := ((deps2 o).join (carryDeps cin)).join (Deps.dst 1 o.d))
    (body := fun c y => addcWarp o q (c.now + if isUniform o.d then 2 else 8) (addcLane o sub cin c.x) c.x y) (dispatch_iaddc s o sub q cin) h rfl ?_
  rw [lasts_iaddcDeps]
  exact hwarp

/-- Settles O2: `fit` by the bits of the type's width, IADDC by its two results on the record of its warp. -/
theorem carriesAndFit : Obligations.CarriesAndFit := by
  unfold Obligations.CarriesAndFit
  exact ⟨fitClampsOrWraps, addWithCarry⟩

end Sys2Proof.Machine
end

section
/-! Shifts (R117, R118). -/

namespace Sys2Proof.Machine

/-- A quotient that is the sign alone. -/
theorem ediv_of_mem_Ico {z m : Int} (hlo : -m ≤ z) (hhi : z < m) : z / m = if z < 0 then -1 else 0 := by
  split
  · exact (Int.ediv_eq_iff_of_pos (by omega)).mpr (by omega)
  · exact Int.ediv_eq_zero_of_lt (by omega) hhi

/-! ### Shifts of a bit vector, by counts that are not reduced -/

section
variable {w : Nat} (a : BitVec w) (n : Nat)

theorem ofInt_mul_two_pow_min : BitVec.ofInt w ((a.toNat : Int) * ((2 ^ min n w : Nat) : Int)) = a <<< n := by
  apply BitVec.eq_of_toNat_eq
  rw [← Int.natCast_mul, BitVec.ofInt_natCast, BitVec.toNat_ofNat, BitVec.toNat_shiftLeft, Nat.shiftLeft_eq]
  rcases Nat.le_total n w with h | h
  · rw [min_eq_left h]
  · rw [min_eq_right h, Nat.mul_mod_left, Nat.mod_eq_zero_of_dvd (Dvd.dvd.mul_left (Nat.pow_dvd_pow 2 h) _)]

theorem ofInt_div_two_pow_min : BitVec.ofInt w ((a.toNat : Int) / ((2 ^ min n w : Nat) : Int)) = a >>> n := by
  apply BitVec.eq_of_toNat_eq
  have ha := a.isLt
  rw [← Int.natCast_ediv, BitVec.ofInt_natCast, BitVec.toNat_ofNat, BitVec.toNat_ushiftRight, Nat.shiftRight_eq_div_pow,
    Nat.mod_eq_of_lt ((Nat.div_le_self _ _).trans_lt ha)]
  rcases Nat.le_total n w with h | h
  · rw [min_eq_left h]
  · rw [min_eq_right h, Nat.div_eq_of_lt ha, Nat.div_eq_of_lt (ha.trans_le (Nat.pow_le_pow_right (by omega) h))]

theorem ofInt_sdiv_two_pow_min : BitVec.ofInt w (a.toInt / ((2 ^ min n (w - 1) : Nat) : Int)) = a.sshiftRight n := by
  rw [BitVec.sshiftRight_eq, Int.shiftRight_eq_div_pow]
  rcases Nat.le_total n (w - 1) with h | h
  · rw [min_eq_left h]
  · rw [min_eq_right h]
    have hlo := a.le_toInt
    have hhi := a.toInt_lt
    have hle : (2 : Int) ^ (w - 1) ≤ 2 ^ n := by exact_mod_cast Nat.pow_le_pow_right (by decide) h
    push_cast
    rw [ediv_of_mem_Ico hlo hhi, ediv_of_mem_Ico (by omega) (by omega)]

end

/-! ### Shifts of an operand of a type -/

variable {t : Ty}

theorem setWidth_laneShl (h : tySigned t = false) (x : DWord) (n : Nat) : (laneShl t x n).setWidth t.width = x.setWidth t.width <<< n := by
  rw [laneShl, setWidth_fit, opnd_unsigned h]
  exact ofInt_mul_two_pow_min _ n

theorem setWidth_laneShr (h : tySigned t = false) (x : DWord) (n : Nat) : (laneShr t x n).setWidth t.width = x.setWidth t.width >>> n := by
  rw [laneShr, setWidth_fit, opnd_unsigned h]
  exact ofInt_div_two_pow_min _ n

theorem setWidth_laneSar (h : tySigned t = true) (x : DWord) (n : Nat) :
    (laneSar t x n).setWidth t.width = (x.setWidth t.width).sshiftRight n := by
  rw [laneSar, setWidth_fit, opnd_signed h]
  exact ofInt_sdiv_two_pow_min _ n

/-! ### Results of a type of 32 or 64 bits -/

/-- A result of the type's registers, stated for a pair and for one register. -/
theorem regResult_of_width {i : Instr} {o : Alu} {lat : Nat} {srcs : Deps} {f g : Warp → Nat → DWord} {w : Warp → Nat → Word}
    (hi : ∀ s, exec i s = s.alu o.sw o.d (tyRegs o.ty) lat srcs (fun x l => words2 (f x l))) (h64 : o.ty.is64 = true → ∀ x l, f x l = g x l)
    (h32 : o.ty.is64 = false → ∀ x l, lo32 (f x l) = w x l) :
    RegResult i o.sw o.d (tyRegs o.ty) lat srcs (fun x l => if o.ty.is64 then words2 (g x l) else [w x l]) := by
  refine regResult_congr (regResult_alu hi) (fun x l j hj => ?_)
  unfold tyRegs at hj
  split at hj
  · next h => rw [if_pos h, h64 h]
  · next h =>
    rw [if_neg h, ← h32 (Bool.eq_false_iff.mpr h) x l, Nat.lt_one_iff.mp hj]
    rfl

/-- An operation on a, of a type of 32 or 64 bits, that is `G` on the bits of its width. -/
theorem regResult_of_bits {i : Instr} {o : Alu} {lat : Nat} {srcs : Deps} {F : Warp → Nat → DWord → DWord}
    {G : ∀ w : Nat, Warp → Nat → BitVec w → BitVec w} (hw : o.ty.width = 32 ∨ o.ty.width = 64)
    (hi : ∀ s, exec i s = s.alu o.sw o.d (tyRegs o.ty) lat srcs (fun x l => words2 (F x l (x.operand o.ty o.a l))))
    (hF : ∀ x l v, (F x l v).setWidth o.ty.width = G o.ty.width x l (v.setWidth o.ty.width)) :
    RegResult i o.sw o.d (tyRegs o.ty) lat srcs (fun x l =>
      if o.ty.is64 then words2 (G 64 x l (x.operand o.ty o.a l)) else [G 32 x l (x.lane o.a l)]) := by
  have hF : ∀ w, o.ty.width = w → ∀ x l v, (F x l v).setWidth w = G w x l (v.setWidth w) := by
    rintro w rfl
    exact hF
  refine regResult_of_width hi (fun h x l => ?_) (fun h x l => ?_)
  · have h64 := hF 64 (by simpa [Ty.is64] using h) x l (x.operand o.ty o.a l)
    rwa [BitVec.setWidth_eq, BitVec.setWidth_eq] at h64
  · have h32 := hF 32 (hw.resolve_right (by simpa [Ty.is64] using h)) x l (x.operand o.ty o.a l)
    rw [operand_of_narrow h] at h32 ⊢
    exact h32.trans (congrArg (G 32 x l) (lo32_setWidth _))

/-- The types that Table 1 allows an instruction. -/
theorem ty_mem_of_ok {o : Alu} {n : Nat} {i sat : Bool} {tys : List Ty} (h : o.ok n i tys sat = true) : o.ty ∈ tys := by
  simp only [Alu.ok, Bool.and_eq_true, List.contains_iff_mem] at h
  tauto

/-- An unsigned type of 32 or 64 bits. -/
theorem width_of_mem_unsigned {t : Ty} (h : t ∈ [Ty.n32, .n64]) : tySigned t = false ∧ (t.width = 32 ∨ t.width = 64) := by
  revert h; cases t <;> decide

/-- A signed type of 32 or 64 bits. -/
theorem width_of_mem_signed {t : Ty} (h : t ∈ [Ty.s32, .s64]) : tySigned t = true ∧ (t.width = 32 ∨ t.width = 64) := by
  revert h; cases t <;> decide

/-! ### SHF (R118) -/

theorem append_toNat (c a : Word) : (c ++ a : DWord).toNat = c.toNat * 2 ^ 32 + a.toNat := by
  rw [BitVec.toNat_append, ← Nat.shiftLeft_add_eq_or_of_lt a.isLt, Nat.shiftLeft_eq]

theorem laneShf_eq (right clamp : Bool) (a c : Word) (b : Nat) : laneShf right clamp a c b =
    let n := if clamp then min b 32 else b % 32
    let v : DWord := c ++ a
    if right then (v >>> n).extractLsb' 0 32 else (v <<< n).extractLsb' 32 32 := by
  unfold laneShf
  extract_lets n x v
  have hv : x = v.toNat := (append_toNat c a).symm
  rw [hv]
  split
  · exact BitVec.eq_of_toNat_eq (by simp [Nat.shiftRight_eq_div_pow])
  · exact BitVec.eq_of_toNat_eq (by simp [Nat.shiftRight_eq_div_pow, Nat.shiftLeft_eq])

/-- Settles O3: the shifts of R117 on the bits of the type's width, where a count from the width on leaves nothing or the sign; SHF on the
64 bits of its two sources. -/
theorem shifts : Obligations.Shifts := by
  unfold Obligations.Shifts
  intro o
  refine ⟨fun hwf => ?_, fun hwf => ?_, fun hwf => ?_, fun right clamp =>
    regResult_alu_of_eq (fun s => dispatch_shf s o right clamp) (fun x l => congrArg (fun w => [w]) (laneShf_eq _ _ _ _ _))⟩
  · obtain ⟨hs, hw⟩ := width_of_mem_unsigned (ty_mem_of_ok (Bool.and_eq_true_iff.mp hwf).1)
    exact regResult_of_bits (F := fun x l v => laneShl o.ty v (x.lane o.b l).toNat) (G := fun _ x l v => v <<< (x.lane o.b l).toNat) hw
      (fun s => dispatch_shl s o) (fun x l v => setWidth_laneShl hs v _)
  · obtain ⟨hs, hw⟩ := width_of_mem_unsigned (ty_mem_of_ok (Bool.and_eq_true_iff.mp hwf).1)
    exact regResult_of_bits (F := fun x l v => laneShr o.ty v (x.lane o.b l).toNat) (G := fun _ x l v => v >>> (x.lane o.b l).toNat) hw
      (fun s => dispatch_shr s o) (fun x l v => setWidth_laneShr hs v _)
  · obtain ⟨hs, hw⟩ := width_of_mem_signed (ty_mem_of_ok (Bool.and_eq_true_iff.mp hwf).1)
    exact regResult_of_bits (F := fun x l v => laneSar o.ty v (x.lane o.b l).toNat) (G := fun _ x l v => v.sshiftRight (x.lane o.b l).toNat) hw
      (fun s => dispatch_sar s o) (fun x l v => setWidth_laneSar hs v _)

end Sys2Proof.Machine
end

section
/-! Bit logic and counts (R119, R120). -/

namespace Sys2Proof.Machine

/-! ### LOGT (R119) -/

theorem laneLogt_getLsbD (table : Byte) (a b c : Word) {j : Nat} (hj : j < 32) : (laneLogt table a b c).getLsbD j =
    table.getLsbD ((if a.getLsbD j then 1 else 0) + (if b.getLsbD j then 2 else 0) + (if c.getLsbD j then 4 else 0)) := by
  have hm (i : Nat) : (if table.getLsbD i then (0xFFFFFFFF : Word) else 0).getLsbD j = table.getLsbD i := by
    split
    · next h => rw [h, show (0xFFFFFFFF : Word) = BitVec.allOnes 32 from rfl, BitVec.getLsbD_allOnes, decide_eq_true hj]
    · next h => rw [Bool.eq_false_iff.mpr h]; exact BitVec.getLsbD_zero
  simp only [laneLogt, BitVec.getLsbD_or, BitVec.getLsbD_and, BitVec.getLsbD_not, hm, hj, decide_true, Bool.true_and]
  cases a.getLsbD j <;> cases b.getLsbD j <;> cases c.getLsbD j <;> simp

/-! ### POPC and CLZ (R120) -/

theorem popBits_eq (x : DWord) (n : Nat) : popBits x n = ((List.range n).filter (fun i => x.getLsbD i)).length :=
  List.countP_eq_length_filter

/-- The low `n + 1` bits of a number, by the bit at `n`. -/
theorem mod_two_pow_succ_of_getLsbD (x : DWord) (n : Nat) : x.toNat % 2 ^ (n + 1) = x.toNat % 2 ^ n + if x.getLsbD n then 2 ^ n else 0 := by
  rw [Nat.mod_pow_succ, BitVec.getLsbD, Nat.testBit_eq_decide_div_mod_eq]
  rcases Nat.mod_two_eq_zero_or_one (x.toNat / 2 ^ n) with h | h <;> simp [h]

theorem clzBits_succ (x : DWord) (n : Nat) : clzBits x (n + 1) = if x.getLsbD n then 0 else clzBits x n + 1 := by
  have hlt : x.toNat % 2 ^ n < 2 ^ n := Nat.mod_lt _ (by positivity)
  have hpos : 0 < 2 ^ n := by positivity
  unfold clzBits
  rw [mod_two_pow_succ_of_getLsbD]
  generalize x.toNat % 2 ^ n = v at hlt
  cases x.getLsbD n
  · by_cases hv : v = 0
    · simp [hv]
    · have hlog : v.log2 < n := (Nat.log2_lt hv).mpr hlt
      simp only [Bool.false_eq_true, if_false, Nat.add_zero, hv]
      omega
  · have hlog : n ≤ (v + 2 ^ n).log2 := (Nat.le_log2 (by omega)).mpr (Nat.le_add_left _ _)
    simp only [if_true, if_neg (by omega : ¬ v + 2 ^ n = 0)]
    omega

theorem clzBits_eq (x : DWord) (n : Nat) : clzBits x n = ((List.range n).reverse.takeWhile (fun i => !x.getLsbD i)).length := by
  induction n with
  | zero => simp [clzBits, Nat.mod_one]
  | succ n ih =>
    rw [List.range_succ, List.reverse_append, List.reverse_singleton, List.singleton_append, List.takeWhile_cons, clzBits_succ, ih]
    cases x.getLsbD n <;> rfl

/-! ### BREV (R120) -/

/-- A power of two added to a number in which its bit is 0. -/
theorem testBit_add_two_pow {m p : Nat} (h : m.testBit p = false) (j : Nat) : (m + 2 ^ p).testBit j = (m.testBit j || decide (p = j)) := by
  rw [Nat.add_comm]
  rcases lt_trichotomy j p with hlt | rfl | hgt
  · simp [Nat.testBit_two_pow_add_gt hlt, hlt.ne']
  · simp [Nat.testBit_two_pow_add_eq, h]
  · obtain ⟨k, rfl⟩ : ∃ k, j = p + 1 + k := ⟨j - (p + 1), by omega⟩
    have hbit : m / 2 ^ p % 2 = 0 := by simpa [Nat.testBit_eq_decide_div_mod_eq] using h
    have hdiv : (2 ^ p + m) / 2 ^ (p + 1) = m / 2 ^ (p + 1) := by
      rw [Nat.pow_succ, ← Nat.div_div_eq_div_mul, ← Nat.div_div_eq_div_mul, Nat.add_div_left _ (by positivity)]
      omega
    have hk (n : Nat) : n.testBit (p + 1 + k) = (n / 2 ^ (p + 1)).testBit k := by
      rw [Nat.testBit_div_two_pow, Nat.add_comm k]
    rw [hk, hk, hdiv, decide_eq_false (by omega), Bool.or_false]

/-- Bits added one by one at places where there was none. -/
theorem testBit_foldl_add {ι : Type} (p : ι → Nat) (b : ι → Bool) (l : List ι) (hl : (l.map p).Nodup) (m : Nat)
    (hm : ∀ i ∈ l, m.testBit (p i) = false) (j : Nat) :
    (l.foldl (fun a i => a + (if b i then 2 ^ p i else 0)) m).testBit j = (m.testBit j || l.any (fun i => b i && decide (p i = j))) := by
  induction l generalizing m with
  | nil => simp
  | cons i l ih =>
    rw [List.map_cons, List.nodup_cons] at hl
    obtain ⟨hi, hl⟩ := hl
    have hstep (k : Nat) : (m + if b i then 2 ^ p i else 0).testBit k = (m.testBit k || (b i && decide (p i = k))) := by
      cases hb : b i
      · simp
      · simpa using testBit_add_two_pow (hm i List.mem_cons_self) k
    rw [List.foldl_cons, ih hl, hstep, List.any_cons, Bool.or_assoc]
    intro k hk
    rw [hstep, hm k (List.mem_cons_of_mem _ hk)]
    have hne : p i ≠ p k := fun e => hi (e ▸ List.mem_map_of_mem hk)
    simp [hne]

theorem revBits_getLsbD (x : DWord) {n i : Nat} (hn : n ≤ 64) (hi : i < n) : (revBits x n).getLsbD i = x.getLsbD (n - 1 - i) := by
  have hnodup : ((List.range n).map (fun k => n - 1 - k)).Nodup :=
    List.nodup_range.map_on (fun a ha b hb h => by rw [List.mem_range] at ha hb; omega)
  rw [revBits, BitVec.getLsbD_ofNat, testBit_foldl_add (fun k => n - 1 - k) (fun k => x.getLsbD k) _ hnodup 0 (fun _ _ => Nat.zero_testBit _),
    decide_eq_true (by omega : i < 64), Bool.true_and, Nat.zero_testBit, Bool.false_or, Bool.eq_iff_iff, List.any_eq_true]
  constructor
  · rintro ⟨k, hk, hbit⟩
    rw [Bool.and_eq_true, decide_eq_true_eq] at hbit
    obtain ⟨hb, rfl⟩ := hbit
    rw [List.mem_range] at hk
    rwa [show n - 1 - (n - 1 - k) = k by omega]
  · exact fun h => ⟨n - 1 - i, List.mem_range.mpr (by omega), by rw [h, decide_eq_true (by omega)]; rfl⟩

theorem setWidth_revBits (x : DWord) {n : Nat} (hn : n ≤ 64) : (revBits x n).setWidth n = (x.setWidth n).reverse := by
  apply BitVec.eq_of_getLsbD_eq
  intro i hi
  rw [BitVec.getLsbD_setWidth, decide_eq_true hi, Bool.true_and, revBits_getLsbD x hn hi, BitVec.getLsbD_reverse, BitVec.getMsbD,
    BitVec.getLsbD_setWidth, decide_eq_true hi, decide_eq_true (by omega : n - 1 - i < n)]
  rfl

theorem bitLogic : Claims.BitLogic := by
  intro o
  refine ⟨fun table => regResult_alu (fun s => dispatch_logt s o table), fun table a b c j hj => laneLogt_getLsbD table a b c hj,
    regResult_alu_of_eq (fun s => dispatch_popc s o) (fun x l => by rw [popBits_eq]), fun _ =>
    regResult_alu_of_eq (fun s => dispatch_clz s o) (fun x l => by rw [clzBits_eq]), fun hwf => ?_⟩
  obtain ⟨-, hw⟩ := width_of_mem_unsigned (ty_mem_of_ok (Bool.and_eq_true_iff.mp hwf).1)
  exact regResult_of_bits (F := fun _ _ v => revBits v o.ty.width) (G := fun _ _ _ v => v.reverse) hw (fun s => dispatch_brev s o)
    (fun _ _ v => setWidth_revBits v (width_le_64 o.ty))

end Sys2Proof.Machine
end

section
/-! Bit fields and bytes (R121 to R123). -/

namespace Sys2Proof.Machine

/-! ### BFE (R121) -/

theorem fieldLen_le (b : Word) : fieldLen b ≤ 32 := Nat.min_le_right _ _

/-- The field of BFE, extended to a register. -/
theorem laneBfe_eq (sg : Bool) (a b : Word) : laneBfe sg a b =
    if sg then ((a.sshiftRight (fieldPos b)).setWidth (fieldLen b)).signExtend 32 else ((a >>> fieldPos b).setWidth (fieldLen b)).setWidth 32 := by
  have hf (y : Int) : y % ((2 ^ fieldLen b : Nat) : Int) = ((BitVec.ofInt (fieldLen b) y).toNat : Int) := by
    rw [BitVec.toNat_ofInt, Int.toNat_of_nonneg (Int.emod_nonneg _ (by positivity))]
  have hbits (v : Word) : BitVec.ofInt (fieldLen b) v.toInt = v.setWidth (fieldLen b) := by
    rw [← setWidth_ofInt _ _ (fieldLen_le b), BitVec.ofInt_toInt]
  unfold laneBfe
  cases sg
  · have hx : (a.toNat : Int) / ((2 ^ fieldPos b : Nat) : Int) = ((a >>> fieldPos b).toNat : Int) := by
      rw [BitVec.toNat_ushiftRight, Nat.shiftRight_eq_div_pow, Int.natCast_ediv]
    have hnat (v : Word) : BitVec.ofInt (fieldLen b) v.toNat = v.setWidth (fieldLen b) := by rw [BitVec.ofInt_natCast, BitVec.ofNat_toNat]
    simp only [Bool.false_eq_true, if_false, hx, hf, hnat]
    split
    · next h => rw [h, BitVec.of_length_zero (x := BitVec.setWidth 0 _)]; rfl
    · rw [BitVec.ofInt_natCast, BitVec.ofNat_toNat]
  · have hx : a.toInt / ((2 ^ fieldPos b : Nat) : Int) = (a.sshiftRight (fieldPos b)).toInt := by
      rw [BitVec.toInt_sshiftRight, Int.shiftRight_eq_div_pow]
    simp only [if_true, hx, hf, Int.toNat_natCast, sextNat_toNat, hbits]
    split
    · next h => rw [h, BitVec.of_length_zero (x := BitVec.setWidth 0 _)]; rfl
    · rfl

theorem laneBfe_unsigned_getLsbD (a b : Word) {i : Nat} (hi : i < 32) :
    (laneBfe false a b).getLsbD i = (decide (i < fieldLen b) && a.getLsbD (fieldPos b + i)) := by
  rw [laneBfe_eq, if_neg Bool.false_ne_true, BitVec.getLsbD_setWidth, BitVec.getLsbD_setWidth, BitVec.getLsbD_ushiftRight, decide_eq_true hi,
    Bool.true_and]

theorem laneBfe_signed_getLsbD (a b : Word) {i : Nat} (hlen : 0 < fieldLen b) (hi : i < 32) (hfit : fieldPos b + fieldLen b ≤ 32) :
    (laneBfe true a b).getLsbD i = a.getLsbD (fieldPos b + min i (fieldLen b - 1)) := by
  rw [laneBfe_eq, if_pos rfl, BitVec.getLsbD_signExtend, decide_eq_true hi, Bool.true_and]
  have hbit (k : Nat) (hk : k < fieldLen b) : ((a.sshiftRight (fieldPos b)).setWidth (fieldLen b)).getLsbD k = a.getLsbD (fieldPos b + k) := by
    rw [BitVec.getLsbD_setWidth, decide_eq_true hk, Bool.true_and, BitVec.getLsbD_sshiftRight, if_pos (by omega), decide_eq_false (by omega)]
    rfl
  split
  · next h => rw [hbit i h, min_eq_left (by omega)]
  · next h => rw [BitVec.msb_eq_getLsbD_last, hbit _ (by omega), min_eq_right (by omega)]

/-! ### BFI (R122) -/

theorem fieldMask_getLsbD (pos len : Nat) {i : Nat} (hi : i < 32) :
    (BitVec.ofNat 32 ((2 ^ len - 1) * 2 ^ pos)).getLsbD i = decide (pos ≤ i ∧ i < pos + len) := by
  rw [BitVec.getLsbD_ofNat, decide_eq_true hi, Bool.true_and, Nat.testBit_mul_two_pow, Nat.testBit_two_pow_sub_one, ← Bool.decide_and]
  congr 1
  apply propext
  omega

theorem laneBfi_getLsbD (a b c : Word) {i : Nat} (hi : i < 32) : (laneBfi a b c).getLsbD i =
    if fieldPos b ≤ i ∧ i < fieldPos b + fieldLen b then a.getLsbD (i - fieldPos b) else c.getLsbD i := by
  simp only [laneBfi, BitVec.getLsbD_or, BitVec.getLsbD_and, BitVec.getLsbD_not, fieldMask_getLsbD _ _ hi]
  rw [BitVec.getLsbD_ofNat, Nat.testBit_mul_two_pow]
  by_cases h : fieldPos b ≤ i ∧ i < fieldPos b + fieldLen b
  · simp [h, hi, BitVec.getLsbD]
  · simp [h, hi]

/-! ### BSEL (R123) -/

/-- The number of byte `i` of the result of BSEL. -/
def bselByte (a b c : Word) (i : Nat) : Nat :=
  let v := (c ++ a : DWord).toNat / 2 ^ (8 * (b.toNat / 2 ^ (3 * i) % 8)) % 256
  let m := b.toNat / 2 ^ (2 * i + 12) % 4
  if m = 0 then v else if m = 1 then (if 128 ≤ v then 255 else 0) else if m = 2 then 0 else 255

theorem bselByte_lt (a b c : Word) (i : Nat) : bselByte a b c i < 256 := by
  unfold bselByte
  extract_lets v m
  have hv : v < 256 := Nat.mod_lt _ (by decide)
  split_ifs <;> omega

/-- A byte of a word that is put together from four. -/
theorem extractLsb'_of_bytes {f : Nat → Nat} (hf : ∀ i, f i < 256) {i : Nat} (hi : i < 4) :
    (BitVec.ofNat 32 (f 0 + f 1 * 256 + f 2 * 65536 + f 3 * 16777216)).extractLsb' (8 * i) 8 = BitVec.ofNat 8 (f i) := by
  apply BitVec.eq_of_toNat_eq
  have h0 := hf 0
  have h1 := hf 1
  have h2 := hf 2
  have h3 := hf 3
  rw [BitVec.extractLsb'_toNat, BitVec.toNat_ofNat, BitVec.toNat_ofNat, Nat.shiftRight_eq_div_pow]
  obtain rfl | rfl | rfl | rfl : i = 0 ∨ i = 1 ∨ i = 2 ∨ i = 3 := by omega
  all_goals omega

theorem laneBsel_byte (a b c : Word) {i : Nat} (hi : i < 4) : (laneBsel a b c).extractLsb' (8 * i) 8 =
    let x : Byte := ((c ++ a : DWord) >>> (8 * (b.toNat / 2 ^ (3 * i) % 8))).setWidth 8
    let m := b.toNat / 2 ^ (2 * i + 12) % 4
    if m = 0 then x else if m = 1 then (if x.getLsbD 7 then 0xFF else 0) else if m = 2 then 0 else 0xFF := by
  refine (extractLsb'_of_bytes (f := bselByte a b c) (bselByte_lt a b c) hi).trans ?_
  unfold bselByte
  extract_lets v m x
  have hx : BitVec.ofNat 8 v = x := BitVec.eq_of_toNat_eq (by simp [x, v, Nat.shiftRight_eq_div_pow])
  have hsign : 128 ≤ v ↔ x.getLsbD 7 = true := by
    have hv : v < 256 := Nat.mod_lt _ (by decide)
    rw [← hx, BitVec.getLsbD_ofNat, Nat.testBit_eq_decide_div_mod_eq, Bool.and_eq_true, decide_eq_true_eq, decide_eq_true_eq]
    omega
  simp only [apply_ite (BitVec.ofNat 8), hx, hsign]
  rfl

theorem bitFields : Claims.BitFields := fun o =>
  ⟨regResult_alu (fun s => dispatch_bfe s o), regResult_alu (fun s => dispatch_bfi s o), regResult_alu (fun s => dispatch_bsel s o),
    fun a b _ hi => laneBfe_unsigned_getLsbD a b hi, fun a b _ hlen hi hfit => laneBfe_signed_getLsbD a b hlen hi hfit,
    fun a b c _ hi => laneBfi_getLsbD a b c hi, fun a b c _ hi => laneBsel_byte a b c hi⟩

/-- Settles O4: bit by bit for the functions on bits, byte by byte for BSEL. -/
theorem bitOperations : Obligations.BitOperations := by
  unfold Obligations.BitOperations
  exact ⟨bitLogic, bitFields⟩

end Sys2Proof.Machine
end

section
/-! Packed differences, dot products, scaled addresses, moves and selection (R111, R112, R115, R124 to R126). -/

namespace Sys2Proof.Machine

/-! ### Sums over the elements of a word (R111, R112) -/

/-- A sum by terms added one by one. -/
theorem foldl_add_eq_sum {ι : Type} (f : ι → Int) (l : List ι) (z : Int) : l.foldl (fun acc i => acc + f i) z = z + (l.map f).sum := by
  induction l generalizing z with
  | nil => simp
  | cons i l ih => rw [List.foldl_cons, ih, List.map_cons, List.sum_cons, add_assoc]

theorem laneSad_eq (t : Ty) (sat : Bool) (a b c : Word) : laneSad t sat a b c =
    fit .n32 ((c.toNat : Int) + ((List.range (32 / t.width)).map (fun i =>
      |elemInt a t.width i (tySigned t) - elemInt b t.width i (tySigned t)|)).sum) sat := by
  unfold laneSad
  simp only [foldl_add_eq_sum, Int.natCast_natAbs]

theorem laneDot_eq (n : Nat) (as bs sat : Bool) (a b c : Word) : laneDot n as bs sat a b c =
    fit .s32 (c.toInt + ((List.range (32 / n)).map (fun i => elemInt a n i as * elemInt b n i bs)).sum) sat := by
  unfold laneDot
  simp only [foldl_add_eq_sum, sextNat_toNat]

/-! ### Scaled addresses (R124) -/

theorem laneLea_eq (a b : Word) (sh : Nat) : laneLea a b sh = a + b <<< sh := by
  apply BitVec.eq_of_toNat_eq
  simp [laneLea, Nat.shiftLeft_eq]

theorem laneLea64_eq (t : Ty) (a b : DWord) (sh : Nat) : laneLea64 t a b sh = a + BitVec.ofInt 64 (opnd t b) <<< sh := by
  have hpow : BitVec.ofNat 64 (2 ^ sh) = BitVec.twoPow 64 sh := BitVec.eq_of_toNat_eq (by rw [BitVec.toNat_ofNat, BitVec.toNat_twoPow])
  rw [laneLea64, BitVec.ofInt_add, BitVec.ofInt_natCast, BitVec.ofNat_toNat, BitVec.setWidth_eq, BitVec.ofInt_mul, BitVec.ofInt_natCast, hpow,
    BitVec.shiftLeft_eq_mul_twoPow]

/-- A register read as a 32-bit index, extended as its type requires. -/
theorem ofInt_opnd_of_32 {t : Ty} (h : t ∈ [Ty.s32, .n32]) (w : Word) :
    BitVec.ofInt 64 (opnd t (w.setWidth 64)) = if t == .s32 then w.signExtend 64 else w.zeroExtend 64 := by
  obtain rfl | rfl : t = .s32 ∨ t = .n32 := by simpa using h
  · rw [opnd_signed rfl]
    exact congrArg (fun v : Word => BitVec.ofInt 64 v.toInt) (lo32_setWidth w)
  · rw [opnd_unsigned rfl]
    exact (congrArg (fun v : Word => BitVec.ofInt 64 v.toNat) (lo32_setWidth w)).trans (by rw [BitVec.ofInt_natCast, BitVec.ofNat_toNat]; rfl)

/-! ### P2V (R126) -/

/-- Only the key itself is found among the keys below `n`. -/
theorem any_range_and_eq (b : Nat → Bool) (n i : Nat) : (List.range n).any (fun k => b k && decide (k = i)) = (b i && decide (i < n)) := by
  rw [Bool.eq_iff_iff, List.any_eq_true]
  simp only [List.mem_range, Bool.and_eq_true, decide_eq_true_eq]
  constructor
  · rintro ⟨k, hk, hb, rfl⟩
    exact ⟨hb, hk⟩
  · exact fun h => ⟨i, h.2, h.1, rfl⟩

theorem predWord_getLsbD (x : Warp) (l : Nat) {i : Nat} (hi : i < 32) : (predWord x l).getLsbD i =
    if i < 8 then x.predAt (.p (BitVec.ofNat 3 i)) l else if i < 12 then x.k.getLsbD (i - 8) else false := by
  have hbase (j : Nat) : (x.k.toNat * 256).testBit j = (decide (8 ≤ j) && x.k.getLsbD (j - 8)) := Nat.testBit_mul_two_pow x.k.toNat j 8
  have hword : (predWord x l).getLsbD i = ((decide (8 ≤ i) && x.k.getLsbD (i - 8)) || ((tabGetD x.p i 0).getLsbD l && decide (i < 8))) := by
    rw [predWord, BitVec.getLsbD_ofNat, decide_eq_true hi, Bool.true_and,
      testBit_foldl_add (fun k => k) (fun k => (tabGetD x.p k 0).getLsbD l) _ (by decide) _ (fun k hk => ?_), hbase, any_range_and_eq]
    rw [hbase, decide_eq_false (by have := List.mem_range.mp hk; omega), Bool.false_and]
  rw [hword]
  split
  · next h =>
    have hp : x.predAt (.p (BitVec.ofNat 3 i)) l = (tabGetD x.p i 0).getLsbD l := by
      simp only [Warp.predAt, Warp.predMask, BitVec.toNat_ofNat, Nat.mod_eq_of_lt (show i < 2 ^ 3 by omega)]
    rw [hp, decide_eq_false (by omega), decide_eq_true h, Bool.false_and, Bool.false_or, Bool.and_true]
  · next h =>
    rw [decide_eq_true (by omega), decide_eq_false h, Bool.true_and, Bool.and_false, Bool.or_false]
    split
    · rfl
    · exact BitVec.getLsbD_of_ge _ _ (by omega)

/-- Settles O5: each meaning is an `alu` operation, its words by the equation of its lane function; LEA64 and PICK read their operands under
the types that Table 1 allows them. -/
theorem dotsAddressesMoves : Obligations.DotsAddressesMoves := by
  unfold Obligations.DotsAddressesMoves
  intro o
  refine ⟨regResult_alu_of_eq (fun s => dispatch_isad s o) (fun x l => by rw [laneSad_eq]), fun bs =>
    ⟨regResult_alu_of_eq (fun s => dispatch_idp4 s o bs) (fun x l => by rw [laneDot_eq]),
      regResult_alu_of_eq (fun s => dispatch_idp2 s o bs) (fun x l => by rw [laneDot_eq])⟩,
    fun sh => ⟨regResult_alu_of_eq (fun s => dispatch_lea s o sh) (fun x l => by rw [laneLea_eq]), fun hwf => ?_⟩,
    regResult_alu (fun s => dispatch_mov s o), fun sw d w => regResult_alu (fun s => dispatch_movi s sw d w), fun inv c hwf => ?_,
    fun sw d => regResult_alu (fun s => dispatch_p2v s sw d), fun x l i hi => predWord_getLsbD x l hi⟩
  · have hty : o.ty ∈ [Ty.s32, .n32] := by
      simp only [WellFormed, Instr.accepts, Bool.and_eq_true] at hwf
      obtain ⟨⟨hok, -⟩, -⟩ := hwf
      exact ty_mem_of_ok hok
    have hnarrow : o.ty.is64 = false := by revert hty; cases o.ty <;> decide
    exact regResult_alu_of_eq (fun s => dispatch_lea64 s o sh) (fun x l => by
      rw [laneLea64_eq, operand_of_narrow hnarrow, ofInt_opnd_of_32 hty])
  · have hsel (x : Warp) (l : Nat) : (if x.predAt c l != inv then x.operand o.ty o.a l else x.operand o.ty o.b l) =
        x.operand o.ty (if x.predAt c l != inv then o.a else o.b) l := by split <;> rfl
    exact regResult_of_width (fun s => dispatch_pick s o inv c) (fun _ x l => hsel x l)
      (fun h x l => by rw [hsel, operand_of_narrow h, lo32_setWidth])

end Sys2Proof.Machine
end

section
/-! Comparisons and predicate logic (R114, R116, R133). -/

namespace Sys2Proof.Machine

/-- Settles O6: each meaning is an `aluPred` operation, and its predicate is that of the statement. -/
theorem predicateResults : Obligations.PredicateResults := by
  unfold Obligations.PredicateResults
  exact ⟨fun o cmp comb inv q c _ => predResult_aluPred (fun s => dispatch_icmp s o cmp comb inv q c),
    fun o cmp comb q c _ => predResult_aluPred (fun s => dispatch_fcmp s o cmp comb q c),
    fun sw d a b c table => predResult_aluPred (fun s => dispatch_plog s sw d a b c table)⟩

end Sys2Proof.Machine
end

section
/-! Floating-point arithmetic (R130, R131, R136). -/

namespace Sys2Proof.Machine

/-- Settles O7: each meaning is an `alu` operation with the words of the statement; the modified sources of the statement are those of R130. -/
theorem floatArithmetic : Obligations.FloatArithmetic := by
  unfold Obligations.FloatArithmetic
  exact fun o => ⟨regResult_alu (fun s => dispatch_fadd s o), regResult_alu (fun s => dispatch_fmul s o),
    regResult_alu (fun s => dispatch_ffma s o), regResult_alu (fun s => dispatch_fdp2 s o)⟩

end Sys2Proof.Machine
end

section
/-! Packed halves (R137). -/

namespace Sys2Proof.Machine

/-- Half `i` of a word, as a number. -/
theorem half_zero (w : Word) : (w.extractLsb' (16 * 0) 16).toNat = w.toNat % 65536 := by
  rw [BitVec.extractLsb'_toNat, Nat.mul_zero, Nat.shiftRight_zero]

theorem half_one (w : Word) : (w.extractLsb' (16 * 1) 16).toNat = w.toNat / 65536 := by
  rw [BitVec.extractLsb'_toNat, Nat.shiftRight_eq_div_pow]
  omega

/-- A word put together from the codes of its halves. -/
theorem ofNat_halves (p q : Nat) : BitVec.ofNat 32 (p % 65536 + q % 65536 * 65536) = (BitVec.ofNat 16 q ++ BitVec.ofNat 16 p : Word) := by
  apply BitVec.eq_of_toNat_eq
  have hp : (BitVec.ofNat 16 p).toNat < 2 ^ 16 := (BitVec.ofNat 16 p).isLt
  rw [BitVec.toNat_append, ← Nat.shiftLeft_add_eq_or_of_lt hp, Nat.shiftLeft_eq, BitVec.toNat_ofNat, BitVec.toNat_ofNat, BitVec.toNat_ofNat]
  omega

/-- A word each half of which is `g` of its place. -/
abbrev ofHalves (g : Nat → Nat) : Word := BitVec.ofNat 16 (g 1) ++ BitVec.ofNat 16 (g 0)

/-- An operation on both halves of two sources, each half on its own. -/
theorem regResult_packed2 {i : Instr} {o : FOp} {op : Nat → Nat → Nat} (hi : ∀ s, exec i s = flt2 o (packed2 op) s) :
    Claims.Flt i o (fdeps2 o) (fun x l => ofHalves (fun k =>
      op ((x.lane o.a l).extractLsb' (16 * k) 16).toNat ((x.lane o.b l).extractLsb' (16 * k) 16).toNat)) :=
  regResult_alu_of_eq hi (fun x l => by simp only [packed2, ofNat_halves, ofHalves, half_zero, half_one])

/-- An operation on both halves of three sources, each half on its own. -/
theorem regResult_packed3 {i : Instr} {o : FOp} {op : Nat → Nat → Nat → Nat} (hi : ∀ s, exec i s = flt3 o (packed3 op) s) :
    Claims.Flt i o (fdeps3 o) (fun x l => ofHalves (fun k => op ((x.lane o.a l).extractLsb' (16 * k) 16).toNat
      ((x.lane o.b l).extractLsb' (16 * k) 16).toNat ((x.lane o.c l).extractLsb' (16 * k) 16).toNat)) :=
  regResult_alu_of_eq hi (fun x l => by simp only [packed3, ofNat_halves, ofHalves, half_zero, half_one])

/-- Settles O9: each meaning applies an operation to words, which `regResult_packed2` and `regResult_packed3` take apart into halves. -/
theorem packedHalves : Obligations.PackedHalves := by
  unfold Obligations.PackedHalves
  exact fun o => ⟨(regResult_packed2 (fun s => dispatch_hadd2 s o) :), (regResult_packed2 (fun s => dispatch_hmul2 s o) :),
    (regResult_packed3 (fun s => dispatch_hfma2 s o) :),
    fun nan => ⟨(regResult_packed2 (fun s => dispatch_hmin2 s o nan) :), (regResult_packed2 (fun s => dispatch_hmax2 s o nan) :)⟩⟩

end Sys2Proof.Machine
end


section
/-! Votes and moves to predicates (R126, R148). -/

namespace Sys2Proof.Machine

/-! ### A predicate written by an instruction (R126, R148) -/

/-- Two warps with the same vector and uniform registers read their registers alike. -/
theorem sameRegs_of_unmap {x y : Warp} {lasts : List Nat} (hv : y.v = (x.unmap lasts).v) (hs : y.s = x.s) : SameRegs x y lasts [] [] :=
  ⟨fun r _ => congrArg (tabGetD · r zeroLanes) hv, fun r _ => congrArg (tabGetD · r 0) hs⟩

/-! ### VOTE (R148) -/

/-- One value written to a predicate: to the lanes `m` of a p register, or to a k register. -/
theorem predAt_putPred_const (x : Warp) (d : PReg) (m : LaneMask) (b : Bool) (due : Nat) {l : Nat} (hl : l < 64) :
    (x.putPred d m (if b then allLanes else 0) due).predAt d l = if d.isK || m.getLsbD l then b else x.predAt d l := by
  have hb {i : Nat} (hi : i < 64) : (if b then allLanes else 0).getLsbD i = b := by
    cases b
    · exact BitVec.getLsbD_zero
    · exact (BitVec.getLsbD_allOnes (v := 64) (i := i)).trans (decide_eq_true hi)
  cases d with
  | p r => rw [predAt_putPred_p x r m _ due l hl, hb hl]; rfl
  | k r => rw [predAt_putPred_k x r m _ due l hl, hb (by decide)]; rfl

theorem voteBits_eq (mode : VoteMode) (t : Nat → Bool) (ls : List Nat) : voteBits mode (ls.map t) =
    match mode with | .all => ls.all t | .any => ls.any t | .uni => ls.all t || !ls.any t := by
  have hnot : (ls.map t).all not = !ls.any t := by rw [List.all_map, List.not_any_eq_all_not]; rfl
  cases mode <;> simp [voteBits, hnot]

theorem voteAt_eq (x : Warp) (q : PReg) (inv : Bool) : voteAt x q inv = fun l => (x.predAt q l ^^ inv) :=
  rfl

/-! ### V2P (R126) -/

/-- The p registers of a mask written one after the other, in the lanes `m`. -/
def putPreds (mask : Byte) (m : LaneMask) (bits : Nat → LaneMask) (due : Nat) (is : List Nat) (x : Warp) : Warp :=
  is.foldl (fun (y : Warp) i => if mask.getLsbD i then y.putPred (.p (BitVec.ofNat 3 i)) m (bits i) due else y) x

section
variable (mask : Byte) (m : LaneMask) (bits : Nat → LaneMask) (due : Nat) (is : List Nat) (x : Warp)

theorem putPreds_frame : let y := putPreds mask m bits due is x
    y.v = x.v ∧ y.s = x.s ∧ y.k = x.k ∧ y.pc = x.pc ∧ SameRest x y ∧ SameIssue x y := by
  unfold putPreds
  refine List.foldlRecOn (motive := fun y => y.v = x.v ∧ y.s = x.s ∧ y.k = x.k ∧ y.pc = x.pc ∧ SameRest x y ∧ SameIssue x y) is _
    ⟨rfl, rfl, rfl, rfl, sameRest_refl x, rfl, rfl, rfl⟩ (fun y h i _ => ?_)
  obtain ⟨hv, hs, hk, hpc, hrest, hissue⟩ := h
  split
  · exact ⟨(putPred_v y _ _ _ _).trans hv, (putPred_s y _ _ _ _).trans hs, hk, (putPred_pc y _ _ _ _).trans hpc,
      sameRest_putPred y hrest _ _ _ _, sameIssue_trans hissue (sameIssue_putPred y _ _ _ _)⟩
  · exact ⟨hv, hs, hk, hpc, hrest, hissue⟩

variable {is}

theorem predAt_putPreds (his : ∀ i ∈ is, i < 8) (r : BitVec 3) {l : Nat} (hl : l < 64) : (putPreds mask m bits due is x).predAt (.p r) l =
    if r.toNat ∈ is ∧ mask.getLsbD r.toNat = true ∧ m.getLsbD l = true then (bits r.toNat).getLsbD l else x.predAt (.p r) l := by
  induction is generalizing x with
  | nil => rfl
  | cons i is ih =>
    rw [List.forall_mem_cons] at his
    have hi : (BitVec.ofNat 3 i).toNat = i := Nat.mod_eq_of_lt his.1
    have hstep : (if mask.getLsbD i then x.putPred (.p (BitVec.ofNat 3 i)) m (bits i) due else x).predAt (.p r) l =
        if r.toNat = i ∧ mask.getLsbD r.toNat = true ∧ m.getLsbD l = true then (bits r.toNat).getLsbD l else x.predAt (.p r) l := by
      by_cases hr : r.toNat = i
      · obtain rfl : r = BitVec.ofNat 3 i := BitVec.eq_of_toNat_eq (hr.trans hi.symm)
        rw [hi]
        split <;> simp_all [predAt_putPred_p x _ m (bits i) due l hl]
      · have hne : PReg.p r ≠ .p (BitVec.ofNat 3 i) := by rintro ⟨⟩; exact hr hi
        refine Eq.trans ?_ (if_neg fun h => hr h.1).symm
        split
        · exact congrArg (BitVec.getLsbD · l) (predMask_putPred_other x m (bits i) due hne)
        · rfl
    refine (ih _ his.2).trans ?_
    rw [hstep]
    by_cases hm : mask.getLsbD r.toNat = true ∧ m.getLsbD l = true <;> by_cases hr : r.toNat ∈ is <;> simp [hm, hr]

theorem dueAt_putPreds_of_dueAt {x : Warp} {r : Nat} (h : DueAt x (.p r) due) : DueAt (putPreds mask m bits due is x) (.p r) due := by
  unfold putPreds
  refine List.foldlRecOn (motive := fun y => DueAt y (.p r) due) is _ h (fun y hy i _ => ?_)
  split
  · by_cases hr : r = (BitVec.ofNat 3 i).toNat
    · rw [hr]; exact dueAt_putPred y (.p (BitVec.ofNat 3 i)) m (bits i) due
    · exact dueAt_mark_other y hy (by rintro ⟨⟩; exact hr rfl) (some due) 0 m false
  · exact hy

theorem dueAt_putPreds (his : ∀ i ∈ is, i < 8) {i : Nat} (hi : i ∈ is) (hm : mask.getLsbD i = true) :
    DueAt (putPreds mask m bits due is x) (.p i) due := by
  induction is generalizing x with
  | nil => cases hi
  | cons j is ih =>
    rw [List.forall_mem_cons] at his
    rcases List.mem_cons.mp hi with rfl | hi
    · have hj : (BitVec.ofNat 3 i).toNat = i := Nat.mod_eq_of_lt his.1
      have hput := dueAt_putPred x (.p (BitVec.ofNat 3 i)) m (bits i) due
      simp only [hj] at hput
      simp only [putPreds, List.foldl_cons, if_pos hm]
      exact dueAt_putPreds_of_dueAt mask m bits due hput
    · exact ih _ his.2 hi

end

theorem mem_range_eight (r : BitVec 3) : r.toNat ∈ List.range 8 := List.mem_range.mpr r.isLt

/-- Settles O14: the records of a warp after VOTE and V2P, by what a write of one predicate does. -/
theorem votesAndPredicateMoves : Obligations.VotesAndPredicateMoves := by
  unfold Obligations.VotesAndPredicateMoves
  refine ⟨fun sw mode inv d q s c h => changes_issueWarp (dispatch_vote s sw mode inv d q) h rfl ?_,
    fun sw a m mask s c h => changes_issueWarp (dispatch_v2p s sw a m mask) h rfl ?_⟩
  · intro t all any v
    have hv : voteBits mode ((lanesOf c.x.lanes).map (voteAt c.x q inv)) = v := by
      rw [voteAt_eq]
      exact voteBits_eq mode t _
    dsimp only
    rw [hv]
    exact ⟨fun l hl => (predAt_advance _ _ _ _ _ _ _).trans (predAt_putPred_const _ _ _ _ _ hl),
      dueAt_advance (dueAt_putPred _ _ _ _ _) _ _ _ _, sameRegs_advance (sameRegs_of_eq (putPred_v _ _ _ _ _) (putPred_s _ _ _ _ _)) _ _ _ _,
      samePreds_advance (fun q' hq' => predMask_putPred_other _ _ _ _ (by simpa using hq')) _ _ _ _,
      sameRest_advance _ (sameRest_putPred _ (sameRest_refl _) _ _ _ _) _ _ _ _, stepped_advance (sameIssue_putPred _ _ _ _ _) _ _ _,
      (advance_pc _ _ _ _ _).trans (congrArg (· + 1) (putPred_pc _ _ _ _ _))⟩
  · let bits := fun i => laneBits c.x.lanes (fun l => (c.x.lane (.v a m) l).getLsbD i)
    let x' := c.x.unmap (srcLasts 1 (.v a m))
    have his : ∀ i ∈ List.range 8, i < 8 := fun i => List.mem_range.mp
    obtain ⟨hv, hs, hk, hpc, hrest, hissue⟩ := putPreds_frame mask c.x.lanes bits (c.now + 8) (List.range 8) x'
    refine ⟨fun r l hl => (predAt_advance _ _ _ _ _ _ _).trans ((predAt_putPreds mask c.x.lanes bits (c.now + 8) x' his r hl).trans ?_),
      fun r hr => dueAt_advance (dueAt_putPreds mask c.x.lanes bits (c.now + 8) x' his (mem_range_eight r) hr) _ _ _ _,
      sameRegs_advance (sameRegs_of_unmap hv hs) _ _ _ _, (advance_k _ _ _ _ _).trans hk,
      sameRest_advance _ (sameRest_trans (sameRest_unmap _ _) hrest) _ _ _ _,
      stepped_advance (sameIssue_trans (sameIssue_unmap _ _) hissue) _ _ _, (advance_pc _ _ _ _ _).trans (congrArg (· + 1) hpc)⟩
    have hbit : (bits r.toNat).getLsbD l = (c.x.lanes.getLsbD l && ((c.x.readV a.toNat).getD l 0).getLsbD r.toNat) := laneBits_getLsbD _ _ _ hl
    rw [hbit]
    by_cases hm : mask.getLsbD r.toNat = true ∧ c.x.lanes.getLsbD l = true
    · rw [if_pos ⟨mem_range_eight r, hm⟩, if_pos (Bool.and_eq_true_iff.mpr hm), hm.2, Bool.true_and]
    · rw [if_neg (fun h => hm h.2), if_neg (fun h => hm (Bool.and_eq_true_iff.mp h))]
      rfl

end Sys2Proof.Machine
end

section
/-! SUPPORT. Exact values as rational numbers, their arithmetic and their order (R79, R85, R86). -/

namespace Sys2Proof.Machine

/-! ### Values -/

/-- An exact value as a rational number; 0 for what is not finite. -/
def Xreal.toRat (x : Xreal) : ℚ := Claims.rat x

/-- A value whose denominator is not 0. -/
def Xreal.Proper : Xreal → Prop | .fin _ _ d _ => d ≠ 0 | _ => True

/-- The number of a signed exact value given in parts. -/
def partsRat (p : Int × Nat × Int) : ℚ := p.1 / p.2.1 * 2 ^ p.2.2

theorem parts_den_ne_zero {x : Xreal} (h : x.Proper) : x.parts.2.1 ≠ 0 := by
  cases x with
  | fin s n d e => exact h
  | _ => exact Nat.one_ne_zero

theorem two_zpow_pos (e : Int) : (0 : ℚ) < 2 ^ e := zpow_pos (by norm_num) e

theorem two_zpow_ne_zero (e : Int) : (2 : ℚ) ^ e ≠ 0 := (two_zpow_pos e).ne'

/-- A natural power of two as an integral power. -/
theorem two_zpow_toNat {e : Int} (h : 0 ≤ e) : ((2 ^ e.toNat : Nat) : ℚ) = 2 ^ e := by
  rw [Nat.cast_pow, Nat.cast_ofNat, ← zpow_natCast, Int.toNat_of_nonneg h]

theorem toRat_fin (s : Bool) (n d : Nat) (e : Int) : (Xreal.fin s n d e).toRat = (if s then -1 else 1) * (n / d * 2 ^ e) := by
  change (if s then -1 else 1) * (n : ℚ) / d * 2 ^ e = _
  rw [mul_div_assoc, mul_assoc]

theorem toRat_fin_false (n d : Nat) (e : Int) : (Xreal.fin false n d e).toRat = n / d * 2 ^ e := by
  rw [toRat_fin, if_neg Bool.false_ne_true, one_mul]

@[simp] theorem toRat_inf (s : Bool) : (Xreal.inf s).toRat = 0 := rfl
@[simp] theorem toRat_nan : Xreal.nan.toRat = 0 := rfl

theorem toRat_eq_partsRat (x : Xreal) : x.toRat = partsRat x.parts := by
  cases x with
  | fin s n d e => cases s <;> simp [toRat_fin, partsRat, Xreal.parts, neg_div]
  | _ => simp [partsRat, Xreal.parts]

theorem abs_sign (s : Bool) : |(if s then -1 else 1 : ℚ)| = 1 := by cases s <;> simp

theorem abs_toRat_fin (s : Bool) (n d : Nat) (e : Int) : |(Xreal.fin s n d e).toRat| = n / d * 2 ^ e := by
  rw [toRat_fin, abs_mul, abs_sign, one_mul, abs_of_nonneg]
  exact mul_nonneg (div_nonneg n.cast_nonneg d.cast_nonneg) (two_zpow_pos e).le

theorem toRat_eq_zero_iff {x : Xreal} (h : x.Proper) (hf : x.isFin = true) : x.toRat = 0 ↔ x.isZero = true := by
  cases x with
  | fin s n d e =>
    have hd : (d : ℚ) ≠ 0 := Nat.cast_ne_zero.mpr h
    rw [← abs_eq_zero, abs_toRat_fin]
    simp [Xreal.isZero, hd, two_zpow_ne_zero]
  | _ => cases hf

/-! ### Arithmetic (R85) -/

@[simp] theorem isNan_nan : Xreal.nan.isNan = true := rfl
@[simp] theorem isNan_inf (s : Bool) : (Xreal.inf s).isNan = false := rfl
@[simp] theorem isFin_neg (x : Xreal) : x.neg.isFin = x.isFin := by cases x <;> rfl
@[simp] theorem isFin_abs (x : Xreal) : x.abs.isFin = x.isFin := by cases x <;> rfl

theorem proper_neg {x : Xreal} (h : x.Proper) : x.neg.Proper := by cases x <;> exact h
theorem proper_abs {x : Xreal} (h : x.Proper) : x.abs.Proper := by cases x <;> exact h

theorem toRat_neg (x : Xreal) : x.neg.toRat = -x.toRat := by
  cases x with
  | fin s n d e => cases s <;> simp [Xreal.neg, toRat_fin]
  | _ => simp [Xreal.neg]

theorem toRat_abs (x : Xreal) : x.abs.toRat = |x.toRat| := by
  cases x with
  | fin s n d e => rw [abs_toRat_fin]; exact toRat_fin_false n d e
  | _ => simp [Xreal.abs]

/-- The quotient by a finite value that is not 0. -/
theorem toRat_div {x y : Xreal} (hx : x.isFin = true) (hy : y.isFin = true) (hy0 : y.isZero = false) :
    (x.div y).isFin = true ∧ (x.div y).toRat = x.toRat / y.toRat := by
  cases x with
  | fin s n d e =>
    cases y with
    | fin t n' d' e' =>
      have hn' : n' ≠ 0 := by simpa [Xreal.isZero] using hy0
      have hsign : ((if (s != t) then -1 else 1 : ℚ)) = (if s then -1 else 1) / (if t then -1 else 1) := by cases s <;> cases t <;> norm_num
      simp only [Xreal.div, if_neg hn', Xreal.isFin, toRat_fin, hsign, zpow_sub₀ (two_ne_zero (α := ℚ)), true_and]
      push_cast
      simp only [div_eq_mul_inv, mul_inv, inv_inv]
      ring
    | _ => cases hy
  | _ => cases hx

theorem proper_div {x y : Xreal} (hx : x.Proper) : (x.div y).Proper := by
  cases x with
  | fin s n d e =>
    cases y with
    | fin t n' d' e' =>
      by_cases hn' : n' = 0
      · simp [Xreal.div, hn', Xreal.Proper]
      · simpa [Xreal.div, hn', Xreal.Proper] using hx
    | inf t => exact Nat.one_ne_zero
    | nan => trivial
  | nan => cases y <;> trivial
  | inf s => cases y <;> trivial

/-- A numerator brought to the exponent `m` and to a common denominator. -/
theorem scaled_num (a b : Int × Nat × Int) {m : Int} (ha : a.2.1 ≠ 0) (hm : m ≤ a.2.2) :
    ((a.1 * ((2 ^ (a.2.2 - m).toNat * b.2.1 : Nat) : Int) : Int) : ℚ) = partsRat a * ((a.2.1 : ℚ) * b.2.1 * 2 ^ (-m)) := by
  have hd : (a.2.1 : ℚ) ≠ 0 := Nat.cast_ne_zero.mpr ha
  rw [Int.cast_mul, Int.cast_natCast, Nat.cast_mul, two_zpow_toNat (by omega), sub_eq_add_neg, zpow_add₀ two_ne_zero, partsRat]
  field_simp

theorem partsRat_addParts {a b : Int × Nat × Int} (ha : a.2.1 ≠ 0) (hb : b.2.1 ≠ 0) :
    (addParts a b).2.1 ≠ 0 ∧ partsRat (addParts a b) = partsRat a + partsRat b := by
  unfold addParts
  by_cases ha0 : a.1 = 0
  · rw [if_pos ha0]
    exact ⟨hb, by simp [partsRat, ha0]⟩
  rw [if_neg ha0]
  by_cases hb0 : b.1 = 0
  · rw [if_pos hb0]
    exact ⟨ha, by simp [partsRat, hb0]⟩
  rw [if_neg hb0]
  refine ⟨Nat.mul_ne_zero ha hb, ?_⟩
  have hda : (a.2.1 : ℚ) ≠ 0 := Nat.cast_ne_zero.mpr ha
  have hdb : (b.2.1 : ℚ) ≠ 0 := Nat.cast_ne_zero.mpr hb
  have h2 := two_zpow_ne_zero (min a.2.2 b.2.2)
  extract_lets e x y
  change ((x + y : Int) : ℚ) / ((a.2.1 * b.2.1 : Nat) : ℚ) * 2 ^ e = _
  rw [Int.cast_add, scaled_num a b ha (min_le_left _ _), scaled_num b a hb (min_le_right _ _), Nat.cast_mul, zpow_neg]
  change _ / _ * (2 : ℚ) ^ min a.2.2 b.2.2 = _
  field_simp

/-- The sum of finite values is their exact sum. -/
theorem toRat_sumX (rm : Rm) {l : List Xreal} (hfin : ∀ x ∈ l, x.isFin = true) (hp : ∀ x ∈ l, x.Proper) :
    (sumX rm l).isFin = true ∧ (sumX rm l).Proper ∧ (sumX rm l).toRat = (l.map Xreal.toRat).sum := by
  have hno (p : Xreal → Bool) (hp : ∀ x : Xreal, x.isFin = true → p x = false) : l.any p = false := by
    rw [List.any_eq_false]
    exact fun x hx => by rw [hp x (hfin x hx)]; exact Bool.false_ne_true
  have hnan : l.any Xreal.isNan = false := hno _ (fun x hx => by cases x <;> simp_all [Xreal.isFin, Xreal.isNan])
  have hinf (s : Bool) : l.any (· == .inf s) = false := hno _ (fun x hx => by cases x <;> simp_all [Xreal.isFin])
  have hfold : ∀ (l : List Xreal) (acc : Int × Nat × Int), (∀ x ∈ l, x.Proper) → acc.2.1 ≠ 0 →
      let s := l.foldl (fun acc x => addParts acc x.parts) acc
      s.2.1 ≠ 0 ∧ partsRat s = partsRat acc + (l.map Xreal.toRat).sum := by
    intro l
    induction l with
    | nil => exact fun acc _ h => ⟨h, by simp⟩
    | cons x l ih =>
      intro acc hl hacc
      rw [List.forall_mem_cons] at hl
      obtain ⟨hd, hv⟩ := partsRat_addParts hacc (parts_den_ne_zero hl.1)
      obtain ⟨hd', hv'⟩ := ih _ hl.2 hd
      exact ⟨hd', hv'.trans (by rw [hv, List.map_cons, List.sum_cons, toRat_eq_partsRat, add_assoc])⟩
  obtain ⟨hd, hv⟩ := hfold l (0, 1, 0) hp Nat.one_ne_zero
  have hv : partsRat (l.foldl (fun acc x => addParts acc x.parts) (0, 1, 0)) = (l.map Xreal.toRat).sum := by rw [hv]; simp [partsRat]
  unfold sumX
  rw [hnan, hinf, hinf]
  simp only [Bool.false_eq_true, if_false, Bool.and_self]
  generalize l.foldl (fun acc x => addParts acc x.parts) (0, 1, 0) = s at hd hv
  rw [← hv]
  have hzero (h : s.1 = 0) (t : Bool) : (xzero t).toRat = partsRat s := by simp [xzero, toRat_fin, partsRat, h]
  split
  · next h =>
    split
    · exact ⟨rfl, Nat.one_ne_zero, hzero h _⟩
    · split
      · exact ⟨rfl, Nat.one_ne_zero, hzero h _⟩
      · exact ⟨rfl, Nat.one_ne_zero, hzero h _⟩
  · refine ⟨rfl, hd, ?_⟩
    have hparts : (Xreal.fin (decide (s.1 < 0)) s.1.natAbs s.2.1 s.2.2).parts = s := by
      refine Prod.ext ?_ rfl
      by_cases h0 : s.1 < 0
      · exact (if_pos (decide_eq_true h0)).trans (by omega)
      · exact (if_neg (by rw [decide_eq_false h0]; exact Bool.false_ne_true)).trans (by omega)
    rw [toRat_eq_partsRat, hparts]

/-! ### Order (R133) -/

/-- A value on the line of rational numbers with its two ends; NaN at 0. -/
def Xreal.place : Xreal → WithBot (WithTop ℚ)
  | .inf true => ⊥
  | .inf false => ((⊤ : WithTop ℚ) : WithBot (WithTop ℚ))
  | x => ((x.toRat : WithTop ℚ) : WithBot (WithTop ℚ))

theorem place_fin {x : Xreal} (h : x.isFin = true) : x.place = ((x.toRat : WithTop ℚ) : WithBot (WithTop ℚ)) := by
  cases x with
  | fin s n d e => rfl
  | _ => cases h

@[simp] theorem place_inf_true : (Xreal.inf true).place = ⊥ := rfl
@[simp] theorem place_inf_false : (Xreal.inf false).place = ⊤ := rfl

theorem bot_lt_place {x : Xreal} (h : x.isFin = true) : ⊥ < x.place := by
  rw [place_fin h]
  exact WithBot.bot_lt_coe _

theorem place_lt_top {x : Xreal} (h : x.isFin = true) : x.place < ⊤ := by
  rw [place_fin h]
  exact WithBot.coe_lt_coe.mpr (WithTop.coe_lt_top _)

theorem place_strictMono : StrictMono (fun q : ℚ => ((q : WithTop ℚ) : WithBot (WithTop ℚ))) :=
  fun _ _ h => WithBot.coe_lt_coe.mpr (WithTop.coe_lt_coe.mpr h)

theorem cmpX_fin {x y : Xreal} (hx : x.isFin = true) (hy : y.isFin = true) (hxp : x.Proper) (hyp : y.Proper) :
    cmpX x y = cmp (x.toRat) (y.toRat) := by
  let a := x.parts
  let b := y.parts
  let e := min a.2.2 b.2.2
  have hcmp : cmpX x y = cmp (a.1 * ((2 ^ (a.2.2 - e).toNat * b.2.1 : Nat) : Int)) (b.1 * ((2 ^ (b.2.2 - e).toNat * a.2.1 : Nat) : Int)) := by
    rw [cmp_eq_compare]
    cases x with
    | fin s n d e =>
      cases y with
      | fin t n' d' e' => rfl
      | _ => cases hy
    | _ => cases hx
  have ha : a.2.1 ≠ 0 := parts_den_ne_zero hxp
  have hb : b.2.1 ≠ 0 := parts_den_ne_zero hyp
  have hpos : (0 : ℚ) < (a.2.1 : ℚ) * b.2.1 * 2 ^ (-e) :=
    mul_pos (mul_pos (Nat.cast_pos.mpr (Nat.pos_of_ne_zero ha)) (Nat.cast_pos.mpr (Nat.pos_of_ne_zero hb))) (two_zpow_pos _)
  rw [hcmp, ← (Int.cast_strictMono (R := ℚ)).cmp_map_eq, scaled_num a b ha (min_le_left _ _), scaled_num b a hb (min_le_right _ _),
    mul_comm (b.2.1 : ℚ), cmp_mul_pos_right hpos, toRat_eq_partsRat, toRat_eq_partsRat]

/-- The model's order is that of the places. -/
theorem cmpX_eq_cmp {x y : Xreal} (hx : x.isNan = false) (hy : y.isNan = false) (hxp : x.Proper) (hyp : y.Proper) :
    cmpX x y = cmp x.place y.place := by
  symm
  cases x with
  | nan => cases hx
  | inf s =>
    cases y with
    | nan => cases hy
    | inf t => cases s <;> cases t <;> simp [cmpX]
    | fin t n d e =>
      cases s
      · exact (cmp_eq_gt_iff _ _).mpr (place_lt_top rfl)
      · exact (cmp_eq_lt_iff _ _).mpr (bot_lt_place rfl)
  | fin s n d e =>
    cases y with
    | nan => cases hy
    | inf t =>
      cases t
      · exact (cmp_eq_lt_iff _ _).mpr (place_lt_top rfl)
      · exact (cmp_eq_gt_iff _ _).mpr (bot_lt_place rfl)
    | fin t n' d' e' =>
      rw [cmpX_fin rfl rfl hxp hyp, place_fin rfl, place_fin rfl]
      exact place_strictMono.cmp_map_eq _ _

theorem ltX_iff {x y : Xreal} (hx : x.isFin = true) (hy : y.isFin = true) (hxp : x.Proper) (hyp : y.Proper) :
    ltX x y = true ↔ x.toRat < y.toRat := by
  rw [ltX, cmpX_fin hx hy hxp hyp, beq_iff_eq, cmp_eq_lt_iff]

end Sys2Proof.Machine
end

section
/-! SUPPORT. Magnitude codes of a binary format, and decoding (R79, R80, R93). -/

namespace Sys2Proof.Machine

/-! ### Magnitude codes -/

section
variable (m : Nat) (b : Int)

/-- The significand of a magnitude code with `m` mantissa bits. -/
def magSig (k : Nat) : Nat := if k / 2 ^ m = 0 then k % 2 ^ m else 2 ^ m + k % 2 ^ m

/-- The exponent of the last place of a magnitude code with `m` mantissa bits and bias `b`. -/
def magExp (k : Nat) : Int := (max (k / 2 ^ m) 1 : Nat) - b - m

/-- The value of a magnitude code, past the largest one too. -/
def magVal (k : Nat) : ℚ := magSig m k * 2 ^ magExp m b k

variable {m}

/-- `k` units in the last place of the binade `j`, the lowest being 0. -/
theorem magVal_place {j k : Nat} (hj : j = 0 ∨ 2 ^ m ≤ k) (hk : k ≤ 2 ^ (m + 1)) : magVal m b (j * 2 ^ m + k) = k * 2 ^ ((j : Int) + 1 - b - m) := by
  have hpos : 0 < 2 ^ m := by positivity
  rw [Nat.pow_succ] at hk
  have hdiv : (j * 2 ^ m + k) / 2 ^ m = j + k / 2 ^ m := by rw [Nat.add_comm, Nat.add_mul_div_right _ _ hpos, Nat.add_comm]
  have hmod : (j * 2 ^ m + k) % 2 ^ m = k % 2 ^ m := by rw [Nat.add_comm, Nat.add_mul_mod_self_right]
  unfold magVal magSig magExp
  rw [hdiv, hmod]
  rcases lt_or_ge k (2 ^ m) with hlt | hge
  · obtain rfl : j = 0 := hj.resolve_right (by omega)
    rw [Nat.div_eq_of_lt hlt, Nat.mod_eq_of_lt hlt, if_pos rfl]
    norm_num
  · rcases Nat.lt_or_ge k (2 ^ m * 2) with hlt2 | hge2
    · have hd : k / 2 ^ m = 1 := Nat.div_eq_of_lt_le (by omega) (by omega)
      have hr : 2 ^ m + k % 2 ^ m = k := by have := Nat.div_add_mod k (2 ^ m); rw [hd] at this; omega
      rw [hd, if_neg (by omega), hr, max_eq_left (by omega)]
      push_cast
      rfl
    · obtain rfl : k = 2 * 2 ^ m := by omega
      rw [Nat.mul_div_cancel _ hpos, Nat.mul_mod_left, if_neg (by omega), max_eq_left (by omega)]
      have hexp : ((j + 2 : Nat) : Int) - b - m = ((j : Int) + 1 - b - m) + 1 := by push_cast; ring
      rw [hexp, zpow_add_one₀ two_ne_zero]
      push_cast
      ring

/-- Every magnitude code counts units of its binade. -/
theorem exists_place (m c : Nat) : ∃ j k, c = j * 2 ^ m + k ∧ (j = 0 ∨ 2 ^ m ≤ k) ∧ k < 2 ^ (m + 1) := by
  have hmod : c % 2 ^ m < 2 ^ m := Nat.mod_lt _ (by positivity)
  have hdecomp : 2 ^ m * (c / 2 ^ m) + c % 2 ^ m = c := Nat.div_add_mod c (2 ^ m)
  rw [Nat.pow_succ]
  cases hd : c / 2 ^ m with
  | zero => exact ⟨0, c, by omega, .inl rfl, by rw [hd] at hdecomp; omega⟩
  | succ j =>
    rw [hd, Nat.mul_add, Nat.mul_comm] at hdecomp
    exact ⟨j, 2 ^ m + c % 2 ^ m, by omega, .inr (by omega), by omega⟩

theorem magVal_strictMono : StrictMono (magVal m b) := by
  refine strictMono_nat_of_lt_succ (fun c => ?_)
  obtain ⟨j, k, rfl, hj, hk⟩ := exists_place m c
  rw [Nat.add_assoc, magVal_place b hj hk.le, magVal_place b (hj.imp_right fun h => by omega) hk]
  exact mul_lt_mul_of_pos_right (by exact_mod_cast Nat.lt_succ_self k) (two_zpow_pos _)

@[simp] theorem magVal_zero : magVal m b 0 = 0 := by
  simp [magVal, magSig]

theorem magVal_pos {c : Nat} (h : c ≠ 0) : 0 < magVal m b c := by
  rw [← magVal_zero (m := m) b]
  exact magVal_strictMono b (Nat.pos_of_ne_zero h)

theorem magSig_lt (k : Nat) : magSig m k < 2 ^ (m + 1) := by
  have hmod : k % 2 ^ m < 2 ^ m := Nat.mod_lt _ (by positivity)
  rw [Nat.pow_succ]
  unfold magSig
  split <;> omega

theorem magSig_ne_zero {k : Nat} (h : k ≠ 0) : magSig m k ≠ 0 := by
  intro h0
  have hpos := magVal_pos (m := m) 0 h
  rw [magVal, h0, Nat.cast_zero, zero_mul] at hpos
  exact absurd hpos (lt_irrefl 0)

theorem magExp_ge (k : Nat) : 1 - b - m ≤ magExp m b k := by
  unfold magExp
  have : 1 ≤ max (k / 2 ^ m) 1 := le_max_right _ _
  omega

/-- Every multiple of the least unit with at most `m + 1` significant bits has a code. -/
theorem exists_magVal_eq {n : Nat} {t : Int} (hn : n < 2 ^ (m + 1)) (ht : 1 - b - m ≤ t) : ∃ c, magVal m b c = n * 2 ^ t := by
  by_cases h0 : n = 0
  · exact ⟨0, by rw [magVal_zero, h0, Nat.cast_zero, zero_mul]⟩
  have hlog : n.log2 ≤ m := Nat.lt_succ_iff.mp ((Nat.log2_lt h0).mpr hn)
  -- the units are made smaller until the significand is full or the least unit is reached
  let i := min (m - n.log2) (t - (1 - b - m)).toNat
  let j := (t - (1 - b - m)).toNat - i
  have hlo : 2 ^ n.log2 ≤ n := Nat.log2_self_le h0
  have hhi : n < 2 ^ (n.log2 + 1) := Nat.lt_log2_self
  have hbit : n * 2 ^ i < 2 ^ (m + 1) :=
    calc n * 2 ^ i < 2 ^ (n.log2 + 1) * 2 ^ i := Nat.mul_lt_mul_of_pos_right hhi (by positivity)
      _ = 2 ^ (n.log2 + 1 + i) := (Nat.pow_add _ _ _).symm
      _ ≤ 2 ^ (m + 1) := Nat.pow_le_pow_right (by omega) (by omega)
  have hfull : j = 0 ∨ 2 ^ m ≤ n * 2 ^ i := by
    rcases Nat.lt_or_ge (m - n.log2) (t - (1 - b - m)).toNat with h | h
    · refine .inr ?_
      calc 2 ^ m = 2 ^ n.log2 * 2 ^ i := by rw [← Nat.pow_add]; congr 1; omega
        _ ≤ n * 2 ^ i := Nat.mul_le_mul_right _ hlo
    · exact .inl (by omega)
  refine ⟨j * 2 ^ m + n * 2 ^ i, ?_⟩
  rw [magVal_place b hfull hbit.le]
  have hexp : t = (i : Int) + ((j : Int) + 1 - b - m) := by omega
  rw [hexp, zpow_add₀ two_ne_zero, zpow_natCast]
  push_cast
  ring

end

/-! ### Decoding (R79, R80) -/

/-- The sign bit and the magnitude code of an element. -/
def Fmt.signOf (f : Fmt) (c : Nat) : Bool := decide (2 ^ (f.width - 1) ≤ c % 2 ^ f.width)
def Fmt.magOf (f : Fmt) (c : Nat) : Nat := c % 2 ^ f.width % 2 ^ (f.width - 1)

/-- The value of a magnitude code of a format. -/
abbrev Fmt.val (f : Fmt) : Nat → ℚ := magVal f.m f.bias

/-- The finite value with a sign and a magnitude code. -/
def Fmt.mkFin (f : Fmt) (neg : Bool) (k : Nat) : Xreal := .fin neg (magSig f.m k) 1 (magExp f.m f.bias k)

theorem decodeElem_float {f : Fmt} (hf : f.isFloat = true) (sp : Xreal) (c : Nat) : decodeElem f sp c =
    if f = .e2m1 ∧ c % 2 ^ f.width = 8 then sp
    else if f.hasInf ∧ f.magOf c / 2 ^ f.m = 2 ^ f.w - 1 then (if f.magOf c % 2 ^ f.m = 0 then .inf (f.signOf c) else .nan)
    else if f = .e4m3 ∧ f.magOf c = 0x7F then .nan
    else if f = .e3m4 ∧ f.magOf c / 2 ^ f.m = 7 then .fin (f.signOf c) 31 1 (-1)
    else f.mkFin (f.signOf c) (f.magOf c) := by
  have hfin : f.mkFin (f.signOf c) (f.magOf c) =
      if f.magOf c / 2 ^ f.m = 0 then .fin (f.signOf c) (f.magOf c % 2 ^ f.m) 1 (1 - f.bias - f.m)
      else .fin (f.signOf c) (2 ^ f.m + f.magOf c % 2 ^ f.m) 1 (((f.magOf c / 2 ^ f.m : Nat) : Int) - f.bias - f.m) := by
    unfold Fmt.mkFin magSig magExp
    split
    · next h => rw [h]; rfl
    · next h => rw [max_eq_left (Nat.one_le_iff_ne_zero.mpr h)]
  rw [hfin]
  cases f with
  | s8 | n8 | s4 => cases hf
  | _ => rfl

theorem decodeElem_mod {f : Fmt} (hf : f.isFloat = true) (sp : Xreal) (c : Nat) : decodeElem f sp (c % 2 ^ f.width) = decodeElem f sp c := by
  rw [decodeElem_float hf, decodeElem_float hf, Nat.mod_mod, show f.signOf (c % 2 ^ f.width) = f.signOf c by simp [Fmt.signOf],
    show f.magOf (c % 2 ^ f.width) = f.magOf c by simp [Fmt.magOf]]

@[simp] theorem isFin_mkFin (f : Fmt) (s : Bool) (k : Nat) : (f.mkFin s k).isFin = true := rfl
@[simp] theorem isNeg_mkFin (f : Fmt) (s : Bool) (k : Nat) : (f.mkFin s k).isNeg = s := rfl
@[simp] theorem isNan_mkFin (f : Fmt) (s : Bool) (k : Nat) : (f.mkFin s k).isNan = false := rfl
theorem proper_mkFin (f : Fmt) (s : Bool) (k : Nat) : (f.mkFin s k).Proper := Nat.one_ne_zero

theorem toRat_mkFin (f : Fmt) (s : Bool) (k : Nat) : (f.mkFin s k).toRat = (if s then -1 else 1) * f.val k := by
  rw [Fmt.mkFin, toRat_fin, Nat.cast_one, div_one, Fmt.val, magVal]

/-- What an element of a floating-point format is. -/
theorem decodeElem_cases {f : Fmt} (hf : f.isFloat = true) (sp : Xreal) (c : Nat) :
    decodeElem f sp c = .nan ∨ (f.hasInf = true ∧ ∃ s, decodeElem f sp c = .inf s) ∨ (∃ s, ∃ k ≤ f.maxCode, decodeElem f sp c = f.mkFin s k) ∨
      (f = .e2m1 ∧ decodeElem f sp c = sp) := by
  have hmag : f.magOf c < 2 ^ (f.width - 1) := Nat.mod_lt _ (by positivity)
  rw [decodeElem_float hf]
  split
  · next h => exact .inr (.inr (.inr ⟨h.1, rfl⟩))
  split
  · next h => split <;> [exact .inr (.inl ⟨h.1, _, rfl⟩); exact .inl rfl]
  split
  · exact .inl rfl
  split
  · next h =>
    obtain ⟨rfl, -⟩ := h
    exact .inr (.inr (.inl ⟨_, 0x6F, le_refl _, rfl⟩))
  · next hinf hnan htop =>
    refine .inr (.inr (.inl ⟨_, f.magOf c, ?_, rfl⟩))
    cases f with
    | s8 | n8 | s4 => cases hf
    | _ =>
      simp [Fmt.hasInf, Fmt.m, Fmt.w] at hinf hnan htop
      simp only [Fmt.width, Fmt.maxCode] at hmag ⊢
      omega

theorem proper_decodeElem (f : Fmt) {sp : Xreal} (hsp : sp.Proper) (c : Nat) : (decodeElem f sp c).Proper := by
  by_cases hf : f.isFloat = true
  · rcases decodeElem_cases hf sp c with h | ⟨-, s, h⟩ | ⟨s, k, -, h⟩ | ⟨-, h⟩ <;> rw [h]
    · trivial
    · trivial
    · exact proper_mkFin f s k
    · exact hsp
  · cases f with
    | s8 | n8 | s4 => exact Nat.one_ne_zero
    | _ => exact absurd rfl hf

theorem proper_decodeFp32 (a : Word) : (decodeFp32 a).Proper := proper_decodeElem .fp32 (sp := .nan) trivial _

/-- A sign and a magnitude code put together. -/
def Fmt.signed (f : Fmt) (neg : Bool) (k : Nat) : Nat := k + if neg then 2 ^ (f.width - 1) else 0

theorem maxCode_lt (f : Fmt) : f.maxCode < 2 ^ (f.width - 1) := by cases f <;> decide

theorem signed_lt {f : Fmt} {k : Nat} (hk : k < 2 ^ (f.width - 1)) (neg : Bool) : f.signed neg k < 2 ^ f.width := by
  have hw : 2 ^ f.width = 2 ^ (f.width - 1) * 2 := by cases f <;> rfl
  unfold Fmt.signed
  split <;> omega

theorem magOf_signed {f : Fmt} {k : Nat} (hk : k < 2 ^ (f.width - 1)) (neg : Bool) : f.magOf (f.signed neg k) = k := by
  rw [Fmt.magOf, Nat.mod_eq_of_lt (signed_lt hk neg), Fmt.signed]
  split
  · rw [Nat.add_mod_right, Nat.mod_eq_of_lt hk]
  · exact Nat.mod_eq_of_lt hk

theorem signOf_signed {f : Fmt} {k : Nat} (hk : k < 2 ^ (f.width - 1)) (neg : Bool) : f.signOf (f.signed neg k) = neg := by
  rw [Fmt.signOf, Nat.mod_eq_of_lt (signed_lt hk neg), Fmt.signed]
  cases neg
  · exact decide_eq_false (Nat.not_le.mpr hk)
  · exact decide_eq_true (Nat.le_add_left _ _)

/-- A finite code decodes to its sign and its magnitude; E2M1 has no negative zero. -/
theorem decodeElem_signed {f : Fmt} (hf : f.isFloat = true) (sp : Xreal) {neg : Bool} {k : Nat} (hk : k ≤ f.maxCode)
    (hz : f = .e2m1 → neg = true → k ≠ 0) : decodeElem f sp (f.signed neg k) = f.mkFin neg k := by
  have hlt : k < 2 ^ (f.width - 1) := hk.trans_lt (maxCode_lt f)
  rw [decodeElem_float hf, magOf_signed hlt, signOf_signed hlt, Nat.mod_eq_of_lt (signed_lt hlt neg), if_neg, if_neg, if_neg, if_neg]
  · rintro ⟨rfl, h⟩
    simp only [Fmt.m, Fmt.maxCode] at h hk
    omega
  · rintro ⟨rfl, h⟩
    simp only [Fmt.maxCode] at hk
    omega
  · rintro ⟨hinf, h⟩
    cases f <;> simp only [Fmt.m, Fmt.w, Fmt.maxCode, Fmt.hasInf, Bool.false_eq_true] at h hk hinf <;> omega
  · rintro ⟨rfl, h⟩
    simp only [Fmt.signed, Fmt.maxCode, Fmt.width] at h hk
    cases neg
    · simp at h; omega
    · exact hz rfl rfl (by simpa using h)

/-! ### FP32 -/

theorem getLsbD_31 (a : Word) : a.getLsbD 31 = decide (2 ^ 31 ≤ a.toNat) := by
  have h := a.isLt
  rw [BitVec.getLsbD, Nat.testBit_eq_decide_div_mod_eq]
  congr 1
  apply propext
  omega

theorem signOf_fp32 (a : Word) : Fmt.fp32.signOf a.toNat = a.getLsbD 31 := by
  rw [getLsbD_31, Fmt.signOf, show a.toNat % 2 ^ Fmt.fp32.width = a.toNat from Nat.mod_eq_of_lt a.isLt]
  rfl

theorem toNat_eq_signed (a : Word) : a.toNat = Fmt.fp32.signed (a.getLsbD 31) (a.toNat % 2 ^ 31) := by
  have h := a.isLt
  rw [getLsbD_31, Fmt.signed]
  simp only [decide_eq_true_eq, Fmt.width]
  split <;> omega

theorem decodeFp32_eq (a : Word) : decodeFp32 a =
    if a.toNat % 2 ^ 31 = 0x7F800000 then .inf (a.getLsbD 31)
    else if 0x7F800000 < a.toNat % 2 ^ 31 then .nan
    else Fmt.fp32.mkFin (a.getLsbD 31) (a.toNat % 2 ^ 31) := by
  have hmag : Fmt.fp32.magOf a.toNat = a.toNat % 2 ^ 31 := congrArg (· % 2 ^ 31) (Nat.mod_eq_of_lt a.isLt)
  have hlt : a.toNat % 2 ^ 31 < 2 ^ 31 := Nat.mod_lt _ (by decide)
  rw [decodeFp32, decodeElem_float rfl, if_neg (by simp), signOf_fp32, hmag]
  generalize a.toNat % 2 ^ 31 = k at hlt
  have htop : (Fmt.fp32.hasInf = true ∧ k / 2 ^ Fmt.fp32.m = 2 ^ Fmt.fp32.w - 1) ↔ 0x7F800000 ≤ k := by
    simp only [Fmt.hasInf, Fmt.m, Fmt.w, true_and]
    omega
  rcases Nat.lt_trichotomy k 0x7F800000 with h | rfl | h
  · rw [if_neg (fun h' => by have := htop.mp h'; omega), if_neg (by simp), if_neg (by simp), if_neg h.ne, if_neg h.not_gt]
  · rfl
  · rw [if_pos (htop.mpr h.le), if_neg (by simp only [Fmt.m]; omega), if_neg h.ne', if_pos h]

end Sys2Proof.Machine
end

section
/-! SUPPORT. Rounding (R88 to R92): the code that `roundTo` gives lies beside the exact value, on the side of the mode; a value that has a code
keeps it. -/

namespace Sys2Proof.Machine

/-! ### Binary logarithm and scaling -/

theorem ratLog2_bounds {n d : Nat} (hn : n ≠ 0) (hd : d ≠ 0) : (2 : ℚ) ^ ratLog2 n d ≤ n / d ∧ (n : ℚ) / d < 2 ^ (ratLog2 n d + 1) := by
  have hdpos : (0 : ℚ) < d := Nat.cast_pos.mpr (Nat.pos_of_ne_zero hd)
  have hlog {k : Nat} (hk : k ≠ 0) : (2 : ℚ) ^ (k.log2 : Int) ≤ k ∧ (k : ℚ) < 2 ^ ((k.log2 : Int) + 1) :=
    ⟨by exact_mod_cast Nat.log2_self_le hk, by exact_mod_cast Nat.lt_log2_self (n := k)⟩
  obtain ⟨hnlo, hnhi⟩ := hlog hn
  obtain ⟨hdlo, hdhi⟩ := hlog hd
  let l : Int := (n.log2 : Int) - d.log2
  have hhi : (n : ℚ) / d < 2 ^ (l + 1) := by
    rw [div_lt_iff₀ hdpos]
    calc (n : ℚ) < 2 ^ ((n.log2 : Int) + 1) := hnhi
      _ = 2 ^ (l + 1) * 2 ^ (d.log2 : Int) := by rw [← zpow_add₀ two_ne_zero]; congr 1; omega
      _ ≤ 2 ^ (l + 1) * d := mul_le_mul_of_nonneg_left hdlo (two_zpow_pos _).le
  have hlo : (2 : ℚ) ^ (l - 1) ≤ n / d := by
    rw [le_div_iff₀ hdpos]
    calc (2 : ℚ) ^ (l - 1) * d ≤ 2 ^ (l - 1) * 2 ^ ((d.log2 : Int) + 1) := mul_le_mul_of_nonneg_left hdhi.le (two_zpow_pos _).le
      _ = 2 ^ (n.log2 : Int) := by rw [← zpow_add₀ two_ne_zero]; congr 1; omega
      _ ≤ n := hnlo
  have hge : (if 0 ≤ l then decide (d * 2 ^ l.toNat ≤ n) else decide (d ≤ n * 2 ^ (-l).toNat)) = decide ((2 : ℚ) ^ l ≤ n / d) := by
    split
    · next h =>
      congr 1
      rw [le_div_iff₀ hdpos, ← two_zpow_toNat h, ← Nat.cast_mul, Nat.cast_le, Nat.mul_comm]
    · next h =>
      congr 1
      rw [le_div_iff₀ hdpos, ← neg_neg l, zpow_neg, inv_mul_le_iff₀ (two_zpow_pos _), neg_neg, ← two_zpow_toNat (by omega : 0 ≤ -l),
        ← Nat.cast_mul, Nat.cast_le, Nat.mul_comm]
  have hdef : ratLog2 n d = if (if 0 ≤ l then decide (d * 2 ^ l.toNat ≤ n) else decide (d ≤ n * 2 ^ (-l).toNat)) then l else l - 1 := rfl
  rw [hdef, hge]
  by_cases h : (2 : ℚ) ^ l ≤ n / d
  · rw [if_pos (decide_eq_true h)]
    exact ⟨h, hhi⟩
  · rw [if_neg (by simpa using h), Int.sub_add_cancel]
    exact ⟨hlo, not_le.mp h⟩

theorem scaleRat_den {d : Nat} (hd : d ≠ 0) (n : Nat) (s : Int) : (scaleRat n d s).2 ≠ 0 := by
  unfold scaleRat
  split
  · exact hd
  · exact Nat.mul_ne_zero hd (by positivity)

theorem scaleRat_quot (n d : Nat) (s : Int) : ((scaleRat n d s).1 : ℚ) / (scaleRat n d s).2 = n / d * 2 ^ s := by
  unfold scaleRat
  split
  · next h =>
    rw [Nat.cast_mul, two_zpow_toNat h]
    ring
  · next h =>
    rw [Nat.cast_mul, two_zpow_toNat (by omega), zpow_neg, div_mul_eq_div_div_swap, div_inv_eq_mul]
    ring

/-! ### One rounding (R88) -/

/-- The choice between the code `c` below a value `x` and the next one, whose values are `lo` and `hi`. -/
def roundAt (c : Nat) (lo x hi : ℚ) (neg : Bool) (rm : Rm) : Nat :=
  if x = lo then c
  else match rm with
    | .rz => c
    | .rd => if neg then c + 1 else c
    | .ru => if neg then c else c + 1
    | .rn => if 2 * x < lo + hi then c else if lo + hi < 2 * x then c + 1 else c + c % 2

section
variable (c : Nat) (lo x hi : ℚ) (neg : Bool) (rm : Rm)

theorem roundAt_exact : roundAt c x x hi neg rm = c := if_pos rfl

theorem roundAt_eq_or : roundAt c lo x hi neg rm = c ∨ roundAt c lo x hi neg rm = c + 1 := by
  unfold roundAt
  split
  · exact .inl rfl
  · cases rm with
    | rz => exact .inl rfl
    | rd => cases neg <;> [exact .inl rfl; exact .inr rfl]
    | ru => cases neg <;> [exact .inr rfl; exact .inl rfl]
    | rn =>
      dsimp only
      split_ifs
      · exact .inl rfl
      · exact .inr rfl
      · omega

theorem roundAt_mul {u : ℚ} (hu : 0 < u) : roundAt c (lo * u) (x * u) (hi * u) neg rm = roundAt c lo x hi neg rm := by
  unfold roundAt
  simp only [mul_left_inj' hu.ne', ← add_mul, ← mul_assoc, mul_lt_mul_iff_left₀ hu]

theorem roundAt_add_even {a : Nat} (ha : a % 2 = 0) : roundAt (a + c) lo x hi neg rm = a + roundAt c lo x hi neg rm := by
  have hpar : (a + c) % 2 = c % 2 := by omega
  unfold roundAt
  rw [hpar]
  split
  · rfl
  · cases rm <;> dsimp only <;> split_ifs <;> omega

end

theorem floor_bounds (n : Nat) {d : Nat} (hd : d ≠ 0) : ((n / d : Nat) : ℚ) ≤ n / d ∧ (n : ℚ) / d < (n / d : Nat) + 1 := by
  have hdpos : (0 : ℚ) < d := Nat.cast_pos.mpr (Nat.pos_of_ne_zero hd)
  refine ⟨Nat.cast_div_le, ?_⟩
  rw [div_lt_iff₀ hdpos]
  rw [mul_comm]
  exact_mod_cast Nat.lt_mul_div_succ n (Nat.pos_of_ne_zero hd)

theorem roundQuot_eq (n : Nat) {d : Nat} (hd : d ≠ 0) (neg : Bool) (rm : Rm) :
    roundQuot n d neg rm = roundAt (n / d) ((n / d : Nat) : ℚ) (n / d) ((n / d : Nat) + 1) neg rm := by
  have hdpos : (0 : ℚ) < d := Nat.cast_pos.mpr (Nat.pos_of_ne_zero hd)
  have hx : (n : ℚ) / d = (n / d : Nat) + ((n % d : Nat) : ℚ) / d := by
    rw [← mul_right_inj' hdpos.ne', mul_add, mul_div_cancel₀ _ hdpos.ne', mul_div_cancel₀ _ hdpos.ne']
    exact_mod_cast (Nat.div_add_mod n d).symm
  have hexact : (n : ℚ) / d = (n / d : Nat) ↔ n % d = 0 := by
    rw [hx, add_eq_left, div_eq_zero_iff, or_iff_left hdpos.ne', Nat.cast_eq_zero]
  have hbelow : 2 * ((n : ℚ) / d) < (n / d : Nat) + ((n / d : Nat) + 1) ↔ 2 * (n % d) < d := by
    rw [hx, show ∀ k r : ℚ, 2 * (k + r) < k + (k + 1) ↔ 2 * r < 1 from fun k r => by constructor <;> intro h <;> linarith, ← mul_div_assoc,
      div_lt_one hdpos]
    exact_mod_cast Iff.rfl
  have habove : ((n / d : Nat) : ℚ) + ((n / d : Nat) + 1) < 2 * ((n : ℚ) / d) ↔ d < 2 * (n % d) := by
    rw [hx, show ∀ k r : ℚ, k + (k + 1) < 2 * (k + r) ↔ 1 < 2 * r from fun k r => by constructor <;> intro h <;> linarith, ← mul_div_assoc,
      one_lt_div hdpos]
    exact_mod_cast Iff.rfl
  cases rm <;> simp only [roundQuot, roundAt, hexact, hbelow, habove]

/-! ### The magnitude code of a rounded value (R89) -/

/-- The magnitude code of `n / d * 2 ^ e` rounded, before its overflow is looked at. -/
def Fmt.magCode (f : Fmt) (neg : Bool) (n d : Nat) (e : Int) (rm : Rm) : Nat :=
  let emin : Int := 1 - f.bias
  let ex : Int := max (ratLog2 n d + e) emin
  let q := scaleRat n d (e - ex + f.m)
  (ex - emin).toNat * 2 ^ f.m + roundQuot q.1 q.2 neg rm

theorem roundTo_fin (f : Fmt) (neg : Bool) {n : Nat} (hn : n ≠ 0) (d : Nat) (e : Int) (rm : Rm) (sat : Bool) :
    roundTo f (.fin neg n d e) rm sat =
      let c := f.magCode neg n d e rm
      if f.maxCode < c then overflowCode f neg rm sat false else if c = 0 then zeroCode f neg else f.signed neg c :=
  if_neg hn

/-- A value lies between the values of a magnitude code and the next one; its rounded code is one of them. -/
theorem magCode_eq {f : Fmt} (hf : f.isFloat = true) (neg : Bool) {n d : Nat} (hn : n ≠ 0) (hd : d ≠ 0) (e : Int) (rm : Rm) :
    ∃ c, f.val c ≤ n / d * 2 ^ e ∧ (n : ℚ) / d * 2 ^ e < f.val (c + 1) ∧
      f.magCode neg n d e rm = roundAt c (f.val c) (n / d * 2 ^ e) (f.val (c + 1)) neg rm := by
  obtain ⟨hlo, hhi⟩ := ratLog2_bounds hn hd
  let emin : Int := 1 - f.bias
  let ex : Int := max (ratLog2 n d + e) emin
  let q := scaleRat n d (e - ex + f.m)
  let j := (ex - emin).toNat
  let k := q.1 / q.2
  have hq : (q.1 : ℚ) / q.2 = n / d * 2 ^ (e - ex + f.m) := scaleRat_quot n d _
  obtain ⟨hklo, hkhi⟩ := floor_bounds q.1 (scaleRat_den hd n (e - ex + f.m))
  have hx : (n : ℚ) / d * 2 ^ e = (q.1 : ℚ) / q.2 * 2 ^ ((j : Int) + 1 - f.bias - f.m) := by
    rw [hq, mul_assoc, ← zpow_add₀ two_ne_zero]
    congr 2
    omega
  have hk : k < 2 ^ (f.m + 1) := by
    have h : (k : ℚ) < 2 ^ ((f.m + 1 : Nat) : Int) :=
      calc (k : ℚ) ≤ (q.1 : ℚ) / q.2 := hklo
        _ = n / d * 2 ^ (e - ex + f.m) := hq
        _ < 2 ^ (ratLog2 n d + 1) * 2 ^ (e - ex + f.m) := mul_lt_mul_of_pos_right hhi (two_zpow_pos _)
        _ = 2 ^ (ratLog2 n d + 1 + (e - ex + f.m)) := (zpow_add₀ two_ne_zero _ _).symm
        _ ≤ 2 ^ ((f.m + 1 : Nat) : Int) := zpow_le_zpow_right₀ one_le_two (by push_cast; omega)
    exact_mod_cast h
  have hj : j = 0 ∨ 2 ^ f.m ≤ k := by
    refine or_iff_not_imp_left.mpr (fun hj => ?_)
    have h : (2 : ℚ) ^ ((f.m : Nat) : Int) < k + 1 :=
      calc (2 : ℚ) ^ ((f.m : Nat) : Int) = 2 ^ (ratLog2 n d) * 2 ^ (e - ex + f.m) := by rw [← zpow_add₀ two_ne_zero]; congr 1; omega
        _ ≤ n / d * 2 ^ (e - ex + f.m) := mul_le_mul_of_nonneg_right hlo (two_zpow_pos _).le
        _ = (q.1 : ℚ) / q.2 := hq.symm
        _ < k + 1 := hkhi
    exact Nat.lt_succ_iff.mp (by exact_mod_cast h)
  have hvlo : f.val (j * 2 ^ f.m + k) = k * 2 ^ ((j : Int) + 1 - f.bias - f.m) := magVal_place f.bias hj hk.le
  have hvhi : f.val (j * 2 ^ f.m + k + 1) = ((k : ℚ) + 1) * 2 ^ ((j : Int) + 1 - f.bias - f.m) := by
    rw [Nat.add_assoc, Fmt.val, magVal_place f.bias (hj.imp_right fun h => by omega) hk]
    push_cast
    rfl
  have heven : j * 2 ^ f.m % 2 = 0 := by
    have hm : 2 ^ f.m % 2 = 0 := by
      cases f with
      | s8 | n8 | s4 => cases hf
      | _ => rfl
    rw [Nat.mul_mod, hm, Nat.mul_zero, Nat.zero_mod]
  refine ⟨j * 2 ^ f.m + k, ?_, ?_, ?_⟩
  · rw [hvlo, hx]
    exact mul_le_mul_of_nonneg_right hklo (two_zpow_pos _).le
  · rw [hvhi, hx]
    exact mul_lt_mul_of_pos_right hkhi (two_zpow_pos _)
  · rw [hvlo, hvhi, hx, roundAt_mul _ _ _ _ _ _ (two_zpow_pos _), roundAt_add_even _ _ _ _ _ _ heven]
    exact congrArg _ (roundQuot_eq q.1 (scaleRat_den hd n _) neg rm)

/-- The code below a value is the only one. -/
theorem val_place_unique {f : Fmt} {c c' : Nat} {x : ℚ} (hlo : f.val c ≤ x) (hhi : x < f.val (c + 1)) (hlo' : f.val c' ≤ x)
    (hhi' : x < f.val (c' + 1)) : c = c' := by
  have h1 := (magVal_strictMono (m := f.m) f.bias).lt_iff_lt.mp (hlo.trans_lt hhi')
  have h2 := (magVal_strictMono (m := f.m) f.bias).lt_iff_lt.mp (hlo'.trans_lt hhi)
  omega

theorem magCode_exact {f : Fmt} (hf : f.isFloat = true) (neg : Bool) {n d : Nat} (hn : n ≠ 0) (hd : d ≠ 0) {e : Int} (rm : Rm) {c : Nat}
    (hc : n / d * 2 ^ e = f.val c) : f.magCode neg n d e rm = c := by
  obtain ⟨c', hlo, hhi, heq⟩ := magCode_eq hf neg hn hd e rm
  obtain rfl : c' = c := val_place_unique hlo hhi hc.ge (hc ▸ magVal_strictMono f.bias (Nat.lt_succ_self c))
  rw [heq, hc, roundAt_exact]

theorem zeroCode_eq_signed (f : Fmt) (s : Bool) : zeroCode f s = f.signed (s && f != .e2m1) 0 := (Nat.zero_add _).symm

/-- A finite value that has a code is given that code, with its sign; E2M1 has no negative zero. -/
theorem roundTo_exact {f : Fmt} (hf : f.isFloat = true) (s : Bool) {n d : Nat} (hd : d ≠ 0) {e : Int} (rm : Rm) (sat : Bool) {c : Nat}
    (hc : n / d * 2 ^ e = f.val c) (hmax : c ≤ f.maxCode) : roundTo f (.fin s n d e) rm sat = f.signed (s && (f != .e2m1 || c != 0)) c := by
  by_cases hn : n = 0
  · obtain rfl : c = 0 := by
      by_contra h
      rw [hn, Nat.cast_zero, zero_div, zero_mul] at hc
      exact absurd hc (magVal_pos f.bias h).ne
    rw [show (0 != 0) = false from rfl, Bool.or_false, ← zeroCode_eq_signed]
    exact if_pos hn
  · rw [roundTo_fin f s hn, magCode_exact hf s hn hd rm hc]
    dsimp only
    rw [if_neg (Nat.not_lt.mpr hmax)]
    split
    · next h => rw [h, show (0 != 0) = false from rfl, Bool.or_false, zeroCode_eq_signed]
    · next h => rw [show (c != 0) = true from bne_iff_ne.mpr h, Bool.or_true, Bool.and_true]

theorem decodeElem_roundTo_exact {f : Fmt} (hf : f.isFloat = true) (hne : f ≠ .e2m1) (sp : Xreal) (s : Bool) {n d : Nat} (hd : d ≠ 0) {e : Int}
    (rm : Rm) (sat : Bool) {c : Nat} (hc : n / d * 2 ^ e = f.val c) (hmax : c ≤ f.maxCode) :
    decodeElem f sp (roundTo f (.fin s n d e) rm sat) = f.mkFin s c := by
  rw [roundTo_exact hf s hd rm sat hc hmax, show (f != .e2m1) = true from bne_iff_ne.mpr hne, Bool.true_or, Bool.and_true]
  exact decodeElem_signed hf sp hmax (fun h => absurd h hne)

/-! ### Codes have the width of their format -/

theorem overflowCode_lt {f : Fmt} (hf : f.isFloat = true) (neg : Bool) (rm : Rm) (sat always : Bool) :
    overflowCode f neg rm sat always < 2 ^ f.width := by
  unfold overflowCode
  extract_lets s away
  have hs : s ≤ 2 ^ (f.width - 1) := by
    unfold s
    split
    · exact le_rfl
    · exact Nat.zero_le _
  cases f with
  | s8 | n8 | s4 => cases hf
  | _ =>
    simp only [Fmt.width] at hs
    split
    · simp only [Fmt.width, Fmt.maxCode]
      omega
    · simp only [Fmt.width, Fmt.hasInf, Fmt.nan, Fmt.maxCode, Fmt.w, Fmt.m, if_true, Bool.false_eq_true, if_false]
      omega

theorem roundTo_lt {f : Fmt} (hf : f.isFloat = true) (x : Xreal) (rm : Rm) (sat : Bool) : roundTo f x rm sat < 2 ^ f.width := by
  cases x with
  | nan =>
    change (match f.nan with | some c => c | none => 0) < 2 ^ f.width
    cases f <;> decide
  | inf s => exact overflowCode_lt hf s rm sat true
  | fin s n d e =>
    by_cases hn : n = 0
    · rw [roundTo, if_pos hn, zeroCode_eq_signed]
      exact signed_lt (by positivity) _
    · rw [roundTo_fin f s hn]
      dsimp only
      split
      · exact overflowCode_lt hf s rm sat false
      · next h =>
        have hc : f.magCode s n d e rm < 2 ^ (f.width - 1) := (Nat.not_lt.mp h).trans_lt (maxCode_lt f)
        split
        · rw [zeroCode_eq_signed]
          exact signed_lt (by positivity) _
        · exact signed_lt hc s

end Sys2Proof.Machine
end

section
/-! Comparisons, minimum and maximum of FP32 values, and conversion to integers (R132, R133, R139). -/

namespace Sys2Proof.Machine

/-! ### The order of FP32 codes -/

/-- Only E2M1 takes a value from its header. -/
theorem decodeElem_special {f : Fmt} (hf : f.isFloat = true) (hne : f ≠ .e2m1) (sp sp' : Xreal) (c : Nat) : decodeElem f sp c = decodeElem f sp' c := by
  have hno : ¬ (f = .e2m1 ∧ c % 2 ^ f.width = 8) := fun h => hne h.1
  rw [decodeElem_float hf, decodeElem_float hf, if_neg hno, if_neg hno]

theorem decodeElem_fp32 (sp : Xreal) (a : Word) : decodeElem .fp32 sp a.toNat = decodeFp32 a := decodeElem_special rfl (by decide) _ _ _

/-- The place of an FP32 code on the line. -/
abbrev place32 (a : Word) : WithBot (WithTop ℚ) := (decodeFp32 a).place

/-- Neither code is a NaN. -/
abbrev Nums (a b : Word) : Prop := (decodeFp32 a).isNan = false ∧ (decodeFp32 b).isNan = false

theorem cmpX_decodeFp32 {a b : Word} (h : Nums a b) : cmpX (decodeFp32 a) (decodeFp32 b) = cmp (place32 a) (place32 b) :=
  cmpX_eq_cmp h.1 h.2 (proper_decodeFp32 a) (proper_decodeFp32 b)

theorem cmpFlt_le_iff {a b : Word} (h : Nums a b) : cmpFlt .le a b = true ↔ place32 a ≤ place32 b := by
  have hgt := cmp_eq_gt_iff (place32 a) (place32 b)
  simp [cmpFlt, h.1, h.2, cmpX_decodeFp32 h, hgt]

theorem cmpFlt_ge_iff {a b : Word} (h : Nums a b) : cmpFlt .ge a b = true ↔ place32 b ≤ place32 a := by
  have hlt := cmp_eq_lt_iff (place32 a) (place32 b)
  simp [cmpFlt, h.1, h.2, cmpX_decodeFp32 h, hlt]

/-- Settles the comparisons of O12: all but the exchange of operands is propositional in the NaNs and the order. -/
theorem floatComparisons : Claims.FloatComparisons := by
  intro a b un
  have hswap (h : un = false) : cmpX (decodeFp32 b) (decodeFp32 a) = (cmpX (decodeFp32 a) (decodeFp32 b)).swap := by
    obtain ⟨ha, hb⟩ := Bool.or_eq_false_iff.mp h
    rw [cmpX_decodeFp32 ⟨ha, hb⟩, cmpX_decodeFp32 ⟨hb, ha⟩, cmp_swap]
  have hun : ((decodeFp32 b).isNan || (decodeFp32 a).isNan) = un := Bool.or_comm _ _
  have hun' : ((decodeFp32 a).isNan || (decodeFp32 b).isNan) = un := rfl
  simp only [cmpFlt, hun, hun']
  clear_value un
  cases un
  · rw [hswap rfl]
    cases cmpX (decodeFp32 a) (decodeFp32 b) <;> decide
  · generalize cmpX (decodeFp32 a) (decodeFp32 b) = o
    generalize cmpX (decodeFp32 b) (decodeFp32 a) = o'
    revert o o'
    decide

theorem floatToInteger : Claims.FloatToInteger := by
  intro o a hts htd
  have hint : o.ts.isInt = false := by
    revert hts
    cases o.ts <;> decide
  have hcvt : laneCvt o a = fit o.td (toIntClamped (decodeElem (fltFmt o.ts) (xzero false) a.toNat) o.rm (tyMin o.td) (tyMax o.td)) false := by
    simp only [laneCvt, hint, htd, Bool.false_eq_true, if_false, if_true]
  rw [hcvt, opnd_fit]
  obtain ⟨hlo, hhi⟩ := valueOf_mem_range o.td (BitVec.ofInt o.td.width
    (clampedTo o.td (toIntClamped (decodeElem (fltFmt o.ts) (xzero false) a.toNat) o.rm (tyMin o.td) (tyMax o.td)) false))
  refine ⟨hlo, hhi, fun hnan => ?_⟩
  cases hx : decodeElem (fltFmt o.ts) (xzero false) a.toNat with
  | nan =>
    change fit o.td 0 false = 0
    cases o.td <;> rfl
  | _ =>
    rw [hx] at hnan
    cases hnan

/-- Settles O12. -/
theorem floatComparisonsAndIntegers : Obligations.FloatComparisonsAndIntegers := by
  unfold Obligations.FloatComparisonsAndIntegers
  exact ⟨floatComparisons, floatToInteger⟩

/-! ### Minimum and maximum (R132) -/

section
variable (mx nan : Bool) (a b : Word)

/-- Minimum or maximum of two FP32 codes. -/
abbrev minMax32 : Word := BitVec.ofNat 32 (minMaxCode .fp32 mx nan a.toNat b.toNat)

variable {a b}

theorem minMax32_of_nan_mode (h : ((decodeFp32 a).isNan || (decodeFp32 b).isNan) = true) : minMax32 mx true a b = nan32 := by
  unfold minMax32 minMaxCode
  simp only [decodeElem_fp32, h, Bool.and_self, if_true, ite_self]
  rfl

theorem minMax32_of_nans (ha : (decodeFp32 a).isNan = true) (hb : (decodeFp32 b).isNan = true) : minMax32 mx nan a b = nan32 := by
  unfold minMax32 minMaxCode
  simp only [decodeElem_fp32, ha, hb, Bool.and_self, if_true]
  rfl

theorem minMax32_of_nan_left (ha : (decodeFp32 a).isNan = true) (hb : (decodeFp32 b).isNan = false) : minMax32 mx false a b = b := by
  unfold minMax32 minMaxCode
  simp only [decodeElem_fp32, ha, hb, Bool.and_false, Bool.false_and, Bool.false_eq_true, if_false, if_true, BitVec.ofNat_toNat, BitVec.setWidth_eq]

theorem minMax32_of_nan_right (ha : (decodeFp32 a).isNan = false) (hb : (decodeFp32 b).isNan = true) : minMax32 mx false a b = a := by
  unfold minMax32 minMaxCode
  simp only [decodeElem_fp32, ha, hb, Bool.false_and, Bool.false_eq_true, if_false, if_true, BitVec.ofNat_toNat, BitVec.setWidth_eq]

/-- The result comes first under `mx`: the greater of two numbers, or the lesser. -/
def Leads (a b : Word) : Prop := if mx then place32 b ≤ place32 a else place32 a ≤ place32 b

theorem leads_refl (a : Word) : Leads mx a a := by cases mx <;> exact le_rfl

theorem leads_trans {a b c : Word} (h1 : Leads mx a b) (h2 : Leads mx b c) : Leads mx a c := by
  cases mx
  · exact le_trans (α := WithBot (WithTop ℚ)) h1 h2
  · exact le_trans (α := WithBot (WithTop ℚ)) h2 h1

theorem minMax32_of_nums (h : Nums a b) : (minMax32 mx nan a b = a ∨ minMax32 mx nan a b = b) ∧
    Leads mx (minMax32 mx nan a b) a ∧ Leads mx (minMax32 mx nan a b) b := by
  have hr : ∃ t : Bool, minMax32 mx nan a b = (if t then a else b) ∧ (t = true → Leads mx a b) ∧ (t = false → Leads mx b a) := by
    have hlt := cmp_eq_lt_iff (place32 a) (place32 b)
    have heq := cmp_eq_eq_iff (place32 a) (place32 b)
    have hgt := cmp_eq_gt_iff (place32 a) (place32 b)
    unfold minMax32 minMaxCode
    simp only [decodeElem_fp32, h.1, h.2, Bool.and_self, Bool.or_self, Bool.and_false, Bool.false_eq_true, if_false, cmpX_decodeFp32 h,
      apply_ite (BitVec.ofNat 32), BitVec.ofNat_toNat, BitVec.setWidth_eq]
    cases hc : cmp (place32 a) (place32 b) with
    | lt =>
      have hle := (hlt.mp hc).le
      cases mx
      · exact ⟨true, rfl, fun _ => hle, nofun⟩
      · exact ⟨false, rfl, nofun, fun _ => hle⟩
    | eq =>
      have hab := heq.mp hc
      cases mx
      · exact ⟨_, rfl, fun _ => hab.le, fun _ => hab.ge⟩
      · exact ⟨_, rfl, fun _ => hab.ge, fun _ => hab.le⟩
    | gt =>
      have hle := (hgt.mp hc).le
      cases mx
      · exact ⟨false, rfl, nofun, fun _ => hle⟩
      · exact ⟨true, rfl, fun _ => hle, nofun⟩
  obtain ⟨t, ht, hab, hba⟩ := hr
  rw [ht]
  cases t
  · exact ⟨.inr rfl, hba rfl, leads_refl mx b⟩
  · exact ⟨.inl rfl, leads_refl mx a, hab rfl⟩

end

end Sys2Proof.Machine
end

section
/-! Selection, rounding to an integral value, and classes of FP32 values (R132, R134, R135). -/

namespace Sys2Proof.Machine

/-! ### Exact FP32 results -/

theorem toNat_ofNat_signed {s : Bool} {c : Nat} (hc : c ≤ Fmt.fp32.maxCode) : (BitVec.ofNat 32 (Fmt.fp32.signed s c)).toNat = Fmt.fp32.signed s c :=
  Nat.mod_eq_of_lt (signed_lt (hc.trans_lt (maxCode_lt .fp32)) s)

theorem getLsbD_ofNat_signed {s : Bool} {c : Nat} (hc : c ≤ Fmt.fp32.maxCode) : (BitVec.ofNat 32 (Fmt.fp32.signed s c)).getLsbD 31 = s := by
  rw [← signOf_fp32, toNat_ofNat_signed hc, signOf_signed (hc.trans_lt (maxCode_lt .fp32))]

theorem decodeFp32_ofNat_signed {s : Bool} {c : Nat} (hc : c ≤ Fmt.fp32.maxCode) : decodeFp32 (BitVec.ofNat 32 (Fmt.fp32.signed s c)) = Fmt.fp32.mkFin s c := by
  rw [decodeFp32, toNat_ofNat_signed hc]
  exact decodeElem_signed rfl _ hc (fun h => absurd h (by decide))

theorem roundFp32_exact (s : Bool) {n d : Nat} (hd : d ≠ 0) {e : Int} (rm : Rm) {c : Nat} (hval : n / d * 2 ^ e = Fmt.fp32.val c)
    (hc : c ≤ Fmt.fp32.maxCode) : roundFp32 (.fin s n d e) rm = BitVec.ofNat 32 (Fmt.fp32.signed s c) := by
  rw [roundFp32, roundTo_exact rfl s hd rm false hval hc, show (Fmt.fp32 != .e2m1) = true from rfl, Bool.true_or, Bool.and_true]

/-- A finite FP32 value with its sign bit and its magnitude code. -/
theorem decodeFp32_of_isFin {a : Word} (h : (decodeFp32 a).isFin = true) :
    a.toNat % 2 ^ 31 ≤ Fmt.fp32.maxCode ∧ decodeFp32 a = Fmt.fp32.mkFin (a.getLsbD 31) (a.toNat % 2 ^ 31) := by
  rw [decodeFp32_eq] at h ⊢
  split at h
  · cases h
  · split at h
    · cases h
    · next h1 h2 => exact ⟨by simp only [Fmt.maxCode]; omega, by rw [if_neg h1, if_neg h2]⟩

theorem eq_of_decodeFp32_inf {a : Word} {s : Bool} (h : decodeFp32 a = .inf s) : a = BitVec.ofNat 32 (Fmt.fp32.signed s 0x7F800000) := by
  rw [decodeFp32_eq] at h
  split at h
  · next hm =>
    cases h
    rw [← hm, ← toNat_eq_signed, BitVec.ofNat_toNat, BitVec.setWidth_eq]
  · split at h <;> cases h

theorem val_fp32_maxCode : Fmt.fp32.val Fmt.fp32.maxCode = (2 ^ 24 - 1) * 2 ^ 104 := by
  norm_num [magVal, magSig, magExp, Fmt.maxCode, Fmt.m, Fmt.bias]

/-- A code whose value is below the largest finite one is no larger. -/
theorem le_maxCode_of_val_le {f : Fmt} {c k : Nat} (h : f.val c ≤ f.val k) : c ≤ k := (magVal_strictMono (m := f.m) f.bias).le_iff_le.mp h

/-! ### FRND (R134) -/

/-- The two integers beside the magnitude of a code are magnitudes of codes; an integral one is its own. -/
theorem exists_code_of_integral {k K0 : Nat} (hk : k ≤ Fmt.fp32.maxCode) (hlo : (K0 : ℚ) ≤ Fmt.fp32.val k) (hhi : Fmt.fp32.val k < K0 + 1)
    (s : Bool) (rm : Rm) : ∃ c ≤ Fmt.fp32.maxCode, Fmt.fp32.val c = (roundAt K0 K0 (Fmt.fp32.val k) (K0 + 1) s rm : Nat) := by
  rcases lt_or_ge (magExp 23 127 k) 0 with h | h
  · have hlt : Fmt.fp32.val k < 2 ^ 23 := by
      have hsig : ((magSig 23 k : Nat) : ℚ) < 2 ^ 24 := by exact_mod_cast magSig_lt (m := 23) k
      calc Fmt.fp32.val k ≤ magSig 23 k * 2 ^ (-1 : Int) := mul_le_mul_of_nonneg_left (zpow_le_zpow_right₀ one_le_two (show magExp 23 127 k ≤ -1 by omega))
            (Nat.cast_nonneg _)
        _ < 2 ^ 24 * 2 ^ (-1 : Int) := mul_lt_mul_of_pos_right hsig (two_zpow_pos _)
        _ = 2 ^ 23 := by norm_num
    have hK : K0 < 2 ^ 23 := by exact_mod_cast hlo.trans_lt hlt
    have hr : roundAt K0 K0 (Fmt.fp32.val k) (K0 + 1) s rm ≤ 2 ^ 23 := by
      rcases roundAt_eq_or K0 K0 (Fmt.fp32.val k) (K0 + 1) s rm with h | h <;> omega
    obtain ⟨c, hc⟩ := exists_magVal_eq (m := 23) 127 (t := 0) (hr.trans_lt (by decide)) (by decide)
    rw [zpow_zero, mul_one] at hc
    refine ⟨c, le_maxCode_of_val_le (f := .fp32) ?_, hc⟩
    rw [val_fp32_maxCode]
    exact hc.le.trans ((Nat.cast_le.mpr hr).trans (by norm_num))
  · have hnat : Fmt.fp32.val k = (magSig 23 k * 2 ^ (magExp 23 127 k).toNat : Nat) := by
      rw [Nat.cast_mul, two_zpow_toNat h]
      rfl
    have hK : K0 = magSig 23 k * 2 ^ (magExp 23 127 k).toNat := by
      rw [hnat] at hlo hhi
      have h1 := Nat.cast_le.mp hlo
      have h2 := Nat.cast_lt.mp (hhi.trans_eq (Nat.cast_succ K0).symm)
      omega
    rw [← hK] at hnat
    exact ⟨k, hk, by rw [hnat, roundAt_exact]⟩

/-- FRND of a finite value: the rounded integer, with the sign of the value. -/
theorem laneFrnd_fin {a : Word} (h : (decodeFp32 a).isFin = true) (rm : Rm) :
    ∃ K0 : Nat, (K0 : ℚ) ≤ Fmt.fp32.val (a.toNat % 2 ^ 31) ∧ Fmt.fp32.val (a.toNat % 2 ^ 31) < K0 + 1 ∧
      ∃ c ≤ Fmt.fp32.maxCode, Fmt.fp32.val c = (roundAt K0 K0 (Fmt.fp32.val (a.toNat % 2 ^ 31)) (K0 + 1) (a.getLsbD 31) rm : Nat) ∧
        laneFrnd rm a = BitVec.ofNat 32 (Fmt.fp32.signed (a.getLsbD 31) c) := by
  obtain ⟨hk, hdec⟩ := decodeFp32_of_isFin h
  generalize a.toNat % 2 ^ 31 = k at hk hdec
  generalize a.getLsbD 31 = s at hdec
  let q := scaleRat (magSig 23 k) 1 (magExp 23 127 k)
  have hq : (q.1 : ℚ) / q.2 = Fmt.fp32.val k := by rw [scaleRat_quot, Nat.cast_one, div_one]; rfl
  have hq2 : q.2 ≠ 0 := scaleRat_den one_ne_zero _ _
  obtain ⟨hlo, hhi⟩ := floor_bounds q.1 hq2
  rw [hq] at hlo hhi
  obtain ⟨c, hc, hval⟩ := exists_code_of_integral hk hlo hhi s rm
  refine ⟨q.1 / q.2, hlo, hhi, c, hc, hval, ?_⟩
  have hK : roundQuot q.1 q.2 s rm = roundAt (q.1 / q.2) (q.1 / q.2 : Nat) (Fmt.fp32.val k) ((q.1 / q.2 : Nat) + 1) s rm := by
    rw [← hq]
    exact roundQuot_eq q.1 hq2 s rm
  have hlane : laneFrnd rm a = roundFp32 (.fin s (roundQuot q.1 q.2 s rm) 1 0) rm := by rw [laneFrnd, hdec]; rfl
  rw [hlane, hK]
  exact roundFp32_exact s one_ne_zero rm (by rw [hval, Nat.cast_one, div_one, zpow_zero, mul_one]) hc

/-- A rounding to the nearest integer. -/
theorem roundAt_nearest (K0 : Nat) {x : ℚ} (hlo : (K0 : ℚ) ≤ x) (hhi : x < K0 + 1) (s : Bool) :
    let K := roundAt K0 K0 x (K0 + 1) s .rn
    |x - K| ≤ 1 / 2 ∧ (|x - K| = 1 / 2 → K % 2 = 0) := by
  intro K
  have hK : K = if x = K0 then K0 else if 2 * x < K0 + (K0 + 1) then K0 else if K0 + (K0 + 1) < 2 * x then K0 + 1 else K0 + K0 % 2 := rfl
  rw [hK]
  split_ifs with h1 h2 h3
  · rw [h1, sub_self, abs_zero]
    norm_num
  · rw [abs_of_nonneg (by linarith)]
    exact ⟨by linarith, fun h => by linarith⟩
  · push_cast
    rw [abs_of_nonpos (by linarith)]
    exact ⟨by linarith, fun h => by linarith⟩
  · refine ⟨?_, fun _ => by omega⟩
    obtain h | h := Nat.mod_two_eq_zero_or_one K0
    · rw [h, Nat.add_zero, abs_of_nonneg (by linarith)]
      linarith
    · rw [h]
      push_cast
      rw [abs_of_nonpos (by linarith)]
      linarith

/-- How far the rounded integer may lie from the value, by the mode. -/
theorem roundAt_integral (K0 : Nat) {x : ℚ} (hlo : (K0 : ℚ) ≤ x) (hhi : x < K0 + 1) (s : Bool) (rm : Rm) :
    let k : ℤ := (if s then -1 else 1) * (roundAt K0 K0 x (K0 + 1) s rm : Nat)
    let v : ℚ := (if s then -1 else 1) * x
    match rm with
    | .rd => (k : ℚ) ≤ v ∧ v < k + 1
    | .ru => v ≤ (k : ℚ) ∧ (k : ℚ) < v + 1
    | .rz => |(k : ℚ)| ≤ |v| ∧ |v| < |(k : ℚ)| + 1
    | .rn => |v - k| ≤ 1 / 2 ∧ (|v - k| = 1 / 2 → k % 2 = 0) := by
  have hx0 : 0 ≤ x := (Nat.cast_nonneg K0).trans hlo
  intro k v
  have hk : (k : ℚ) = (if s then -1 else 1) * (roundAt K0 K0 x (K0 + 1) s rm : Nat) := by cases s <;> simp [k]
  cases rm with
  | rn =>
    have habs : |v - k| = |x - (roundAt K0 K0 x (K0 + 1) s .rn : Nat)| := by rw [hk, ← mul_sub, abs_mul, abs_sign, one_mul]
    obtain ⟨hle, heven⟩ := roundAt_nearest K0 hlo hhi s
    refine ⟨habs.trans_le hle, fun h => ?_⟩
    have := heven (habs.symm.trans h)
    cases s <;> simp only [k, Bool.false_eq_true, if_false, if_true] <;> omega
  | rz =>
    have hK : roundAt K0 K0 x (K0 + 1) s .rz = K0 := ite_self _
    rw [hk, hK, abs_mul, abs_mul, abs_sign, one_mul, one_mul, abs_of_nonneg hx0, Nat.abs_cast]
    exact ⟨hlo, hhi⟩
  | rd =>
    rcases hlo.eq_or_lt with rfl | h
    · rw [hk, roundAt_exact]
      exact ⟨le_rfl, lt_add_one _⟩
    · have hK : roundAt K0 K0 x (K0 + 1) s .rd = if s then K0 + 1 else K0 := if_neg h.ne'
      simp only [hk, hK, v]
      cases s <;> simp only [Bool.false_eq_true, if_false, if_true] <;> push_cast <;> constructor <;> linarith
  | ru =>
    rcases hlo.eq_or_lt with rfl | h
    · rw [hk, roundAt_exact]
      exact ⟨le_rfl, lt_add_one _⟩
    · have hK : roundAt K0 K0 x (K0 + 1) s .ru = if s then K0 else K0 + 1 := if_neg h.ne'
      simp only [hk, hK, v]
      cases s <;> simp only [Bool.false_eq_true, if_false, if_true] <;> push_cast <;> constructor <;> linarith

theorem roundsIntegral : Claims.RoundsIntegral := by
  intro rm a v r
  refine ⟨fun h => ?_, fun s h => ?_, fun h => ?_⟩
  · cases hx : decodeFp32 a with
    | nan =>
      change laneFrnd rm a = _
      rw [laneFrnd, hx]
      rfl
    | _ =>
      rw [hx] at h
      cases h
  · have hr : r = roundFp32 (.inf s) rm := by
      change laneFrnd rm a = _
      rw [laneFrnd, h]
    rw [hr, eq_of_decodeFp32_inf h]
    cases s <;> rfl
  · obtain ⟨K0, hlo, hhi, c, hc, hval, hr⟩ := laneFrnd_fin h rm
    obtain ⟨-, hdec⟩ := decodeFp32_of_isFin h
    have hr : r = _ := hr
    have hdr : decodeFp32 r = Fmt.fp32.mkFin (a.getLsbD 31) c := by rw [hr, decodeFp32_ofNat_signed hc]
    have hv : v = (if a.getLsbD 31 then -1 else 1) * Fmt.fp32.val (a.toNat % 2 ^ 31) := by
      change (decodeFp32 a).toRat = _
      rw [hdec, toRat_mkFin]
    refine ⟨by rw [hdr]; rfl, by rw [hr, getLsbD_ofNat_signed hc], _, ?_, hv ▸ roundAt_integral K0 hlo hhi (a.getLsbD 31) rm⟩
    change (decodeFp32 r).toRat = _
    rw [hdr, toRat_mkFin, hval]
    cases a.getLsbD 31 <;> simp

/-! ### FCLASS (R135) -/

/-- The class of a sign, an exponent field, and whether the fraction is 0 and has its top bit set. -/
def classBit (s : Bool) (e : Nat) (mz q : Bool) : Nat :=
  if e = 255 then (if mz then (if s then 0 else 7) else if q then 9 else 8)
  else if e = 0 then (if mz then (if s then 3 else 4) else if s then 2 else 5)
  else if s then 1 else 6

theorem classBit_lt (s : Bool) (e : Nat) (mz q : Bool) : classBit s e mz q < 10 := by
  unfold classBit
  split_ifs <;> decide

theorem laneFclass_eq (a : Word) : laneFclass a =
    BitVec.ofNat 32 (2 ^ classBit (a.getLsbD 31) (a.extractLsb' 23 8).toNat (a.extractLsb' 0 23 = 0) (a.getLsbD 22)) := rfl

theorem getLsbD_ofNat_two_pow {k i : Nat} (hi : i < 32) : (BitVec.ofNat 32 (2 ^ k)).getLsbD i = decide (k = i) := by
  rw [BitVec.getLsbD_ofNat, decide_eq_true hi, Bool.true_and, Nat.testBit_two_pow]

/-- The fields of a word. -/
theorem fp32_fields (a : Word) : a.toNat = (if a.getLsbD 31 then 2 ^ 31 else 0) + (a.extractLsb' 23 8).toNat * 2 ^ 23 + (a.extractLsb' 0 23).toNat ∧
    (a.getLsbD 22 = decide (2 ^ 22 ≤ (a.extractLsb' 0 23).toNat)) := by
  have h := a.isLt
  have h22 : a.getLsbD 22 = decide (a.toNat / 2 ^ 22 % 2 = 1) := Nat.testBit_eq_decide_div_mod_eq
  rw [getLsbD_31, h22, BitVec.extractLsb'_toNat, BitVec.extractLsb'_toNat, Nat.shiftRight_eq_div_pow, Nat.shiftRight_eq_div_pow]
  simp only [decide_eq_true_eq]
  refine ⟨by split <;> omega, ?_⟩
  congr 1
  apply propext
  omega

/-- The numbers of the classes. -/
theorem classBit_iff (neg : Bool) {e m : Nat} (he : e < 256) :
    let bit := classBit neg e (decide (m = 0)) (decide (2 ^ 22 ≤ m))
    (bit = 0 ↔ neg = true ∧ e = 255 ∧ m = 0) ∧ (bit = 7 ↔ neg = false ∧ e = 255 ∧ m = 0) ∧
    (bit = 1 ↔ neg = true ∧ 1 ≤ e ∧ e ≤ 254) ∧ (bit = 6 ↔ neg = false ∧ 1 ≤ e ∧ e ≤ 254) ∧
    (bit = 2 ↔ neg = true ∧ e = 0 ∧ m ≠ 0) ∧ (bit = 5 ↔ neg = false ∧ e = 0 ∧ m ≠ 0) ∧
    (bit = 3 ↔ neg = true ∧ e = 0 ∧ m = 0) ∧ (bit = 4 ↔ neg = false ∧ e = 0 ∧ m = 0) ∧
    (bit = 8 ↔ e = 255 ∧ m ≠ 0 ∧ ¬ 2 ^ 22 ≤ m) ∧ (bit = 9 ↔ e = 255 ∧ 2 ^ 22 ≤ m) := by
  have hq : 2 ^ 22 ≤ m → m ≠ 0 := by omega
  intro bit
  have hbit : bit = if e = 255 then (if m = 0 then (if neg then 0 else 7) else if 2 ^ 22 ≤ m then 9 else 8)
      else if e = 0 then (if m = 0 then (if neg then 3 else 4) else if neg then 2 else 5) else if neg then 1 else 6 := by
    simp only [bit, classBit, decide_eq_true_eq]
  rw [hbit]
  by_cases h255 : e = 255
  · by_cases hm : m = 0
    · cases neg <;> simp [h255, hm]
    · by_cases hq' : 4194304 ≤ m <;> simp [h255, hm, hq']
  · by_cases h0 : e = 0
    · by_cases hm : m = 0 <;> cases neg <;> simp [h0, hm]
    · cases neg <;> simp [h255, h0] <;> omega

theorem eq_ofNat_iff_fields {a : Word} {s : Bool} : a = (if s then 0x80000000 else 0) ↔
    a.getLsbD 31 = s ∧ (a.extractLsb' 23 8).toNat = 0 ∧ (a.extractLsb' 0 23).toNat = 0 := by
  obtain ⟨hnat, -⟩ := fp32_fields a
  constructor
  · rintro rfl
    cases s <;> decide
  · rintro ⟨h31, he, hm⟩
    apply BitVec.eq_of_toNat_eq
    rw [hnat, h31, he, hm]
    cases s <;> rfl

theorem classBits : Claims.ClassBits := by
  intro a neg e m bit
  obtain ⟨-, hq⟩ := fp32_fields a
  have hmz : decide (a.extractLsb' 0 23 = 0) = decide (m = 0) := by
    congr 1
    exact propext (BitVec.toNat_eq (y := (0 : BitVec 23)))
  have hbit {i : Nat} (hi : i < 32) : bit i ↔ classBit neg e (decide (m = 0)) (decide (2 ^ 22 ≤ m)) = i := by
    change (laneFclass a).getLsbD i = true ↔ _
    rw [laneFclass_eq, getLsbD_ofNat_two_pow hi, decide_eq_true_eq, hmz, hq]
  obtain ⟨h0, h7, h1, h6, h2, h5, h3, h4, h8, h9⟩ := classBit_iff neg (m := m) (show e < 256 from (a.extractLsb' 23 8).isLt)
  refine ⟨(hbit (by decide)).trans h0, (hbit (by decide)).trans h7, (hbit (by decide)).trans h1, (hbit (by decide)).trans h6,
    (hbit (by decide)).trans h2, (hbit (by decide)).trans h5, ((hbit (by decide)).trans h3).trans (eq_ofNat_iff_fields (s := true)).symm,
    ((hbit (by decide)).trans h4).trans (eq_ofNat_iff_fields (s := false)).symm, (hbit (by decide)).trans ?_, (hbit (by decide)).trans ?_,
    _, classBit_lt _ _ _ _, laneFclass_eq a⟩
  · rw [h8, hq, decide_eq_false_iff_not]
  · rw [h9, hq, decide_eq_true_eq]

theorem fclass_nan_iff (a : Word) : (laneFclass a).getLsbD 8 = true ∨ (laneFclass a).getLsbD 9 = true ↔ (decodeFp32 a).isNan = true := by
  obtain ⟨-, -, -, -, -, -, -, -, h8, h9, -⟩ := classBits a
  obtain ⟨hnat, hq⟩ := fp32_fields a
  have he : (a.extractLsb' 23 8).toNat < 256 := (a.extractLsb' 23 8).isLt
  have hm : (a.extractLsb' 0 23).toNat < 2 ^ 23 := (a.extractLsb' 0 23).isLt
  have hmag : a.toNat % 2 ^ 31 = (a.extractLsb' 23 8).toNat * 2 ^ 23 + (a.extractLsb' 0 23).toNat := by
    rw [hnat]
    split <;> omega
  refine (or_congr h8 h9).trans ?_
  rw [decodeFp32_eq, hmag, hq, decide_eq_true_eq, decide_eq_false_iff_not]
  generalize (a.extractLsb' 23 8).toNat = e at *
  generalize (a.extractLsb' 0 23).toNat = m at *
  split_ifs <;> simp only [isNan_inf, isNan_nan, isNan_mkFin, Bool.false_eq_true, iff_true, iff_false] <;> omega

/-- Settles O8. -/
theorem floatSelectRoundClass : Obligations.FloatSelectRoundClass := by
  unfold Obligations.FloatSelectRoundClass
  intro o
  refine ⟨fun nan => ⟨regResult_alu (fun s => dispatch_fmin s o nan), regResult_alu (fun s => dispatch_fmax s o nan)⟩,
    regResult_alu (fun s => dispatch_frnd s o), regResult_alu (fun s => dispatch_fclass s o), fun mx nan a b => ?_, fclass_nan_iff,
    roundsIntegral, classBits⟩
  refine ⟨?_, fun h => minMax32_of_nans mx nan h.1 h.2, ?_, ?_, fun h => ?_⟩
  · rintro ⟨rfl, h⟩
    exact minMax32_of_nan_mode mx h
  · rintro ⟨rfl, ha, hb⟩
    exact minMax32_of_nan_left mx ha hb
  · rintro ⟨rfl, ha, hb⟩
    exact minMax32_of_nan_right mx ha hb
  · obtain ⟨hab, hla, hlb⟩ := minMax32_of_nums mx nan h
    refine ⟨hab, ?_⟩
    have hr : (decodeFp32 (minMax32 mx nan a b)).isNan = false := by rcases hab with e | e <;> rw [e] <;> [exact h.1; exact h.2]
    cases mx
    · exact ⟨(cmpFlt_le_iff ⟨hr, h.1⟩).mpr hla, (cmpFlt_le_iff ⟨hr, h.2⟩).mpr hlb⟩
    · exact ⟨(cmpFlt_ge_iff ⟨hr, h.1⟩).mpr hla, (cmpFlt_ge_iff ⟨hr, h.2⟩).mpr hlb⟩

end Sys2Proof.Machine
end

section
/-! Reductions over lanes (R149, R150). -/

namespace Sys2Proof.Machine

/-! ### A choice folded over a list -/

section
variable {α : Type} (ok : α → Prop) (better : α → α → Prop) (g : α → α → α)

/-- `g` chooses of two values one that is no worse than either; where one value is not ok it takes the other. -/
structure Chooses : Prop where
  refl : ∀ a, better a a
  trans : ∀ a b c, better a b → better b c → better a c
  both : ∀ a b, ok a → ok b → (g a b = a ∨ g a b = b) ∧ better (g a b) a ∧ better (g a b) b
  left : ∀ a b, ok a → ¬ ok b → g a b = a
  right : ∀ a b, ¬ ok a → ok b → g a b = b
  none : ∀ a b, ¬ ok a → ¬ ok b → ¬ ok (g a b)

variable {ok better g}

theorem Chooses.foldl (h : Chooses ok better g) (x : α) (xs : List α) :
    (¬ ok (xs.foldl g x) ∧ ∀ w ∈ x :: xs, ¬ ok w) ∨
      (ok (xs.foldl g x) ∧ xs.foldl g x ∈ x :: xs ∧ ∀ w ∈ x :: xs, ok w → better (xs.foldl g x) w) := by
  induction xs generalizing x with
  | nil =>
    by_cases hx : ok x
    · exact .inr ⟨hx, List.mem_singleton_self x, by simpa using fun _ => h.refl x⟩
    · exact .inl ⟨hx, by simpa using hx⟩
  | cons y ys ih =>
    rw [List.foldl_cons]
    simp only [List.forall_mem_cons] at ih ⊢
    simp only [List.mem_cons] at ih ⊢
    by_cases hx : ok x <;> by_cases hy : ok y
    · obtain ⟨hmem, hgx, hgy⟩ := h.both x y hx hy
      have hg : ok (g x y) := by rcases hmem with e | e <;> rw [e] <;> assumption
      rcases ih (g x y) with ⟨-, hno, -⟩ | ⟨hr, hin, hb, hbs⟩
      · exact absurd hg hno
      · exact .inr ⟨hr, by rcases hmem with e | e <;> rw [e] at hin ⊢ <;> tauto, fun _ => h.trans _ _ _ (hb hg) hgx,
          fun _ => h.trans _ _ _ (hb hg) hgy, hbs⟩
    · rw [h.left x y hx hy]
      rcases ih x with ⟨-, hno, -⟩ | ⟨hr, hin, hb, hbs⟩
      · exact absurd hx hno
      · exact .inr ⟨hr, by tauto, hb, fun hy' => absurd hy' hy, hbs⟩
    · rw [h.right x y hx hy]
      rcases ih y with ⟨-, hno, -⟩ | ⟨hr, hin, hb, hbs⟩
      · exact absurd hy hno
      · exact .inr ⟨hr, by tauto, fun hx' => absurd hx' hx, hb, hbs⟩
    · rcases ih (g x y) with ⟨hr, -, hs⟩ | ⟨hr, hin, hb, hbs⟩
      · exact .inl ⟨hr, hx, hy, hs⟩
      · refine .inr ⟨hr, ?_, fun hx' => absurd hx' hx, fun hy' => absurd hy' hy, hbs⟩
        rcases hin with e | hin
        · exact absurd (e ▸ hr) (h.none x y hx hy)
        · exact .inr (.inr hin)

end

/-! ### Integer reductions (R149) -/

/-- A word as a number of a 32-bit type. -/
abbrev numOf (ty : Ty) (w : Word) : Int := if ty = .s32 then w.toInt else (w.toNat : Int)

variable {ty : Ty}

theorem opnd_setWidth (h : ty = .n32 ∨ ty = .s32) (w : Word) : opnd ty (w.setWidth 64) = numOf ty w := by
  rcases h with rfl | rfl
  · exact (opnd_unsigned rfl _).trans (congrArg (fun v : Word => (v.toNat : Int)) (lo32_setWidth w))
  · exact (opnd_signed rfl _).trans (congrArg BitVec.toInt (lo32_setWidth w))

theorem minMaxWord_int (h : ty = .n32 ∨ ty = .s32) (mx : Bool) (a b : Word) : minMaxWord ty mx a b =
    if mx then (if numOf ty a < numOf ty b then b else a) else (if numOf ty b < numOf ty a then b else a) := by
  have hne : ty ≠ .f32 := by rcases h with rfl | rfl <;> decide
  rw [minMaxWord, if_neg hne, minMaxInt, opnd_setWidth h, opnd_setWidth h]
  simp only [apply_ite lo32, lo32_setWidth]

theorem chooses_int (h : ty = .n32 ∨ ty = .s32) (mx : Bool) :
    Chooses (fun _ => True) (fun a b => if mx then numOf ty b ≤ numOf ty a else numOf ty a ≤ numOf ty b) (minMaxWord ty mx) where
  refl _ := by cases mx <;> exact le_rfl
  trans a b c h1 h2 := by
    cases mx
    · exact le_trans (α := Int) h1 h2
    · exact le_trans (α := Int) h2 h1
  both a b _ _ := by
    rw [minMaxWord_int h]
    cases mx
    · by_cases hlt : numOf ty b < numOf ty a
      · rw [if_neg Bool.false_ne_true, if_pos hlt]
        exact ⟨.inr rfl, hlt.le, le_rfl⟩
      · rw [if_neg Bool.false_ne_true, if_neg hlt]
        exact ⟨.inl rfl, le_rfl, not_lt.mp hlt⟩
    · by_cases hlt : numOf ty a < numOf ty b
      · rw [if_pos rfl, if_pos hlt]
        exact ⟨.inr rfl, hlt.le, le_rfl⟩
      · rw [if_pos rfl, if_neg hlt]
        exact ⟨.inl rfl, le_rfl, not_lt.mp hlt⟩
  left _ _ _ hb := absurd trivial hb
  right _ _ ha _ := absurd trivial ha
  none _ _ ha _ := absurd trivial ha

/-- The choice of numbers alone over a list that is not empty. -/
theorem Chooses.foldl_mem {α : Type} {better : α → α → Prop} {g : α → α → α} (h : Chooses (fun _ => True) better g) (x : α) (xs : List α) :
    xs.foldl g x ∈ x :: xs ∧ ∀ w ∈ x :: xs, better (xs.foldl g x) w := by
  rcases h.foldl x xs with ⟨hno, -⟩ | ⟨-, hmem, hb⟩
  · exact absurd trivial hno
  · exact ⟨hmem, fun w hw => hb w hw trivial⟩

theorem reduceWords_int (h : ty = .n32 ∨ ty = .s32) (rm : Rm) (sat : Bool) {vs : List Word} (hvs : vs ≠ []) :
    reduceWords ty .add rm sat vs = lo32 (fit ty (vs.map (numOf ty)).sum sat) ∧
    (∃ m ∈ vs, reduceWords ty .min rm sat vs = m ∧ ∀ w ∈ vs, numOf ty m ≤ numOf ty w) ∧
    ∃ m ∈ vs, reduceWords ty .max rm sat vs = m ∧ ∀ w ∈ vs, numOf ty w ≤ numOf ty m := by
  obtain ⟨x, xs, rfl⟩ := List.exists_cons_of_ne_nil hvs
  refine ⟨?_, ?_, ?_⟩
  · have hne : ty ≠ .f32 := by rcases h with rfl | rfl <;> decide
    change (if ty = .f32 then _ else _) = _
    rw [if_neg hne, foldl_add_eq_sum (fun v : Word => opnd ty (v.setWidth 64)), zero_add]
    simp only [opnd_setWidth h]
  · obtain ⟨hmem, hb⟩ := (chooses_int h false).foldl_mem x xs
    exact ⟨_, hmem, rfl, hb⟩
  · obtain ⟨hmem, hb⟩ := (chooses_int h true).foldl_mem x xs
    exact ⟨_, hmem, rfl, hb⟩

/-! ### FP32 reductions (R132, R149) -/

theorem minMaxWord_f32 (mx : Bool) (a b : Word) : minMaxWord .f32 mx a b = minMax32 mx false a b := if_pos rfl

theorem chooses_f32 (mx : Bool) : Chooses (fun w => (decodeFp32 w).isNan = false) (Leads mx) (minMaxWord .f32 mx) where
  refl := leads_refl mx
  trans _ _ _ := leads_trans mx
  both a b ha hb := by
    rw [minMaxWord_f32]
    exact minMax32_of_nums mx false ⟨ha, hb⟩
  left a b ha hb := by rw [minMaxWord_f32, minMax32_of_nan_right mx ha (by simpa using hb)]
  right a b ha hb := by rw [minMaxWord_f32, minMax32_of_nan_left mx (by simpa using ha) hb]
  none a b ha hb := by
    rw [minMaxWord_f32, minMax32_of_nans mx false (by simpa using ha) (by simpa using hb)]
    decide

/-- The least or greatest number of a list in which there is one. -/
theorem foldl_minMaxWord_f32 (mx : Bool) {x : Word} {xs : List Word} (h : ∃ w ∈ x :: xs, (decodeFp32 w).isNan = false) :
    let m := xs.foldl (minMaxWord .f32 mx) x
    m ∈ x :: xs ∧ ∀ w ∈ x :: xs, (decodeFp32 w).isNan = false → Nums m w ∧ Leads mx m w := by
  obtain ⟨w, hw, hnum⟩ := h
  rcases (chooses_f32 mx).foldl x xs with ⟨-, hno⟩ | ⟨hok, hmem, hb⟩
  · exact absurd hnum (hno w hw)
  · exact ⟨hmem, fun w hw hn => ⟨⟨hok, hn⟩, hb w hw hn⟩⟩

theorem foldl_minMaxWord_f32_nans (mx : Bool) {x y : Word} {ys : List Word} (h : ∀ w ∈ x :: y :: ys, (decodeFp32 w).isNan = true) :
    (y :: ys).foldl (minMaxWord .f32 mx) x = nan32 := by
  induction ys generalizing x y with
  | nil =>
    rw [List.foldl_cons, minMaxWord_f32]
    exact minMax32_of_nans mx false (h x (by simp)) (h y (by simp))
  | cons z zs ih =>
    rw [List.foldl_cons, minMaxWord_f32, minMax32_of_nans mx false (h x (by simp)) (h y (by simp))]
    refine ih (fun w hw => ?_)
    rcases List.mem_cons.mp hw with rfl | hw
    · decide
    · exact h w (by simp_all)

/-! ### Reductions of bits (R149) -/

theorem getLsbD_foldl_and (x : Word) (xs : List Word) (i : Nat) : (xs.foldl (· &&& ·) x).getLsbD i = (x :: xs).all (fun w => w.getLsbD i) := by
  induction xs generalizing x with
  | nil => simp
  | cons y ys ih => rw [List.foldl_cons, ih]; simp [Bool.and_assoc]

theorem getLsbD_foldl_or (x : Word) (xs : List Word) (i : Nat) : (xs.foldl (· ||| ·) x).getLsbD i = (x :: xs).any (fun w => w.getLsbD i) := by
  induction xs generalizing x with
  | nil => simp
  | cons y ys ih => rw [List.foldl_cons, ih]; simp [Bool.or_assoc]

theorem getLsbD_foldl_xor (x : Word) (xs : List Word) (i : Nat) :
    (xs.foldl (· ^^^ ·) x).getLsbD i = decide ((x :: xs).countP (fun w => w.getLsbD i) % 2 = 1) := by
  induction xs generalizing x with
  | nil => cases h : x.getLsbD i <;> simp [h]
  | cons y ys ih =>
    rw [List.foldl_cons, ih, List.countP_cons, List.countP_cons, List.countP_cons, BitVec.getLsbD_xor]
    congr 1
    cases x.getLsbD i <;> cases y.getLsbD i <;> simp <;> omega

theorem reductions : Claims.Reductions := by
  refine ⟨fun ty rm sat vs hvs hty => reduceWords_int hty rm sat hvs, fun rm sat vs hvs => ?_, fun rm sat vs h => ?_, fun rm sat vs hlen h => ?_,
    fun ty rm sat vs i hvs _ => ?_, fun rm sat => ⟨fun ty => ⟨rfl, rfl, rfl, rfl⟩, rfl, rfl, rfl, rfl, rfl, rfl⟩⟩
  · obtain ⟨x, xs, rfl⟩ := List.exists_cons_of_ne_nil hvs
    rfl
  · obtain ⟨x, xs, rfl⟩ : ∃ x xs, vs = x :: xs := List.exists_cons_of_ne_nil (by rintro rfl; simp at h)
    obtain ⟨hmin, hle⟩ := foldl_minMaxWord_f32 false h
    obtain ⟨hmax, hge⟩ := foldl_minMaxWord_f32 true h
    refine ⟨⟨_, hmin, rfl, fun w hw hn => ?_⟩, _, hmax, rfl, fun w hw hn => ?_⟩
    · obtain ⟨hnums, hl⟩ := hle w hw hn
      exact (cmpFlt_le_iff hnums).mpr hl
    · obtain ⟨hnums, hl⟩ := hge w hw hn
      exact (cmpFlt_ge_iff hnums).mpr hl
  · match vs, hlen with
    | x :: y :: ys, _ => exact ⟨foldl_minMaxWord_f32_nans false h, foldl_minMaxWord_f32_nans true h⟩
  · obtain ⟨x, xs, rfl⟩ := List.exists_cons_of_ne_nil hvs
    exact ⟨getLsbD_foldl_and x xs i, getLsbD_foldl_or x xs i, getLsbD_foldl_xor x xs i⟩

end Sys2Proof.Machine
end

section
/-! Cross-lane instructions (R146 to R151). -/

namespace Sys2Proof.Machine

/-- An instruction that writes the same words to every active lane. -/
theorem regResult_replicate {i : Instr} {sw : Bool} {d : BitVec 8} {n lat : Nat} {srcs : Deps} {ws : Warp → List Word}
    (hi : ∀ s, exec i s = s.issueWarp { once := false, sw := sw } (srcs.join (Deps.dst n (.v d))) (fun c y =>
      y.putDst (.v d) c.x.lanes ((ws c.x).map (List.replicate 64)) (c.now + lat)))
    (hn : ∀ x, (ws x).length = n) : RegResult i sw (.v d) n lat srcs (fun x _ => ws x) := by
  refine regResult_put (vals := fun x => (ws x).map (List.replicate 64)) hi (fun x => by rw [List.length_map, hn]) (fun _ x j l hj hl _ => ?_)
    (fun hu => absurd hu Bool.false_ne_true)
  have hj : j < (ws x).length := by rwa [hn]
  have hrep (w : Word) : (List.replicate 64 w).getD l 0 = w := by
    rw [List.getD_eq_getElem _ _ (by rwa [List.length_replicate]), List.getElem_replicate]
  have hmap : ((ws x).map (List.replicate 64)).getD j [] = List.replicate 64 ((ws x)[j]) := by
    rw [List.getD_eq_getElem _ _ (by rwa [List.length_map]), List.getElem_map]
  rw [hmap, hrep, List.getD_eq_getElem _ _ hj]

theorem shflSrc_eq (mode : ShflMode) (k n l : Nat) : shflSrc mode k n l =
    match mode with
    | .idx => l / 2 ^ k * 2 ^ k + n % 2 ^ k
    | .up => if n ≤ l % 2 ^ k then l - n else l
    | .down => if l % 2 ^ k + n < 2 ^ k then l + n else l
    | .xor => l / 2 ^ k * 2 ^ k + ((l % 2 ^ k) ^^^ (n % 2 ^ k)) := by
  have hbase : l - l % 2 ^ k = l / 2 ^ k * 2 ^ k := by rw [Nat.mul_comm, Nat.mul_div_self_eq_mod_sub_self]
  cases mode <;> simp only [shflSrc, hbase]

theorem laneBits_voteAt (x : Warp) (m : LaneMask) (q : PReg) (inv : Bool) :
    laneBits m (voteAt x q inv) = m &&& (if inv then ~~~(x.predMask q) else x.predMask q) := by
  apply BitVec.eq_of_getLsbD_eq
  intro l hl
  rw [laneBits_getLsbD _ _ _ hl, BitVec.getLsbD_and, voteAt, Warp.predAt]
  cases inv <;> simp [hl]

theorem execScan_eq (sw : Bool) (ty : Ty) (op : RedOp) (rm : Rm) (sat excl : Bool) (d : BitVec 8) (a : Src) (s : State) :
    execScan sw ty op rm sat excl d a s = s.alu sw (.v d) 1 16 (Deps.src 1 a) (fun x l =>
      [reduceWords ty op rm sat (((lanesOf x.lanes).filter (fun j => if excl then decide (j < l) else decide (j ≤ l))).map (x.lane a))]) := rfl

theorem execMatchLanes_eq (sw : Bool) (ty : Ty) (all : Bool) (d : BitVec 8) (a : Src) (s : State) :
    execMatchLanes sw ty all d a s = s.alu sw (.v d) 2 16 (Deps.src (tyRegs ty) a) (fun x l =>
      let same := laneBits x.lanes (fun j => x.operand ty a j == x.operand ty a l)
      words2 (if all then (if same == x.lanes then x.lanes else 0) else same)) := rfl

/-- Settles O13: each meaning writes its words to the active lanes; the reductions by `reductions`. -/
theorem crossLane : Obligations.CrossLane := by
  unfold Obligations.CrossLane
  refine ⟨fun sw k mode d a b => regResult_alu_of_eq (fun s => dispatch_shfl s sw k mode d a b) (fun x l =>
      congrArg (fun j => [x.lane a j]) (shflSrc_eq mode k.toNat (x.lane b l).toNat l)),
    fun sw inv d q => regResult_congr (regResult_replicate (ws := fun x => words2 (laneBits x.lanes (voteAt x q inv)))
      (fun s => dispatch_ballot s sw inv d q) (fun _ => rfl)) (fun x _ _ _ => by rw [laneBits_voteAt]),
    fun sw ty op rm sat d a => regResult_replicate (ws := fun x => [reduceWords ty op rm sat ((lanesOf x.lanes).map (x.lane a))])
      (fun s => dispatch_redux s sw ty op rm sat d a) (fun _ => rfl),
    fun sw ty op rm sat excl d a => regResult_alu (fun s => (dispatch_scan s sw ty op rm sat excl d a).trans (execScan_eq ..)),
    fun sw ty all d a => regResult_alu_of_eq (fun s => (dispatch_matchLanes s sw ty all d a).trans (execMatchLanes_eq ..)) (fun x l => ?_), reductions⟩
  simp only [beq_iff_eq]

end Sys2Proof.Machine
end

section
/-! Square roots rounded correctly (R138). -/

namespace Sys2Proof.Machine

/-! ### The integer square root -/

theorem isqrtBits_bounds (n : Nat) : ∀ (k r : Nat), r * r ≤ n → n < (r + 2 ^ k) * (r + 2 ^ k) →
    isqrtBits n k r * isqrtBits n k r ≤ n ∧ n < (isqrtBits n k r + 1) * (isqrtBits n k r + 1) := by
  intro k
  induction k with
  | zero => exact fun r hlo hhi => ⟨hlo, hhi⟩
  | succ k ih =>
    intro r hlo hhi
    rw [isqrtBits]
    by_cases ht : (r + 2 ^ k) * (r + 2 ^ k) ≤ n
    · rw [if_pos ht]
      refine ih (r + 2 ^ k) ht ?_
      rwa [show r + 2 ^ k + 2 ^ k = r + 2 ^ (k + 1) by rw [Nat.pow_succ]; omega]
    · rw [if_neg ht]
      exact ih r hlo (Nat.not_le.mp ht)

theorem isqrt_bounds (n : Nat) : isqrt n * isqrt n ≤ n ∧ n < (isqrt n + 1) * (isqrt n + 1) := by
  refine isqrtBits_bounds n _ 0 (Nat.zero_le n) ?_
  rw [Nat.zero_add, ← Nat.pow_add]
  exact Nat.lt_log2_self.trans_le (Nat.pow_le_pow_right (by omega) (by omega))

/-! ### A value that rounds as a root does -/

/-- On the grid of unit `u`, `x` compares as the root of `y`. -/
def RootOn (u x y : ℚ) : Prop := ∀ N : Nat, (N * u ≤ x ↔ (N * u) ^ 2 ≤ y) ∧ (N * u < x ↔ (N * u) ^ 2 < y)

theorem rootOn_exact {u x : ℚ} (hu : 0 < u) (hx : 0 ≤ x) : RootOn u x (x ^ 2) := fun N => by
  have hN : 0 ≤ N * u := mul_nonneg N.cast_nonneg hu.le
  exact ⟨(pow_le_pow_iff_left₀ hN hx two_ne_zero).symm, (pow_lt_pow_iff_left₀ hN hx two_ne_zero).symm⟩

/-- Halfway between two multiples of the unit, beside which the root lies. -/
theorem rootOn_between {u y : ℚ} (hu : 0 < u) {s : Nat} (hlo : (s * u) ^ 2 < y) (hhi : y < ((s + 1) * u) ^ 2) :
    RootOn u ((s + 1 / 2) * u) y := fun N => by
  rcases Nat.lt_or_ge s N with h | h
  · have hN : ((s : ℚ) + 1) ≤ N := by exact_mod_cast h
    have hle : ((s : ℚ) + 1) * u ≤ N * u := mul_le_mul_of_nonneg_right hN hu.le
    have hpow : (((s : ℚ) + 1) * u) ^ 2 ≤ (N * u) ^ 2 := pow_le_pow_left₀ (by positivity) hle 2
    have hx : ((s : ℚ) + 1 / 2) * u < N * u := mul_lt_mul_of_pos_right (by linarith) hu
    exact ⟨iff_of_false (not_le.mpr hx) (not_le.mpr (hhi.trans_le hpow)), iff_of_false hx.not_gt (hhi.trans_le hpow).not_gt⟩
  · have hN : (N : ℚ) ≤ s := by exact_mod_cast h
    have hpow : (N * u) ^ 2 ≤ (s * u) ^ 2 := pow_le_pow_left₀ (by positivity) (mul_le_mul_of_nonneg_right hN hu.le) 2
    have hx : N * u < ((s : ℚ) + 1 / 2) * u := mul_lt_mul_of_pos_right (by linarith) hu
    exact ⟨iff_of_true hx.le (hpow.trans hlo.le), iff_of_true hx (hpow.trans_lt hlo)⟩

/-- A coarser grid is part of a finer one. -/
theorem rootOn_coarser {g g' : Int} {x y : ℚ} (hg : g ≤ g') (h : RootOn (2 ^ g) x y) : RootOn (2 ^ g') x y := fun N => by
  have hN : (N : ℚ) * 2 ^ g' = (N * 2 ^ (g' - g).toNat : Nat) * 2 ^ g := by
    rw [Nat.cast_mul, two_zpow_toNat (by omega), mul_assoc, ← zpow_add₀ two_ne_zero]
    congr 2
    omega
  rw [hN]
  exact h _

theorem sqrtX_rootOn {n d : Nat} (hn : n ≠ 0) (hd : d ≠ 0) {e : Int} (he : e ≤ 300) :
    ∃ p t, p ≠ 0 ∧ sqrtX n d e = .fin false p 1 t ∧ RootOn (2 ^ (-150 : Int)) (p * 2 ^ t) (n / d * 2 ^ e) := by
  let e' : Int := if e % 2 = 0 then e else e - 1
  let n' : Nat := if e % 2 = 0 then n else 2 * n
  let k : Nat := 320 + Nat.log2 d
  let v := n' * 2 ^ (2 * k) / d
  let s := isqrt v
  let g : Int := e' / 2 - k
  have hdef : sqrtX n d e = if s * s * d = n' * 2 ^ (2 * k) then .fin false s 1 g else .fin false (2 * s + 1) 1 (g - 1) := by
    rw [sqrtX, if_neg hn]
    exact if_congr (by rw [decide_eq_true_eq]) rfl rfl
  have hk : k = 320 + Nat.log2 d := rfl
  clear_value k
  have heven : e' ≤ e ∧ e' % 2 = 0 := by
    unfold e'
    split <;> omega
  have hg : g ≤ -150 := by omega
  have hdpos : (0 : ℚ) < d := Nat.cast_pos.mpr (Nat.pos_of_ne_zero hd)
  have hn' : 1 ≤ n' := by
    unfold n'
    split <;> omega
  -- the value in units of `2 ^ g`, squared
  have hy : (n : ℚ) / d * 2 ^ e = (n' * 2 ^ (2 * k) : Nat) / d * (2 ^ g * 2 ^ g) := by
    have hsplit : (n : ℚ) * 2 ^ e = n' * 2 ^ e' := by
      unfold n' e'
      split
      · rfl
      · rw [zpow_sub_one₀ two_ne_zero]
        push_cast
        ring
    have hpow : (2 : ℚ) ^ e' = 2 ^ (2 * k) * (2 ^ g * 2 ^ g) := by
      rw [← zpow_natCast, ← zpow_add₀ two_ne_zero, ← zpow_add₀ two_ne_zero]
      congr 1
      push_cast
      omega
    rw [div_mul_eq_mul_div, hsplit, hpow]
    push_cast
    ring
  obtain ⟨hvlo, hvhi⟩ := floor_bounds (n' * 2 ^ (2 * k)) hd
  obtain ⟨hslo, hshi⟩ := isqrt_bounds v
  have hs0 : s ≠ 0 := by
    intro h0
    have hv : v = 0 := by
      change v < (s + 1) * (s + 1) at hshi
      rw [h0] at hshi
      omega
    have hdlt : d < 2 ^ (2 * k) := Nat.lt_log2_self.trans_le (Nat.pow_le_pow_right (by omega) (by omega))
    have hlt := Nat.lt_of_div_eq_zero (Nat.pos_of_ne_zero hd) hv
    have := Nat.le_mul_of_pos_left (2 ^ (2 * k)) hn'
    omega
  have hu : (0 : ℚ) < 2 ^ g := two_zpow_pos g
  have hlo : (s * 2 ^ g : ℚ) ^ 2 ≤ n / d * 2 ^ e := by
    rw [hy, mul_pow, pow_two ((2 : ℚ) ^ g)]
    refine mul_le_mul_of_nonneg_right (le_trans ?_ hvlo) (by positivity)
    rw [pow_two]
    exact_mod_cast hslo
  have hhi : (n : ℚ) / d * 2 ^ e < ((s + 1) * 2 ^ g : ℚ) ^ 2 := by
    rw [hy, mul_pow, pow_two ((2 : ℚ) ^ g)]
    refine mul_lt_mul_of_pos_right (hvhi.trans_le ?_) (by positivity)
    rw [pow_two]
    exact_mod_cast hshi
  rw [hdef]
  by_cases hex : s * s * d = n' * 2 ^ (2 * k)
  · refine ⟨s, g, hs0, if_pos hex, rootOn_coarser hg ?_⟩
    have hsq : (n : ℚ) / d * 2 ^ e = (s * 2 ^ g) ^ 2 := by
      rw [hy, ← hex]
      push_cast
      field_simp
    rw [hsq]
    exact rootOn_exact hu (by positivity)
  · refine ⟨2 * s + 1, g - 1, by omega, if_neg hex, rootOn_coarser hg ?_⟩
    have hne : (s * 2 ^ g : ℚ) ^ 2 ≠ n / d * 2 ^ e := by
      intro h
      rw [hy, mul_pow, pow_two ((2 : ℚ) ^ g), mul_left_inj' (by positivity), eq_div_iff hdpos.ne', pow_two] at h
      exact hex (by exact_mod_cast h)
    have hx : ((2 * s + 1 : Nat) : ℚ) * 2 ^ (g - 1) = (s + 1 / 2) * 2 ^ g := by
      rw [zpow_sub_one₀ two_ne_zero]
      push_cast
      ring
    rw [hx]
    exact rootOn_between hu (lt_of_le_of_ne hlo hne) hhi

end Sys2Proof.Machine
end

section
/-! Elementary functions (R138). -/

namespace Sys2Proof.Machine

/-! ### The rounded root (R138) -/

/-- Every FP32 magnitude is a multiple of the least one. -/
theorem exists_val_fp32_eq (c : Nat) : ∃ N : Nat, Fmt.fp32.val c = N * 2 ^ (-149 : Int) := by
  have hge : -149 ≤ magExp 23 127 c := magExp_ge 127 c
  refine ⟨magSig 23 c * 2 ^ (magExp 23 127 c + 149).toNat, ?_⟩
  rw [Nat.cast_mul, two_zpow_toNat (by omega), mul_assoc, ← zpow_add₀ two_ne_zero, Int.add_neg_cancel_right]
  rfl

section
variable {x y : ℚ} (h : RootOn (2 ^ (-150 : Int)) x y) (c : Nat)
include h

theorem val_rootOn : (Fmt.fp32.val c ≤ x ↔ Fmt.fp32.val c ^ 2 ≤ y) ∧ (Fmt.fp32.val c < x ↔ Fmt.fp32.val c ^ 2 < y) := by
  obtain ⟨N, hN⟩ := exists_val_fp32_eq c
  have hgrid : Fmt.fp32.val c = (2 * N : Nat) * 2 ^ (-150 : Int) := by
    rw [hN, show (-149 : Int) = -150 + 1 from rfl, zpow_add_one₀ two_ne_zero]
    push_cast
    ring
  rw [hgrid]
  exact h (2 * N)

theorem mid_rootOn : ((Fmt.fp32.val c + Fmt.fp32.val (c + 1)) / 2 ≤ x ↔ ((Fmt.fp32.val c + Fmt.fp32.val (c + 1)) / 2) ^ 2 ≤ y) ∧
    ((Fmt.fp32.val c + Fmt.fp32.val (c + 1)) / 2 < x ↔ ((Fmt.fp32.val c + Fmt.fp32.val (c + 1)) / 2) ^ 2 < y) := by
  obtain ⟨N, hN⟩ := exists_val_fp32_eq c
  obtain ⟨N', hN'⟩ := exists_val_fp32_eq (c + 1)
  have hgrid : (Fmt.fp32.val c + Fmt.fp32.val (c + 1)) / 2 = (N + N' : Nat) * 2 ^ (-150 : Int) := by
    rw [hN, hN', show (-149 : Int) = -150 + 1 from rfl, zpow_add_one₀ two_ne_zero]
    push_cast
    ring
  rw [hgrid]
  exact h (N + N')

end

/-- The middle of two normal FP32 values is no root of a value of at most 24 significant bits, nor of the reciprocal of one: its square has
an odd factor above 2^48. -/
theorem mid_sq_ne {c : Nat} (hc : 2 ^ 23 ≤ c) {n d : Nat} (hn : n ≠ 0) (hd : d ≠ 0) (hn24 : n < 2 ^ 24) (e : Int) :
    ((Fmt.fp32.val c + Fmt.fp32.val (c + 1)) / 2) ^ 2 ≠ n / d * 2 ^ e := by
  obtain ⟨j, k, rfl, hj, hk⟩ := exists_place 23 c
  have hk23 : 2 ^ 23 ≤ k := by
    rcases hj with rfl | h
    · omega
    · exact h
  have hmid : (Fmt.fp32.val (j * 2 ^ 23 + k) + Fmt.fp32.val (j * 2 ^ 23 + k + 1)) / 2 = (2 * k + 1 : Nat) * 2 ^ ((j : Int) - 150) := by
    have hhi : Fmt.fp32.val (j * 2 ^ 23 + k + 1) = ((k : ℚ) + 1) * 2 ^ ((j : Int) + 1 - 127 - 23) := by
      rw [Nat.add_assoc]
      exact (magVal_place 127 (hj.imp_right fun h => by omega) hk).trans (by push_cast; rfl)
    rw [show Fmt.fp32.val (j * 2 ^ 23 + k) = k * 2 ^ ((j : Int) + 1 - 127 - 23) from magVal_place 127 hj hk.le, hhi,
      show (j : Int) + 1 - 127 - 23 = (j - 150) + 1 by omega, zpow_add_one₀ two_ne_zero]
    push_cast
    ring
  rw [hmid]
  intro heq
  -- in integers: an odd square divides n times a power of two
  let t : Int := (j : Int) - 150
  have hdpos : (d : ℚ) ≠ 0 := Nat.cast_ne_zero.mpr hd
  have hint : (2 * k + 1) ^ 2 * (d * 2 ^ (2 * t - e).toNat) = n * 2 ^ (e - 2 * t).toNat := by
    have hq : (((2 * k + 1) ^ 2 * (d * 2 ^ (2 * t - e).toNat) : Nat) : ℚ) = (n * 2 ^ (e - 2 * t).toNat : Nat) := by
      have hpow : (2 : ℚ) ^ (e - 2 * t).toNat = 2 ^ (2 * t - e).toNat * 2 ^ (e - 2 * t) := by
        rw [← zpow_natCast, ← zpow_natCast, ← zpow_add₀ two_ne_zero]
        congr 1
        omega
      have hsq : ((2 : ℚ) ^ t) ^ 2 = 2 ^ (2 * t) := by rw [← zpow_natCast, ← zpow_mul]; congr 1; push_cast; ring
      rw [mul_pow, hsq] at heq
      push_cast
      rw [hpow, zpow_sub₀ two_ne_zero]
      push_cast at heq
      field_simp at heq ⊢
      linear_combination heq
    exact_mod_cast hq
  have hdvd : (2 * k + 1) ^ 2 ∣ n * 2 ^ (e - 2 * t).toNat := Dvd.intro _ hint
  have hcop : Nat.Coprime ((2 * k + 1) ^ 2) (2 ^ (e - 2 * t).toNat) :=
    Nat.Coprime.pow _ _ (Nat.coprime_two_right.mpr ⟨k, rfl⟩)
  have hle := Nat.le_of_dvd (Nat.pos_of_ne_zero hn) (hcop.dvd_of_dvd_mul_right hdvd)
  nlinarith

/-- The values of a code and of its two neighbours. -/
theorem rat_decodeFp32_ofNat {c : Nat} (hc : c ≤ Fmt.fp32.maxCode) : Claims.rat (decodeFp32 (BitVec.ofNat 32 c)) = Fmt.fp32.val c := by
  change (decodeFp32 (BitVec.ofNat 32 (Fmt.fp32.signed false c))).toRat = _
  rw [decodeFp32_ofNat_signed hc, toRat_mkFin, if_neg Bool.false_ne_true, one_mul]

/-- A normal code `c` below the root of `y`, far from overflow. -/
structure RootCode (c : Nat) (x y : ℚ) : Prop where
  lo : Fmt.fp32.val c ≤ x
  hi : x < Fmt.fp32.val (c + 1)
  normal : 2 ^ 23 ≤ c
  small : c < 0x7F000000
  root : RootOn (2 ^ (-150 : Int)) x y
  noTie : ((Fmt.fp32.val c + Fmt.fp32.val (c + 1)) / 2) ^ 2 ≠ y

/-- The rounding of the root, stated of the squares. -/
theorem roundsRoot_of_code {c : Nat} {x y : ℚ} (h : RootCode c x y) (rm : Rm) :
    let r := roundAt c (Fmt.fp32.val c) x (Fmt.fp32.val (c + 1)) false rm
    Claims.RoundsRoot rm y (BitVec.ofNat 32 r) := by
  obtain ⟨hlo, hhi, hnormal, hsmall, hroot, htie⟩ := h
  have hmono : StrictMono Fmt.fp32.val := magVal_strictMono (m := 23) 127
  obtain ⟨b, rfl⟩ : ∃ b, c = b + 1 := ⟨c - 1, by omega⟩
  intro r
  have hr : r = b + 1 ∨ r = b + 1 + 1 := roundAt_eq_or (b + 1) _ x _ false rm
  have hnat : (BitVec.ofNat 32 r).toNat = r := Nat.mod_eq_of_lt (by omega)
  have hval {k : Nat} (hk : k ≤ b + 3) : Claims.rat (decodeFp32 (BitVec.ofNat 32 k)) = Fmt.fp32.val k :=
    rat_decodeFp32_ofNat (by simp only [Fmt.maxCode]; omega)
  have hsucc : BitVec.ofNat 32 r + 1 = BitVec.ofNat 32 (r + 1) := BitVec.eq_of_toNat_eq (by simp)
  have hpred : BitVec.ofNat 32 r - 1 = BitVec.ofNat 32 (r - 1) := by
    rw [show r = r - 1 + 1 by omega, BitVec.ofNat_add]
    simp
  refine ⟨by omega, by rw [hnat]; omega, ?_⟩
  have hv := hval (show r ≤ b + 3 by omega)
  have hv' := hval (show r + 1 ≤ b + 3 by omega)
  have hv'' := hval (show r - 1 ≤ b + 3 by omega)
  simp only [hsucc, hpred, hv, hv', hv'']
  -- the root of `y` compares with codes and with middles of codes as `x` does
  have hlt {k : Nat} (hk : x < Fmt.fp32.val k) : y < Fmt.fp32.val k ^ 2 := not_le.mp (mt (val_rootOn hroot k).1.mpr (not_le.mpr hk))
  have hle {k : Nat} (hk : x ≤ Fmt.fp32.val k) : y ≤ Fmt.fp32.val k ^ 2 := not_lt.mp (mt (val_rootOn hroot k).2.mpr (not_lt.mpr hk))
  have hmidlt {k : Nat} (hk : x < (Fmt.fp32.val k + Fmt.fp32.val (k + 1)) / 2) : y < ((Fmt.fp32.val k + Fmt.fp32.val (k + 1)) / 2) ^ 2 :=
    not_le.mp (mt (mid_rootOn hroot k).1.mpr (not_le.mpr hk))
  have hv01 : Fmt.fp32.val b < Fmt.fp32.val (b + 1) := hmono (Nat.lt_succ_self b)
  have hv12 : Fmt.fp32.val (b + 1) < Fmt.fp32.val (b + 1 + 1) := hmono (Nat.lt_succ_self _)
  have hv23 : Fmt.fp32.val (b + 1 + 1) < Fmt.fp32.val (b + 1 + 1 + 1) := hmono (Nat.lt_succ_self _)
  cases rm with
  | rz | rd =>
    obtain hr : r = b + 1 := ite_self _
    rw [hr]
    exact ⟨(val_rootOn hroot _).1.mp hlo, hlt hhi⟩
  | ru =>
    rcases hlo.eq_or_lt with heq | hgt
    · obtain hr : r = b + 1 := if_pos heq.symm
      rw [hr]
      exact ⟨(val_rootOn hroot _).2.mp (hv01.trans_le hlo), hle heq.ge⟩
    · obtain hr : r = b + 1 + 1 := if_neg hgt.ne'
      rw [hr]
      exact ⟨(val_rootOn hroot _).2.mp hgt, hle hhi.le⟩
  | rn =>
    have hdef : r = if x = Fmt.fp32.val (b + 1) then b + 1 else if 2 * x < Fmt.fp32.val (b + 1) + Fmt.fp32.val (b + 1 + 1) then b + 1
        else if Fmt.fp32.val (b + 1) + Fmt.fp32.val (b + 1 + 1) < 2 * x then b + 1 + 1 else b + 1 + (b + 1) % 2 := rfl
    rcases lt_trichotomy x ((Fmt.fp32.val (b + 1) + Fmt.fp32.val (b + 1 + 1)) / 2) with hx | hx | hx
    · obtain hr : r = b + 1 := by rw [hdef, if_pos (by linarith : 2 * x < _), ite_self]
      rw [hr]
      exact ⟨(mid_rootOn hroot b).2.mp (by linarith), hmidlt hx⟩
    · exact absurd (le_antisymm ((mid_rootOn hroot (b + 1)).1.mp hx.ge) (not_lt.mp (mt (mid_rootOn hroot (b + 1)).2.mpr hx.le.not_gt))) htie
    · obtain hr : r = b + 1 + 1 := by rw [hdef, if_neg (by linarith : ¬ x = _), if_neg (by linarith), if_pos (by linarith)]
      rw [hr]
      exact ⟨(mid_rootOn hroot (b + 1)).2.mp hx, hmidlt (by linarith)⟩

theorem roundsRoot {n d : Nat} (hn : n ≠ 0) (hd : d ≠ 0) (hn24 : n < 2 ^ 24) (hd24 : d < 2 ^ 24) {e : Int} (hlo : -149 ≤ e) (hhi : e ≤ 149) (rm : Rm) :
    Claims.RoundsRoot rm (n / d * 2 ^ e) (roundFp32 (sqrtX n d e) rm) := by
  obtain ⟨p, t, hp, hX, hroot⟩ := sqrtX_rootOn hn hd (by omega : e ≤ 300)
  obtain ⟨c, hclo, hchi, hcode⟩ := magCode_eq (f := .fp32) rfl false hp one_ne_zero t rm
  rw [Nat.cast_one, div_one] at hclo hchi hcode
  have hmono : StrictMono Fmt.fp32.val := magVal_strictMono (m := 23) 127
  have hdpos : (0 : ℚ) < d := Nat.cast_pos.mpr (Nat.pos_of_ne_zero hd)
  have hylo : (2 : ℚ) ^ (-252 : Int) ≤ n / d * 2 ^ e :=
    calc (2 : ℚ) ^ (-252 : Int) ≤ 2 ^ (-24 : Int) * 2 ^ (-149 : Int) := by norm_num
      _ ≤ n / d * 2 ^ e := by
        refine mul_le_mul ?_ (zpow_le_zpow_right₀ one_le_two hlo) (two_zpow_pos _).le (by positivity)
        rw [le_div_iff₀ hdpos]
        calc (2 : ℚ) ^ (-24 : Int) * d ≤ 2 ^ (-24 : Int) * 2 ^ 24 := mul_le_mul_of_nonneg_left (by exact_mod_cast hd24.le) (two_zpow_pos _).le
          _ = 1 := by norm_num
          _ ≤ n := by exact_mod_cast Nat.one_le_iff_ne_zero.mpr hn
  have hyhi : (n : ℚ) / d * 2 ^ e < 2 ^ (254 : Int) :=
    calc (n : ℚ) / d * 2 ^ e ≤ n * 2 ^ (149 : Int) := by
          refine mul_le_mul ?_ (zpow_le_zpow_right₀ one_le_two hhi) (two_zpow_pos _).le n.cast_nonneg
          exact div_le_self n.cast_nonneg (by exact_mod_cast Nat.one_le_iff_ne_zero.mpr hd)
      _ ≤ 2 ^ 24 * 2 ^ (149 : Int) := mul_le_mul_of_nonneg_right (by exact_mod_cast hn24.le) (two_zpow_pos _).le
      _ < 2 ^ (254 : Int) := by norm_num
  have hnormal : 2 ^ 23 ≤ c := by
    have hv : Fmt.fp32.val (2 ^ 23) = 2 ^ (-126 : Int) := by norm_num [magVal, magSig, magExp, Fmt.m, Fmt.bias]
    have h := ((val_rootOn hroot (2 ^ 23)).1.mpr (by rw [hv]; exact le_trans (by norm_num) hylo)).trans_lt hchi
    exact Nat.lt_succ_iff.mp (hmono.lt_iff_lt.mp h)
  have hsmall : c < 0x7F000000 := by
    have hv : Fmt.fp32.val 0x7F000000 = 2 ^ (127 : Int) := by norm_num [magVal, magSig, magExp, Fmt.m, Fmt.bias]
    have h : ¬ Fmt.fp32.val 0x7F000000 ≤ p * 2 ^ t := by
      rw [(val_rootOn hroot 0x7F000000).1, hv, not_le]
      exact hyhi.trans_le (by norm_num)
    exact hmono.lt_iff_lt.mp (hclo.trans_lt (not_le.mp h))
  have hr := roundAt_eq_or c (Fmt.fp32.val c) (p * 2 ^ t) (Fmt.fp32.val (c + 1)) false rm
  have hround : roundFp32 (sqrtX n d e) rm =
      BitVec.ofNat 32 (roundAt c (Fmt.fp32.val c) (p * 2 ^ t) (Fmt.fp32.val (c + 1)) false rm) := by
    rw [hX, roundFp32, roundTo_fin _ _ hp, hcode]
    dsimp only
    rw [if_neg (by simp only [Fmt.maxCode]; omega), if_neg (by omega)]
    rfl
  rw [hround]
  exact roundsRoot_of_code ⟨hclo, hchi, hnormal, hsmall, hroot, mid_sq_ne hnormal hn hd hn24 e⟩ rm

/-! ### Integers and powers of two (R138) -/

/-- A value of at most 24 significant bits is its own FP32 rounding. -/
theorem roundFp32_of_sig {N : Nat} {t : Int} (hN : N < 2 ^ 24) (ht : -149 ≤ t) (hmax : (N : ℚ) * 2 ^ t ≤ 2 ^ 127) :
    ∃ c, Fmt.fp32.val c = N * 2 ^ t ∧ ∀ s rm, decodeFp32 (roundFp32 (.fin s N 1 t) rm) = Fmt.fp32.mkFin s c := by
  obtain ⟨c, hc⟩ := exists_magVal_eq (m := 23) 127 hN ht
  have hcmax : c ≤ Fmt.fp32.maxCode := by
    refine le_maxCode_of_val_le (f := .fp32) ?_
    rw [val_fp32_maxCode]
    exact (hc.trans_le hmax).trans (by norm_num)
  refine ⟨c, hc, fun s rm => ?_⟩
  rw [roundFp32_exact s one_ne_zero rm (by rw [Nat.cast_one, div_one]; exact hc.symm) hcmax, decodeFp32_ofNat_signed hcmax]

theorem exp2X_int {s : Bool} {N : Nat} {t n : Int} (hN : N ≠ 0) (hval : (N : ℚ) * 2 ^ t = n.natAbs) (hs : s = decide (n < 0))
    (hn : n.natAbs < 2 ^ 9) : exp2X s N 1 t = .fin false 1 1 n := by
  have hlog : ratLog2 N 1 + t < 9 := by
    obtain ⟨hlo, -⟩ := ratLog2_bounds hN one_ne_zero
    have h : (2 : ℚ) ^ (ratLog2 N 1 + t) < 2 ^ (9 : Int) := by
      rw [zpow_add₀ two_ne_zero]
      calc (2 : ℚ) ^ ratLog2 N 1 * 2 ^ t ≤ N * 2 ^ t := mul_le_mul_of_nonneg_right (by simpa using hlo) (two_zpow_pos t).le
        _ = n.natAbs := hval
        _ < 2 ^ (9 : Int) := by exact_mod_cast hn
    exact (zpow_lt_zpow_iff_right₀ one_lt_two).mp h
  have hq2 : (scaleRat N 1 t).2 ≠ 0 := scaleRat_den one_ne_zero N t
  have hq : (scaleRat N 1 t).1 = n.natAbs * (scaleRat N 1 t).2 := by
    have h := scaleRat_quot N 1 t
    rw [Nat.cast_one, div_one, hval, div_eq_iff (Nat.cast_ne_zero.mpr hq2)] at h
    exact_mod_cast h
  have hceil : (n.natAbs * (scaleRat N 1 t).2 + (scaleRat N 1 t).2 - 1) / (scaleRat N 1 t).2 = n.natAbs := by
    rw [Nat.add_sub_assoc (by omega), Nat.add_comm, Nat.add_mul_div_right _ _ (by omega), Nat.div_eq_of_lt (by omega), Nat.zero_add]
  have hfloor : n.natAbs * (scaleRat N 1 t).2 / (scaleRat N 1 t).2 = n.natAbs := Nat.mul_div_cancel _ (by omega)
  rw [exp2X]
  dsimp only
  rw [if_neg hN, if_neg (by omega), hq]
  cases s
  · have hneg : ¬ n < 0 := of_decide_eq_false hs.symm
    simp only [Bool.false_eq_true, if_false, hfloor, Int.toNat_natCast, Nat.sub_self, if_true]
    congr 1
    omega
  · have hneg : n < 0 := of_decide_eq_true hs.symm
    simp only [if_true, hceil, neg_neg, Int.toNat_natCast, Nat.sub_self]
    congr 1
    omega

theorem log2X_two_pow {N : Nat} {t n : Int} (hN : N ≠ 0) (hval : (N : ℚ) * 2 ^ t = 2 ^ n) : log2X N 1 t = xint n := by
  have hNq : (N : ℚ) = 2 ^ (n - t) := by rw [zpow_sub₀ two_ne_zero, ← hval, mul_div_cancel_right₀ _ (two_zpow_ne_zero t)]
  have hpos : 0 ≤ n - t := by
    have h : (2 : ℚ) ^ (0 : Int) ≤ 2 ^ (n - t) := by
      rw [← hNq, zpow_zero]
      exact_mod_cast Nat.one_le_iff_ne_zero.mpr hN
    exact (zpow_le_zpow_iff_right₀ one_lt_two).mp h
  have hlog : ratLog2 N 1 = n - t := by
    obtain ⟨hlo, hhi⟩ := ratLog2_bounds hN one_ne_zero
    rw [Nat.cast_one, div_one, hNq] at hlo hhi
    have h1 := (zpow_le_zpow_iff_right₀ one_lt_two).mp hlo
    have h2 := (zpow_lt_zpow_iff_right₀ one_lt_two).mp hhi
    omega
  have hpow : N = 2 ^ (n - t).toNat := by
    have h := hNq.trans (two_zpow_toNat hpos).symm
    exact_mod_cast h
  rw [log2X]
  dsimp only
  rw [hlog, if_pos ⟨rfl, hpow⟩, Int.sub_add_cancel]

theorem elemCode_of_decode {fn : ElemFn} {rm : Rm} {a : Word} {x : Xreal} (h : decodeFp32 a = x) : elemCode fn rm a = roundFp32 (elemX fn x) rm := by
  rw [elemCode, h]

/-- A function of a finite value that is not 0. -/
theorem elemX_mkFin {k : Nat} (hk : k ≠ 0) (fn : ElemFn) (s : Bool) : elemX fn (Fmt.fp32.mkFin s k) =
    let n := magSig 23 k
    let e := magExp 23 127 k
    match fn with
    | .rcp => .fin s 1 n (-e)
    | .rsq => if s then .nan else sqrtX 1 n (-e)
    | .sqrt => if s then .nan else sqrtX n 1 e
    | .ex2 => exp2X s n 1 e
    | .lg2 => if s then .nan else log2X n 1 e
    | .sin => sinX s n 1 e
    | .cos => cosX n 1 e
    | .tanh => tanhX s n 1 e := if_neg (magSig_ne_zero hk)

theorem elemX_sqrt {k : Nat} (hk : k ≠ 0) : elemX .sqrt (Fmt.fp32.mkFin false k) = sqrtX (magSig 23 k) 1 (magExp 23 127 k) := by
  rw [elemX_mkFin hk]
  dsimp only
  rw [if_neg Bool.false_ne_true]

theorem elemX_rsq {k : Nat} (hk : k ≠ 0) : elemX .rsq (Fmt.fp32.mkFin false k) = sqrtX 1 (magSig 23 k) (-magExp 23 127 k) := by
  rw [elemX_mkFin hk]
  dsimp only
  rw [if_neg Bool.false_ne_true]

theorem ex2_int {n : Int} (hn : n.natAbs < 2 ^ 9) : elemCode .ex2 .rn (roundFp32 (xint n) .rn) = roundFp32 (xdyadic false 1 n) .rn := by
  obtain ⟨c, hc, hdec⟩ := roundFp32_of_sig (N := n.natAbs) (t := 0) (by omega) (by decide) (by
    rw [zpow_zero, mul_one]
    exact le_trans (by exact_mod_cast hn.le) (show ((2 ^ 9 : Nat) : ℚ) ≤ 2 ^ 127 by norm_num))
  rw [zpow_zero, mul_one] at hc
  refine (elemCode_of_decode (hdec (decide (n < 0)) .rn)).trans ?_
  by_cases h0 : c = 0
  · have hn0 : n = 0 := by
      rw [h0, Fmt.val, magVal_zero] at hc
      have h : n.natAbs = 0 := by exact_mod_cast hc.symm
      omega
    rw [h0, hn0]
    rfl
  · rw [elemX_mkFin h0]
    exact congrArg (roundFp32 · .rn) (exp2X_int (magSig_ne_zero h0) hc rfl hn)

theorem lg2_two_pow {n : Int} (hlo : -149 ≤ n) (hhi : n ≤ 127) :
    elemCode .lg2 .rn (roundFp32 (xdyadic false 1 n) .rn) = roundFp32 (xint n) .rn := by
  obtain ⟨c, hc, hdec⟩ := roundFp32_of_sig (N := 1) (t := n) (by decide) hlo (by
    rw [Nat.cast_one, one_mul]
    exact zpow_le_zpow_right₀ one_le_two hhi)
  rw [Nat.cast_one, one_mul] at hc
  have h0 : c ≠ 0 := by
    rintro rfl
    rw [Fmt.val, magVal_zero] at hc
    exact two_zpow_ne_zero n hc.symm
  refine (elemCode_of_decode (hdec false .rn)).trans ?_
  rw [elemX_mkFin h0]
  exact congrArg (roundFp32 · .rn) (log2X_two_pow (magSig_ne_zero h0) hc)

/-! ### The statements of R138 -/

theorem elementaryRounding : Claims.ElementaryRounding := by
  refine ⟨fun rm a s n d e h hn => ?_, fun rm a hpos hfin hzero => ?_, fun n hlo hhi => ⟨ex2_int (by omega), lg2_two_pow hlo hhi⟩⟩
  · rw [elemCode_of_decode h]
    exact congrArg (roundFp32 · rm) (if_neg hn)
  · obtain ⟨hk, hdec⟩ := decodeFp32_of_isFin hfin
    generalize a.toNat % 2 ^ 31 = k at hk hdec
    rw [hpos] at hdec
    have hk0 : k ≠ 0 := by
      rintro rfl
      rw [hdec] at hzero
      cases hzero
    have hexp : -149 ≤ magExp 23 127 k ∧ magExp 23 127 k ≤ 104 := by
      simp only [Fmt.maxCode] at hk
      exact ⟨magExp_ge 127 k, by unfold magExp; omega⟩
    have hrat : Claims.rat (decodeFp32 a) = (magSig 23 k : ℚ) * 2 ^ magExp 23 127 k := by
      change (decodeFp32 a).toRat = _
      rw [hdec, toRat_mkFin, if_neg Bool.false_ne_true, one_mul]
      rfl
    have hsig := magSig_lt (m := 23) k
    rw [hrat, elemCode_of_decode hdec, elemCode_of_decode hdec, elemX_sqrt hk0, elemX_rsq hk0]
    constructor
    · have h := roundsRoot (magSig_ne_zero hk0) one_ne_zero hsig (by decide) hexp.1 (by omega) rm
      rwa [Nat.cast_one, div_one] at h
    · have h := roundsRoot one_ne_zero (magSig_ne_zero hk0) (by decide) hsig (e := -magExp 23 127 k) (by omega) (by omega) rm
      rwa [Nat.cast_one, zpow_neg, div_mul_eq_mul_div, one_mul, ← one_div, div_div, mul_comm (2 ^ _)] at h

theorem elemCode_nan {a : Word} (h : (decodeFp32 a).isNan = true) (fn : ElemFn) (rm : Rm) : elemCode fn rm a = 0x7FC00000 := by
  cases hx : decodeFp32 a with
  | nan => exact elemCode_of_decode hx
  | _ =>
    rw [hx] at h
    cases h

/-- The functions of positive values alone, of a negative one. -/
theorem elemCode_negative {a : Word} (hneg : a.getLsbD 31 = true) (hzero : (decodeFp32 a).isZero = false) {fn : ElemFn}
    (hfn : fn ∈ [ElemFn.rsq, .sqrt, .lg2]) (rm : Rm) : elemCode fn rm a = 0x7FC00000 := by
  have hx : elemX fn (decodeFp32 a) = .nan := by
    rw [decodeFp32_eq, hneg] at hzero ⊢
    split
    · fin_cases hfn <;> rfl
    · split
      · rfl
      · next h1 h2 =>
        rw [if_neg h1, if_neg h2] at hzero
        have hk : a.toNat % 2 ^ 31 ≠ 0 := by
          intro h
          rw [h] at hzero
          cases hzero
        rw [elemX_mkFin hk]
        fin_cases hfn <;> rfl
  rw [elemCode, hx]
  rfl

/-- Settles O10. -/
theorem elementaryFunctions : Obligations.ElementaryFunctions := by
  unfold Obligations.ElementaryFunctions
  refine ⟨elementaryRounding, fun o => ⟨regResult_alu (fun s => dispatch_frcp s o), regResult_alu (fun s => dispatch_frsq s o),
    regResult_alu (fun s => dispatch_fsqrt s o), regResult_alu (fun s => dispatch_fex2 s o), regResult_alu (fun s => dispatch_flg2 s o),
    regResult_alu (fun s => dispatch_fsin s o), regResult_alu (fun s => dispatch_fcos s o), regResult_alu (fun s => dispatch_ftanh s o)⟩,
    fun fn rm a h => elemCode_nan h fn rm, fun rm a hneg hzero => ⟨elemCode_negative hneg hzero (by decide) rm,
      elemCode_negative hneg hzero (by decide) rm, elemCode_negative hneg hzero (by decide) rm⟩, fun rm => ?_⟩
  cases rm <;> decide

end Sys2Proof.Machine
end

section
/-! Conversions of scalars, packed pairs and groups (R139 to R141, R145). -/

namespace Sys2Proof.Machine

/-! ### Elements of words (R84) -/

theorem decodeElem_extract {f : Fmt} (hf : f.isFloat = true) {w : Nat} (hw : f.width = w) (sp : Xreal) (a : Word) (s : Nat) :
    decodeElem f sp (a.extractLsb' s w).toNat = decodeElem f sp (a.toNat / 2 ^ s) := by
  subst hw
  rw [BitVec.extractLsb'_toNat, Nat.shiftRight_eq_div_pow, decodeElem_mod hf]

/-- The formats of a half-width type. -/
theorem half_fltFmt {t : Ty} (h : t.isHalf = true) : (fltFmt t).isFloat = true ∧ (fltFmt t).width = 16 ∧ t ≠ .f32 := by
  revert h
  cases t <;> decide

theorem append_halves {p : Nat} (hp : p < 65536) (q : Nat) : BitVec.ofNat 32 (p + q * 65536) = (BitVec.ofNat 16 q ++ BitVec.ofNat 16 p : Word) := by
  rw [← ofNat_halves, Nat.mod_eq_of_lt hp]
  apply BitVec.eq_of_toNat_eq
  simp only [BitVec.toNat_ofNat]
  omega

theorem lo32_ofNat (n : Nat) : lo32 (BitVec.ofNat 64 n) = BitVec.ofNat 32 n := by rw [lo32, BitVec.setWidth_ofNat_of_le (by decide)]

theorem hi32_ofNat {p : Nat} (hp : p < 2 ^ 32) (q : Nat) : hi32 (BitVec.ofNat 64 (p + q * 2 ^ 32)) = BitVec.ofNat 32 q := by
  apply BitVec.eq_of_toNat_eq
  rw [hi32, BitVec.extractLsb'_toNat, BitVec.toNat_ofNat, BitVec.toNat_ofNat, Nat.shiftRight_eq_div_pow]
  omega

theorem lo32_ofNat_pair (p q : Nat) : lo32 (BitVec.ofNat 64 (p + q * 2 ^ 32)) = BitVec.ofNat 32 p := by
  rw [lo32_ofNat]
  apply BitVec.eq_of_toNat_eq
  rw [BitVec.toNat_ofNat, BitVec.toNat_ofNat]
  omega

/-! ### CVTP (R140) -/

/-- What Table 4 allows CVTP. -/
theorem cvtp_forms {o : Cv} (h : WellFormed (.cvtp o)) :
    (o.packs = true ∧ o.ts = .f32 ∧ o.td.isHalf = true) ∨ (o.packs = false ∧ o.ts.isHalf = true ∧ (o.td = .f32 ∨ o.td.isHalf = true)) := by
  have h := (Bool.and_eq_true_iff.mp h).2
  cases hp : o.packs
  · rw [hp] at h
    simp only [Bool.false_eq_true, if_false, Bool.and_eq_true, Bool.or_eq_true, beq_iff_eq] at h
    exact .inr ⟨rfl, by tauto⟩
  · simp only [Cv.packs, Bool.and_eq_true, beq_iff_eq] at hp
    exact .inl ⟨rfl, hp.2, hp.1⟩

theorem cvtp_result (o : Cv) (hwf : WellFormed (.cvtp o)) : RegResult (.cvtp o) o.sw o.d (if o.td == .f32 then 2 else 1) 8
    ((Deps.src 1 o.a).join (if o.packs then Deps.src 1 o.b else {})) (fun x l =>
      let r := fun (v : Xreal) => roundTo (fltFmt o.td) v o.rm o.sat
      let half := fun i => decodeElem (fltFmt o.ts) (xzero false) ((x.lane o.a l).extractLsb' (16 * i) 16).toNat
      let two := fun (p q : Nat) => (BitVec.ofNat 16 q ++ BitVec.ofNat 16 p : Word)
      if o.ts = .f32 then [two (r (decodeFp32 (x.lane o.a l))) (r (decodeFp32 (x.lane o.b l)))]
      else if o.td = .f32 then [BitVec.ofNat 32 (r (half 0)), BitVec.ofNat 32 (r (half 1))] else [two (r (half 0)) (r (half 1))]) := by
  refine regResult_congr (regResult_alu (f := fun x l => words2 (laneCvtp o (x.lane o.a l) (x.lane o.b l)))
    (fun s => dispatch_cvtp s o)) (fun x l j hj => ?_)
  have hr (h : o.td.isHalf = true) (v : Xreal) : roundTo (fltFmt o.td) v o.rm o.sat < 65536 := by
    obtain ⟨hf, hw, -⟩ := half_fltFmt h
    have hlt := roundTo_lt hf v o.rm o.sat
    rwa [hw] at hlt
  rcases cvtp_forms hwf with ⟨hp, hts, htd⟩ | ⟨hp, hts, htd⟩
  · obtain ⟨-, -, hne⟩ := half_fltFmt htd
    obtain rfl : j = 0 := by simpa [hne] using hj
    simp only [laneCvtp, hp, hts, if_true, words2, List.getD_cons_zero, lo32_ofNat]
    rw [append_halves (hr htd _)]
  · obtain ⟨hf, hw, hne⟩ := half_fltFmt hts
    have hhalf (i : Nat) : decodeElem (fltFmt o.ts) (xzero false) ((x.lane o.a l).toNat / 65536 ^ i) =
        decodeElem (fltFmt o.ts) (xzero false) ((x.lane o.a l).extractLsb' (16 * i) 16).toNat := by
      rw [decodeElem_extract hf hw, Nat.pow_mul]
    simp only [laneCvtp, hp, if_neg hne, Bool.false_eq_true, if_false, hhalf]
    rcases htd with htd | htd
    · have hlt (v : Xreal) : roundTo (fltFmt o.td) v o.rm o.sat < 2 ^ 32 := by
        rw [htd]
        exact roundTo_lt (f := .fp32) rfl v o.rm o.sat
      rw [if_pos htd, if_pos htd, words2, lo32_ofNat_pair, hi32_ofNat (hlt _)]
    · obtain ⟨-, -, hne'⟩ := half_fltFmt htd
      obtain rfl : j = 0 := by simpa [hne'] using hj
      simp only [if_neg hne', words2, List.getD_cons_zero, lo32_ofNat]
      rw [append_halves (hr htd _)]

/-! ### CVT8 (R141) -/

theorem eq_of_isHalf {t : Ty} (h : t.isHalf = true) : t = .bf16 ∨ t = .f16 := by simpa [Ty.isHalf] using h

theorem eq_of_isF8 {t : Ty} (h : t.isF8 = true) : t = .e5m2 ∨ t = .e4m3 ∨ t = .e3m4 := by simpa [Ty.isF8, or_assoc] using h

/-- The pairs of types that Table 5 allows CVT8. -/
theorem cvt8_types {o : Cv} (h : WellFormed (.cvt8 o)) :
    (o.td.isF8 = true ∧ (o.ts = .f32 ∨ o.ts.isHalf = true)) ∨ (o.td = .e2m1 ∧ o.ts.isHalf = true) ∨
      (o.ts.isF8 = true ∧ (o.td = .f32 ∨ o.td.isHalf = true)) ∨ (o.ts = .e2m1 ∧ o.td.isHalf = true) := by
  have h := (Bool.and_eq_true_iff.mp h).2
  simp only [Bool.or_eq_true, Bool.and_eq_true, beq_iff_eq] at h
  rcases h with ((⟨⟨h1, h2⟩, -⟩ | ⟨⟨h1, h2⟩, -⟩) | ⟨⟨h1, h2⟩, -⟩) | ⟨-, (⟨⟨h1, h2⟩, -⟩ | ⟨⟨h1, h2⟩, -⟩) | ⟨⟨h1, h2⟩, -⟩⟩
  · exact .inl ⟨h1, .inl h2⟩
  · exact .inl ⟨h1, .inr h2⟩
  · exact .inr (.inl ⟨h1, h2⟩)
  · exact .inr (.inr (.inl ⟨h2, .inl h1⟩))
  · exact .inr (.inr (.inl ⟨h2, .inr h1⟩))
  · exact .inr (.inr (.inr ⟨h2, h1⟩))

theorem width_mul_div (f : Fmt) : f.width * (32 / f.width) = 32 := by cases f <;> decide

/-- Both groups of CVT8 hold the same number of floating-point elements. -/
theorem cvt8_forms {o : Cv} (h : WellFormed (.cvt8 o)) :
    (fltFmt o.ts).isFloat = true ∧ (fltFmt o.td).isFloat = true ∧ cvt8In o * (32 / (fltFmt o.ts).width) = cvt8Out o * (32 / (fltFmt o.td).width) := by
  rcases cvt8_types h with ⟨hd, hs | hs⟩ | ⟨hd, hs⟩ | ⟨hs, hd | hd⟩ | ⟨hs, hd⟩
  · rcases eq_of_isF8 hd with hd | hd | hd <;> simp [cvt8In, cvt8Out, hs, hd, Ty.isHalf, fltFmt, tyFmt, Fmt.width, Fmt.isFloat]
  · rcases eq_of_isF8 hd with hd | hd | hd <;> rcases eq_of_isHalf hs with hs | hs <;>
      simp [cvt8In, cvt8Out, hs, hd, Ty.isHalf, fltFmt, tyFmt, Fmt.width, Fmt.isFloat]
  · rcases eq_of_isHalf hs with hs | hs <;> simp [cvt8In, cvt8Out, hs, hd, Ty.isHalf, fltFmt, tyFmt, Fmt.width, Fmt.isFloat]
  · rcases eq_of_isF8 hs with hs | hs | hs <;> simp [cvt8In, cvt8Out, hs, hd, Ty.isHalf, fltFmt, tyFmt, Fmt.width, Fmt.isFloat]
  · rcases eq_of_isF8 hs with hs | hs | hs <;> rcases eq_of_isHalf hd with hd | hd <;>
      simp [cvt8In, cvt8Out, hs, hd, Ty.isHalf, fltFmt, tyFmt, Fmt.width, Fmt.isFloat]
  · rcases eq_of_isHalf hd with hd | hd <;> simp [cvt8In, cvt8Out, hs, hd, Ty.isHalf, fltFmt, tyFmt, Fmt.width, Fmt.isFloat]

/-- Elements packed from the lowest place on. -/
theorem packElems_map (w : Nat) (f : Nat → Nat) (n : Nat) : ∀ i, packElems w ((List.range n).map (fun k => f (i + k))) =
    ((List.range n).map (fun k => f (i + k) % 2 ^ w * 2 ^ (w * k))).sum := by
  induction n with
  | zero => exact fun _ => rfl
  | succ n ih =>
    intro i
    rw [List.range_succ_eq_map, List.map_cons, List.map_cons, List.map_map, List.map_map, packElems, List.sum_cons]
    have hshift : (fun k => f (i + k)) ∘ Nat.succ = fun k => f (i + 1 + k) := funext fun k => congrArg f (by simp only [Nat.succ_eq_add_one]; omega)
    rw [hshift, ih (i + 1), ← List.sum_map_mul_right, Nat.mul_zero, Nat.pow_zero, Nat.mul_one]
    congr 2
    apply List.map_congr_left
    intro k _
    simp only [Function.comp_apply, Nat.succ_eq_add_one]
    rw [show i + 1 + k = i + (k + 1) by omega, Nat.mul_add w k 1, Nat.mul_one, Nat.pow_add, Nat.mul_assoc]

/-- The elements from the `p`-th on. -/
theorem packElems_div (w : Nat) (es : List Nat) (p : Nat) : packElems w es / 2 ^ (w * p) = packElems w (es.drop p) := by
  induction p generalizing es with
  | zero => simp
  | succ p ih =>
    cases es with
    | nil => simp [packElems]
    | cons e es =>
      have hpos : 0 < 2 ^ w := by positivity
      rw [packElems, List.drop_succ_cons, ← ih, Nat.mul_add w p 1, Nat.mul_one, Nat.pow_add, Nat.mul_comm (2 ^ (w * p)), ← Nat.div_div_eq_div_mul,
        Nat.add_mul_div_right _ _ hpos, Nat.div_eq_of_lt (Nat.mod_lt _ hpos), Nat.zero_add]

/-- The first `q` elements. -/
theorem packElems_mod (w : Nat) (es : List Nat) (q : Nat) : packElems w es % 2 ^ (w * q) = packElems w (es.take q) := by
  induction q generalizing es with
  | zero => simp [packElems, Nat.mod_one]
  | succ q ih =>
    cases es with
    | nil => simp [packElems]
    | cons e es =>
      have hpos : 0 < 2 ^ w := by positivity
      have hlt : e % 2 ^ w < 2 ^ w := Nat.mod_lt _ hpos
      rw [packElems, List.take_succ_cons, packElems, ← ih, Nat.mul_add w q 1, Nat.mul_one, Nat.pow_add, Nat.mul_comm (2 ^ (w * q)), Nat.mod_mul,
        Nat.add_mul_mod_self_right, Nat.add_mul_div_right _ _ hpos, Nat.mod_eq_of_lt hlt, Nat.div_eq_of_lt hlt, Nat.zero_add, Nat.mul_comm (2 ^ w)]

/-- Register `j` of a packed group. -/
theorem packElems_register {w q : Nat} (hw : w * q = 32) {f : Nat → Nat} (hf : ∀ i, f i < 2 ^ w) {n j : Nat} (hj : j * q + q ≤ n) :
    BitVec.ofNat 32 (packElems w ((List.range n).map f) / 2 ^ (32 * j)) =
      BitVec.ofNat 32 ((List.range q).map (fun k => f (j * q + k) * 2 ^ (w * k))).sum := by
  have hslice : (((List.range n).map f).drop (j * q)).take q = (List.range q).map (fun k => f (j * q + k)) := by
    apply List.ext_getElem
    · simp; omega
    · intro i h1 h2
      simp
  have hmod (v : Nat) : BitVec.ofNat 32 v = BitVec.ofNat 32 (v % 2 ^ (w * q)) := by
    apply BitVec.eq_of_toNat_eq
    rw [hw]
    simp
  have hlt (k : Nat) : f (j * q + k) % 2 ^ w = f (j * q + k) := Nat.mod_eq_of_lt (hf _)
  rw [show 32 * j = w * (j * q) by rw [← hw]; ring, packElems_div, hmod, packElems_mod, hslice, packElems_map w f q (j * q)]
  simp only [hlt]

theorem Fmt.width_pos (f : Fmt) : 0 < f.width := by cases f <;> decide

/-- The elements that CVT8 reads from a group of registers. -/
theorem cvt8_els {o : Cv} (hs : (fltFmt o.ts).isFloat = true) (x : Warp) (l : Nat) :
    (List.range (cvt8In o * (32 / (fltFmt o.ts).width))).map (fun i => roundTo (fltFmt o.td) (decodeElem (fltFmt o.ts) (xzero false)
      (groupElem ((List.range (cvt8In o)).map (fun i => x.laneAt i o.a l)) (fltFmt o.ts).width i)) o.rm o.sat) =
    (List.range (cvt8In o * (32 / (fltFmt o.ts).width))).map (fun i => roundTo (fltFmt o.td) (decodeElem (fltFmt o.ts) (xzero false)
      ((x.laneAt (i / (32 / (fltFmt o.ts).width)) o.a l).extractLsb' ((fltFmt o.ts).width * (i % (32 / (fltFmt o.ts).width)))
        (fltFmt o.ts).width).toNat) o.rm o.sat) := by
  refine List.map_congr_left (fun i hi => ?_)
  have hi : i / (32 / (fltFmt o.ts).width) < cvt8In o := Nat.div_lt_of_lt_mul (by rw [Nat.mul_comm]; exact List.mem_range.mp hi)
  rw [groupElem, List.getD_eq_getElem _ _ (by simpa using hi), List.getElem_map, List.getElem_range, decodeElem_extract hs rfl, decodeElem_mod hs]

theorem cvt8_result (o : Cv) (hwf : WellFormed (.cvt8 o)) : RegResult (.cvt8 o) o.sw o.d (cvt8Out o) 8 (Deps.src (cvt8In o) o.a) (fun x l =>
    let ws := (fltFmt o.ts).width
    let wd := (fltFmt o.td).width
    let code := fun i => roundTo (fltFmt o.td) (decodeElem (fltFmt o.ts) (xzero false)
      ((x.laneAt (i / (32 / ws)) o.a l).extractLsb' (ws * (i % (32 / ws))) ws).toNat) o.rm o.sat
    (List.range (cvt8Out o)).map (fun j => BitVec.ofNat 32 ((List.range (32 / wd)).map (fun k => code (j * (32 / wd) + k) * 2 ^ (wd * k))).sum)) := by
  refine regResult_alu_of_eq (f := fun x l => laneCvt8 o ((List.range (cvt8In o)).map (fun i => x.laneAt i o.a l))) (fun s => dispatch_cvt8 s o) (fun x l => ?_)
  obtain ⟨hs, hd, hn⟩ := cvt8_forms hwf
  have hcount : 32 * cvt8In o / (fltFmt o.ts).width = cvt8Out o * (32 / (fltFmt o.td).width) :=
    Nat.div_eq_of_eq_mul_right (fltFmt o.ts).width_pos (by rw [← hn, Nat.mul_left_comm, width_mul_div, Nat.mul_comm])
  have hels := cvt8_els (o := o) hs x l
  rw [hn] at hels
  rw [laneCvt8, hcount]
  simp only []
  rw [hels, groupRegs]
  refine List.map_congr_left (fun j hj => packElems_register (width_mul_div _) (fun i => roundTo_lt hd _ _ _) ?_)
  rw [← Nat.succ_mul]
  exact Nat.mul_le_mul_right _ (List.mem_range.mp hj)

end Sys2Proof.Machine
end

section
/-! Widening conversions, block values and the lanes of QBLK and DQBLK (R93, R96, R140 to R145). -/

namespace Sys2Proof.Machine

/-! ### Widening (R140, R141) -/

/-- The block formats. -/
abbrev blockFmts : List Fmt := [.bf16, .fp16, .e5m2, .e4m3, .e3m4, .e2m1]

theorem isFloat_of_blockFmts {f : Fmt} (hf : f ∈ blockFmts) : f.isFloat = true := by
  revert f
  decide

/-- The largest finite value of a block format. -/
theorem val_maxCode {f : Fmt} (hf : f ∈ blockFmts) : f.val f.maxCode = Claims.maxOf f := by
  simp only [blockFmts, List.mem_cons, List.not_mem_nil, or_false] at hf
  rcases hf with rfl | rfl | rfl | rfl | rfl | rfl <;> norm_num [magVal, magSig, magExp, Fmt.m, Fmt.bias, Fmt.maxCode]

/-- The values of `f` are values of `g`, a format with infinities: neither the mantissa nor the range is wider, nor the least unit smaller. -/
structure Fmt.Widens (f g : Fmt) : Prop where
  wide : g ∈ [Fmt.fp32, .bf16, .fp16]
  mantissa : f.m ≤ g.m
  least : 1 - g.bias - g.m ≤ 1 - f.bias - f.m
  largest : f.val f.maxCode ≤ g.val g.maxCode

theorem widens_fp32 {f : Fmt} (hf : f ∈ blockFmts) : f.Widens .fp32 := by
  have hbits : ∀ f ∈ blockFmts, f.m ≤ Fmt.fp32.m ∧ 1 - Fmt.fp32.bias - Fmt.fp32.m ≤ 1 - f.bias - f.m := by decide
  refine ⟨by decide, (hbits f hf).1, (hbits f hf).2, ?_⟩
  rw [val_maxCode hf]
  simp only [blockFmts, List.mem_cons, List.not_mem_nil, or_false] at hf
  rcases hf with rfl | rfl | rfl | rfl | rfl | rfl <;> norm_num [magVal, magSig, magExp, Fmt.m, Fmt.bias, Fmt.maxCode]

/-- The 8-bit formats and E2M1 widen to the half-width formats. -/
theorem widens_half {f g : Fmt} (hf : f ∈ [Fmt.e5m2, .e4m3, .e3m4, .e2m1]) (hg : g ∈ [Fmt.bf16, .fp16]) : f.Widens g := by
  have hbits : ∀ f ∈ [Fmt.e5m2, .e4m3, .e3m4, .e2m1], ∀ g ∈ [Fmt.bf16, .fp16],
      f ∈ blockFmts ∧ g ∈ blockFmts ∧ g ∈ [Fmt.fp32, .bf16, .fp16] ∧ f.m ≤ g.m ∧ 1 - g.bias - g.m ≤ 1 - f.bias - f.m := by decide
  obtain ⟨hbf, hbg, hwide, hm, hleast⟩ := hbits f hf g hg
  refine ⟨hwide, hm, hleast, ?_⟩
  have hlargest : ∀ f ∈ [Fmt.e5m2, .e4m3, .e3m4, .e2m1], Claims.maxOf f ≤ 57344 := by simp; norm_num
  have hlargest' : ∀ g ∈ [Fmt.bf16, .fp16], 57344 ≤ Claims.maxOf g := by simp; norm_num
  rw [val_maxCode hbf, val_maxCode hbg]
  exact (hlargest f hf).trans (hlargest' g hg)

theorem isFloat_of_wide {g : Fmt} (hg : g ∈ [Fmt.fp32, .bf16, .fp16]) : g.isFloat = true ∧ g ≠ .e2m1 := by
  revert g
  decide

/-- A value rounded into a format and read back. -/
abbrev Fmt.reread (g : Fmt) (rm : Rm) (x : Xreal) : Xreal := decodeElem g (xzero false) (roundTo g x rm false)

theorem reread_nan {g : Fmt} (hg : g ∈ [Fmt.fp32, .bf16, .fp16]) (rm : Rm) : g.reread rm .nan = .nan := by
  simp only [List.mem_cons, List.not_mem_nil, or_false] at hg
  rcases hg with rfl | rfl | rfl <;> cases rm <;> decide

theorem reread_inf {g : Fmt} (hg : g ∈ [Fmt.fp32, .bf16, .fp16]) (rm : Rm) (s : Bool) : g.reread rm (.inf s) = .inf s := by
  simp only [List.mem_cons, List.not_mem_nil, or_false] at hg
  rcases hg with rfl | rfl | rfl <;> cases s <;> cases rm <;> decide

theorem reread_zero {g : Fmt} (hg : g ∈ [Fmt.fp32, .bf16, .fp16]) (rm : Rm) : g.reread rm (xzero false) = g.mkFin false 0 := by
  simp only [List.mem_cons, List.not_mem_nil, or_false] at hg
  rcases hg with rfl | rfl | rfl <;> cases rm <;> decide

/-- A finite value of `f` is kept. -/
theorem reread_mkFin {f g : Fmt} (h : f.Widens g) (rm : Rm) (s : Bool) {k : Nat} (hk : k ≤ f.maxCode) :
    ∃ c, g.val c = f.val k ∧ g.reread rm (f.mkFin s k) = g.mkFin s c := by
  obtain ⟨hg, hne⟩ := isFloat_of_wide h.wide
  obtain ⟨c, hc⟩ := exists_magVal_eq (m := g.m) g.bias ((magSig_lt (m := f.m) k).trans_le (Nat.pow_le_pow_right (by decide) (Nat.succ_le_succ h.mantissa)))
    (h.least.trans (magExp_ge f.bias k))
  have hmax : c ≤ g.maxCode := by
    refine (magVal_strictMono (m := g.m) g.bias).le_iff_le.mp ?_
    calc g.val c = f.val k := hc
      _ ≤ f.val f.maxCode := (magVal_strictMono f.bias).monotone hk
      _ ≤ g.val g.maxCode := h.largest
  exact ⟨c, hc, decodeElem_roundTo_exact hg hne _ s Nat.one_ne_zero rm false (by rw [Nat.cast_one, div_one]; exact hc.symm) hmax⟩

/-- A widening conversion keeps the kind, the sign and the value. -/
theorem widening_exact {f g : Fmt} (hf : f.isFloat = true) (h : f.Widens g) (c : Nat) (rm : Rm) :
    let x := decodeElem f (xzero false) c
    let y := g.reread rm x
    y.isNan = x.isNan ∧ y.isFin = x.isFin ∧ y.isNeg = x.isNeg ∧ y.toRat = x.toRat := by
  intro x y
  rcases decodeElem_cases hf (xzero false) c with hx | ⟨-, s, hx⟩ | ⟨s, k, hk, hx⟩ | ⟨-, hx⟩ <;> simp only [x, y, hx]
  · rw [reread_nan h.wide]
    exact ⟨rfl, rfl, rfl, rfl⟩
  · rw [reread_inf h.wide]
    exact ⟨rfl, rfl, rfl, rfl⟩
  · obtain ⟨c', hc', hy⟩ := reread_mkFin h rm s hk
    rw [hy, toRat_mkFin, toRat_mkFin, hc']
    exact ⟨rfl, rfl, rfl, rfl⟩
  · rw [reread_zero h.wide, toRat_mkFin, Fmt.val, magVal_zero]
    exact ⟨rfl, rfl, rfl, by norm_num [xzero, toRat_fin]⟩

/-- The code of negative zero is not a rounded E2M1 value. -/
theorem roundTo_e2m1_ne_eight (v : Xreal) (rm : Rm) (sat : Bool) : roundTo .e2m1 v rm sat ≠ 8 := by
  have hover (always s : Bool) : overflowCode .e2m1 s rm sat always ≠ 8 := by
    revert always s sat
    cases rm <;> decide
  cases v with
  | nan => exact Nat.zero_ne_add_one 7
  | inf s => exact hover true s
  | fin s n d e =>
    by_cases hn : n = 0
    · rw [roundTo, if_pos hn, zeroCode_eq_signed]
      cases s <;> decide
    rw [roundTo_fin _ s hn]
    generalize Fmt.magCode .e2m1 s n d e rm = c
    dsimp only
    split
    · exact hover false s
    · next hmax =>
      split
      · rw [zeroCode_eq_signed]
        cases s <;> decide
      · next h0 =>
        simp only [Fmt.maxCode] at hmax
        simp only [Fmt.signed, Fmt.width]
        split <;> omega

theorem widensExactly : Claims.WidensExactly := by
  refine ⟨fun f c hf rm => ⟨widening_exact (isFloat_of_blockFmts hf) (widens_fp32 hf) c rm, fun hbf hfp g hg => ?_⟩, roundTo_e2m1_ne_eight⟩
  have hnarrow : f ∈ [Fmt.e5m2, .e4m3, .e3m4, .e2m1] := by simp_all
  exact widening_exact (isFloat_of_blockFmts hf) (widens_half hnarrow hg) c rm

/-! ### DQBLK (R96, R145) -/

/-- A header that names another format, or a NaN scale, makes every element NaN. -/
theorem roundTo_blockValue_malformed (h : Word) (f : Fmt) (c : Nat) (hf : f.isFloat = true)
    (hbad : (hdrFmt h ≠ 0 ∧ hdrFmt h ≠ f.code) ∨ (hdrFmt h = f.code ∧ sc16Value (hdrScale h) = none)) (rm : Rm) (sat : Bool) :
    roundTo .fp32 (blockValue h f c).1 rm sat = 0x7FC00000 := by
  have hcode : f.code ≠ 0 := by cases f <;> decide
  have h0 : hdrFmt h ≠ 0 := by
    rcases hbad with h | h
    · exact h.1
    · rw [h.1]
      exact hcode
  have hnone : (if hdrFmt h = f.code then sc16Value (hdrScale h) else none) = none := by
    rcases hbad with h | h
    · exact if_neg h.2
    · rw [if_pos h.1, h.2]
  have hval : blockValue h f c = (.nan, false) := by simp only [blockValue, if_neg h0, hnone, hf, if_true]
  rw [hval]
  rfl

theorem dqblk_result (o : Cv) : RegResult (.dqblk o) o.sw o.d (if o.td == .e2m1 then 2 else 1) 16 ((Deps.src 1 o.a).join (Deps.src 1 o.b)) (fun x l =>
    (List.range (if o.td == .e2m1 then 2 else 1)).map (fun i =>
      let f := fltFmt o.td
      BitVec.ofNat 32 (roundTo .fp32 (blockValue (x.lane o.b l) f ((x.lane o.a l).toNat / (2 ^ f.width) ^ i % 2 ^ f.width)).1 o.rm o.sat))) := by
  refine regResult_alu_of_eq (f := fun x l => if o.td == .e2m1 then
    [dqElem (fltFmt o.td) o.rm o.sat (x.lane o.b l) ((x.lane o.a l).toNat % 16), dqElem (fltFmt o.td) o.rm o.sat (x.lane o.b l) ((x.lane o.a l).toNat / 16 % 16)]
    else [dqElem (fltFmt o.td) o.rm o.sat (x.lane o.b l) ((x.lane o.a l).toNat % 2 ^ (fltFmt o.td).width)]) (fun s => dispatch_dqblk s o) (fun x l => ?_)
  by_cases htd : o.td = .e2m1
  · simp [htd, dqElem, List.range_succ, fltFmt, tyFmt, Fmt.width]
  · simp [htd, dqElem, List.range_succ]

end Sys2Proof.Machine
end

section
/-! A block of QBLK: its scale, its codes and its special value (R142 to R144). -/

namespace Sys2Proof.Machine

/-! ### The parts of a block -/

/-- The finite values among the active elements. -/
def finiteEls (els : List (Option Word)) : List Xreal :=
  els.filterMap (fun o => o.bind (fun w => if (decodeFp32 w).isFin then some (decodeFp32 w) else none))

/-- The largest magnitude of a block. -/
def blockAmax (els : List (Option Word)) : Xreal := (finiteEls els).foldl (fun m x => maxX m x.abs) (xzero false)

/-- The scale code of a block. -/
def blockScale (f : Fmt) (pow2 : Bool) (els : List (Option Word)) : Nat :=
  if (blockAmax els).isZero then 0x7F00 else quantScale ((blockAmax els).div (maxFinite f)) pow2

section
variable (f : Fmt) (rm : Rm) (sat : Bool) (s : Xreal)

/-- The code of an element divided by the scale `s`. -/
def quotCode (w : Word) : Nat := roundTo f ((decodeFp32 w).div s) rm sat

/-- How far that code is from the quotient. -/
def residual (w : Word) : Xreal := distX ((decodeFp32 w).div s) (decodeElem f (xzero false) (quotCode f rm sat s w))

/-- The quotient and the residual of a finite element. -/
def quotResidual (o : Option Word) : Option (Xreal × Xreal) :=
  o.bind (fun w => if (decodeFp32 w).isFin then some ((decodeFp32 w).div s, residual f rm sat s w) else none)

/-- The code of an element where the header offers the special value `v`. -/
def specialCode (v : Xreal) (w : Word) : Nat :=
  if (decodeFp32 w).isFin = true ∧ ltX (distX ((decodeFp32 w).div s) v) (residual f rm sat s w) = true then 8 else quotCode f rm sat s w

end

section
variable {f : Fmt} {rm : Rm} {sat pow2 : Bool} {s : Xreal} {els : List (Option Word)}

/-- A block all of whose elements are rounded to the nearest code. -/
def plainBlock (f : Fmt) (rm : Rm) (sat pow2 : Bool) (s : Xreal) (els : List (Option Word)) : List (Option Nat) × Word :=
  (els.map (Option.map (quotCode f rm sat s)), mkHdr (blockScale f pow2 els) 0 f.code)

/-- A block with the special byte `sp`. -/
def specialBlock (f : Fmt) (rm : Rm) (sat pow2 : Bool) (s : Xreal) (sp : Nat) (els : List (Option Word)) : List (Option Nat) × Word :=
  (els.map (Option.map (specialCode f rm sat s (decodeElem .e4m3 .nan sp))), mkHdr (blockScale f pow2 els) sp f.code)

theorem qblkBlock_eq (hs : sc16Value (blockScale f pow2 els) = some s) (spc : Bool) : qblkBlock f rm sat pow2 spc els =
    if spc then (match worst (els.filterMap (quotResidual f rm sat s)) none with
      | none => plainBlock f rm sat pow2 s els
      | some (w, r) => if r.isZero then plainBlock f rm sat pow2 s els else specialBlock f rm sat pow2 s (roundTo .e4m3 w .rn true) els)
    else plainBlock f rm sat pow2 s els := by
  unfold qblkBlock
  extract_lets xs fins amax sc s' codes quots
  have hamax : amax = blockAmax els := by
    refine congrArg (fun l => List.foldl (fun m (x : Xreal) => maxX m x.abs) (xzero false) l) ?_
    simp only [fins, xs, finiteEls, List.filterMap_map]
    congr 1
    funext o
    cases o <;> rfl
  have hsc : sc = blockScale f pow2 els := by rw [blockScale, ← hamax]
  have hs' : s' = s := by
    have h : sc16Value sc = some s := hsc ▸ hs
    simp only [s', h]
  have hcodes : codes = els.map (Option.map (quotCode f rm sat s)) := by
    simp only [codes, xs, hs', List.map_map]
    refine List.map_congr_left (fun o _ => ?_)
    cases o <;> rfl
  have hquots : quots = els.map (quotResidual f rm sat s) := by
    simp only [quots, xs, hcodes, hs', List.zip_map', List.map_map]
    refine List.map_congr_left (fun o _ => ?_)
    cases o <;> rfl
  have hresiduals : quots.filterMap id = els.filterMap (quotResidual f rm sat s) := by rw [hquots, List.filterMap_map, Function.id_comp]
  clear_value amax sc s' codes quots
  subst hsc hs' hcodes hquots
  by_cases hspc : spc = true
  case neg => rw [if_neg hspc, if_neg hspc]; rfl
  rw [if_pos hspc, if_pos hspc, hresiduals]
  cases worst (els.filterMap (quotResidual f rm sat s')) none with
  | none => rfl
  | some p =>
    refine if_congr Iff.rfl rfl (Prod.ext ?_ rfl)
    simp only [specialBlock, List.zip_map', List.map_map]
    refine List.map_congr_left (fun o _ => ?_)
    cases o with
    | none => rfl
    | some w =>
      by_cases hw : (decodeFp32 w).isFin = true
      · have hr : quotResidual f rm sat s' (some w) = some ((decodeFp32 w).div s', residual f rm sat s' w) := if_pos hw
        simp only [Function.comp_apply, hr, Option.map_some, specialCode, hw, true_and]
      · have hr : quotResidual f rm sat s' (some w) = none := if_neg hw
        simp only [Function.comp_apply, hr, Option.map_some, specialCode, hw, Bool.false_eq_true, false_and, if_false]

/-! ### The header -/

theorem mkHdr_fields {sc sp code : Nat} (hsc : sc < 65536) (hsp : sp < 256) (hcode : code < 256) :
    hdrScale (mkHdr sc sp code) = sc ∧ hdrSpecial (mkHdr sc sp code) = sp ∧ hdrFmt (mkHdr sc sp code) = code := by
  have hval : (mkHdr sc sp code).toNat = sc * 65536 + sp * 256 + code := by
    rw [mkHdr, BitVec.toNat_ofNat]
    omega
  simp only [hdrScale, hdrSpecial, hdrFmt, BitVec.extractLsb'_toNat, hval, Nat.shiftRight_eq_div_pow]
  omega

/-! ### The largest magnitude (R143) -/

/-- A non-negative finite value. -/
structure Xreal.Magnitude (x : Xreal) : Prop where
  fin : x.isFin = true
  proper : x.Proper
  nonneg : 0 ≤ x.toRat

theorem magnitude_abs {x : Xreal} (hf : x.isFin = true) (hp : x.Proper) : x.abs.Magnitude :=
  ⟨by rw [isFin_abs, hf], proper_abs hp, by rw [toRat_abs]; exact abs_nonneg _⟩

theorem maxX_spec {x y : Xreal} (hx : x.Magnitude) (hy : y.Magnitude) : (maxX x y).Magnitude ∧ (maxX x y).toRat = max x.toRat y.toRat := by
  unfold maxX
  split
  · next h => exact ⟨hy, (max_eq_right ((ltX_iff hx.fin hy.fin hx.proper hy.proper).mp h).le).symm⟩
  · next h => exact ⟨hx, (max_eq_left (not_lt.mp (fun h' => h ((ltX_iff hx.fin hy.fin hx.proper hy.proper).mpr h')))).symm⟩

theorem foldl_maxX {xs : List Xreal} (hxs : ∀ x ∈ xs, x.isFin = true ∧ x.Proper) {acc : Xreal} (hacc : acc.Magnitude) :
    let r := xs.foldl (fun m x => maxX m x.abs) acc
    r.Magnitude ∧ acc.toRat ≤ r.toRat ∧ (∀ x ∈ xs, |x.toRat| ≤ r.toRat) ∧ (r.toRat = acc.toRat ∨ ∃ x ∈ xs, r.toRat = |x.toRat|) := by
  induction xs generalizing acc with
  | nil => exact ⟨hacc, le_rfl, by simp, .inl rfl⟩
  | cons x xs ih =>
    rw [List.forall_mem_cons] at hxs
    obtain ⟨⟨hf, hp⟩, hxs⟩ := hxs
    obtain ⟨hm, hv⟩ := maxX_spec hacc (magnitude_abs hf hp)
    rw [toRat_abs] at hv
    obtain ⟨hr, hge, hall, hmem⟩ := ih hxs hm
    rw [hv] at hge hmem
    obtain ⟨hacc', hx'⟩ := max_le_iff.mp hge
    refine ⟨hr, hacc', List.forall_mem_cons.mpr ⟨hx', hall⟩, ?_⟩
    rcases hmem with h | ⟨y, hy, h⟩
    · rcases max_choice acc.toRat |x.toRat| with h' | h'
      · exact .inl (h.trans h')
      · exact .inr ⟨x, List.mem_cons_self, h.trans h'⟩
    · exact .inr ⟨y, List.mem_cons_of_mem _ hy, h⟩

theorem mem_finiteEls {x : Xreal} : x ∈ finiteEls els ↔ ∃ w, some w ∈ els ∧ (decodeFp32 w).isFin = true ∧ decodeFp32 w = x := by
  simp only [finiteEls, List.mem_filterMap]
  constructor
  · rintro ⟨o, ho, h⟩
    cases o with
    | none => cases h
    | some w =>
      by_cases hw : (decodeFp32 w).isFin = true
      · exact ⟨w, ho, hw, Option.some_inj.mp ((if_pos hw).symm.trans h)⟩
      · exact absurd ((if_neg hw).symm.trans h) (by simp)
  · rintro ⟨w, ho, hw, rfl⟩
    exact ⟨some w, ho, if_pos hw⟩

/-- The largest magnitude of a block is that of one of its finite elements, or 0. -/
theorem blockAmax_spec (els : List (Option Word)) : (blockAmax els).Magnitude ∧
    (∀ w, some w ∈ els → (decodeFp32 w).isFin = true → |(decodeFp32 w).toRat| ≤ (blockAmax els).toRat) ∧
    ((blockAmax els).toRat = 0 ∨ ∃ w, some w ∈ els ∧ (decodeFp32 w).isFin = true ∧ (blockAmax els).toRat = |(decodeFp32 w).toRat|) := by
  have hzero : (xzero false).toRat = 0 := by norm_num [xzero, toRat_fin]
  have hxs : ∀ x ∈ finiteEls els, x.isFin = true ∧ x.Proper := by
    intro x hx
    obtain ⟨w, -, hw, rfl⟩ := mem_finiteEls.mp hx
    exact ⟨hw, proper_decodeFp32 w⟩
  obtain ⟨hm, -, hall, hmem⟩ := foldl_maxX hxs (acc := xzero false) ⟨rfl, Nat.one_ne_zero, hzero.ge⟩
  refine ⟨hm, fun w hw hf => hall _ (mem_finiteEls.mpr ⟨w, hw, hf, rfl⟩), ?_⟩
  rcases hmem with h | ⟨x, hx, h⟩
  · exact .inl (h.trans hzero)
  · obtain ⟨w, hw, hf, rfl⟩ := mem_finiteEls.mp hx
    exact .inr ⟨w, hw, hf, h⟩

/-! ### The scale (R93, R143) -/

/-- The value of the scale code `k`. -/
abbrev scaleVal (k : Nat) : ℚ := Claims.rat ((sc16Value k).getD .nan)

theorem sc16Value_normal {k : Nat} (hlo : 0x0100 ≤ k) (hhi : k ≤ 0xFFFE) : sc16Value k = some (.fin false (256 + k % 256) 1 ((k / 256 : Nat) - 135)) := by
  have h1 : k % 65536 = k := Nat.mod_eq_of_lt (by omega)
  have h2 : k / 256 % 256 = k / 256 := Nat.mod_eq_of_lt (by omega)
  simp only [sc16Value, h1, h2]
  rw [if_neg (by omega), if_neg (by omega)]

theorem scaleVal_normal {k : Nat} (hlo : 0x0100 ≤ k) (hhi : k ≤ 0xFFFE) :
    scaleVal k = ((256 + k % 256 : Nat) : ℚ) * 2 ^ (((k / 256 : Nat) : Int) - 135) := by
  rw [scaleVal, sc16Value_normal hlo hhi]
  exact (toRat_fin_false _ _ _).trans (by rw [Nat.cast_one, div_one])

/-- The fraction that `quantScale` rounds up, as a quotient. -/
theorem quantFraction {n d : Nat} (hd : d ≠ 0) (l : Int) (N : Nat) :
    ((scaleRat n d (8 - l)).1 + (scaleRat n d (8 - l)).2 - 1) / (scaleRat n d (8 - l)).2 ≤ N ↔ (n : ℚ) / d ≤ N * 2 ^ (l - 8) := by
  let q := scaleRat n d (8 - l)
  have hq : q.2 ≠ 0 := scaleRat_den hd n _
  have hquot : (q.1 : ℚ) / q.2 = n / d * 2 ^ (8 - l) := scaleRat_quot n d _
  have hq' : (0 : ℚ) < q.2 := Nat.cast_pos.mpr (Nat.pos_of_ne_zero hq)
  have hnd : (n : ℚ) / d = (q.1 : ℚ) / q.2 * 2 ^ (l - 8) := by
    rw [hquot, mul_assoc, ← zpow_add₀ two_ne_zero, show (8 - l) + (l - 8) = 0 by ring, zpow_zero, mul_one]
  change (q.1 + q.2 - 1) / q.2 ≤ N ↔ _
  rw [hnd, mul_le_mul_iff_left₀ (two_zpow_pos _), div_le_iff₀ hq', ← Nat.ceilDiv_eq_add_pred_div, ceilDiv_le_iff_le_smul (Nat.pos_of_ne_zero hq)]
  rw [smul_eq_mul, mul_comm]
  exact_mod_cast Iff.rfl

/-- The code that `quantScale` takes before it is limited. -/
def quantCode (n d : Nat) (e : Int) : Int :=
  let q := scaleRat n d (8 - ratLog2 n d)
  (ratLog2 n d + e + 127) * 256 + (((q.1 + q.2 - 1) / q.2 : Nat) - 256)

/-- The codes whose value reaches a value are those from `quantCode` on. -/
theorem le_scaleVal_iff {n d : Nat} (hn : n ≠ 0) (hd : d ≠ 0) (e : Int) {j : Nat} (hlo : 0x0100 ≤ j) (hhi : j ≤ 0xFFFE) :
    (n : ℚ) / d * 2 ^ e ≤ scaleVal j ↔ quantCode n d e ≤ j := by
  obtain ⟨hlb, hub⟩ := ratLog2_bounds hn hd
  have hup := quantFraction (n := n) hd (ratLog2 n d)
  rw [scaleVal_normal hlo hhi, quantCode]
  generalize ratLog2 n d = l at *
  generalize ((scaleRat n d (8 - l)).1 + (scaleRat n d (8 - l)).2 - 1) / (scaleRat n d (8 - l)).2 = up at *
  have hshift (i : Int) (k : Nat) : (2 : ℚ) ^ (i + k) = (2 ^ k : Nat) * 2 ^ i := by
    rw [zpow_add₀ two_ne_zero, zpow_natCast, mul_comm, Nat.cast_pow, Nat.cast_ofNat]
  have h512 : up ≤ 512 := (hup 512).mpr (hub.le.trans (by rw [show l + 1 = l - 8 + (9 : Nat) by push_cast; ring, hshift]; norm_num))
  have h256 : 256 ≤ up := by
    refine Nat.lt_of_not_le (fun h => absurd ((hup 255).mp h) (not_le.mpr (lt_of_lt_of_le ?_ hlb)))
    rw [show l = l - 8 + (8 : Nat) by push_cast; ring, hshift, show l - 8 + (8 : Nat) - 8 = l - 8 by push_cast; ring]
    exact mul_lt_mul_of_pos_right (by norm_num) (two_zpow_pos _)
  have hmod : j % 256 < 256 := Nat.mod_lt _ (by decide)
  rcases lt_trichotomy ((j / 256 : Nat) : Int) (l + e + 127) with h | h | h
  · refine iff_of_false (not_le.mpr ?_) (by omega)
    calc ((256 + j % 256 : Nat) : ℚ) * 2 ^ (((j / 256 : Nat) : Int) - 135) < (2 ^ 9 : Nat) * 2 ^ (((j / 256 : Nat) : Int) - 135) :=
          mul_lt_mul_of_pos_right (by exact_mod_cast (by omega : 256 + j % 256 < 2 ^ 9)) (two_zpow_pos _)
      _ = 2 ^ (((j / 256 : Nat) : Int) - 135 + (9 : Nat)) := (hshift _ _).symm
      _ ≤ 2 ^ (l + e) := zpow_le_zpow_right₀ one_le_two (by push_cast; omega)
      _ = 2 ^ l * 2 ^ e := zpow_add₀ two_ne_zero _ _
      _ ≤ n / d * 2 ^ e := mul_le_mul_of_nonneg_right hlb (two_zpow_pos _).le
  · have hunit : (2 : ℚ) ^ (((j / 256 : Nat) : Int) - 135) = 2 ^ (l - 8) * 2 ^ e := by
      rw [← zpow_add₀ two_ne_zero, h]
      congr 1
      ring
    rw [hunit, ← mul_assoc, mul_le_mul_iff_left₀ (two_zpow_pos _), ← hup]
    omega
  · refine iff_of_true ?_ (by omega)
    calc (n : ℚ) / d * 2 ^ e ≤ 2 ^ (l + 1) * 2 ^ e := mul_le_mul_of_nonneg_right hub.le (two_zpow_pos _).le
      _ = 2 ^ (l + 1 + e) := (zpow_add₀ two_ne_zero _ _).symm
      _ ≤ 2 ^ (((j / 256 : Nat) : Int) - 135 + (8 : Nat)) := zpow_le_zpow_right₀ one_le_two (by push_cast; omega)
      _ = (2 ^ 8 : Nat) * 2 ^ (((j / 256 : Nat) : Int) - 135) := hshift _ _
      _ ≤ ((256 + j % 256 : Nat) : ℚ) * 2 ^ (((j / 256 : Nat) : Int) - 135) :=
          mul_le_mul_of_nonneg_right (by exact_mod_cast (by omega : 2 ^ 8 ≤ 256 + j % 256)) (two_zpow_pos _).le

/-- The scale codes a block may take. -/
def MayScale (pow2 : Bool) (k : Nat) : Prop := 0x0100 ≤ k ∧ k ≤ 0xFFFE ∧ (pow2 = true → k % 256 = 0)

/-- A code brought into the range of scales, under `.pow2` up to a zero fraction first. -/
def limitScale (pow2 : Bool) (k : Int) : Nat :=
  let k' : Int := if pow2 then (k + 255) / 256 * 256 else k
  let lim : Int := if pow2 then 0xFF00 else 0xFFFE
  if k' < 0x0100 then 0x0100 else if lim < k' then lim.toNat else k'.toNat

/-- The limited code is the least scale from `k` on, or the largest scale. -/
theorem limitScale_spec (pow2 : Bool) (k : Int) : MayScale pow2 (limitScale pow2 k) ∧
    (k ≤ limitScale pow2 k ∨ limitScale pow2 k = if pow2 then 0xFF00 else 0xFFFE) ∧
    ∀ j, MayScale pow2 j → j < limitScale pow2 k → j < k := by
  unfold limitScale MayScale
  extract_lets k' lim
  cases pow2
  · have hk : k' = k := rfl
    have hlim : lim = 0xFFFE := rfl
    clear_value k' lim
    simp only [Bool.false_eq_true, if_false, false_imp_iff, and_true]
    split_ifs <;> exact ⟨by omega, by omega, fun j hj hlt => by omega⟩
  · have hk : k' = (k + 255) / 256 * 256 := rfl
    have hlim : lim = 0xFF00 := rfl
    clear_value k' lim
    simp only [if_true, true_imp_iff]
    split_ifs <;> exact ⟨by omega, by omega, fun j hj hlt => by omega⟩

theorem quantScale_fin (s : Bool) (n d : Nat) (e : Int) (pow2 : Bool) : quantScale (.fin s n d e) pow2 = limitScale pow2 (quantCode n d e) := rfl

/-- `quantScale` is the least scale that reaches its argument, or the largest scale. -/
theorem quantScale_spec (s : Bool) {n d : Nat} (hn : n ≠ 0) (hd : d ≠ 0) (e : Int) (pow2 : Bool) :
    let sc := quantScale (.fin s n d e) pow2
    MayScale pow2 sc ∧ ((n : ℚ) / d * 2 ^ e ≤ scaleVal sc ∨ sc = if pow2 then 0xFF00 else 0xFFFE) ∧
      ∀ k, MayScale pow2 k → k < sc → scaleVal k < n / d * 2 ^ e := by
  obtain ⟨hmay, hreach, hleast⟩ := limitScale_spec pow2 (quantCode n d e)
  rw [quantScale_fin]
  dsimp only
  refine ⟨hmay, hreach.imp_left (le_scaleVal_iff hn hd e hmay.1 hmay.2.1).mpr, fun k hk hlt => ?_⟩
  rw [← not_le, le_scaleVal_iff hn hd e hk.1 hk.2.1, not_le]
  exact hleast k hk hlt

end

end Sys2Proof.Machine
end

section
/-! What QBLK chooses for a block (R142 to R144), and the obligation of the conversions. -/

namespace Sys2Proof.Machine

section
variable {f : Fmt} {rm : Rm} {sat pow2 : Bool} {s : Xreal} {els : List (Option Word)}

/-! ### The scale of a block -/

theorem maxFinite_eq (hf : f.isFloat = true) : maxFinite f = f.mkFin false f.maxCode :=
  decodeElem_signed hf (xzero false) (neg := false) le_rfl (fun _ h => absurd h Bool.false_ne_true)

theorem blockScale_zero (h : ∀ w, some w ∈ els → (decodeFp32 w).isFin = true → (decodeFp32 w).toRat = 0) : blockScale f pow2 els = 0x7F00 := by
  obtain ⟨hm, -, hmem⟩ := blockAmax_spec els
  have hzero : (blockAmax els).toRat = 0 := by
    rcases hmem with h0 | ⟨w, hw, hf, hv⟩
    · exact h0
    · rw [hv, h w hw hf, abs_zero]
  exact if_pos ((toRat_eq_zero_iff hm.proper hm.fin).mp hzero)

theorem maxCode_ne_zero : ∀ f ∈ blockFmts, f.maxCode ≠ 0 := by decide

/-- The scale of a block whose largest magnitude is not 0. -/
theorem blockScale_spec (hf : f ∈ blockFmts) (h0 : (blockAmax els).toRat ≠ 0) :
    let sc := blockScale f pow2 els
    let need := (blockAmax els).toRat / Claims.maxOf f
    MayScale pow2 sc ∧ (need ≤ scaleVal sc ∨ sc = if pow2 then 0xFF00 else 0xFFFE) ∧ ∀ k, MayScale pow2 k → k < sc → scaleVal k < need := by
  intro sc need
  obtain ⟨hm, -, -⟩ := blockAmax_spec els
  have hmax : (maxFinite f).toRat = Claims.maxOf f := by
    rw [maxFinite_eq (isFloat_of_blockFmts hf), toRat_mkFin, if_neg Bool.false_ne_true, one_mul, val_maxCode hf]
  have hpos : 0 < Claims.maxOf f := by
    rw [← val_maxCode hf]
    exact magVal_pos _ (maxCode_ne_zero f hf)
  have hfin : (maxFinite f).isFin = true := by rw [maxFinite_eq (isFloat_of_blockFmts hf), isFin_mkFin]
  have hproper : (maxFinite f).Proper := by
    rw [maxFinite_eq (isFloat_of_blockFmts hf)]
    exact proper_mkFin _ _ _
  have hne : (maxFinite f).isZero = false :=
    Bool.eq_false_iff.mpr (fun h => hpos.ne' (hmax ▸ (toRat_eq_zero_iff hproper hfin).mpr h))
  obtain ⟨hdfin, hdrat⟩ := toRat_div hm.fin hfin hne
  have hdproper := proper_div (y := maxFinite f) hm.proper
  rw [hmax] at hdrat
  have hsc : sc = quantScale ((blockAmax els).div (maxFinite f)) pow2 :=
    if_neg (fun h => h0 ((toRat_eq_zero_iff hm.proper hm.fin).mpr h))
  have hneed : need = |((blockAmax els).div (maxFinite f)).toRat| := by rw [hdrat, abs_of_nonneg (div_nonneg hm.nonneg hpos.le)]
  have hneed0 : need ≠ 0 := div_ne_zero h0 hpos.ne'
  rw [hsc]
  cases hx : (blockAmax els).div (maxFinite f) with
  | nan => rw [hx] at hdfin; cases hdfin
  | inf t => rw [hx] at hdfin; cases hdfin
  | fin t n d e =>
    rw [hx, abs_toRat_fin] at hneed
    rw [hx] at hdproper
    rw [hneed]
    refine quantScale_spec t (fun hn => hneed0 ?_) hdproper e pow2
    rw [hneed, hn, Nat.cast_zero, zero_div, zero_mul]

theorem blockScale_may (hf : f ∈ blockFmts) (els : List (Option Word)) : MayScale pow2 (blockScale f pow2 els) := by
  by_cases h0 : (blockAmax els).toRat = 0
  · obtain ⟨hm, -, -⟩ := blockAmax_spec els
    rw [show blockScale f pow2 els = 0x7F00 from if_pos ((toRat_eq_zero_iff hm.proper hm.fin).mp h0)]
    exact ⟨by decide, by decide, fun _ => by decide⟩
  · exact (blockScale_spec hf h0).1

/-- The largest magnitude is that of an element that no other exceeds. -/
theorem blockAmax_eq {m : Word} (hm : some m ∈ els) (hfin : (decodeFp32 m).isFin = true)
    (hmax : ∀ w, some w ∈ els → (decodeFp32 w).isFin = true → |(decodeFp32 w).toRat| ≤ |(decodeFp32 m).toRat|) :
    (blockAmax els).toRat = |(decodeFp32 m).toRat| := by
  obtain ⟨hmag, hge, hmem⟩ := blockAmax_spec els
  refine le_antisymm ?_ (hge m hm hfin)
  rcases hmem with h | ⟨w, hw, hf, hv⟩
  · rw [h]
    exact abs_nonneg _
  · rw [hv]
    exact hmax w hw hf

/-! ### Residuals (R144) -/

theorem toRat_distX {x y : Xreal} (hx : x.isFin = true) (hy : y.isFin = true) (hxp : x.Proper) (hyp : y.Proper) :
    (distX x y).isFin = true ∧ (distX x y).Proper ∧ (distX x y).toRat = |x.toRat - y.toRat| := by
  obtain ⟨hf, hp, hv⟩ := toRat_sumX .rn (l := [x, y.neg])
    (List.forall_mem_cons.mpr ⟨hx, List.forall_mem_cons.mpr ⟨by rw [isFin_neg, hy], fun _ h => absurd h List.not_mem_nil⟩⟩)
    (List.forall_mem_cons.mpr ⟨hxp, List.forall_mem_cons.mpr ⟨proper_neg hyp, fun _ h => absurd h List.not_mem_nil⟩⟩)
  refine ⟨by rw [distX, isFin_abs, hf], proper_abs hp, ?_⟩
  rw [distX, toRat_abs, hv]
  simp [toRat_neg, sub_eq_add_neg]

/-- A scale is finite and not 0. -/
structure Xreal.Scale (s : Xreal) : Prop where
  fin : s.isFin = true
  ne_zero : s.isZero = false

/-- E2M1 has no special values of its own. -/
theorem isFin_decodeElem_e2m1 (c : Nat) : (decodeElem .e2m1 (xzero false) c).isFin = true := by
  rw [decodeElem_float rfl]
  split
  · rfl
  · rw [if_neg (fun h => absurd h.1 Bool.false_ne_true), if_neg (fun h => by cases h.1), if_neg (fun h => by cases h.1), isFin_mkFin]

section
variable {w : Word}

theorem quot_spec (hs : s.Scale) (hw : (decodeFp32 w).isFin = true) : ((decodeFp32 w).div s).isFin = true ∧ ((decodeFp32 w).div s).Proper ∧
    ((decodeFp32 w).div s).toRat = (decodeFp32 w).toRat / s.toRat :=
  ⟨(toRat_div hw hs.fin hs.ne_zero).1, proper_div (proper_decodeFp32 w), (toRat_div hw hs.fin hs.ne_zero).2⟩

/-- How far an element's quotient is from its code. -/
abbrev errOf (f : Fmt) (rm : Rm) (sat : Bool) (s : Xreal) (w : Word) : ℚ :=
  |(decodeFp32 w).toRat / s.toRat - (decodeElem f (xzero false) (quotCode f rm sat s w)).toRat|

theorem residual_spec (hs : s.Scale) (hw : (decodeFp32 w).isFin = true) : (residual .e2m1 rm sat s w).isFin = true ∧ (residual .e2m1 rm sat s w).Proper ∧
    (residual .e2m1 rm sat s w).toRat = errOf .e2m1 rm sat s w := by
  obtain ⟨hf, hp, hv⟩ := quot_spec hs hw
  rw [errOf, ← hv]
  exact toRat_distX hf (isFin_decodeElem_e2m1 _) hp (proper_decodeElem _ (sp := xzero false) Nat.one_ne_zero _)

theorem residual_isZero_iff (hs : s.Scale) (hw : (decodeFp32 w).isFin = true) : (residual .e2m1 rm sat s w).isZero = true ↔ errOf .e2m1 rm sat s w = 0 := by
  obtain ⟨hf, hp, hv⟩ := residual_spec (rm := rm) (sat := sat) hs hw
  rw [← hv, toRat_eq_zero_iff hp hf]

theorem residual_lt_iff (hs : s.Scale) (hw : (decodeFp32 w).isFin = true) {b : Word} (hb : (decodeFp32 b).isFin = true) :
    ltX (residual .e2m1 rm sat s w) (residual .e2m1 rm sat s b) = true ↔ errOf .e2m1 rm sat s w < errOf .e2m1 rm sat s b := by
  obtain ⟨hf, hp, hv⟩ := residual_spec (rm := rm) (sat := sat) hs hw
  obtain ⟨hf', hp', hv'⟩ := residual_spec (rm := rm) (sat := sat) hs hb
  rw [ltX_iff hf hf' hp hp', hv, hv']

/-- A finite value rounded to E4M3 with saturation stays finite. -/
theorem decodeElem_roundTo_e4m3_sat {x : Xreal} (hx : x.isFin = true) (rm : Rm) : ∃ t k, decodeElem .e4m3 .nan (roundTo .e4m3 x rm true) = Fmt.e4m3.mkFin t k := by
  have hsigned {t : Bool} {k : Nat} (hk : k ≤ Fmt.e4m3.maxCode) : ∃ t' k', decodeElem .e4m3 .nan (Fmt.e4m3.signed t k) = Fmt.e4m3.mkFin t' k' :=
    ⟨t, k, decodeElem_signed rfl _ hk (fun h => by cases h)⟩
  cases x with
  | nan => cases hx
  | inf t => cases hx
  | fin t n d e =>
    by_cases hn : n = 0
    · rw [roundTo, if_pos hn, zeroCode_eq_signed]
      exact hsigned (Nat.zero_le _)
    rw [roundTo_fin _ t hn]
    dsimp only
    split
    · have hover : overflowCode .e4m3 t rm true false = Fmt.e4m3.signed t Fmt.e4m3.maxCode := Nat.add_comm _ _
      rw [hover]
      exact hsigned le_rfl
    · next hmax =>
      split
      · rw [zeroCode_eq_signed]
        exact hsigned (Nat.zero_le _)
      · exact hsigned (Nat.not_lt.mp hmax)

/-- The special value is taken where it is nearer than the code. -/
theorem specialCode_eq (hs : s.Scale) {t : Bool} {k : Nat} {v : Xreal} (hv : v = Fmt.e4m3.mkFin t k) : specialCode .e2m1 rm sat s v w =
    if (decodeFp32 w).isFin = true ∧ |(decodeFp32 w).toRat / s.toRat - v.toRat| < errOf .e2m1 rm sat s w then 8 else quotCode .e2m1 rm sat s w := by
  refine if_congr (and_congr_right fun hw => ?_) rfl rfl
  obtain ⟨hf, hp, hq⟩ := quot_spec hs hw
  obtain ⟨hf', hp', hr⟩ := residual_spec (rm := rm) (sat := sat) hs hw
  obtain ⟨hfd, hpd, hd⟩ := toRat_distX (y := v) hf (hv ▸ rfl) hp (hv ▸ proper_mkFin _ _ _)
  rw [ltX_iff hfd hf' hpd hp', hd, hr, hq]

end

/-! ### The largest residual (R144) -/

theorem worst_append (es es' : List (Xreal × Xreal)) (acc : Option (Xreal × Xreal)) : worst (es ++ es') acc = worst es' (worst es acc) := by
  induction es generalizing acc with
  | nil => rfl
  | cons p es ih => cases acc <;> exact ih _

theorem worst_mem {es : List (Xreal × Xreal)} {acc : Option (Xreal × Xreal)} {p : Xreal × Xreal} (h : worst es acc = some p) :
    p ∈ es ∨ acc = some p := by
  induction es generalizing acc with
  | nil => exact .inr h
  | cons e es ih =>
    cases acc with
    | none =>
      rcases ih h with h | h
      · exact .inl (List.mem_cons_of_mem _ h)
      · exact .inl (Option.some_inj.mp h ▸ List.mem_cons_self)
    | some b =>
      rcases ih h with h | h
      · exact .inl (List.mem_cons_of_mem _ h)
      · split at h
        · exact .inl (Option.some_inj.mp h ▸ List.mem_cons_self)
        · exact .inr h

theorem worst_stays {es : List (Xreal × Xreal)} {b : Xreal × Xreal} (h : ∀ p ∈ es, ltX b.2 p.2 = false) : worst es (some b) = some b := by
  induction es with
  | nil => rfl
  | cons e es ih =>
    rw [List.forall_mem_cons] at h
    exact (congrArg (worst es) (if_neg (by rw [h.1]; exact Bool.false_ne_true))).trans (ih h.2)

/-- The first of the largest residuals. -/
theorem worst_eq {es es' : List (Xreal × Xreal)} {b : Xreal × Xreal} (hlt : ∀ p ∈ es, ltX p.2 b.2 = true) (hle : ∀ p ∈ es', ltX b.2 p.2 = false) :
    worst (es ++ b :: es') none = some b := by
  rw [worst_append]
  cases hw : worst es none with
  | none => exact worst_stays hle
  | some p =>
    rcases worst_mem hw with h | h
    · exact (congrArg (worst es') (if_pos (hlt p h))).trans (worst_stays hle)
    · cases h

/-! ### Blocks (R143, R144) -/

theorem mem_residuals {p : Xreal × Xreal} {f : Fmt} (h : p ∈ els.filterMap (quotResidual f rm sat s)) :
    ∃ w, some w ∈ els ∧ (decodeFp32 w).isFin = true ∧ p = ((decodeFp32 w).div s, residual f rm sat s w) := by
  obtain ⟨o, ho, hp⟩ := List.mem_filterMap.mp h
  cases o with
  | none => cases hp
  | some w =>
    by_cases hw : (decodeFp32 w).isFin = true
    · exact ⟨w, ho, hw, (Option.some_inj.mp ((if_pos hw).symm.trans hp)).symm⟩
    · exact absurd ((if_neg hw).symm.trans hp) (by simp)

/-- The scale of a block as a value. -/
theorem exists_scale (hf : f ∈ blockFmts) (pow2 : Bool) (els : List (Option Word)) : ∃ s : Xreal, s.Scale ∧ sc16Value (blockScale f pow2 els) = some s := by
  obtain ⟨hlo, hhi, -⟩ := blockScale_may (pow2 := pow2) hf els
  exact ⟨_, ⟨rfl, beq_eq_false_iff_ne.mpr (by omega)⟩, sc16Value_normal hlo hhi⟩

/-- Every block is coded element by element under one header. -/
theorem qblkBlock_shape (hs : sc16Value (blockScale f pow2 els) = some s) (spc : Bool) : ∃ (code : Word → Nat) (sp : Nat), sp < 256 ∧
    (∀ w, code w = 8 ∨ code w = quotCode f rm sat s w) ∧
    qblkBlock f rm sat pow2 spc els = (els.map (Option.map code), mkHdr (blockScale f pow2 els) sp f.code) := by
  have hplain : ∃ (code : Word → Nat) (sp : Nat), sp < 256 ∧ (∀ w, code w = 8 ∨ code w = quotCode f rm sat s w) ∧
      plainBlock f rm sat pow2 s els = (els.map (Option.map code), mkHdr (blockScale f pow2 els) sp f.code) :=
    ⟨_, 0, by decide, fun _ => .inr rfl, rfl⟩
  rw [qblkBlock_eq hs]
  split
  · split
    · exact hplain
    · split
      · exact hplain
      · exact ⟨_, _, roundTo_lt (f := .e4m3) rfl _ _ _, fun w => ite_eq_or_eq _ _ _, rfl⟩
  · exact hplain

/-- A block whose header offers nothing. -/
theorem qblkBlock_plain (hs : sc16Value (blockScale f pow2 els) = some s) (hsc : s.Scale) {spc : Bool} (hspc : spc = true → f = .e2m1)
    (h : spc = false ∨ ∀ w, some w ∈ els → (decodeFp32 w).isFin = true → errOf f rm sat s w = 0) :
    qblkBlock f rm sat pow2 spc els = plainBlock f rm sat pow2 s els := by
  rw [qblkBlock_eq hs]
  cases spc with
  | false => rfl
  | true =>
    obtain rfl := hspc rfl
    have hzero := h.resolve_left (by decide)
    rw [if_pos rfl]
    split
    · rfl
    · next w r hw =>
      obtain ⟨w', hw', hfin, heq⟩ := mem_residuals ((worst_mem hw).resolve_right (by simp))
      rw [(Prod.mk.inj heq).2]
      exact if_pos ((residual_isZero_iff hsc hfin).mpr (hzero w' hw' hfin))

/-- The element whose residual is the largest, the first of these, becomes the special value. -/
theorem qblkBlock_special (hs : sc16Value (blockScale .e2m1 pow2 els) = some s) (hsc : s.Scale) {j : Nat} {b : Word} (hj : els[j]? = some (some b))
    (hb : (decodeFp32 b).isFin = true) (hne : errOf .e2m1 rm sat s b ≠ 0)
    (hmax : ∀ (i : Nat) w, els[i]? = some (some w) → (decodeFp32 w).isFin = true →
      errOf .e2m1 rm sat s w ≤ errOf .e2m1 rm sat s b ∧ (i < j → errOf .e2m1 rm sat s w < errOf .e2m1 rm sat s b)) :
    qblkBlock .e2m1 rm sat pow2 true els = specialBlock .e2m1 rm sat pow2 s (roundTo .e4m3 ((decodeFp32 b).div s) .rn true) els := by
  obtain ⟨hlen, hget⟩ := List.getElem?_eq_some_iff.mp hj
  have hsplit : els.filterMap (quotResidual .e2m1 rm sat s) = (els.take j).filterMap (quotResidual .e2m1 rm sat s) ++
      ((decodeFp32 b).div s, residual .e2m1 rm sat s b) :: (els.drop (j + 1)).filterMap (quotResidual .e2m1 rm sat s) := by
    have hb' : quotResidual .e2m1 rm sat s (some b) = some ((decodeFp32 b).div s, residual .e2m1 rm sat s b) := if_pos hb
    conv_lhs => rw [← List.take_append_drop j els, List.drop_eq_getElem_cons hlen, hget, List.filterMap_append, List.filterMap_cons_some hb']
  have hworst : worst (els.filterMap (quotResidual .e2m1 rm sat s)) none = some ((decodeFp32 b).div s, residual .e2m1 rm sat s b) := by
    rw [hsplit]
    refine worst_eq (fun p hp => ?_) (fun p hp => ?_)
    · obtain ⟨w, hw, hfin, rfl⟩ := mem_residuals hp
      obtain ⟨i, hi, hiw⟩ := List.mem_take_iff_getElem.mp hw
      have hij : i < j := (lt_min_iff.mp hi).1
      exact (residual_lt_iff hsc hfin hb).mpr ((hmax i w (List.getElem?_eq_some_iff.mpr ⟨_, hiw⟩) hfin).2 hij)
    · obtain ⟨w, hw, hfin, rfl⟩ := mem_residuals hp
      obtain ⟨i, hi⟩ := List.mem_iff_getElem?.mp (List.mem_of_mem_drop hw)
      exact Bool.eq_false_iff.mpr (fun h => absurd ((residual_lt_iff hsc hb hfin).mp h) (not_lt.mpr (hmax i w hi hfin).1))
  rw [qblkBlock_eq hs, if_pos rfl, hworst]
  exact if_neg (fun h => hne ((residual_isZero_iff hsc hb).mp h))

end

/-- Settles the block quantisation of O11. -/
theorem quantBlock : Claims.QuantBlock := by
  intro f rm sat pow2 spc els hf hspc q fin v sc val s base err
  obtain ⟨sx, hsx, hs⟩ := exists_scale hf pow2 els
  obtain ⟨code, sp, hsp, -, hq⟩ := qblkBlock_shape (rm := rm) (sat := sat) hs spc
  have hsc16 : blockScale f pow2 els < 65536 := (blockScale_may (pow2 := pow2) hf els).2.1.trans_lt (by decide)
  have hcode : f.code < 256 := by cases f <;> decide
  have hq2 : q.2 = mkHdr (blockScale f pow2 els) sp f.code := congrArg Prod.snd hq
  obtain ⟨hscale, -, hfmt⟩ := mkHdr_fields hsc16 hsp hcode
  have hsc : sc = blockScale f pow2 els := (congrArg hdrScale hq2).trans hscale
  have hgetD : (sc16Value sc).getD .nan = sx := by rw [hsc, hs]; rfl
  have hget (code : Word → Nat) (i : Nat) (w : Word) (hi : els[i]? = some (some w)) : (els.map (Option.map code))[i]? = some (some (code w)) := by
    rw [List.getElem?_map, hi]; rfl
  have hbase (w : Word) : base w = quotCode f rm sat sx w := congrArg (fun x => roundTo f ((decodeFp32 w).div x) rm sat) hgetD
  have hs' : s = sx.toRat := congrArg Claims.rat hgetD
  have herr (w : Word) : err w = errOf f rm sat sx w := by
    change |v w / s - Claims.rat (decodeElem f (xzero false) (base w))| = _
    rw [hs', hbase]
    rfl
  have hfields {sp : Nat} (hsp : sp < 256) (hq : q.2 = mkHdr (blockScale f pow2 els) sp f.code) : hdrSpecial q.2 = sp :=
    (congrArg hdrSpecial hq).trans (mkHdr_fields hsc16 hsp hcode).2.1
  refine ⟨(congrArg (fun q => q.1.length) hq).trans (List.length_map _), (congrArg hdrFmt hq2).trans hfmt, fun h => hsc.trans (blockScale_zero h), ?_,
    fun i hi => ?_, fun h => ?_, fun h j b hj hb hne hmax => ?_⟩
  · intro m hm hfin h0 hmax may
    have hamax := blockAmax_eq hm hfin hmax
    have hspec := blockScale_spec (pow2 := pow2) hf (hamax ▸ abs_ne_zero.mpr h0)
    rw [hamax, ← hsc] at hspec
    exact hspec
  · rw [show q.1 = els.map (Option.map code) from congrArg Prod.fst hq, List.getElem?_map, hi]
    rfl
  · have hplain : q = plainBlock f rm sat pow2 sx els :=
      qblkBlock_plain hs hsx (fun h => (hspc h).1) (h.imp_right fun h w hw hfin => (herr w).symm.trans (h w hw hfin))
    refine ⟨hfields (by decide) (congrArg Prod.snd hplain), fun i w hi => ?_⟩
    rw [hbase, show q.1 = els.map (Option.map (quotCode f rm sat sx)) from congrArg Prod.fst hplain]
    exact hget _ i w hi
  · obtain ⟨rfl, -⟩ := hspc h
    subst h
    extract_lets sp
    have hsp : sp = roundTo .e4m3 ((decodeFp32 b).div sx) .rn true := congrArg (fun x => roundTo .e4m3 ((decodeFp32 b).div x) .rn true) hgetD
    have hspecial : q = specialBlock .e2m1 rm sat pow2 sx sp els := by
      rw [hsp]
      refine qblkBlock_special hs hsx hj hb (herr b ▸ hne) (fun i w hi hfin => ?_)
      rw [← herr, ← herr]
      exact hmax i w hi hfin
    obtain ⟨t, k, hv⟩ := decodeElem_roundTo_e4m3_sat (quot_spec hsx hb).1 .rn
    rw [← hsp] at hv
    refine ⟨hfields (hsp ▸ roundTo_lt (f := .e4m3) rfl _ _ _) (congrArg Prod.snd hspecial), fun i w hi => ?_⟩
    rw [show q.1 = els.map (Option.map (specialCode .e2m1 rm sat sx (decodeElem .e4m3 .nan sp))) from congrArg Prod.fst hspecial, hget _ i w hi,
      specialCode_eq hsx hv, herr, hbase, hs']
    rfl

end Sys2Proof.Machine
end

section
/-! The lanes of QBLK, and the obligation of the conversions (R139 to R145). -/

namespace Sys2Proof.Machine

/-! ### QBLK (Table 6) -/

/-- The block that lane `l` belongs to. -/
def qblkEls (o : Cv) (x : Warp) (l : Nat) : List (Option Word) :=
  let el := fun j i => if x.lanes.getLsbD j then some (x.laneAt i o.a j) else none
  if o.td = .e2m1 then (List.range 128).map (fun k => el (k / 2) (k % 2)) else
    if o.td.isHalf then (List.range 32).map (fun k => el (l / 32 * 32 + k) 0) else (List.range 64).map (fun k => el k 0)

/-- The codes and the header of the block of lane `l`. -/
abbrev qblkOf (o : Cv) (pow2 spc : Bool) (x : Warp) (l : Nat) : List (Option Nat) × Word :=
  qblkBlock (fltFmt o.td) o.rm o.sat pow2 spc (qblkEls o x l)

/-- The code at a place of a block. -/
abbrev codeAt (q : List (Option Nat) × Word) (k : Nat) : Nat := (q.1.getD k none).getD 0

/-- The word of codes of lane `l`. -/
def qblkCodes (o : Cv) (pow2 spc : Bool) (x : Warp) (l : Nat) : Word :=
  let q := qblkOf o pow2 spc x l
  if o.td = .e2m1 then BitVec.ofNat 32 (codeAt q (2 * l) + 16 * codeAt q (2 * l + 1)) else BitVec.ofNat 32 (codeAt q (if o.td.isHalf then l % 32 else l))

/-- E2M1 codes have four bits. -/
theorem codeAt_lt (rm : Rm) (sat pow2 spc : Bool) (els : List (Option Word)) (k : Nat) : codeAt (qblkBlock .e2m1 rm sat pow2 spc els) k < 16 := by
  obtain ⟨s, -, hs⟩ := exists_scale (f := .e2m1) (by decide) pow2 els
  obtain ⟨code, sp, -, hcode, hq⟩ := qblkBlock_shape (rm := rm) (sat := sat) hs spc
  have hlt (w : Word) : code w < 16 := by
    rcases hcode w with h | h <;> rw [h]
    · decide
    · exact roundTo_lt (f := .e2m1) rfl _ _ _
  rw [codeAt, hq, List.getD_eq_getElem?_getD, List.getElem?_map]
  rcases els[k]? with _ | _ | w
  · exact Nat.succ_pos 15
  · exact Nat.succ_pos 15
  · exact hlt w

theorem qblkLanes_eq (o : Cv) (pow2 spc : Bool) (x : Warp) : qblkLanes o pow2 spc x x.lanes =
    (List.range 64).map (fun l => (qblkCodes o pow2 spc x l, (qblkOf o pow2 spc x l).2)) := by
  unfold qblkLanes
  by_cases htd : o.td = .e2m1
  · have hfmt : fltFmt o.td = .e2m1 := by rw [htd]; rfl
    have hels (l : Nat) : qblkEls o x l = (List.range 128).map (fun i => if x.lanes.getLsbD (i / 2) then some (x.laneAt (i % 2) o.a (i / 2)) else none) := if_pos htd
    have hmod (l k : Nat) : codeAt (qblkOf o pow2 spc x l) k % 16 = codeAt (qblkOf o pow2 spc x l) k := by
      rw [qblkOf, hfmt]
      exact Nat.mod_eq_of_lt (codeAt_lt _ _ _ _ _ _)
    simp only [beq_iff_eq, htd, if_true]
    refine List.map_congr_left (fun l _ => ?_)
    rw [qblkCodes, if_pos htd, ← hmod l (2 * l), ← hmod l (2 * l + 1), qblkOf, hels, htd]
  · have hblock {α : Type} (r : Nat → α) (z : α) {m i : Nat} (hi : i < m) : ((List.range m).map r).getD i z = r i := by
      rw [List.getD_eq_getElem _ _ (by simpa using hi), List.getElem_map, List.getElem_range]
    simp only [beq_iff_eq, htd, if_false]
    refine List.map_congr_left (fun l hl => ?_)
    have hl : l < 64 := List.mem_range.mp hl
    rw [qblkCodes, if_neg htd]
    by_cases hhalf : o.td.isHalf = true
    · simp only [if_pos hhalf]
      rw [hblock _ _ (by omega)]
      simp only [qblkOf, qblkEls, if_neg htd, if_pos hhalf]
      rfl
    · simp only [if_neg hhalf]
      rw [hblock _ _ (by omega)]
      simp only [qblkOf, qblkEls, if_neg htd, if_neg hhalf, Nat.div_eq_of_lt hl, Nat.mod_eq_of_lt hl, Nat.zero_mul, Nat.zero_add]
      rfl

theorem qblk_result (o : Cv) (pow2 spc : Bool) (hwf : WellFormed (.qblk o pow2 spc)) :
    RegResult (.qblk o pow2 spc) o.sw o.d 2 16 (Deps.src (if o.td == .e2m1 then 2 else 1) o.a)
      (fun x l => [qblkCodes o pow2 spc x l, (qblkOf o pow2 spc x l).2]) := by
  have hd : isUniform o.d = false := by
    obtain ⟨hfields, -⟩ := Bool.and_eq_true_iff.mp hwf
    simp only [Bool.and_eq_true, Bool.not_eq_true'] at hfields
    obtain ⟨⟨⟨⟨⟨-, hd⟩, -⟩, -⟩, -⟩, -⟩ := hfields
    cases hdst : o.d with
    | v r => rfl
    | s r => rw [hdst] at hd; cases hd
  refine regResult_put (vals := fun x => [(qblkLanes o pow2 spc x x.lanes).map (·.1), (qblkLanes o pow2 spc x x.lanes).map (·.2)])
    (fun s => ?_) (fun _ => rfl) (fun _ x j l hj hl _ => ?_) (fun hu => absurd (hd.symm.trans hu) Bool.false_ne_true)
  · rw [hd]
    exact dispatch_qblk s o pow2 spc
  · have hget (f : Nat → Word) : ((List.range 64).map f).getD l 0 = f l := by
      rw [List.getD_eq_getElem _ _ (by simpa using hl), List.getElem_map, List.getElem_range]
    rw [qblkLanes_eq, List.map_map, List.map_map]
    match j, hj with
    | 0, _ => exact hget _
    | 1, _ => exact hget _

/-! ### The obligation -/

/-- Settles O11: each form's register result, block quantisation, exact widening, and the NaN of a malformed header. -/
theorem conversions : Obligations.Conversions := by
  intro o
  exact ⟨regResult_alu (fun s => dispatch_cvt s o), cvtp_result o, fun hwf => ⟨(cvt8_forms hwf).2.2, cvt8_result o hwf⟩, dqblk_result o,
    qblk_result o, quantBlock, widensExactly, roundTo_blockValue_malformed⟩

end Sys2Proof.Machine
end

section
/-! SUPPORT. What the records of workgroups, warps and cores read after each update, and what the issue of an instruction that joins a
queue or a pool leaves of its warp. -/

namespace Sys2Proof.Machine

variable (s : State)

/-! ### Workgroups -/

theorem wg_name {s : State} {i : WgId} {g : Wg} (h : s.wg i = some g) : g.id = i := by simpa using List.find?_some h

/-- The workgroup of a name after a change of records that keeps their names. -/
theorem find?_map_name {f : Wg → Wg} (hf : ∀ g, (f g).id = g.id) (l : List Wg) (i : WgId) :
    (l.map f).find? (fun g => g.id = i) = (l.find? (fun g => g.id = i)).map f := by
  rw [List.find?_map]
  congr 2
  funext g
  simp [hf]

theorem wg_modWg {f : Wg → Wg} (hf : ∀ g, (f g).id = g.id) (i j : WgId) :
    (s.modWg i f).wg j = (s.wg j).map (fun g => if g.id = i then f g else g) :=
  find?_map_name (fun g => by split <;> simp [hf]) s.wgs j

theorem wg_modWg_same {s : State} {f : Wg → Wg} (hf : ∀ g, (f g).id = g.id) {i : WgId} {g : Wg} (h : s.wg i = some g) :
    (s.modWg i f).wg i = some (f g) := by
  rw [wg_modWg s hf, h, Option.map_some, if_pos (wg_name h)]

theorem wg_modWg_other {f : Wg → Wg} (hf : ∀ g, (f g).id = g.id) {i j : WgId} (h : j ≠ i) : (s.modWg i f).wg j = s.wg j := by
  rw [wg_modWg s hf]
  cases hg : s.wg j with
  | none => rfl
  | some g => rw [Option.map_some, if_neg (wg_name hg ▸ h)]

/-- What a change of one workgroup's record leaves of every record. -/
theorem map_wg_modWg {α : Type} {p : Wg → α} {f : Wg → Wg} (hf : ∀ g, (f g).id = g.id) (hp : ∀ g, p (f g) = p g) (i j : WgId) :
    ((s.modWg i f).wg j).map p = (s.wg j).map p := by
  rw [wg_modWg s hf, Option.map_map]
  congr 1
  funext g
  simp only [Function.comp_apply]
  split
  · exact hp g
  · rfl

/-! ### Warps -/

theorem warp_congr {s t : State} (h : t.wgs = s.wgs) (w : WarpId) : t.warp w = s.warp w := by simp [State.warp, State.wg, h]

theorem wg_modWarp_same {s : State} {w : WarpId} {g : Wg} (f : Warp → Warp) (h : s.wg w.wg = some g) :
    (s.modWarp w f).wg w.wg = some { g with warps := g.warps.modify w.warp f } :=
  wg_modWg_same (f := fun g => { g with warps := g.warps.modify w.warp f }) (fun _ => rfl) h

theorem warp_modWarp {s : State} {w : WarpId} {x : Warp} (f : Warp → Warp) (h : s.warp w = some x) : (s.modWarp w f).warp w = some (f x) := by
  obtain ⟨g, hg, hx⟩ := Option.bind_eq_some_iff.mp h
  rw [State.warp, wg_modWarp_same f hg]
  simp [hx]

/-- A change of one workgroup's record that leaves its warps leaves every warp. -/
theorem warp_modWg {f : Wg → Wg} (hf : ∀ g, (f g).id = g.id) (hw : ∀ g, (f g).warps = g.warps) (i : WgId) (w : WarpId) :
    (s.modWg i f).warp w = s.warp w := by
  have h := map_wg_modWg s (p := fun g => g.warps) hf hw i w.wg
  simp only [State.warp]
  cases hs : s.wg w.wg with
  | none => rw [hs, Option.map_none, Option.map_eq_none_iff] at h; rw [h]
  | some g =>
    rw [hs, Option.map_some, Option.map_eq_some_iff] at h
    obtain ⟨g', hg', he⟩ := h
    rw [hg', Option.bind_some, Option.bind_some, he]

theorem map_wg_modWarp {α : Type} {p : Wg → α} (hp : ∀ g l, p { g with warps := l } = p g) (w : WarpId) (f : Warp → Warp) (i : WgId) :
    ((s.modWarp w f).wg i).map p = (s.wg i).map p :=
  map_wg_modWg s (f := fun g => { g with warps := g.warps.modify w.warp f }) (fun _ => rfl) (fun g => hp g _) _ _

/-! ### Cores -/

@[simp] theorem coreAt_modCore (k : Nat) (f : Core → Core) : (s.modCore k f).coreAt k = f (s.coreAt k) := by simp [State.modCore, State.coreAt]
@[simp] theorem coreAt_modWg (i : WgId) (f : Wg → Wg) (k : Nat) : (s.modWg i f).coreAt k = s.coreAt k := rfl
@[simp] theorem coreAt_modWarp (w : WarpId) (f : Warp → Warp) (k : Nat) : (s.modWarp w f).coreAt k = s.coreAt k := rfl
@[simp] theorem coreAt_fresh (k : Nat) : s.fresh.2.coreAt k = s.coreAt k := rfl

theorem coreAt_modCore_other {j k : Nat} (f : Core → Core) (h : j ≠ k) : (s.modCore k f).coreAt j = s.coreAt j := by
  simp [State.modCore, State.coreAt, tabGetD_set_other _ _ _ h.symm]

/-! ### Counted operations -/

theorem cnt_append (x : Warp) (k j : CntClass) (id : Nat) :
    ({ x with ops := x.ops ++ [{ cls := k, id := id, ended := false }] } : Warp).cnt j = x.cnt j + if j = k then 1 else 0 := by
  by_cases h : j = k
  · subst h; simp [Warp.cnt, List.filter_append]
  · simp [Warp.cnt, List.filter_append, h, Ne.symm h]

theorem mem_settleOps {k : CntClass} {l : List WOp} {o : WOp} (h : o ∈ settleOps k l) : o ∈ l := by
  induction l with
  | nil => exact h
  | cons a l ih =>
    simp only [settleOps] at h
    split at h
    · split at h
      · exact List.mem_cons_of_mem _ (ih h)
      · exact h
    · rcases List.mem_cons.mp h with rfl | h
      · exact List.mem_cons_self
      · exact List.mem_cons_of_mem _ (ih h)

/-- The operations of a warp once the operation `id` of a class has ended. -/
def Warp.opEnded (x : Warp) (k : CntClass) (id : Nat) : Warp :=
  { x with ops := settleOps k (x.ops.map (fun o => if o.cls == k && o.id = id then { o with ended := true } else o)) }

theorem opEnd_eq (w : WarpId) (k : CntClass) (id : Nat) : s.opEnd w k id = s.modWarp w (fun x => x.opEnded k id) := rfl

theorem ended_opEnded (x : Warp) (k : CntClass) (id : Nat) : Claims.Ended (x.opEnded k id) k id := by
  intro e he hk hid
  obtain ⟨o, -, rfl⟩ := List.mem_map.mp (mem_settleOps he)
  by_cases h : (o.cls == k && decide (o.id = id)) = true
  · rw [if_pos h]
  · rw [if_neg h] at hk hid
    exact absurd (by simp [hk, hid]) h

/-! ### Issue of an instruction that may be held -/

/-- An instruction that nothing holds and that reads no vector register runs its body on the state itself. -/
theorem issue_ready_unheld {s : State} {c : Ctx} {m : Mode} {d : Deps} (h : Ready s c m d) (hl : d.lasts = []) (hm : m.raw = false)
    {hold : Ctx → State → Bool} (hh : hold c s = false) (body : Ctx → State → Except TrapInfo State) :
    s.issue m d hold body = (match body c s with
      | .error t => .next (s.takeTrap c.w t)
      | .ok t => .next (t.modWarp c.w (fun x => x.advance c.now m.sw m.jump c.x.pfx.isSome))) := by
  rw [issue_ready h _ _ hh, hl]
  simp only [unmap_nil, modWarp_id, hm]
  rfl

section
variable (x : Warp) (now : Nat) (sw jump covered : Bool)

@[simp] theorem advance_ops : (x.advance now sw jump covered).ops = x.ops := by
  obtain ⟨_, _, _, _, _, h, -⟩ := advance_eq x now sw jump covered; rw [h]
@[simp] theorem advance_mask : (x.advance now sw jump covered).mask = x.mask := by
  obtain ⟨_, _, _, _, _, h, -⟩ := advance_eq x now sw jump covered; rw [h]
@[simp] theorem advance_frame : (x.advance now sw jump covered).frame = x.frame := by
  obtain ⟨_, _, _, _, _, h, -⟩ := advance_eq x now sw jump covered; rw [h]

theorem cnt_advance (k : CntClass) : (x.advance now sw jump covered).cnt k = x.cnt k := by simp [Warp.cnt]

end

end Sys2Proof.Machine
end

section
/-! O44. The convolution tasks: issue of CONVN, taking and completion (R180 to R182). -/

namespace Sys2Proof.Machine

variable {s : State}

/-! ### Scratchpad reads without pending errors -/

/-- A read of a partition with no failing word corrects nothing. -/
theorem spadFix_sound {g : WgId} {h : Wg} (hg : s.wg g = some h) (he : h.spadErr = []) (off n : Nat) : s.spadFix g off n = s := by
  simp [State.spadFix, hg, he]

theorem spadBad_sound {h : Wg} (he : h.spadErr = []) (off n : Nat) : h.spadBad off n = false := by simp [Wg.spadBad, he]

/-! ### Tasks -/

/-- The oldest of a list is the one whose number is below all others. -/
theorem oldestConv_eq {l : List ConvOp} {o : ConvOp} (ho : o ∈ l) (hmin : ∀ p ∈ l, p ≠ o → o.id < p.id) : oldestConv l = some o := by
  suffices H : ∀ (l : List ConvOp) (best : Option ConvOp), (∀ p ∈ l, p ≠ o → o.id < p.id) → (∀ b, best = some b → b ≠ o → o.id < b.id) →
      o ∈ l ∨ best = some o →
      l.foldl (fun (best : Option ConvOp) o => match best with | some b => if o.id < b.id then some o else best | none => some o) best = some o from
    H l none hmin (fun _ h => nomatch h) (.inl ho)
  intro l
  induction l with
  | nil => intro best _ _ h; exact h.resolve_left (List.not_mem_nil)
  | cons a l ih =>
    intro best hl hb h
    have ha := hl a List.mem_cons_self
    rw [List.foldl_cons]
    refine ih _ (fun p hp => hl p (List.mem_cons_of_mem _ hp)) ?_ ?_
    · intro b hbe
      cases best with
      | none => obtain rfl := Option.some.inj hbe; exact ha
      | some c =>
        simp only at hbe
        split at hbe
        · obtain rfl := Option.some.inj hbe; exact ha
        · obtain rfl := Option.some.inj hbe; exact hb _ rfl
    · rcases h with h | rfl
      · rcases List.mem_cons.mp h with rfl | h
        · right
          cases best with
          | none => rfl
          | some c =>
            by_cases hc : c = o
            · subst hc; simp
            · simp [hb c rfl hc]
        · exact .inl h
      · right
        by_cases hao : a = o
        · subst hao; simp
        · have := ha hao
          simp [Nat.lt_asymm this]

/-- A task after a change of the record that keeps its number. -/
theorem conv?_modConv {o : ConvOp} {f : ConvOp → ConvOp} (hf : ∀ p, (f p).id = p.id) (h : s.conv? o.id = some o) :
    (modConv s o.id f).conv? o.id = some (f o) := by
  have hp : (fun a : ConvOp => decide (a.id = o.id)) ∘ (fun a => if a.id = o.id then f a else a) = fun a => decide (a.id = o.id) := by
    funext a
    simp only [Function.comp_apply]
    split <;> simp_all
  rw [State.conv?, modConv, List.find?_map, hp]
  rw [State.conv?] at h
  simp [h]

/-- The task of an engine after a change of its record that leaves it with its engine. -/
theorem convOn_modConv {o : ConvOp} {f : ConvOp → ConvOp} {cluster : Nat} (hf : ∀ p, (f p).engine = p.engine) (h : s.convOn cluster = some o) :
    (modConv s o.id f).convOn cluster = some (f o) := by
  have hp : (fun a : ConvOp => decide (a.engine = some cluster)) ∘ (fun a => if a.id = o.id then f a else a) = fun a => decide (a.engine = some cluster) := by
    funext a
    simp only [Function.comp_apply]
    split <;> simp_all
  rw [State.convOn, modConv, List.find?_map, hp]
  rw [State.convOn] at h
  simp [h]

@[simp] theorem conv?_dropConv (s : State) (id : Nat) : (s.dropConv id).conv? id = none := by
  simp [State.conv?, State.dropConv]

theorem convScale_eq (s : State) (o : ConvOp) : ∃ devs host dies, s.convScale o = { s with devs := devs, host := host, dies := dies } := by
  unfold State.convScale
  split
  · obtain ⟨devs, host, -, h, -⟩ := raiseEvent_eq s o.w.wg.dev (s.ctxOf o.w) (agentOfCluster o.cluster % 4) (agentOfCore (s.coreOf o.w) % 4) 0x05
      [pcWord o.pc, dieLocalCore (s.coreOf o.w)]
    exact ⟨devs, host, _, h⟩
  · exact ⟨_, _, _, rfl⟩

/-- Reserving the scratchpad place of a barrier needs the workgroups and the executing one alone. -/
theorem spadPlace_congr {s t : State} {c d : Ctx} (hw : t.wgs = s.wgs) (hg : d.g = c.g) (hd : d.w = c.w) (a n : Nat) :
    t.spadPlace d a n = s.spadPlace c a n := by
  have hdev : d.dev = c.dev := congrArg (·.wg.dev) hd
  rw [State.spadPlace, State.spadPlace, hw, hg, hdev]

/-- The context in which an operation is read, after a change that leaves the workgroups. -/
theorem ctxFor_congr {s t : State} (h : t.wgs = s.wgs) {w : WarpId} {c : Ctx} (hc : s.ctxFor w = some c) :
    ∃ d, t.ctxFor w = some d ∧ d.g = c.g ∧ d.w = c.w := by
  obtain ⟨g, hg, rfl⟩ := Option.map_eq_some_iff.mp hc
  rw [State.wg] at hg
  exact ⟨{ w := w, g := g, x := {}, now := t.cycle w.wg.dev }, by rw [State.ctxFor, State.wg, h, hg, Option.map_some], rfl, rfl⟩

/-! ### The instruction and the events -/

theorem sameMemory_modWarp (s : State) (w : WarpId) (f : Warp → Warp) : Claims.SameMemory s (s.modWarp w f) :=
  ⟨rfl, rfl, rfl, rfl, rfl, map_wg_modWarp s (fun _ _ => rfl) w f, map_wg_modWarp s (fun _ _ => rfl) w f⟩

/-- A task put into the pool at its issue is counted in its class, and registers, predicates and memory are as before. -/
theorem pooled_convs {c : Ctx} (hs : s.warp c.w = some c.x) (k : CntClass) (id : Nat) (l : List ConvOp) (sw covered : Bool) :
    Claims.Pooled s c (State.modWarp { s.fresh.2.opBegin c.w k id with convs := l } c.w (fun x => x.advance c.now sw false covered)) k := by
  let y : Warp := { c.x with ops := c.x.ops ++ [{ cls := k, id := id, ended := false }] }
  have hy : State.warp { s.fresh.2.opBegin c.w k id with convs := l } c.w = some y := warp_modWarp (s := s.fresh.2) _ hs
  refine ⟨_, warp_modWarp _ hy, fun j => ?_, sameRegs_advance (sameRegs_of_eq rfl rfl) .., samePreds_advance (samePreds_of_eq rfl rfl) _ _ _ _,
    advance_mask .., advance_frame .., by simp [y], ?_⟩
  · rw [cnt_advance, cnt_append]
  · have h := sameMemory_modWarp s c.w (fun x => Warp.advance { x with ops := x.ops ++ [{ cls := k, id := id, ended := false }] } c.now sw false covered)
    rw [← modWarp_modWarp s c.w (fun x => { x with ops := x.ops ++ [{ cls := k, id := id, ended := false }] })
      (fun x => x.advance c.now sw false covered)] at h
    exact h

/-- CONVN, where nothing holds it and its record lies at a sound place of a scratchpad. -/
theorem convn_issue {sw : Bool} {a : BitVec 6} {c : Ctx} {g : WgId} {off : Nat} {own : Bool} {h : Wg}
    (hr : Ready s c (sysMode sw) (Deps.uni a.toNat 1)) (hf : c.x.full .conv = false) (hp : s.poolCount (clusterOfCore c.core) < 64)
    (hw : s.engineWait c.w none = []) (hs : s.spadPlace c (c.x.readS a.toNat).toNat 64 = some (g, off, own)) (hg : s.wg g = some h)
    (he : h.spadErr = []) :
    let words := (List.range 16).map (fun i => BitVec.ofNat 32 (memRead h.spad (off + 4 * i) 4))
    let o : ConvOp :=
      { id := s.nextId + 1, w := c.w, cluster := clusterOfCore c.core, pc := c.x.pc, words := words,
        before := s.engineWait c.w (if cvCredit words then s.spadBar c (cvBar words) else none) ++ s.engineAfter c.w, engine := none, next := 0, done := false,
        fault := none }
    exec (.convn sw a) s = if (c.x.readS a.toNat).toNat % 64 != 0 || !cvOk words then .next (s.takeTrap c.w (trapOf tMatrixFormat))
      else .next (State.modWarp { s.fresh.2.opBegin c.w .conv (s.nextId + 1) with convs := s.convs ++ [o] } c.w
        (fun x => x.advance c.now sw false c.x.pfx.isSome)) := by
  intro words o
  rw [dispatch_convn, execConvn, issue_ready_unheld hr rfl rfl (by simp [hf, hw]; omega)]
  simp only [uniV, hs, spadFix_sound hg he, hg, spadBad_sound he, Wg.spadRead]
  by_cases hb : ((c.x.readS a.toNat).toNat % 64 != 0 || !cvOk words) = true
  · rw [if_pos hb, if_pos hb]
  · rw [if_neg hb, if_neg hb]
    rfl

/-- A free engine takes the oldest task of its cluster's pool. -/
theorem convnTake_oldest {o : ConvOp} (ho : s.conv? o.id = some o) (he : o.engine = none) (hfree : ∀ p ∈ s.convs, p.engine ≠ some o.cluster)
    (hmin : ∀ p ∈ s.convs, p.cluster = o.cluster → p.engine = none → p ≠ o → o.id < p.id) :
    exec (.convnTake o.cluster) s = .next (modConv s o.id (fun p => { p with engine := some o.cluster })) := by
  have hidle : (s.convOn o.cluster).isSome = false := by
    simpa [State.convOn] using hfree
  have hold : oldestConv (s.convs.filter (fun p => p.cluster = o.cluster && p.engine.isNone)) = some o := by
    refine oldestConv_eq ?_ fun p hp => ?_
    · simpa [he] using List.mem_of_find?_eq_some ho
    · simp only [List.mem_filter, Bool.and_eq_true, decide_eq_true_eq, Option.isNone_iff_eq_none] at hp
      exact hmin p hp.1 hp.2.1 hp.2.2
  rw [dispatch_convnTake, execConvnTake, hidle]
  simp [hold]

/-- What the end of a task leaves: the task gone, its operation ended, registers and HBM as before. -/
theorem conv_ended {t : State} {o : ConvOp} {x : Warp} (hx : t.warp o.w = some x) : ∃ y, ((t.dropConv o.id).opEnd o.w .conv o.id).conv? o.id = none ∧
    ((t.dropConv o.id).opEnd o.w .conv o.id).warp o.w = some y ∧ Claims.Ended y .conv o.id ∧ SameRegs x y [] [] [] ∧
    ((t.dropConv o.id).opEnd o.w .conv o.id).hbm = t.hbm :=
  ⟨x.opEnded .conv o.id, conv?_dropConv t o.id, warp_modWarp (s := t.dropConv o.id) _ hx, ended_opEnded _ _ _, sameRegs_of_eq rfl rfl, rfl⟩

/-- A task whose outputs are all written and that has no credit to make, or whose credit is made, ends. -/
theorem convnComplete_ends {o : ConvOp} {x : Warp} {cluster : Nat} (ho : s.convOn cluster = some o) (hx : s.warp o.w = some x) (hf : o.fault = none)
    (hn : cvTotal o.words ≤ o.next) (hd : (o.done = false ∧ cvCredit o.words = false) ∨ (o.done = true ∧ ∀ u ∈ s.upds, u.for_ ≠ .conv o.id)) :
    ∃ t y, exec (.convnComplete cluster) s = .next t ∧ t.conv? o.id = none ∧ t.warp o.w = some y ∧ Claims.Ended y .conv o.id ∧
      SameRegs x y [] [] [] ∧ t.hbm = s.hbm := by
  rw [dispatch_convnComplete, execConvnComplete, ho]
  simp only [hf, if_neg (Nat.not_lt.mpr hn)]
  rcases hd with ⟨hd, hc⟩ | ⟨hd, hu⟩
  · obtain ⟨devs, host, dies, he⟩ := convScale_eq s o
    obtain ⟨y, h1, h2, h3, h4, h5⟩ := conv_ended (t := s.convScale o) (o := o) (x := x) (by rw [he]; exact hx)
    simp only [hd, hc, Bool.false_eq_true, if_false]
    exact ⟨_, y, rfl, h1, h2, h3, h4, h5.trans (by rw [he])⟩
  · have hu' : (s.upds.any fun u => u.for_ == .conv o.id) = false := by simpa using hu
    obtain ⟨y, h1, h2, h3, h4, h5⟩ := conv_ended (o := o) hx
    simp only [hd, hu', if_true, Bool.false_eq_true, if_false]
    exact ⟨_, y, rfl, h1, h2, h3, h4, h5⟩

/-- A task whose outputs are all written credits its bytes where it asks for that. -/
theorem convnComplete_credits {o : ConvOp} {cluster : Nat} {c : Ctx} {g : WgId} {off : Nat} {own : Bool} (ho : s.convOn cluster = some o)
    (hf : o.fault = none) (hn : cvTotal o.words ≤ o.next) (hd : o.done = false) (hc : cvCredit o.words = true) (hx : s.ctxFor o.w = some c)
    (hp : s.spadPlace c (cvBar o.words) 16 = some (g, off, own)) :
    ∃ t u, exec (.convnComplete cluster) s = .next t ∧ u ∈ t.upds ∧ u.kind = .credit (cvTotal o.words * if cvOutBf o.words then 2 else 4) ∧
      u.bar = .spad g off ∧ u.for_ = .conv o.id ∧ t.convOn cluster = some { o with done := true } ∧ t.hbm = s.hbm := by
  rw [dispatch_convnComplete, execConvnComplete, ho]
  simp only [hf, if_neg (Nat.not_lt.mpr hn), hd, hc, if_true, Bool.false_eq_true, if_false]
  obtain ⟨devs, host, dies, he⟩ := convScale_eq s o
  have hwgs : (s.convScale o).wgs = s.wgs := by rw [he]
  have hconvs : (s.convScale o).convOn cluster = some o := by rw [he]; exact ho
  obtain ⟨d, hcd, hdg, hdw⟩ := ctxFor_congr hwgs hx
  have hbar : (s.convScale o).spadBar d (cvBar o.words) = some (.spad g off) := by
    rw [State.spadBar, spadPlace_congr hwgs hdg hdw, hp, Option.map_some]
  simp only [hcd, Option.bind_some, hbar]
  exact ⟨_, _, rfl, List.mem_append_right _ List.mem_cons_self, rfl, rfl, rfl,
    (convOn_modConv (f := fun p => { p with done := true }) (fun _ => rfl) hconvs).trans (by simp only [hf]), by rw [he]; rfl⟩

/-- Settles O44: issue by what holds of `issue`, taking by the choice of the oldest task, completion by its two outcomes. -/
theorem convolutionTasks : Obligations.ConvolutionTasks := by
  unfold Obligations.ConvolutionTasks
  refine ⟨fun sw a s c g off own h hr hf hp hw hs hg he => ?_, fun s o cluster ho hcl he hfree hmin => ?_, fun s o x cluster ho hx hf hn => ?_⟩
  · have hi := convn_issue hr hf hp hw hs hg he
    refine ⟨fun hbad => ?_, fun ha hok => ?_⟩
    · rw [hi, if_pos (by simpa using hbad)]
      rfl
    · rw [hi, if_neg (by simp [ha, hok])]
      exact ⟨_, _, rfl, rfl, rfl, rfl, rfl, rfl, rfl, rfl, rfl, rfl, rfl, pooled_convs (current_warp hr.selected).2.2.1 ..⟩
  · subst hcl
    exact ⟨_, convnTake_oldest ho he hfree hmin, conv?_modConv (fun _ => rfl) ho, rfl, rfl⟩
  · exact ⟨convnComplete_ends ho hx hf hn, fun c g off own hd hc hcx hp => convnComplete_credits ho hf hn hd hc hcx hp⟩

end Sys2Proof.Machine
end

section
/-! O45. The entry that each matrix instruction queues (R153 to R156). -/

namespace Sys2Proof.Machine

variable {s : State}

/-! ### Places in a scratchpad -/

/-- A change of workgroups that keeps their places and the sizes of their partitions keeps what a scratchpad address reaches. -/
theorem spadPlace_map {t : State} {F : Wg → Wg} (ht : t.wgs = s.wgs.map F)
    (hF : ∀ g, (F g).id = g.id ∧ (F g).cg = g.cg ∧ (F g).pos = g.pos ∧ (F g).spadSize = g.spadSize) (c : Ctx) (a n : Nat) :
    t.spadPlace c a n = s.spadPlace c a n := by
  have hfind : ∀ k, t.wgs.find? (fun h => h.id.dev = c.dev && h.id.launch = c.g.id.launch && h.cg = c.g.cg && h.pos = k) =
      (s.wgs.find? (fun h => h.id.dev = c.dev && h.id.launch = c.g.id.launch && h.cg = c.g.cg && h.pos = k)).map F := by
    intro k
    rw [ht, List.find?_map]
    congr 2
    funext g
    obtain ⟨h1, h2, h3, -⟩ := hF g
    simp only [Function.comp_apply, h1, h2, h3]
  simp only [State.spadPlace, hfind]
  cases s.wgs.find? (fun h => h.id.dev = c.dev && h.id.launch = c.g.id.launch && h.cg = c.g.cg && h.pos = (a - 0x100000) / 0x80000) with
  | none => rfl
  | some h =>
    obtain ⟨h1, -, -, h4⟩ := hF h
    simp only [Option.map_some, h1, h4]

theorem spadPlace_modWarp (s : State) (w : WarpId) (f : Warp → Warp) (c : Ctx) (a n : Nat) : (s.modWarp w f).spadPlace c a n = s.spadPlace c a n := by
  refine spadPlace_map rfl (fun g => ?_) c a n
  split <;> simp [Wg.spadSize, Wg.pos]

/-- The checks of an entry need the state only for the places that scratchpad addresses reach. -/
theorem entryErr_congr {t : State} {c : Ctx} (h : ∀ a n, t.spadPlace c a n = s.spadPlace c a n) (op : MOp) : t.entryErr c op = s.entryErr c op := by
  unfold State.entryErr State.mapErr
  simp only [h]

/-! ### The queue -/

/-- An entry that comes at a cycle for a quadrant stands before those that higher quadrants have queued in that cycle, and behind all others. -/
theorem joinQueue_split (l : List MEntry) {e : MEntry} {now q : Nat} (he : e.came = some (now, q)) :
    let higher := fun (x : MEntry) => x.running = false ∧ ∃ p, x.came = some (now, p) ∧ q < p
    ∃ before after, l = before ++ after ∧ joinQueue l e = before ++ e :: after ∧ (∀ x ∈ before, ¬ higher x) ∧ ∀ x, after.head? = some x → higher x := by
  intro higher
  let after := fun (x : MEntry) => match x.came, e.came with
    | some a, some b => !x.running && a.1 = b.1 && decide (b.2 < a.2)
    | _, _ => false
  have hiff : ∀ x, after x = true ↔ higher x := by
    intro x
    simp only [after, higher, he]
    cases hx : x.came with
    | none => simp
    | some a =>
      obtain ⟨n, p⟩ := a
      simp [and_assoc]
  refine ⟨l.takeWhile (fun x => !after x), l.dropWhile (fun x => !after x), (List.takeWhile_append_dropWhile).symm, rfl, fun x hx => ?_, fun x hx => ?_⟩
  · rw [← hiff]
    simpa using List.mem_takeWhile_imp hx
  · rw [← hiff]
    have := List.head?_dropWhile_not (fun x => !after x) l
    rw [hx] at this
    simpa using this

/-! ### A warp that awaits a result -/

/-- A warp whose register is reserved for the result of operation `id` (R67). -/
def Warp.await (x : Warp) (id : Nat) (m : LaneMask) : Option Dst → Warp
  | none => x
  | some (.v r) => x.reserve id m (.v r.toNat)
  | some (.s r) => x.reserve id allLanes (.s r.toNat)

section
variable (x : Warp) (id : Nat) (m : LaneMask) (dst : Option Dst)

@[simp] theorem await_ops : (x.await id m dst).ops = x.ops := by rcases dst with _ | _ | _ <;> rfl
@[simp] theorem await_s : (x.await id m dst).s = x.s := by rcases dst with _ | _ | _ <;> rfl
@[simp] theorem await_p : (x.await id m dst).p = x.p := by rcases dst with _ | _ | _ <;> rfl
@[simp] theorem await_k : (x.await id m dst).k = x.k := by rcases dst with _ | _ | _ <;> rfl
@[simp] theorem await_pc : (x.await id m dst).pc = x.pc := by rcases dst with _ | _ | _ <;> rfl
@[simp] theorem await_mask : (x.await id m dst).mask = x.mask := by rcases dst with _ | _ | _ <;> rfl
@[simp] theorem await_frame : (x.await id m dst).frame = x.frame := by rcases dst with _ | _ | _ <;> rfl

@[simp] theorem await_readV (r : Nat) : (x.await id m dst).readV r = x.readV r := by
  rcases dst with _ | d | _
  · rfl
  · by_cases h : d.toNat = r
    · subst h
      simp [Warp.await, Warp.reserve, Warp.mark, Warp.readV]
    · simp [Warp.await, Warp.reserve, Warp.mark, Warp.readV, tabGetD_set_other _ _ _ h]
  · rfl

theorem await_pending (now : Nat) : ∀ r ∈ Claims.dsts 1 dst, (x.await id m dst).pending now r = true := by
  intro r hr
  rcases dst with _ | d | d
  · cases hr
  · obtain rfl : r = .v d.toNat := by simpa [Claims.dsts, dstRegs] using hr
    simp [Warp.await, Warp.reserve, Warp.mark, Warp.pending, Pend.live]
  · obtain rfl : r = .s d.toNat := by simpa [Claims.dsts, dstRegs] using hr
    simp [Warp.await, Warp.reserve, Warp.mark, Warp.pending, Pend.live]

end

/-! ### Issue -/

/-- What the warp of a matrix instruction is after its issue. -/
def Warp.queued (x : Warp) (c : Ctx) (sw : Bool) (lasts : List Nat) (dst : Option Dst) (id : Nat) : Warp :=
  (Warp.await { x.unmap lasts with ops := x.ops ++ [{ cls := .mat, id := id, ended := false }] } id c.x.lanes dst).advance c.now sw false c.x.pfx.isSome

/-- The reservation of a result's register at issue. -/
theorem reserveDst_eq (t : State) (w : WarpId) (id : Nat) (m : LaneMask) (dst : Option Dst) :
    (match dst with
      | none => t
      | some d => t.modWarp w (fun x => (dstRegs 1 d).foldl (fun (y : Warp) r => y.reserve id (if isUniform d then allLanes else m) r) x)) =
    t.modWarp w (fun x => x.await id m dst) := by
  rcases dst with _ | _ | _
  · exact (modWarp_id t w).symm
  · rfl
  · rfl

theorem modWarp_modCore (t : State) (k : Nat) (f : Core → Core) (w : WarpId) (g : Warp → Warp) :
    (t.modCore k f).modWarp w g = (t.modWarp w g).modCore k f := rfl

/-- The steps of an issue as one change of the warp and one of the queue. -/
theorem queued_chain (s : State) (c : Ctx) (sw : Bool) (lasts : List Nat) (dst : Option Dst) (f : Core → Core) :
    State.modWarp (State.modCore (match dst with
      | none => (s.modWarp c.w (fun x => x.unmap lasts)).fresh.2.opBegin c.w .mat (s.nextId + 1)
      | some d => ((s.modWarp c.w (fun x => x.unmap lasts)).fresh.2.opBegin c.w .mat (s.nextId + 1)).modWarp c.w
          (fun x => (dstRegs 1 d).foldl (fun (y : Warp) r => y.reserve (s.nextId + 1) (if isUniform d then allLanes else c.x.lanes) r) x)) c.core f)
      c.w (fun x => x.advance c.now sw false c.x.pfx.isSome) =
    (s.fresh.2.modWarp c.w (fun x => x.queued c sw lasts dst (s.nextId + 1))).modCore c.core f := by
  refine (congrArg (fun t : State => (t.modCore c.core f).modWarp c.w _) (reserveDst_eq _ c.w (s.nextId + 1) c.x.lanes dst)).trans ?_
  rw [modWarp_modCore]
  refine congrArg (fun t : State => t.modCore c.core f) ?_
  exact (modWarp_modWarp _ c.w _ _).trans ((modWarp_modWarp _ c.w _ _).trans (modWarp_modWarp s.fresh.2 c.w _ _))

theorem queued_pending (x : Warp) (c : Ctx) (sw : Bool) (lasts : List Nat) (dst : Option Dst) (id : Nat) :
    ∀ r ∈ Claims.dsts 1 dst, (x.queued c sw lasts dst id).pending c.now r = true := by
  intro r hr
  rw [Warp.queued, Warp.pending, advance_pend]
  exact await_pending _ id c.x.lanes dst c.now r hr

/-- A matrix instruction that nothing holds: its checks in their order, then its entry. -/
theorem matIssue_eq {c : Ctx} {sw : Bool} {deps : Deps} {op : Ctx → MOp} (hr : Ready s c (sysMode sw) deps) (hf : c.x.full .mat = false)
    (hq : (s.coreAt c.core).mq.length < 16) (ht : ∀ e ∈ c.boundTiles (op c), e.st = .ready) (dst : Option Dst) :
    ∃ e : MEntry, (e.came = some (c.now, quadOf c.g c.w.warp) ∧ e.id = s.nextId + 1 ∧ e.w = c.w ∧ e.op = op c ∧ e.pc = c.x.pc ∧ e.running = false ∧
      e.next = 0 ∧ e.test = none) ∧
    s.matIssue sw deps op dst = if c.inRange (op c) = false then .next (s.takeTrap c.w (trapOf tResourceRange))
      else match (s.entryErr c (op c)).trap with
        | some t => .next (s.takeTrap c.w t)
        | none => if (s.coreAt c.core).fenced = 15 then .next (s.takeTrap c.w (trapOf tMatrixUnavailable))
          else .next ((s.fresh.2.modWarp c.w (fun x => x.queued c sw deps.lasts dst (s.nextId + 1))).modCore c.core (fun k => { k with mq := joinQueue k.mq e })) := by
  have hwait : (c.boundTiles (op c)).any (fun e => e.st == .filling || e.st == .draining) = false := by
    simp only [List.any_eq_false]
    intro e he
    simp [ht e he]
  have hempty : (c.boundTiles (op c)).any (fun e => e.st == .empty) = false := by
    simp only [List.any_eq_false]
    intro e he
    simp [ht e he]
  have herr := entryErr_congr (spadPlace_modWarp s c.w (fun x => x.unmap deps.lasts) c) (op c)
  refine ⟨{ id := s.nextId + 1, w := c.w, op := op c, pc := c.x.pc,
            before := (s.modWarp c.w (fun x => x.unmap deps.lasts)).engineWait c.w none ++ (s.modWarp c.w (fun x => x.unmap deps.lasts)).engineAfter c.w,
            running := false, next := 0, resumed := false, scaleErr := false, badWord := false, test := none, came := some (c.now, quadOf c.g c.w.warp) },
    ⟨rfl, rfl, rfl, rfl, rfl, rfl, rfl, rfl⟩, ?_⟩
  rw [State.matIssue, issue_ready hr _ _ (by simp [hf, hwait]; omega)]
  simp only [herr, hempty, coreAt_modWarp]
  cases hin : c.inRange (op c) with
  | false => rfl
  | true =>
    cases htr : (s.entryErr c (op c)).trap with
    | some t => rfl
    | none =>
      by_cases hfen : (s.coreAt c.core).fenced = 15
      · simp [hfen]
      · simp only [hfen, if_false]
        exact congrArg Host.Outcome.next (queued_chain s c sw deps.lasts dst _)

/-- Every instruction that issues as a queue entry queues it. -/
theorem queued_of_matIssue {i : Instr} {sw : Bool} {deps : Deps} {op : Ctx → MOp} {dst : Option Dst} (hi : ∀ s, exec i s = s.matIssue sw deps op dst) :
    Claims.Queued i sw deps op dst := by
  intro s c hr hf hq ht
  obtain ⟨e, ⟨h1, h2, h3, h4, h5, h6, h7, h8⟩, he⟩ := matIssue_eq hr hf hq ht dst
  rw [← hi] at he
  refine ⟨fun hin => ?_, fun t hin htr => ?_, fun hin htr hfen => ?_, fun hin htr hfen => ?_⟩
  · rw [he, if_pos hin]
    rfl
  · rw [he, hin, if_neg (by decide), htr]
  · rw [he, hin, if_neg (by decide), htr]
    simp only [hfen, if_true]
    rfl
  · rw [hin, if_neg (by decide), htr] at he
    simp only [if_neg hfen] at he
    obtain ⟨before, after, hl, hj, hb, ha⟩ := joinQueue_split (s.coreAt c.core).mq h1
    have hx := (current_warp hr.selected).2.2.1
    refine ⟨_, e, _, before, after, he, hl, ?_, hb, ha, h1, h2, h3, h4, h5, h6, h7, h8, warp_modWarp (s := s.fresh.2) _ hx, ?_⟩
    · rw [coreAt_modCore]
      exact hj
    · refine ⟨fun j => ?_, queued_pending c.x c sw deps.lasts dst _, ⟨fun r _ => ?_, fun r _ => ?_⟩, fun q _ => predMask_eq ?_ ?_ q, ?_, ?_, ?_, rfl, rfl,
        ?_, ?_⟩
      · rw [Warp.queued, cnt_advance, Warp.cnt, await_ops]
        exact cnt_append c.x .mat j (s.nextId + 1)
      · rw [Warp.queued, Warp.readV, advance_v]
        exact await_readV ..
      · simp [Warp.queued, Warp.readS, unmap_s]
      · simp [Warp.queued, unmap_p]
      · simp [Warp.queued, unmap_k]
      · simp [Warp.queued, Warp.unmap]
      · simp [Warp.queued, Warp.unmap]
      · simp [Warp.queued, Warp.unmap]
      · exact map_wg_modWarp s (fun _ _ => rfl) c.w _
      · exact map_wg_modWarp s (fun _ _ => rfl) c.w _

/-- Settles O45: every matrix instruction issues through `matIssue`, with the operands that its form names. -/
theorem matrixIssue : Obligations.MatrixIssue := by
  unfold Obligations.MatrixIssue
  refine ⟨fun sw bind m a => queued_of_matIssue fun s => ?_, fun sw mode wb t ma mb d a => queued_of_matIssue fun s => ?_,
    fun sw mode t ma d a => queued_of_matIssue fun s => ?_, fun sw sp fmt m d a n => queued_of_matIssue fun s => ?_,
    fun sw all d => queued_of_matIssue fun s => ?_, fun sw t => queued_of_matIssue fun s => ?_, fun sw rm sat t m => queued_of_matIssue fun s => ?_,
    fun sw rm sat scl t m d => queued_of_matIssue fun s => ?_, fun sw rm t a k => queued_of_matIssue fun s => ?_,
    fun sw rm row t a k => queued_of_matIssue fun s => ?_, fun sw col t d a n => queued_of_matIssue fun s => ?_,
    fun sw col t d a k n => queued_of_matIssue fun s => ?_, fun sw d => queued_of_matIssue fun s => ?_⟩
  · rw [dispatch_mapdef]; rfl
  · rw [dispatch_tmma]; cases mode <;> rfl
  · rw [dispatch_tmmas]; cases mode <;> rfl
  · rw [dispatch_wbld]; cases sp <;> rfl
  · rw [dispatch_wbinv]; rfl
  · rw [dispatch_accz]; rfl
  · rw [dispatch_accld]; rfl
  · rw [dispatch_accst]; rfl
  · rw [dispatch_accsc]; rfl
  · rw [dispatch_accadd]; rfl
  · rw [dispatch_accrd]; rfl
  · rw [dispatch_accwr]; rfl
  · rw [dispatch_ttest]; rfl

end Sys2Proof.Machine
end

section
/-! O46, first part. The head of a matrix queue: its start, the touchstone runs, and the steps of TMMA and TMMAS. -/

namespace Sys2Proof.Machine

/-- The head of a core's matrix queue, that no stop holds, with its workgroup and the context it runs in. -/
structure Heads (s : State) (core : Nat) (e : MEntry) (g : Wg) (c : Ctx) (rest : List MEntry) : Prop where
  mq : (s.coreAt core).mq = e :: rest
  wg : s.wg e.w.wg = some g
  ctx : s.ctxFor e.w = some c
  goes : s.mqStops core g = false
  stall : s.stall = false

section
variable {s : State} {core : Nat} {e : MEntry} {g : Wg} {c : Ctx} {rest : List MEntry}

theorem Heads.matHead (h : Heads s core e g c rest) : s.matHead core = some e := by
  simp [State.matHead, h.mq, h.wg, h.goes]

theorem Heads.ctx_eq (h : Heads s core e g c rest) : c = { w := e.w, g := g, x := {}, now := s.cycle e.w.wg.dev } := by
  have hc := h.ctx
  rw [State.ctxFor, h.wg] at hc
  exact (Option.some.inj hc).symm

theorem Heads.ctx_g (h : Heads s core e g c rest) : c.g = g := by rw [h.ctx_eq]

theorem Heads.g_id (h : Heads s core e g c rest) : g.id = e.w.wg := wg_name h.wg

/-- The queue after a change of the head's entry. -/
theorem head_modEntry {t : State} (f : MEntry → MEntry) (h : (t.coreAt core).mq = e :: rest) : ((t.modEntry core e.id f).coreAt core).mq.head? = some (f e) := by
  simp [State.modEntry, h]

/-- The head begins to run. -/
theorem entryStart_runs (h : Heads s core e g c rest) (hr : e.running = false) (hb : s.engineReady e.before = true)
    (hc : ∀ x, e.came = some x → x.1 ≠ s.cycle (devOfCore core)) (hf : e.op.isTmma = false ∨ (s.coreAt core).fenced ≠ 15)
    (hk : e.resumed = true ∨ (s.entryErr c e.op).trap = none) :
    exec (.matrixEntryStart core) s = .next (s.modEntry core e.id (fun e => { e with running := true })) := by
  have hcame : e.came.any (fun x => x.1 = s.cycle (devOfCore core)) = false := by
    cases he : e.came with
    | none => rfl
    | some x => simpa using hc x he
  have hfen : (e.op.isTmma && decide ((s.coreAt core).fenced = 15)) = false := by
    rcases hf with hf | hf
    · rw [hf, Bool.false_and]
    · rw [decide_eq_false hf, Bool.and_false]
  have htrap : (if e.resumed then none else (s.entryErr c e.op).trap) = none := by
    rcases hk with hk | hk <;> simp [hk]
  rw [dispatch_matrixEntryStart, execMatrixEntryStart, h.matHead]
  simp only [hr, hb, hcame, h.ctx, hfen, htrap, Bool.not_true, Bool.or_self, Bool.false_eq_true, if_false]

/-! ### Touchstone runs -/

/-- Events raised one after another change devices, host memory and dies only. -/
theorem foldl_raiseEvent_eq (p : Nat → Bool) (d q die ty : Nat) (pay : List Nat) (l : List Nat) (s : State) : ∃ devs host dies,
    l.foldl (fun (t : State) i => if p i then t.raiseEvent d q die die ty pay else t) s = { s with devs := devs, host := host, dies := dies } := by
  induction l generalizing s with
  | nil => exact ⟨_, _, _, rfl⟩
  | cons i l ih =>
    rw [List.foldl_cons]
    split
    · obtain ⟨devs, host, -, h, -⟩ := raiseEvent_eq s d q die die ty pay
      rw [h]
      obtain ⟨devs, host, dies, h⟩ := ih { s.modDie (4 * d + die) (fun x => { x with evSeq := x.evSeq + 1 }) with devs := devs, host := host }
      exact ⟨devs, host, dies, h⟩
    · exact ih s

/-- What a touchstone run makes of its core. -/
def Core.touched (k : Core) (failing : BitVec 4) : Core :=
  { k with fenced := k.fenced ||| failing, steps := 0, total := if failing &&& ~~~k.fenced = 0 then 0 else k.total }

theorem touchstone_eq (s : State) (core ctx : Nat) (failing : BitVec 4) : ∃ t : State, s.touchstone core ctx failing = t ∧
    t.coreAt core = (s.coreAt core).touched failing ∧ t.wgs = s.wgs ∧ t.hbm = s.hbm := by
  let f : Core → Core := fun k => { k with fenced := (s.coreAt core).fenced ||| failing, steps := 0,
                                           total := if failing &&& ~~~(s.coreAt core).fenced = 0 then 0 else k.total }
  obtain ⟨devs, host, dies, h⟩ := foldl_raiseEvent_eq (fun i => (failing &&& ~~~(s.coreAt core).fenced).getLsbD i) (devOfCore core) ctx (agentOfCore core % 4) 0x06
    [dieLocalCore core, ((s.coreAt core).fenced ||| failing).toNat, (s.coreAt core).total] (List.range 4) (s.modCore core f)
  exact ⟨_, h, coreAt_modCore s core f, rfl, rfl⟩

theorem touchstone_ttest {d : Nat} {failing : BitVec 4} (h : Heads s core e g c rest) (he : e.op = .ttest d) (hr : e.running = true) (ht : e.test = none) :
    ∃ t, exec (.touchstoneRun core failing) s = .next t ∧ (t.coreAt core).fenced = (s.coreAt core).fenced ||| failing ∧ (t.coreAt core).steps = 0 ∧
    (t.coreAt core).mq.head? = some { e with test := some (((s.coreAt core).fenced ||| failing).toNat * 16 + failing.toNat) } ∧ t.wgs = s.wgs ∧ t.hbm = s.hbm := by
  obtain ⟨t, heq, hcore, hwgs, hhbm⟩ := touchstone_eq s core (s.ctxOf e.w) failing
  have hmq : (t.coreAt core).mq = e :: rest := by rw [hcore]; exact h.mq
  have hex : exec (.touchstoneRun core failing) s =
      .next (t.modEntry core e.id (fun e => { e with test := some ((t.coreAt core).fenced.toNat * 16 + failing.toNat) })) := by
    rw [dispatch_touchstoneRun, execTouchstoneRun, h.matHead]
    obtain ⟨id, w, op, pc, before, running, next, resumed, scaleErr, badWord, test, came⟩ := e
    obtain rfl : op = .ttest d := he
    obtain rfl : running = true := hr
    obtain rfl : test = none := ht
    simp only at heq
    simp only [heq]
  refine ⟨_, hex, ?_, ?_, ?_, hwgs, hhbm⟩
  · rw [State.modEntry, coreAt_modCore, hcore]; rfl
  · rw [State.modEntry, coreAt_modCore, hcore]; rfl
  · rw [head_modEntry _ hmq, hcore]; rfl

theorem touchstone_tmma {failing : BitVec 4} (h : Heads s core e g c rest) (he : e.op.isTmma = true) (hd : s.touchDue core = true)
    (hf : (s.coreAt core).fenced ||| failing ≠ 15) :
    ∃ t, exec (.touchstoneRun core failing) s = .next t ∧ (t.coreAt core).fenced = (s.coreAt core).fenced ||| failing ∧ (t.coreAt core).steps = 0 ∧
    (t.coreAt core).total = (if failing &&& ~~~(s.coreAt core).fenced = 0 then 0 else (s.coreAt core).total) ∧ (t.coreAt core).mq = (s.coreAt core).mq ∧
    t.wgs = s.wgs ∧ t.hbm = s.hbm := by
  obtain ⟨t, heq, hcore, hwgs, hhbm⟩ := touchstone_eq s core (s.coreAt core).lastCtx failing
  have hfen : decide ((t.coreAt core).fenced = 15) = false := by rw [hcore]; exact decide_eq_false hf
  have hex : exec (.touchstoneRun core failing) s = .next t := by
    rw [dispatch_touchstoneRun, execTouchstoneRun, h.matHead]
    obtain ⟨id, w, op, pc, before, running, next, resumed, scaleErr, badWord, test, came⟩ := e
    cases op <;> simp only [MOp.isTmma, Bool.false_eq_true] at he
    simp only [heq, hd, hfen, Bool.not_true, Bool.and_false, Bool.false_eq_true, if_false]
  exact ⟨t, hex, by rw [hcore]; rfl, by rw [hcore]; rfl, by rw [hcore]; rfl, by rw [hcore]; rfl, hwgs, hhbm⟩

end

/-! ### Tiles -/

theorem tabGet_filterMap {α : Type} (v : Nat → Option α) (l : List Nat) (i : Nat) :
    tabGet (l.filterMap (fun k => (v k).map (fun x => (k, x)))) i = if i ∈ l then v i else none := by
  induction l with
  | nil => rfl
  | cons a l ih =>
    by_cases h : a = i
    · subst h
      cases hv : v a <;> simp [hv, tabGet, ih]
    · cases hv : v a <;> simp [hv, tabGet, ih, h, Ne.symm h]

/-- An element of a tile written from a function of its elements. -/
theorem tabGetD_tileOf (f : Nat → Nat → Word) {i j : Nat} (hi : i < 64) (hj : j < 64) : tabGetD (tileOf f) (accKey i j) 0 = f i j := by
  have hlist : tileOf f = (List.range 4096).filterMap (fun k => (if f (k / 64) (k % 64) = 0 then none else some (f (k / 64) (k % 64))).map (fun x => (k, x))) := by
    unfold tileOf
    congr 1
    funext k
    simp only
    split <;> rfl
  have hdiv : accKey i j / 64 = i := by unfold accKey; omega
  have hmod : accKey i j % 64 = j := by unfold accKey; omega
  have hmem : accKey i j ∈ List.range 4096 := by unfold accKey; rw [List.mem_range]; omega
  rw [hlist, tabGetD, tabGet_filterMap, if_pos hmem, hdiv, hmod]
  by_cases h : f i j = 0
  · rw [if_pos h, h]
  · rw [if_neg h]

/-- A workgroup with one accumulator tile written. -/
def Wg.withTile (g : Wg) (t : Nat) (f : Nat → Nat → Word) : Wg := { g with acc := g.acc.set t (tileOf f) }

theorem accAt_withTile {g : Wg} {t : Nat} (ht : t < g.acc.length) (f : Nat → Nat → Word) {i j : Nat} (hi : i < 64) (hj : j < 64) :
    (g.withTile t f).accAt t i j = f i j := by
  rw [Wg.accAt, Wg.withTile, List.getD_eq_getElem?_getD, List.getElem?_set_self ht, Option.getD_some, tabGetD_tileOf f hi hj]

theorem acc_withTile_other (g : Wg) {t k : Nat} (f : Nat → Nat → Word) (h : k ≠ t) : (g.withTile t f).acc.getD k [] = g.acc.getD k [] := by
  rw [Wg.withTile, List.getD_eq_getElem?_getD, List.getD_eq_getElem?_getD, List.getElem?_set_ne h.symm]

theorem wg_setTileAcc {s : State} {i : WgId} {g : Wg} (h : s.wg i = some g) (t : Nat) (f : Nat → Nat → Word) :
    (s.setTileAcc i t f).wg i = some (g.withTile t f) := wg_modWg_same (f := fun h => h.withTile t f) (fun _ => rfl) h

/-! ### Operands that need no repair -/

theorem fixMap_sound {s : State} {u : MapUse} {h : Wg} (hg : s.wg u.g = some h) (he : h.spadErr = []) (es : List (Nat × Nat)) : s.fixMap u es = s := by
  simp [State.fixMap, hg, he]

theorem usePanel_here {s : State} {g : Wg} {i : WgId} {p : Panel} {off : Nat} (hg : s.wg i = some g) (hp : tabGet g.panels off = some p)
    (hh : p.here = true) (core : Nat) : s.usePanel core i off = s := by
  simp [State.usePanel, hg, hp, hh]

theorem elem_sound (u : MapUse) {h : Wg} (he : h.spadErr = []) (r x : Nat) : (u.elem h r x).2.2 = false := by
  unfold MapUse.elem
  cases hf : Fmt.ofCode (mapFmt u.words) <;> simp [spadBad_sound he]

theorem vector_sound (u : MapUse) {h : Wg} (he : h.spadErr = []) (step n : Nat) : (u.vector h step n).2.2 = false := by
  simp only [MapUse.vector, List.any_map, List.any_eq_false, Function.comp_apply]
  intro q _
  split <;> simp [elem_sound u he]

/-! ### Steps of TMMA and TMMAS -/

/-- Operand B of a step: its column vectors, each with a scale error and whether a word of it is lost. -/
def State.columns (s : State) (c : Ctx) (src : Nat ⊕ Nat) (next : Nat) : Option (Nat → List Xreal × Bool × Bool) :=
  match src with
  | .inl mb => match s.mapUse c mb false with
    | some u => (s.wg u.g).map (fun hb => u.vector hb next)
    | none => none
  | .inr off => (tabGet c.g.panels off).map (fun p => fun j => let v := p.column next j; (v.1, v.2, false))

section
variable {s : State} {core : Nat} {e : MEntry} {g : Wg} {c : Ctx} {rest : List MEntry} {mode : MmaMode} {src : Nat ⊕ Nat} {sp : Bool} {tt ma : Nat}
  {alpha : Word} {a : MapUse} {ha : Wg}

/-- An element of a step's result, where no word of its operands is lost. -/
theorem tmmaStepOf_elem {b : Nat → List Xreal × Bool × Bool} (hb : ∀ j, (b j).2.2 = false) (he : ha.spadErr = []) (step : Nat) {i j : Nat}
    (hi : i < 64) (hj : j < 64) :
    (tmmaStepOf g a ha b mode tt step alpha).1 i j = chunkSum
      (if step ≠ 0 then decodeFp32 (g.accAt tt i j) else match mode with
        | .acc => decodeFp32 (g.accAt tt i j) | .zero => xzero false | .scale => (decodeFp32 (g.accAt tt i j)).mul (decodeFp32 alpha))
      (List.zipWith Xreal.mul (a.vector ha step i).1 (b j).1) := by
  have hrow : ((List.range 64).map (a.vector ha step)).getD i ([], false, false) = a.vector ha step i := by
    simp [List.getD_eq_getElem?_getD, hi]
  have hcol : ((List.range 64).map b).getD j ([], false, false) = b j := by
    simp [List.getD_eq_getElem?_getD, hj]
  simp only [tmmaStepOf, hrow, hcol, vector_sound a he, hb, Bool.or_self, Bool.false_eq_true, if_false, bne_iff_ne] <;> rfl

/-- A step whose operands need no repair, with operand B's columns `b`. -/
theorem tmmaStep_runs (h : Heads s core e g c rest) (ho : e.op = .tmma mode src sp tt ma alpha) (hr : e.running = true) (hd : s.touchDue core = false)
    (hn : e.next < s.entrySteps c e.op) (ha' : s.mapUse c ma false = some a) (hag : s.wg a.g = some ha) (hae : ha.spadErr = []) (ht : tt < g.acc.length)
    {b : Nat → List Xreal × Bool × Bool} (hfix : s.fixOperands core e = s) (hb : ∀ j, (b j).2.2 = false)
    (hcol : s.columns c src e.next = some b) :
    Claims.TmmaStep s core e g mode tt alpha a ha (fun j => (b j).1) := by
  let r := tmmaStepOf g a ha b mode tt e.next alpha
  let t := ((s.setTileAcc e.w.wg tt r.1).modEntry core e.id (fun e => { e with next := e.next + 1, scaleErr := e.scaleErr || r.2.1, badWord := e.badWord || r.2.2 })).modCore
    core (fun k => { k with steps := k.steps + 1, total := k.total + 1, lastCtx := c.ctx })
  have hex : exec (.tmmaStep core) s = .next t := by
    rw [dispatch_tmmaStep, execTmmaStep, h.matHead]
    simp only [hfix, h.ctx, ho, hr, hd, ha', hag, Bool.not_true, Bool.or_self, Bool.false_or]
    rw [if_neg (by rw [← ho]; simpa using hn)]
    refine congrArg Host.Outcome.next ?_
    split
    · next hb₁ b₁ e₁ e₂ =>
      obtain rfl := Option.some.inj e₁
      obtain rfl := Option.some.inj (e₂.symm.trans hcol)
      rw [h.ctx_g]
      exact orWait_of_hold rfl h.stall
    · next hno => exact (hno _ _ rfl hcol).elim
  have hwg : t.wg e.w.wg = some (g.withTile tt r.1) := wg_setTileAcc h.wg tt r.1
  refine ⟨t, _, hex, hwg, ?_, ?_, rfl, rfl, fun k hk => acc_withTile_other g _ hk, fun i j hi hj => ?_⟩
  · simp [t, State.modEntry, State.setTileAcc, h.mq]
  · simp [t, State.modEntry, State.setTileAcc]
  · rw [accAt_withTile ht _ hi hj]
    exact tmmaStepOf_elem hb hae e.next hi hj

end

end Sys2Proof.Machine
end

section
/-! O46, second part. The records of a panel: the codes of a column, and the steps of TMMA and TMMAS on maps and panels. -/

namespace Sys2Proof.Machine

/-! ### The codes of a record (R168 to R170) -/

theorem map_range_mul {α : Type} (f : Nat → α) (n k : Nat) :
    (List.range (n * k)).map f = (List.range n).flatMap (fun i => (List.range k).map (fun j => f (k * i + j))) := by
  induction n with
  | zero => simp
  | succ n ih =>
    rw [Nat.succ_mul, List.range_add, List.map_append, ih, List.range_succ, List.flatMap_append]
    simp [Nat.mul_comm]

/-- The set bits of a mask below a position. -/
def bitsBelow (mask r : Nat) : Nat := ((List.range r).filter (fun i => mask.testBit i)).length

theorem bitsBelow_succ (mask r : Nat) : bitsBelow mask (r + 1) = bitsBelow mask r + if mask.testBit r then 1 else 0 := by
  rw [bitsBelow, List.range_succ, List.filter_append, List.length_append, bitsBelow]
  by_cases h : mask.testBit r <;> simp [h]

/-- A value of a group stands at each set bit of the mask, as long as there are values; 0 everywhere else. -/
theorem expandGroup_from (mask : Nat) (vals : List Nat) (m : Nat) : ∀ r, expandGroup mask vals ((List.range m).map (fun i => r + i)) (min (bitsBelow mask r) vals.length) =
    (List.range m).map (fun i => if mask.testBit (r + i) = true ∧ bitsBelow mask (r + i) < vals.length then vals.getD (bitsBelow mask (r + i)) 0 else 0) := by
  induction m with
  | zero => intro r; rfl
  | succ m ih =>
    intro r
    have hs := ih (r + 1)
    rw [bitsBelow_succ] at hs
    rw [List.range_succ_eq_map, List.map_cons, List.map_cons, List.map_map, List.map_map]
    have hfun : ((fun i => r + i) ∘ Nat.succ) = fun i => r + 1 + i := by funext i; simp; omega
    have hfun' : ((fun i => if mask.testBit (r + i) = true ∧ bitsBelow mask (r + i) < vals.length then vals.getD (bitsBelow mask (r + i)) 0 else 0) ∘ Nat.succ) =
        fun i => if mask.testBit (r + 1 + i) = true ∧ bitsBelow mask (r + 1 + i) < vals.length then vals.getD (bitsBelow mask (r + 1 + i)) 0 else 0 := by
      funext i
      simp only [Function.comp_apply, Nat.succ_eq_add_one, show r + (i + 1) = r + 1 + i by omega]
    rw [hfun, hfun', Nat.add_zero, expandGroup, ← hs]
    by_cases hb : mask.testBit r = true
    · by_cases hl : bitsBelow mask r < vals.length
      · rw [Nat.min_eq_left (Nat.le_of_lt hl), if_pos (by simp [hb, hl]), if_pos ⟨hb, hl⟩, if_pos hb, Nat.min_eq_left hl]
      · rw [Nat.min_eq_right (by omega), if_neg (by simp), if_neg (fun h => hl h.2), if_pos hb, Nat.min_eq_right (by omega)]
    · rw [if_neg (by simp [hb]), if_neg (fun h => hb h.1), if_neg hb]
      rfl

theorem expandGroup_eq (mask : Nat) (vals : List Nat) : expandGroup mask vals (List.range 16) 0 =
    (List.range 16).map (fun i => if mask.testBit i = true ∧ bitsBelow mask i < vals.length then vals.getD (bitsBelow mask i) 0 else 0) := by
  have h := expandGroup_from mask vals 16 0
  simpa [bitsBelow] using h

/-- The code of element q of a record with payload `l`: in a dense record by its place, in a sparse one by the bits below its own in its group. -/
def recordCode (sp : Sparse) (w : Nat) (l : List Byte) (q : Nat) : Nat :=
  match sp with
  | .dense => ofBytes l / 2 ^ (w * q) % 2 ^ w
  | _ =>
    let n := sparseN sp
    let start := q / 16 * (2 + n * w / 8)
    let mask := bytesAt l start 2
    if mask.testBit (q % 16) = true ∧ bitsBelow mask (q % 16) < n then bytesAt l (start + 2) (n * w / 8) / 2 ^ (w * bitsBelow mask (q % 16)) % 2 ^ w else 0

theorem bytesAt_take_drop (l : List Byte) {o n a k : Nat} (h : a + k ≤ n) : bytesAt ((l.drop o).take n) a k = bytesAt l (o + a) k := by
  simp only [bytesAt, List.drop_take, List.drop_drop, List.take_take]
  congr 2
  omega

/-- The codes of a sparse record with `n` values in a group. -/
theorem sparseCodes_eq {w : Nat} (h : kcOf w % 16 = 0) (l : List Byte) (n : Nat) :
    (List.range (kcOf w / 16)).flatMap (fun g =>
      let grp := (l.drop (g * (2 + n * w / 8))).take (2 + n * w / 8)
      expandGroup (bytesAt grp 0 2) (let x := ofBytes (grp.drop 2); (List.range n).map (fun i => x / 2 ^ (w * i) % 2 ^ w)) (List.range 16) 0) =
    (List.range (kcOf w)).map (fun q =>
      let start := q / 16 * (2 + n * w / 8)
      let mask := bytesAt l start 2
      if mask.testBit (q % 16) = true ∧ bitsBelow mask (q % 16) < n then bytesAt l (start + 2) (n * w / 8) / 2 ^ (w * bitsBelow mask (q % 16)) % 2 ^ w else 0) := by
  have hkc : kcOf w = kcOf w / 16 * 16 := by omega
  rw [hkc, map_range_mul, ← hkc]
  refine List.flatMap_congr fun g _ => ?_
  have hmask : bytesAt ((l.drop (g * (2 + n * w / 8))).take (2 + n * w / 8)) 0 2 = bytesAt l (g * (2 + n * w / 8)) 2 := by
    rw [bytesAt_take_drop l (by omega), Nat.add_zero]
  have hvals : ofBytes (((l.drop (g * (2 + n * w / 8))).take (2 + n * w / 8)).drop 2) = bytesAt l (g * (2 + n * w / 8) + 2) (n * w / 8) := by
    rw [List.drop_take, List.drop_drop, bytesAt, Nat.add_sub_cancel_left]
  simp only [hmask, hvals, expandGroup_eq, List.length_map, List.length_range]
  refine List.map_congr_left fun i hi => ?_
  have hi' := List.mem_range.mp hi
  have hdiv : (16 * g + i) / 16 = g := by omega
  have hmod : (16 * g + i) % 16 = i := by omega
  rw [hdiv, hmod]
  by_cases hc : (bytesAt l (g * (2 + n * w / 8)) 2).testBit i = true ∧ bitsBelow (bytesAt l (g * (2 + n * w / 8)) 2) i < n
  · rw [if_pos hc, if_pos hc]
    simp [List.getD_eq_getElem?_getD, hc.2]
  · rw [if_neg hc, if_neg hc]

theorem recordCodes_eq {sp : Sparse} {w : Nat} (h : sp = .dense ∨ kcOf w % 16 = 0) (l : List Byte) :
    recordCodes sp w l = (List.range (kcOf w)).map (recordCode sp w l) := by
  cases sp with
  | dense => rfl
  | sp2 => exact sparseCodes_eq (h.resolve_left (by simp)) l 2
  | sp4 => exact sparseCodes_eq (h.resolve_left (by simp)) l 4
  | sp8 => exact sparseCodes_eq (h.resolve_left (by simp)) l 8

/-- The chunk of every format but FP32 is a whole number of groups. -/
theorem kcOf_groups {f : Fmt} (h : f ≠ .fp32) : kcOf f.width % 16 = 0 := by
  revert h
  cases f <;> decide

/-- The mask and the values of a group, read from the payload of a record alone. -/
theorem group_slice (l : List Byte) (o : Nat) {n w q : Nat} (hq : q < kcOf w) (hk : kcOf w % 16 = 0) :
    let gb := 2 + n * w / 8
    let payload := (l.drop o).take (kcOf w / 16 * gb)
    bytesAt payload (q / 16 * gb) 2 = bytesAt l (o + q / 16 * gb) 2 ∧
    bytesAt payload (q / 16 * gb + 2) (n * w / 8) = bytesAt l (o + q / 16 * gb + 2) (n * w / 8) := by
  intro gb payload
  have hle : (q / 16 + 1) * gb ≤ kcOf w / 16 * gb := Nat.mul_le_mul_right gb (by omega)
  rw [Nat.succ_mul] at hle
  exact ⟨bytesAt_take_drop l (by omega), by rw [bytesAt_take_drop l (by omega), Nat.add_assoc]⟩

/-- The first byte of the record of column j of chunk c. -/
abbrev Panel.recordAt (p : Panel) (c j : Nat) : Nat := (64 * c + j) * (4 + recordQ p.sp (widthOf p.fmt))

/-- The code that the mask and the values of a group give element q of a record at byte `a` of a panel. -/
theorem sparseCode_slice (l : List Byte) (a : Nat) {n w q : Nat} (hq : q < kcOf w) (hk : kcOf w % 16 = 0) :
    (let payload := (l.drop (a + 4)).take (kcOf w / 16 * (2 + n * w / 8))
      let mask := bytesAt payload (q / 16 * (2 + n * w / 8)) 2
      if mask.testBit (q % 16) = true ∧ bitsBelow mask (q % 16) < n then
        bytesAt payload (q / 16 * (2 + n * w / 8) + 2) (n * w / 8) / 2 ^ (w * bitsBelow mask (q % 16)) % 2 ^ w else 0) =
    (let start := 4 + q / 16 * (2 + n * w / 8)
      let mask := bytesAt l (a + start) 2
      if mask.testBit (q % 16) = true ∧ bitsBelow mask (q % 16) < n then
        bytesAt l (a + (start + 2)) (n * w / 8) / 2 ^ (w * bitsBelow mask (q % 16)) % 2 ^ w else 0) := by
  obtain ⟨h1, h2⟩ := group_slice l (a + 4) (n := n) hq hk
  simp only [h1, h2, Nat.add_assoc]

theorem recordCode_eq (p : Panel) (c j : Nat) {q : Nat} (hq : q < kcOf (widthOf p.fmt)) (hs : p.sp = .dense ∨ kcOf (widthOf p.fmt) % 16 = 0) :
    recordCode p.sp (widthOf p.fmt) ((p.bytes.drop (p.recordAt c j + 4)).take (recordQ p.sp (widthOf p.fmt))) q = Claims.panelCode p c j q := by
  obtain ⟨fmt, sp, chunks, bytes, lost, here, slice, area, bad⟩ := p
  cases sp with
  | dense => rfl
  | sp2 => exact sparseCode_slice bytes _ (n := 2) hq (hs.resolve_left (by simp))
  | sp4 => exact sparseCode_slice bytes _ (n := 4) hq (hs.resolve_left (by simp))
  | sp8 => exact sparseCode_slice bytes _ (n := 8) hq (hs.resolve_left (by simp))

/-- A column of a panel with nothing lost. -/
theorem column_eq {p : Panel} {f : Fmt} (hl : p.lost = []) (hf : Fmt.ofCode p.fmt = some f) (hs : p.sp = .dense ∨ f ≠ .fp32) (c j : Nat) :
    (p.column c j).1 = (List.range (kcOf (widthOf p.fmt))).map (fun q => (blockValue (Claims.panelHdr p c j) f (Claims.panelCode p c j q)).1) := by
  have hw : widthOf p.fmt = f.width := by rw [widthOf, hf]
  have hs' : p.sp = .dense ∨ kcOf (widthOf p.fmt) % 16 = 0 := hs.imp_right fun h => hw ▸ kcOf_groups h
  have hhdr : bytesAt ((p.bytes.drop (p.recordAt c j)).take (4 + recordQ p.sp (widthOf p.fmt))) 0 4 = bytesAt p.bytes (p.recordAt c j) 4 := by
    rw [bytesAt_take_drop _ (by omega), Nat.add_zero]
  have hcodes : recordCodes p.sp (widthOf p.fmt) (((p.bytes.drop (p.recordAt c j)).take (4 + recordQ p.sp (widthOf p.fmt))).drop 4) =
      (List.range (kcOf (widthOf p.fmt))).map (Claims.panelCode p c j) := by
    rw [List.drop_take, List.drop_drop, Nat.add_sub_cancel_left, recordCodes_eq hs']
    exact List.map_congr_left fun q hq => recordCode_eq p c j (List.mem_range.mp hq) hs'
  simp only [Panel.column, hf, hl, List.isEmpty_nil, if_true, hcodes, hhdr, List.map_map]
  rfl

/-! ### Steps of TMMA and TMMAS -/

section
variable {s : State} {core : Nat} {e : MEntry} {g : Wg} {c : Ctx} {rest : List MEntry} {mode : MmaMode} {sp : Bool} {tt ma : Nat}
  {alpha : Word} {a : MapUse} {ha : Wg}

/-- Operand B of a step from a map. -/
theorem tmmaStep_map {mb : Nat} {b : MapUse} {hb : Wg} (h : Heads s core e g c rest) (ho : e.op = .tmma mode (.inl mb) sp tt ma alpha) (hr : e.running = true)
    (hd : s.touchDue core = false) (hn : e.next < s.entrySteps c e.op) (ha' : s.mapUse c ma false = some a) (hag : s.wg a.g = some ha)
    (hae : ha.spadErr = []) (ht : tt < g.acc.length) (hb' : s.mapUse c mb false = some b) (hbg : s.wg b.g = some hb) (hbe : hb.spadErr = []) :
    Claims.TmmaStep s core e g mode tt alpha a ha (fun j => (b.vector hb e.next j).1) := by
  refine tmmaStep_runs h ho hr hd hn ha' hag hae ht (b := b.vector hb e.next) ?_ (fun j => vector_sound b hbe e.next j) ?_
  · simp only [State.fixOperands, h.ctx, hr, ho, hd, ha', fixMap_sound hag hae, hb', fixMap_sound hbg hbe]
    rfl
  · simp only [State.columns, hb', hbg, Option.map_some]

/-- Operand B of a step from a panel in the weight buffer. -/
theorem tmmaStep_panel {off : Nat} {p : Panel} {f : Fmt} (h : Heads s core e g c rest) (ho : e.op = .tmma mode (.inr off) sp tt ma alpha) (hr : e.running = true)
    (hd : s.touchDue core = false) (hn : e.next < s.entrySteps c e.op) (ha' : s.mapUse c ma false = some a) (hag : s.wg a.g = some ha)
    (hae : ha.spadErr = []) (ht : tt < g.acc.length) (hp : tabGet g.panels off = some p) (hh : p.here = true) (hl : p.lost = [])
    (hf : Fmt.ofCode p.fmt = some f) (hs : p.sp = .dense ∨ f ≠ .fp32) :
    Claims.TmmaStep s core e g mode tt alpha a ha (fun j => (List.range (kcOf (widthOf p.fmt))).map (fun q =>
      (blockValue (Claims.panelHdr p e.next j) f (Claims.panelCode p e.next j q)).1)) := by
  have hrun := tmmaStep_runs h ho hr hd hn ha' hag hae ht (b := fun j => ((p.column e.next j).1, (p.column e.next j).2, false)) ?_ (fun _ => rfl) ?_
  · simpa only [column_eq hl hf hs] using hrun
  · simp only [State.fixOperands, h.ctx, hr, ho, hd, ha', fixMap_sound hag hae, usePanel_here h.wg hp hh]
    rfl
  · simp only [State.columns, h.ctx_g, hp, Option.map_some]

end

end Sys2Proof.Machine
end

section
/-! O46, third part. The steps of WBLD: the records of a chunk, and the room of a backing copy in the swap partition (R171, R352). -/

namespace Sys2Proof.Machine

/-! ### Room in the swap ways -/

/-- Bytes of a workgroup's panels whose backing copies the swap ways of cluster `k` hold. -/
def backedOn (panels : Tab Panel) (k : Nat) : Nat := (panels.map (fun p => if p.2.area || p.2.slice != k then 0 else p.2.backed)).sum

theorem foldl_add_nat {α : Type} (f : α → Nat) (l : List α) (n : Nat) : l.foldl (fun n a => n + f a) n = n + (l.map f).sum := by
  induction l generalizing n with
  | nil => rfl
  | cons a l ih => rw [List.foldl_cons, ih, List.map_cons, List.sum_cons, Nat.add_assoc]

theorem swapUsed_eq (s : State) (k ctx : Nat) : s.swapUsed k ctx = tabGetD (s.cluster k).swapUse ctx 0 +
    ((s.wgs.filter (fun g => g.ctx = ctx && g.id.dev = k / 144)).map (fun g => backedOn g.panels k)).sum := by
  have hw : ∀ (g : Wg) n, g.panels.foldl (fun n p => if p.2.area || p.2.slice != k then n else n + p.2.backed) n = n + backedOn g.panels k := by
    intro g n
    rw [backedOn, ← foldl_add_nat (fun p : Nat × Panel => if p.2.area || p.2.slice != k then 0 else p.2.backed)]
    congr 1
    funext n p
    split <;> rfl
  simp only [State.swapUsed, hw]
  rw [foldl_add_nat (fun g : Wg => backedOn g.panels k), Nat.zero_add]

/-- Less need for the swap ways leaves room. -/
theorem swapFits_mono {s t : State} {k c n : Nat} {F : Wg → Wg} (hc : t.clusters = s.clusters) (hd : t.devs = s.devs) (hw : t.wgs = s.wgs.map F)
    (hF : ∀ g ∈ s.wgs, (F g).id = g.id ∧ (F g).ctx = g.ctx ∧ backedOn (F g).panels k ≤ backedOn g.panels k) (h : s.swapFits k c n = true) :
    t.swapFits k c n = true := by
  have hused : ∀ ctx, t.swapUsed k ctx ≤ s.swapUsed k ctx := by
    intro ctx
    have hfilter : t.wgs.filter (fun g => g.ctx = ctx && g.id.dev = k / 144) = (s.wgs.filter (fun g => g.ctx = ctx && g.id.dev = k / 144)).map F := by
      rw [hw, List.filter_map]
      congr 1
      refine List.filter_congr fun g hg => ?_
      obtain ⟨h1, h2, -⟩ := hF g hg
      simp [h1, h2]
    rw [swapUsed_eq, swapUsed_eq, hfilter, List.map_map, State.cluster, hc]
    exact Nat.add_le_add_left (List.sum_le_sum fun g hg => (hF g (List.mem_of_mem_filter hg)).2.2) _
  have hdev : t.dev (k / 144) = s.dev (k / 144) := by rw [State.dev, State.dev, hd]
  rw [State.swapFits, foldl_add_nat] at h
  rw [State.swapFits, foldl_add_nat, hdev]
  obtain ⟨h1, h2⟩ := (Bool.and_eq_true ..).mp h
  exact (Bool.and_eq_true ..).mpr ⟨decide_eq_true ((Nat.add_le_add_right (hused c) n).trans (of_decide_eq_true h1)),
    decide_eq_true ((Nat.add_le_add_left (List.sum_le_sum fun i _ => hused i) n).trans (of_decide_eq_true h2))⟩

/-! ### Panels that leave the weight buffer -/

/-- Change each panel of a table by its offset. -/
def mapPanels (f : Nat → Panel → Panel) (l : Tab Panel) : Tab Panel := l.map (fun p => (p.1, f p.1 p.2))

theorem tabGet_mapPanels (f : Nat → Panel → Panel) (l : Tab Panel) (o : Nat) : tabGet (mapPanels f l) o = (tabGet l o).map (f o) := by
  induction l with
  | nil => rfl
  | cons p l ih =>
    obtain ⟨k, v⟩ := p
    by_cases h : k = o
    · subst h; simp [mapPanels, tabGet]
    · simpa [mapPanels, tabGet, h] using ih

theorem mapPanels_mapPanels (f g : Nat → Panel → Panel) (l : Tab Panel) : mapPanels g (mapPanels f l) = mapPanels (fun o p => g o (f o p)) l := by
  simp [mapPanels]

/-- Change the panels of every workgroup by a function of its name, the offset and the panel. -/
def State.mapPanels (s : State) (f : WgId → Nat → Panel → Panel) : State :=
  { s with wgs := s.wgs.map (fun g => { g with panels := Machine.mapPanels (f g.id) g.panels }) }

/-- A change of one panel as a change of all. -/
def onPanel (i : WgId) (off : Nat) (f : Panel → Panel) : WgId → Nat → Panel → Panel := fun j o p => if j = i ∧ o = off then f p else p

theorem modPanel_eq (s : State) (i : WgId) (off : Nat) (f : Panel → Panel) : s.modPanel i off f = s.mapPanels (onPanel i off f) := by
  have hw : ∀ g : Wg, (if g.id = i then { g with panels := g.panels.map (fun (p : Nat × Panel) => if p.1 = off then (p.1, f p.2) else p) } else g) =
      { g with panels := Machine.mapPanels (onPanel i off f g.id) g.panels } := by
    intro g
    by_cases h : g.id = i
    · rw [if_pos h]
      congr 1
      refine List.map_congr_left fun p _ => ?_
      by_cases ho : p.1 = off <;> simp [onPanel, h, ho]
    · rw [if_neg h]
      have : Machine.mapPanels (onPanel i off f g.id) g.panels = g.panels := by simp [Machine.mapPanels, onPanel, h]
      rw [this]
  exact congrArg (fun l => { s with wgs := l }) (List.map_congr_left fun g _ => hw g)

theorem mapPanels_comp (s : State) (f g : WgId → Nat → Panel → Panel) : (s.mapPanels f).mapPanels g = s.mapPanels (fun i o p => g i o (f i o p)) := by
  simp [State.mapPanels, mapPanels_mapPanels]

/-- Nothing but whether panels stand in the buffer changes, and the panel at `off` of workgroup `i` does not leave it. -/
def KeepsPanel (i : WgId) (off : Nat) (f : WgId → Nat → Panel → Panel) : Prop :=
  (∀ j o p, ∃ b, f j o p = { p with here := b }) ∧ ∀ p, p.here = true → f i off p = p

/-- Eviction of other panels keeps a panel. -/
theorem evictPanels_keeps {i : WgId} {off : Nat} (l : List WbEntry) (hl : ∀ e ∈ l, ¬(e.wg = i ∧ e.off = off)) (total : Nat) (s : State) :
    ∃ f, evictPanels l total s = s.mapPanels f ∧ KeepsPanel i off f := by
  have hid : s.mapPanels (fun _ _ p => p) = s := by simp [State.mapPanels, Machine.mapPanels]
  induction l generalizing total s with
  | nil => exact ⟨_, hid.symm, fun _ _ p => ⟨p.here, rfl⟩, fun _ _ => rfl⟩
  | cons e l ih =>
    rw [evictPanels]
    split
    · exact ⟨_, hid.symm, fun _ _ p => ⟨p.here, rfl⟩, fun _ _ => rfl⟩
    · obtain ⟨f, hf, hb, hk⟩ := ih (fun x hx => hl x (List.mem_cons_of_mem _ hx)) (total - e.size) (s.modPanel e.wg e.off (fun p => { p with here := false }))
        (by simp [State.mapPanels, Machine.mapPanels])
      refine ⟨_, hf.trans ((congrArg (State.mapPanels · f) (modPanel_eq ..)).trans (mapPanels_comp ..)), fun j o p => ?_, fun p hp => ?_⟩
      · obtain ⟨b, hb'⟩ := hb j o (onPanel e.wg e.off (fun p => { p with here := false }) j o p)
        refine ⟨b, hb'.trans ?_⟩
        simp only [onPanel]
        split <;> rfl
      · have hne := hl e List.mem_cons_self
        have hsame : onPanel e.wg e.off (fun p => { p with here := false }) i off p = p := if_neg fun h => hne ⟨h.1.symm, h.2.symm⟩
        simp only [hsame]
        exact hk p hp

theorem mem_insertBy {α : Type} {rank : α → Nat} {x y : α} {l : List α} (h : y ∈ insertBy rank x l) : y = x ∨ y ∈ l := by
  induction l with
  | nil => exact .inl (by simpa [insertBy] using h)
  | cons z l ih =>
    rw [insertBy] at h
    split at h
    · simpa using h
    · rcases List.mem_cons.mp h with rfl | h
      · exact .inr List.mem_cons_self
      · exact (ih h).imp_right (List.mem_cons_of_mem _)

theorem mem_sortBy {α : Type} {rank : α → Nat} {l : List α} {y : α} (h : y ∈ sortBy rank l) : y ∈ l := by
  suffices H : ∀ (l acc : List α), y ∈ l.foldl (fun a x => insertBy rank x a) acc → y ∈ acc ∨ y ∈ l from (H l [] h).resolve_left (List.not_mem_nil)
  intro l
  induction l with
  | nil => exact fun _ h => .inl h
  | cons x l ih =>
    intro acc h
    rcases ih _ h with h | h
    · exact (mem_insertBy h).elim (fun h => .inr (h ▸ List.mem_cons_self)) .inl
    · exact .inr (List.mem_cons_of_mem _ h)

theorem placePanel_keeps (s : State) (core : Nat) (i : WgId) (off : Nat) : ∃ f, s.placePanel core i off = s.mapPanels f ∧ KeepsPanel i off f := by
  have hothers : ∀ e ∈ sortBy (fun e => 3 - e.cls) (((s.modPanel i off (fun p => { p with here := true })).wbHeld core).filter (fun e => !(e.wg = i && e.off = off))),
      ¬(e.wg = i ∧ e.off = off) := by
    intro e he
    have h := (List.mem_filter.mp (mem_sortBy he)).2
    rintro ⟨h1, h2⟩
    simp [h1, h2] at h
  obtain ⟨f, hf, hb, hk⟩ := evictPanels_keeps _ hothers
    (((s.modPanel i off (fun p => { p with here := true })).wbHeld core).foldl (fun n e => n + e.size) 0) (s.modPanel i off (fun p => { p with here := true }))
  refine ⟨_, hf.trans ((congrArg (State.mapPanels · f) (modPanel_eq ..)).trans (mapPanels_comp ..)), fun j o p => ?_, fun p hp => ?_⟩
  · obtain ⟨b, hb'⟩ := hb j o (onPanel i off (fun p => { p with here := true }) j o p)
    refine ⟨b, hb'.trans ?_⟩
    simp only [onPanel]
    split <;> rfl
  · have hsame : onPanel i off (fun p => { p with here := true }) i off p = p := by
      rw [onPanel, if_pos ⟨rfl, rfl⟩, ← hp]
    simp only [hsame]
    exact hk p hp

/-! ### The room of a panel that is written -/

theorem backedOn_here {f : Nat → Panel → Panel} (hf : ∀ o p, ∃ b, f o p = { p with here := b }) (l : Tab Panel) (k : Nat) :
    backedOn (mapPanels f l) k = backedOn l k := by
  simp only [backedOn, mapPanels, List.map_map]
  congr 1
  refine List.map_congr_left fun p _ => ?_
  obtain ⟨b, hb⟩ := hf p.1 p.2
  simp only [Function.comp_apply, hb]
  rfl

/-- A panel whose copy is in the HBM swap area takes no room in the swap ways. -/
theorem backedOn_but {f : Nat → Panel → Panel} {off : Nat} (hoff : ∀ p, (f off p).area = true) (hf : ∀ o p, o ≠ off → ∃ b, f o p = { p with here := b })
    (l : Tab Panel) (k : Nat) : backedOn (mapPanels f l) k = backedOn (l.filter (fun p => p.1 != off)) k := by
  induction l with
  | nil => rfl
  | cons p l ih =>
    simp only [backedOn, mapPanels, List.map_cons, List.sum_cons] at ih ⊢
    by_cases h : p.1 = off
    · rw [List.filter_cons_of_neg (by simp [h]), ih, h, hoff, Bool.true_or, if_pos rfl, Nat.zero_add]
    · obtain ⟨b, hb⟩ := hf p.1 p.2 h
      rw [List.filter_cons_of_pos (by simp [h]), ih, List.map_cons, List.sum_cons, hb]
      rfl

theorem filter_tabSet {α : Type} (t : Tab α) (i : Nat) (v : α) : (tabSet t i v).filter (fun p => p.1 != i) = t.filter (fun p => p.1 != i) := by
  induction t with
  | nil => simp [tabSet]
  | cons p t ih =>
    obtain ⟨k, w⟩ := p
    rw [tabSet]
    split
    · simp
    · split
      · next h => subst h; simp
      · next h => simp [h, ih]

theorem backedOn_sublist {l m : Tab Panel} (h : l.Sublist m) (k : Nat) : backedOn l k ≤ backedOn m k := (h.map _).sum_le_sum fun _ _ => Nat.zero_le _

theorem wg_mapPanels (s : State) (f : WgId → Nat → Panel → Panel) (i : WgId) :
    (s.mapPanels f).wg i = (s.wg i).map (fun g => { g with panels := mapPanels (f g.id) g.panels }) :=
  find?_map_name (f := fun g => { g with panels := mapPanels (f g.id) g.panels }) (fun _ => rfl) s.wgs i

/-- What the backing of a panel makes of its record. -/
def Panel.backedIn (p : Panel) (k : Nat) : Panel := { p with slice := k, area := false, bad := false }

/-- A panel that has been written to a table from which panels were dropped is backed in the swap ways, where they had room before. -/
theorem backPanel_fits {s u : State} {i : WgId} {core off : Nat} {g : Wg} {base : Wg → Tab Panel} {P : Wg → Panel} (hg : s.wg i = some g)
    (hbase : ∀ h, (base h).Sublist h.panels) (hp : (P g).here = true)
    (hu : u.wgs = (s.modWg i (fun h => { h with panels := tabSet (base h) off (P h) })).wgs) (hc : u.clusters = s.clusters) (hd : u.devs = s.devs)
    (hfits : s.swapFits (clusterOfCore core) g.ctx (P g).backed = true) :
    ∃ f, u.backPanel core i off = u.mapPanels f ∧ f i off (P g) = (P g).backedIn (clusterOfCore core) := by
  have hwg : u.wg i = some { g with panels := tabSet (base g) off (P g) } := by
    rw [State.wg, hu]
    exact wg_modWg_same (f := fun h => { h with panels := tabSet (base h) off (P h) }) (fun _ => rfl) hg
  obtain ⟨f, hf, hhere, hkeep⟩ := placePanel_keeps u core i off
  let inArea : Panel → Panel := fun p => { p with slice := clusterOfCore core, area := true, bad := false }
  let G : WgId → Nat → Panel → Panel := fun j o p => onPanel i off inArea j o (f j o p)
  have ht : (u.placePanel core i off).modPanel i off inArea = u.mapPanels G := by
    rw [hf, modPanel_eq, mapPanels_comp]
  have hroom : (u.mapPanels G).swapFits (clusterOfCore core) g.ctx (P g).backed = true := by
    refine swapFits_mono (s := s) (F := fun h => let m := if h.id = i then { h with panels := tabSet (base h) off (P h) } else h
      { m with panels := mapPanels (G m.id) m.panels }) hc hd ?_ (fun h _ => ?_) hfits
    · simp only [State.mapPanels, hu, State.modWg, List.map_map]
      rfl
    · by_cases h' : h.id = i
      · refine ⟨by simp [h'], by simp [h'], ?_⟩
        simp only [h', if_true]
        rw [backedOn_but (off := off) (fun p => by simp [G, onPanel, inArea]) (fun o p ho => by simpa [G, onPanel, ho] using hhere i o p), filter_tabSet]
        exact backedOn_sublist (List.filter_sublist.trans (hbase h)) _
      · refine ⟨by simp [h'], by simp [h'], ?_⟩
        simp only [if_neg h']
        rw [backedOn_here (fun o p => by simpa [G, onPanel, h'] using hhere h.id o p)]
  refine ⟨fun j o p => onPanel i off (fun p => { p with area := false }) j o (G j o p), ?_, ?_⟩
  · rw [State.backPanel, hwg]
    simp only [tabGet_set_same]
    rw [show (u.placePanel core i off).modPanel i off (fun p => { p with slice := clusterOfCore core, area := true, bad := false }) = u.mapPanels G from ht,
      if_pos hroom, modPanel_eq, mapPanels_comp]
  · simp only [G, onPanel, inArea, hkeep _ hp]
    rfl

/-! ### The records of a chunk -/

theorem bytesOf_memRead (m : Mem) (a n : Nat) : bytesOf n (memRead m a n) = (List.range n).map (fun i => memGet m (a + i)) := by
  rw [bytesOf_eq_map]
  refine List.map_congr_left fun i hi => BitVec.eq_of_toNat_eq ?_
  rw [BitVec.toNat_ofNat, ← memRead_byte m a n i (List.mem_range.mp hi)]

/-- Records that stand one behind another are the bytes of their run. -/
theorem records_run (m : Mem) (a n len : Nat) : (List.range n).flatMap (fun j => bytesOf len (memRead m (a + j * len) len)) =
    bytesOf (n * len) (memRead m a (n * len)) := by
  rw [bytesOf_memRead, map_range_mul]
  refine List.flatMap_congr fun j _ => ?_
  rw [bytesOf_memRead]
  refine List.map_congr_left fun i _ => ?_
  rw [Nat.mul_comm j len, Nat.add_assoc]

/-- What a WBLD step loads: format, chunks, and for each column of the chunk its record and what it has lost. -/
def State.loaded (s : State) (c : Ctx) (next : Nat) (sp : Sparse) (fmt m src n : Nat) : Option (Nat × Nat × List (List Byte × List Bool)) :=
  match sp with
  | .dense => match s.mapUse c m false with
    | some u => (s.wg u.g).map (fun h => (mapFmt u.words, mapChunks u.words, (List.range 64).map (u.record h next)))
    | none => none
  | _ => match s.spadPlace c src (panelBytes sp fmt n - 64) with
    | some (g, o, _) => (s.wg g).map (fun h => (fmt, n, (List.range 64).map (h.sparseRecord sp fmt o next)))
    | none => none

theorem loaded_sparse {sp : Sparse} (h : sp ≠ .dense) (s : State) (c : Ctx) (next fmt m src n : Nat) : s.loaded c next sp fmt m src n =
    match s.spadPlace c src (panelBytes sp fmt n - 64) with
    | some (g, o, _) => (s.wg g).map (fun h => (fmt, n, (List.range 64).map (h.sparseRecord sp fmt o next)))
    | none => none := by
  cases sp with
  | dense => exact absurd rfl h
  | sp2 => rfl
  | sp4 => rfl
  | sp8 => rfl

theorem wbldRecords_sparse {s : State} {c : Ctx} {next : Nat} {sp : Sparse} {fmt m src n f chunks : Nat} {recs : List Byte} (h : sp ≠ .dense)
    (hr : Claims.wbldRecords s c next sp fmt m src n f chunks recs) :
    let len := 64 * (4 + recordQ sp (widthOf fmt))
    ∃ i o own h, s.spadPlace c src (n * len) = some (i, o, own) ∧ s.wg i = some h ∧ h.spadErr = [] ∧ f = fmt ∧ chunks = n ∧
      recs = bytesOf len (memRead h.spad (o + next * len) len) := by
  cases sp with
  | dense => exact absurd rfl h
  | sp2 => exact hr
  | sp4 => exact hr
  | sp8 => exact hr

theorem panelBytes_records (sp : Sparse) (fmt n : Nat) : panelBytes sp fmt n - 64 = n * (64 * (4 + recordQ sp (widthOf fmt))) := by
  rw [panelBytes, Nat.add_sub_cancel_left, Nat.mul_left_comm, Nat.mul_assoc]

/-- The records that a step loads, from operands that need no repair. -/
theorem loaded_eq {s : State} {c : Ctx} {next : Nat} {sp : Sparse} {fmt m src n f chunks : Nat} {recs : List Byte}
    (h : Claims.wbldRecords s c next sp fmt m src n f chunks recs) :
    ∃ rs, s.loaded c next sp fmt m src n = some (f, chunks, rs) ∧ rs.flatMap (·.1) = recs := by
  by_cases hsp : sp = .dense
  · subst hsp
    obtain ⟨u, h, hu, hg, he, rfl, rfl, rfl⟩ := h
    refine ⟨(List.range 64).map (u.record h next), by simp only [State.loaded, hu, hg, Option.map_some], ?_⟩
    rw [List.flatMap_map]
    refine List.flatMap_congr fun j _ => ?_
    simp only [MapUse.record, Wg.spadRead, Claims.mapHdr]
    split <;> rfl
  · obtain ⟨i, o, own, v, hp, hg, he, rfl, rfl, rfl⟩ := wbldRecords_sparse hsp h
    refine ⟨(List.range 64).map (v.sparseRecord sp f o next), ?_, ?_⟩
    · rw [loaded_sparse hsp, panelBytes_records, hp]
      simp only [hg, Option.map_some]
    · rw [List.flatMap_map, ← records_run]
      refine List.flatMap_congr fun j _ => ?_
      simp only [Wg.sparseRecord, Wg.spadRead]
      congr 2
      ring

/-- Operands that need no repair are as they are. -/
theorem fixOperands_wbld {s : State} {core : Nat} {e : MEntry} {c : Ctx} {sp : Sparse} {fmt m off src n f chunks : Nat} {recs : List Byte}
    (hc : s.ctxFor e.w = some c) (ho : e.op = .wbld sp fmt m off src n) (h : Claims.wbldRecords s c e.next sp fmt m src n f chunks recs) :
    s.fixOperands core e = s := by
  have hsparse : sp ≠ .dense → ∃ g o own, s.spadPlace c src (panelBytes sp fmt n - 64) = some (g, o, own) ∧
      ∀ a k, s.spadFix g a k = s := by
    intro hsp
    obtain ⟨i, o, own, v, hp, hg, he, -⟩ := wbldRecords_sparse hsp h
    exact ⟨i, o, own, by rw [panelBytes_records, hp], spadFix_sound hg he⟩
  simp only [State.fixOperands, hc, ho]
  by_cases hr : e.running = true
  · rw [if_neg (by simp [hr])]
    cases sp with
    | dense =>
      obtain ⟨u, v, hu, hg, he, -⟩ := h
      simp only [hu, fixMap_sound hg he]
    | sp2 => obtain ⟨g, o, own, h, hf⟩ := hsparse (by simp); simp only [h, hf]
    | sp4 => obtain ⟨g, o, own, h, hf⟩ := hsparse (by simp); simp only [h, hf]
    | sp8 => obtain ⟨g, o, own, h, hf⟩ := hsparse (by simp); simp only [h, hf]
  · rw [if_pos (by simpa using hr)]

/-- The chunks of a WBLD. -/
theorem entrySteps_wbld {s : State} {c : Ctx} {next : Nat} {sp : Sparse} {fmt m off src n f chunks : Nat} {recs : List Byte}
    (h : Claims.wbldRecords s c next sp fmt m src n f chunks recs) : s.entrySteps c (.wbld sp fmt m off src n) = chunks := by
  by_cases hsp : sp = .dense
  · subst hsp
    obtain ⟨u, v, hu, -, -, -, rfl, -⟩ := h
    rw [State.mapUse] at hu
    cases hm : tabGet c.g.maps m with
    | none => simp [hm] at hu
    | some r =>
      obtain ⟨p, -, rfl⟩ := Option.map_eq_some_iff.mp (by simpa only [hm] using hu)
      simp only [State.entrySteps, hm, Option.map_some]
  · obtain ⟨-, -, -, -, -, -, -, -, rfl, -⟩ := wbldRecords_sparse hsp h
    cases sp with
    | dense => exact absurd rfl hsp
    | sp2 => rfl
    | sp4 => rfl
    | sp8 => rfl

/-- The bytes that a panel at an offset holds before a step. -/
def Wg.panelBefore (g : Wg) (next off : Nat) : List Byte := if next = 0 then [] else match tabGet g.panels off with | some x => x.bytes | none => []

/-- The panels that the first step of a WBLD keeps, and every other step has. -/
def Wg.panelsKept (g : Wg) (next off size : Nat) : Tab Panel := if next = 0 then dropOverlap g.panels off size else g.panels

theorem panelsKept_sublist (g : Wg) (next off size : Nat) : (g.panelsKept next off size).Sublist g.panels := by
  rw [Wg.panelsKept]
  split
  · exact List.filter_sublist
  · exact List.Sublist.refl _

section
variable {s : State} {core : Nat} {e : MEntry} {g : Wg} {c : Ctx} {rest : List MEntry} {sp : Sparse} {fmt m off src n f chunks : Nat} {recs : List Byte}

theorem panelBefore_eq (g : Wg) (next off : Nat) :
    ((if next = 0 then none else tabGet g.panels off).map (·.bytes)).getD [] = g.panelBefore next off := by
  rw [Wg.panelBefore]
  split
  · rfl
  · cases tabGet g.panels off <;> rfl

/-- A step of a WBLD before its panel's backing: one chunk more in the panel, one step more in the entry. -/
theorem wbldStep_eq (h : Heads s core e g c rest) (ho : e.op = .wbld sp fmt m off src n) (hr : e.running = true) (hn : e.next < chunks)
    (hrec : Claims.wbldRecords s c e.next sp fmt m src n f chunks recs) :
    ∃ (P : Wg → Panel) (y : MEntry → MEntry), (∀ x, (y x).next = x.next + 1) ∧
      (∀ v, (P v).fmt = f ∧ (P v).sp = sp ∧ (P v).c = chunks ∧ (P v).bytes = v.panelBefore e.next off ++ recs ∧ (P v).here = true ∧ (P v).area = false ∧
        (P v).bad = false) ∧
      let u := (s.modWg e.w.wg (fun v => { v with panels := tabSet (v.panelsKept e.next off (panelBytes sp f chunks)) off (P v) })).modEntry core e.id y
      exec (.wbldStep core) s = .next (s.orWait (if e.next + 1 = chunks then u.backPanel core e.w.wg off else u)) := by
  obtain ⟨rs, hload, hrs⟩ := loaded_eq hrec
  let lost := rs.zipIdx.flatMap (fun r => (r.1.2.zipIdx.filter (·.1)).map (fun b => (64 * e.next + r.2) * kcOf (widthOf f) + b.2))
  refine ⟨fun v => { fmt := f, sp := sp, c := chunks, bytes := ((if e.next = 0 then none else tabGet v.panels off).map (·.bytes)).getD [] ++ rs.flatMap (·.1),
                     lost := ((if e.next = 0 then none else tabGet v.panels off).map (·.lost)).getD [] ++ lost },
    fun x => { x with next := x.next + 1, badWord := x.badWord || rs.any (fun r => !r.2.isEmpty) }, fun _ => rfl,
    fun v => ⟨rfl, rfl, rfl, congrArg₂ (· ++ ·) (panelBefore_eq ..) hrs, rfl, rfl, rfl⟩, ?_⟩
  rw [dispatch_wbldStep, execWbldStep, h.matHead]
  simp only [fixOperands_wbld h.ctx ho hrec, h.ctx, ho, hr, entrySteps_wbld hrec, Bool.not_true, Bool.false_or]
  rw [if_neg (by simpa using hn)]
  refine congrArg (fun t => Host.Outcome.next (s.orWait t)) ?_
  split
  · next hno => cases hno.symm.trans hload
  · next f' chunks' rs' heq =>
    obtain ⟨rfl, rfl, rfl⟩ : f' = f ∧ chunks' = chunks ∧ rs' = rs := by simpa using heq.symm.trans hload
    rfl

/-- A step of a WBLD appends a chunk to its panel; the last one finds room in the swap partition. -/
theorem wbldStep_appends (h : Heads s core e g c rest) (ho : e.op = .wbld sp fmt m off src n) (hr : e.running = true) (hn : e.next < chunks)
    (hrec : Claims.wbldRecords s c e.next sp fmt m src n f chunks recs)
    (hfits : e.next + 1 = chunks → s.swapFits (clusterOfCore core) g.ctx (64 + (g.panelBefore e.next off ++ recs).length) = true) :
    ∃ t g' p, exec (.wbldStep core) s = .next t ∧ t.wg e.w.wg = some g' ∧ tabGet g'.panels off = some p ∧
      p.fmt = f ∧ p.sp = sp ∧ p.c = chunks ∧ p.bytes = g.panelBefore e.next off ++ recs ∧ p.here = true ∧ p.area = false ∧ p.bad = false ∧
      ((t.coreAt core).mq.head?).map (·.next) = some (e.next + 1) ∧ t.hbm = s.hbm ∧ g'.acc = g.acc ∧ g'.spad = g.spad := by
  obtain ⟨P, y, hy, hP, hex⟩ := wbldStep_eq h ho hr hn hrec
  obtain ⟨h1, h2, h3, h4, h5, h6, h7⟩ := hP g
  let u := (s.modWg e.w.wg (fun v => { v with panels := tabSet (v.panelsKept e.next off (panelBytes sp f chunks)) off (P v) })).modEntry core e.id y
  replace hex : exec (.wbldStep core) s = .next (s.orWait (if e.next + 1 = chunks then u.backPanel core e.w.wg off else u)) := hex
  have hwg : u.wg e.w.wg = some { g with panels := tabSet (g.panelsKept e.next off (panelBytes sp f chunks)) off (P g) } :=
    wg_modWg_same (f := fun v => { v with panels := tabSet (v.panelsKept e.next off (panelBytes sp f chunks)) off (P v) }) (fun _ => rfl) h.wg
  have hmq : ((u.coreAt core).mq.head?).map (·.next) = some (e.next + 1) := by
    rw [head_modEntry y (by rw [coreAt_modWg]; exact h.mq), Option.map_some, hy]
  by_cases hlast : e.next + 1 = chunks
  · obtain ⟨F, hback, hF⟩ := backPanel_fits (s := s) (u := u) (P := P) (base := fun v => v.panelsKept e.next off (panelBytes sp f chunks)) h.wg
      (fun v => panelsKept_sublist v _ _ _) h5 rfl rfl rfl (by rw [Panel.backed, h4]; exact hfits hlast)
    rw [if_pos hlast, hback, orWait_of_hold (s := s) (t := u.mapPanels F) rfl h.stall] at hex
    have hwg' : (u.mapPanels F).wg e.w.wg =
        some { g with panels := mapPanels (F g.id) (tabSet (g.panelsKept e.next off (panelBytes sp f chunks)) off (P g)) } := by
      rw [wg_mapPanels, hwg, Option.map_some]
    refine ⟨_, _, (P g).backedIn (clusterOfCore core), hex, hwg', ?_, h1, h2, h3, h4, h5, rfl, rfl, hmq, rfl, rfl, rfl⟩
    rw [tabGet_mapPanels, tabGet_set_same, Option.map_some, h.g_id, hF]
  · rw [if_neg hlast, orWait_of_hold (s := s) (t := u) rfl h.stall] at hex
    exact ⟨u, _, _, hex, hwg, tabGet_set_same .., h1, h2, h3, h4, h5, h6, h7, hmq, rfl, rfl, rfl⟩

end

end Sys2Proof.Machine
end

section
/-! O46, fourth part. An entry leaves its queue: what completion keeps, and the entries that write one accumulator tile. -/

namespace Sys2Proof.Machine

/-! ### The end of an entry -/

/-- What a workgroup stores for its matrix entries. -/
def Wg.stored (g : Wg) : List (Tab Word) × Mem × Tab Word × Tab MapRec × Tab Panel := (g.acc, g.spad, g.hdrs, g.maps, g.panels)

theorem map_wg_settleTiles (s : State) (i j : WgId) : ((s.settleTiles i).wg j).map Wg.stored = (s.wg j).map Wg.stored :=
  map_wg_modWg s (f := fun h => h.withTiles _) (fun _ => rfl) (fun _ => rfl) i j

theorem map_wg_endEntry (s : State) (core : Nat) (e : MEntry) (j : WgId) : ((s.endEntry core e).wg j).map Wg.stored = (s.wg j).map Wg.stored :=
  (map_wg_settleTiles _ _ j).trans ((map_wg_modWarp _ (fun _ _ => rfl) e.w _ j).trans (map_wg_modWarp (s.modCore core _) (fun _ _ => rfl) e.w _ j))

theorem endEntry_core (s : State) (core : Nat) (e : MEntry) : ((s.endEntry core e).coreAt core).mq = ((s.coreAt core).mq).filter (fun x => x.id != e.id) := by
  simp [State.endEntry, State.settleTiles, opEnd_eq]

/-- The test of tile entries signals to the warps of their workgroup and changes nothing else of them. -/
theorem warp_settleTiles {s : State} {w : WarpId} {x : Warp} (h : s.warp w = some x) : ∃ f, (s.settleTiles w.wg).warp w = some (x.mapPark f) := by
  obtain ⟨g, hg, hx⟩ := Option.bind_eq_some_iff.mp h
  have hwg := wg_modWg_same (f := fun h => h.withTiles (h.tiles.map (fun (e : Nat × Tile) =>
    if e.2.st == .draining && s.readers w.wg e.1 = 0 then
      if e.2.rearm then (e.1, { e.2 with st := .filling, rho := (e.2.rho + 1) % 65536, rearm := false }.tested (h.spadRead e.2.bar 2))
      else (e.1, {})
    else e))) (fun _ => rfl) hg
  rw [State.warp, State.settleTiles, hwg, Option.bind_some, Wg.withTiles, List.getElem?_map, hx, Option.map_some]
  exact ⟨_, rfl⟩

/-- The warp of an entry that leaves the queue: its result complete, its operation ended, and what it waits for tested. -/
theorem endEntry_warp {s : State} {e : MEntry} {x : Warp} (core : Nat) (h : s.warp e.w = some x) :
    ∃ f, (s.endEntry core e).warp e.w = some (((x.complete e.id).opEnded .mat e.id).mapPark f) :=
  warp_settleTiles (warp_modWarp _ (warp_modWarp (s := s.modCore core _) _ h))

/-- The events of an entry that ends leave workgroups, cores and HBM. -/
theorem entryEvents_eq (s : State) (e : MEntry) (se bad : Bool) :
    (s.entryEvents e se bad).wgs = s.wgs ∧ (s.entryEvents e se bad).cores = s.cores ∧ (s.entryEvents e se bad).hbm = s.hbm := by
  have hraise : ∀ (t : State) d q die named ty pay, (t.raiseEvent d q die named ty pay).cores = t.cores := by
    intro t d q die named ty pay
    obtain ⟨devs, host, -, h, -⟩ := raiseEvent_eq t d q die named ty pay
    rw [h]; rfl
  unfold State.entryEvents
  cases se <;> cases bad <;> simp [State.scaleError, hraise]

/-! ### Completion -/

/-- An entry is complete: it has left the queue, HBM is as before, and its operation has ended. -/
abbrev EntryDone (s : State) (core : Nat) (e : MEntry) (t : State) : Prop :=
  exec (.matrixEntryComplete core) s = .next t ∧ (t.coreAt core).mq = ((s.coreAt core).mq).filter (fun x => x.id != e.id) ∧ t.hbm = s.hbm ∧
    ∀ x, s.warp e.w = some x → ∃ y, t.warp e.w = some y ∧ Claims.Ended y .mat e.id

section
variable {s : State} {core : Nat} {e : MEntry} {g : Wg} {c : Ctx} {rest : List MEntry}

/-- An entry that runs as one step, by what its step makes of the state. -/
theorem entryDone_of_run {t : State} {se bad : Bool} (h : Heads s core e g c rest) (hr : e.running = true) (hn : s.entrySteps c e.op ≤ e.next)
    (ht : ∀ d, e.op = .ttest d → e.test.isSome = true) (hfix : ∀ rm sat tt m, e.op = .accld rm sat tt m → s.fixOperands core e = s)
    (hrun : s.runEntry c e = (t, se, bad)) (hcores : t.cores = s.cores) (hhbm : t.hbm = s.hbm)
    (hwarp : ∀ x, s.warp e.w = some x → ∃ y, t.warp e.w = some y) :
    ∃ u, EntryDone s core e u ∧ (∀ j, (u.wg j).map Wg.stored = (t.wg j).map Wg.stored) ∧
      ∀ x, t.warp e.w = some x → ∃ f, u.warp e.w = some (((x.complete e.id).opEnded .mat e.id).mapPark f) := by
  obtain ⟨hw, hc, hb⟩ := entryEvents_eq (t.endEntry core e) e (e.scaleErr || se) (e.badWord || bad)
  have hex : exec (.matrixEntryComplete core) s = .next ((t.endEntry core e).entryEvents e (e.scaleErr || se) (e.badWord || bad)) := by
    have hwaits : (match e.op with | .ttest _ => e.test.isNone | _ => decide (e.next < s.entrySteps c e.op)) = false := by
      split
      · next d hd => simpa using ht d hd
      · simpa using hn
    have hsame : (match e.op with | .accld .. => s.fixOperands core e | _ => s) = s := by
      split
      · next rm sat tt m hop => exact hfix rm sat tt m hop
      · rfl
    rw [dispatch_matrixEntryComplete, execMatrixEntryComplete, h.matHead]
    have hgo : ∀ s', s' = s → (let r := s'.runEntry ((s'.ctxFor e.w).getD c) e
        (r.1.endEntry core e).entryEvents e (e.scaleErr || r.2.1) (e.badWord || r.2.2)) = (t.endEntry core e).entryEvents e (e.scaleErr || se) (e.badWord || bad) := by
      rintro _ rfl
      rw [h.ctx, Option.getD_some, hrun]
    simp only [h.ctx, hr, Bool.not_true, Bool.false_or]
    exact congrArg Host.Outcome.next ((if_neg fun hc => Bool.false_ne_true (hwaits.symm.trans hc)).trans (hgo _ hsame))
  have hend : ∀ x, t.warp e.w = some x → ∃ f, ((t.endEntry core e).entryEvents e (e.scaleErr || se) (e.badWord || bad)).warp e.w =
      some (((x.complete e.id).opEnded .mat e.id).mapPark f) := by
    intro x hx
    obtain ⟨f, hf⟩ := endEntry_warp core hx
    exact ⟨f, (warp_congr hw e.w).trans hf⟩
  refine ⟨_, ⟨hex, ?_, hb.trans hhbm, fun x hx => ?_⟩, fun j => ?_, hend⟩
  · rw [State.coreAt, hc]
    refine (endEntry_core t core e).trans ?_
    rw [State.coreAt, hcores]
    rfl
  · obtain ⟨y, hy⟩ := hwarp x hx
    obtain ⟨f, hf⟩ := hend y hy
    exact ⟨_, hf, ended_opEnded (y.complete e.id) .mat e.id⟩
  · rw [State.wg, hw]
    exact map_wg_endEntry t core e j

/-- What the record of a workgroup stores, from what it stored before completion. -/
theorem stored_of_map {t u : State} {j : WgId} {v : Wg} (h : (u.wg j).map Wg.stored = (t.wg j).map Wg.stored) (hv : t.wg j = some v) :
    ∃ v', u.wg j = some v' ∧ v'.acc = v.acc ∧ v'.spad = v.spad ∧ v'.hdrs = v.hdrs ∧ v'.maps = v.maps ∧ v'.panels = v.panels := by
  rw [hv, Option.map_some, Option.map_eq_some_iff] at h
  obtain ⟨v', hv', he⟩ := h
  simp only [Wg.stored, Prod.mk.injEq] at he
  exact ⟨v', hv', he⟩

/-- An entry that changes its workgroup's record and nothing else. -/
theorem entryDone_of_modWg {F : Wg → Wg} {se bad : Bool} (h : Heads s core e g c rest) (hr : e.running = true) (hn : s.entrySteps c e.op ≤ e.next)
    (ht : ∀ d, e.op ≠ .ttest d) (hfix : ∀ rm sat tt m, e.op = .accld rm sat tt m → s.fixOperands core e = s)
    (hid : ∀ v, (F v).id = v.id) (hwarps : ∀ v, (F v).warps = v.warps) (hrun : s.runEntry c e = (s.modWg e.w.wg F, se, bad)) :
    ∃ t v, EntryDone s core e t ∧ t.wg e.w.wg = some v ∧ v.acc = (F g).acc ∧ v.spad = (F g).spad ∧ v.hdrs = (F g).hdrs ∧ v.maps = (F g).maps ∧
      v.panels = (F g).panels := by
  obtain ⟨t, hd, hst, -⟩ := entryDone_of_run h hr hn (fun d hd => absurd hd (ht d)) hfix hrun rfl rfl
    (fun x hx => ⟨x, (warp_modWg s hid hwarps _ _).trans hx⟩)
  obtain ⟨v, hv, hrest⟩ := stored_of_map (hst e.w.wg) (wg_modWg_same hid h.wg)
  exact ⟨t, v, hd, hv, hrest⟩

/-- An entry writes one accumulator tile. -/
abbrev TileDone (s : State) (core : Nat) (e : MEntry) (g : Wg) (tt : Nat) (f : Nat → Nat → Word) : Prop :=
  tt < g.acc.length → ∃ t g', EntryDone s core e t ∧ t.wg e.w.wg = some g' ∧ (∀ i j, i < 64 → j < 64 → g'.accAt tt i j = f i j) ∧
    (∀ k, k ≠ tt → g'.acc.getD k [] = g.acc.getD k []) ∧ g'.spad = g.spad

theorem tileDone_of_run {tt : Nat} {f f' : Nat → Nat → Word} {se bad : Bool} (h : Heads s core e g c rest) (hr : e.running = true)
    (hn : s.entrySteps c e.op ≤ e.next) (ht : ∀ d, e.op ≠ .ttest d) (hfix : ∀ rm sat tt m, e.op = .accld rm sat tt m → s.fixOperands core e = s)
    (hrun : s.runEntry c e = (s.setTileAcc c.g.id tt f, se, bad)) (hf : ∀ i j, i < 64 → j < 64 → f i j = f' i j) : TileDone s core e g tt f' := by
  intro hlen
  rw [h.ctx_g, h.g_id] at hrun
  obtain ⟨t, v, hd, hv, hacc, hspad, -⟩ := entryDone_of_modWg (F := fun v => v.withTile tt f) h hr hn ht hfix (fun _ => rfl) (fun _ => rfl) hrun
  refine ⟨t, v, hd, hv, fun i j hi hj => ?_, fun k hk => ?_, hspad⟩
  · rw [← hf i j hi hj, ← accAt_withTile hlen f hi hj, Wg.accAt, hacc, Wg.accAt]
  · rw [hacc, acc_withTile_other g f hk]

end

end Sys2Proof.Machine
end

section
/-! O46, fifth part. The entries that run as one step: accumulators, maps, panels, and results to registers (R162, R172 to R176, R179). -/

namespace Sys2Proof.Machine

/-- An entry that runs as one step, reads no map and waits for no touchstone run. -/
def MOp.oneStep : MOp → Bool
  | .tmma .. | .wbld .. | .accld .. | .ttest _ => false
  | _ => true

section
variable {s : State} {core : Nat} {e : MEntry} {g : Wg} {c : Ctx} {rest : List MEntry}

theorem oneStep_steps (h : e.op.oneStep = true) : s.entrySteps c e.op ≤ e.next := by
  unfold State.entrySteps
  split <;> simp_all [MOp.oneStep]

theorem oneStep_not_ttest (h : e.op.oneStep = true) (d : Nat) : e.op ≠ .ttest d := by
  intro hd
  simp [hd, MOp.oneStep] at h

theorem oneStep_not_accld (h : e.op.oneStep = true) (rm : Rm) (sat : Bool) (tt m : Nat) (hd : e.op = .accld rm sat tt m) : s.fixOperands core e = s := by
  simp [hd, MOp.oneStep] at h

theorem tileDone_of_oneStep {tt : Nat} {f f' : Nat → Nat → Word} {se bad : Bool} (h : Heads s core e g c rest) (hr : e.running = true) (ho : e.op.oneStep = true)
    (hrun : s.runEntry c e = (s.setTileAcc c.g.id tt f, se, bad)) (hf : ∀ i j, i < 64 → j < 64 → f i j = f' i j) : TileDone s core e g tt f' :=
  tileDone_of_run h hr (oneStep_steps ho) (oneStep_not_ttest ho) (oneStep_not_accld ho) hrun hf

/-! ### Tiles -/

theorem accz_done {tt : Nat} (h : Heads s core e g c rest) (hr : e.running = true) (ho : e.op = .accz tt) : TileDone s core e g tt (fun _ _ => 0) :=
  tileDone_of_oneStep h hr (by rw [ho]; rfl) (by rw [State.runEntry, ho]) (fun _ _ _ _ => rfl)

theorem accsc_done {rm : Rm} {tt : Nat} {lanes : LaneMask} {v : Lanes} (h : Heads s core e g c rest) (hr : e.running = true) (ho : e.op = .accsc rm tt lanes v) :
    TileDone s core e g tt (fun i j =>
      if lanes.getLsbD i then roundFp32 ((decodeFp32 (g.accAt tt i j)).mul (decodeFp32 (v.getD i 0))) rm else g.accAt tt i j) :=
  tileDone_of_oneStep h hr (by rw [ho]; rfl) (by rw [State.runEntry, ho]) (fun _ _ _ _ => by rw [h.ctx_g])

theorem accadd_done {rm : Rm} {row : Bool} {tt : Nat} {lanes : LaneMask} {v : Lanes} (h : Heads s core e g c rest) (hr : e.running = true)
    (ho : e.op = .accadd rm row tt lanes v) : TileDone s core e g tt (fun i j =>
      let l := if row then i else j
      if lanes.getLsbD l then roundFp32 (sumX rm [decodeFp32 (g.accAt tt i j), decodeFp32 (v.getD l 0)]) rm else g.accAt tt i j) :=
  tileDone_of_oneStep h hr (by rw [ho]; rfl) (by rw [State.runEntry, ho]) (fun _ _ _ _ => by rw [h.ctx_g])

theorem accwr_row_done {tt n : Nat} {lanes : LaneMask} {v : Lanes} (h : Heads s core e g c rest) (hr : e.running = true) (ho : e.op = .accwr false tt n lanes v) :
    TileDone s core e g tt (fun i j => if i = n ∧ lanes.getLsbD j = true then v.getD j 0 else g.accAt tt i j) :=
  tileDone_of_oneStep h hr (by rw [ho]; rfl) (by rw [State.runEntry, ho]) (fun _ _ _ _ => by simp [h.ctx_g])

theorem accwr_col_done {tt n : Nat} {lanes : LaneMask} {v : Lanes} (h : Heads s core e g c rest) (hr : e.running = true) (ho : e.op = .accwr true tt n lanes v) :
    TileDone s core e g tt (fun i j => if j = n ∧ lanes.getLsbD i = true then v.getD i 0 else g.accAt tt i j) :=
  tileDone_of_oneStep h hr (by rw [ho]; rfl) (by rw [State.runEntry, ho]) (fun _ _ _ _ => by simp [h.ctx_g])

theorem code_eq (u : MapUse) (v : Wg) (r x : Nat) : u.code v r x = (Claims.mapCode u v r x, Claims.mapHdr u v r x) := rfl

theorem loadElem_eq {u : MapUse} {v : Wg} {f : Fmt} {r x code : Nat} {hdr : Word} (he : v.spadErr = []) (hf : Fmt.ofCode (mapFmt u.words) = some f)
    (hc : u.code v r x = (code, hdr)) (rm : Rm) (sat : Bool) :
    u.loadElem v rm sat r x = BitVec.ofNat 32 (if f = .fp32 ∧ hdrFmt hdr = 0 then code else roundTo .fp32 (blockValue hdr f code).1 rm sat) := by
  have helem : (u.elem v r x).1 = (blockValue hdr f code).1 := by simp only [MapUse.elem, hc, hf]
  simp only [MapUse.loadElem, hc, elem_sound u he, helem, hf, Bool.false_eq_true, if_false]
  by_cases h1 : f = .fp32 <;> by_cases h2 : hdrFmt hdr = 0 <;> simp [h1, h2]

theorem accld_done {rm : Rm} {sat : Bool} {tt m : Nat} {u : MapUse} {v : Wg} {f : Fmt} (h : Heads s core e g c rest) (hr : e.running = true)
    (ho : e.op = .accld rm sat tt m) (hu : s.mapUse c m true = some u) (hg : s.wg u.g = some v) (he : v.spadErr = [])
    (hf : Fmt.ofCode (mapFmt u.words) = some f) : TileDone s core e g tt (fun i j =>
      let r := if mapMn u.words then j else i
      let x := if mapMn u.words then i else j
      BitVec.ofNat 32 (if f = .fp32 ∧ hdrFmt (Claims.mapHdr u v r x) = 0 then Claims.mapCode u v r x
        else roundTo .fp32 (blockValue (Claims.mapHdr u v r x) f (Claims.mapCode u v r x)).1 rm sat)) := by
  have hfix : s.fixOperands core e = s := by
    simp only [State.fixOperands, h.ctx, hr, ho, hu, fixMap_sound hg he]
    rfl
  obtain ⟨se, bad, hrun⟩ : ∃ se bad, s.runEntry c e =
      (s.setTileAcc c.g.id tt (fun i j => let p := if mapMn u.words then (j, i) else (i, j); u.loadElem v rm sat p.1 p.2), se, bad) :=
    ⟨_, _, by rw [State.runEntry, ho]; simp only [hu, hg]; rfl⟩
  refine tileDone_of_run h hr (by rw [ho]; exact Nat.zero_le _) (fun d hd => by rw [ho] at hd; cases hd) (fun _ _ _ _ _ => hfix) hrun (fun i j _ _ => ?_)
  rw [← loadElem_eq he hf (code_eq ..)]
  cases mapMn u.words <;> rfl

/-! ### Maps and panels -/

theorem mapdef_done {m : Nat} {ws : List Word} {b : Option Nat} (h : Heads s core e g c rest) (hr : e.running = true) (ho : e.op = .mapdef m ws b) :
    ∃ t g', EntryDone s core e t ∧ t.wg e.w.wg = some g' ∧ tabGet g'.maps m = some { words := ws, tile := b } ∧ g'.acc = g.acc ∧ g'.spad = g.spad := by
  have ho1 : e.op.oneStep = true := by rw [ho]; rfl
  obtain ⟨t, v, hd, hv, hacc, hspad, -, hmaps, -⟩ := entryDone_of_modWg (F := fun v => { v with maps := tabSet v.maps m { words := ws, tile := b } }) (se := false)
    (bad := false) h hr (oneStep_steps ho1) (oneStep_not_ttest ho1) (oneStep_not_accld ho1) (fun _ => rfl) (fun _ => rfl)
    (by rw [State.runEntry, ho, h.ctx_g, h.g_id])
  exact ⟨t, v, hd, hv, by rw [hmaps, tabGet_set_same], hacc, hspad⟩

theorem wbinv_all_done (h : Heads s core e g c rest) (hr : e.running = true) (ho : e.op = .wbinv none) :
    ∃ t g', EntryDone s core e t ∧ t.wg e.w.wg = some g' ∧ g'.panels = [] ∧ g'.acc = g.acc ∧ g'.spad = g.spad := by
  have ho1 : e.op.oneStep = true := by rw [ho]; rfl
  obtain ⟨t, v, hd, hv, hacc, hspad, -, -, hpanels⟩ := entryDone_of_modWg (F := fun v => { v with panels := [] }) (se := false)
    (bad := false) h hr (oneStep_steps ho1) (oneStep_not_ttest ho1) (oneStep_not_accld ho1) (fun _ => rfl) (fun _ => rfl)
    (by rw [State.runEntry, ho, h.ctx_g, h.g_id])
  exact ⟨t, v, hd, hv, hpanels, hacc, hspad⟩

theorem wbinv_one_done {o : Nat} (h : Heads s core e g c rest) (hr : e.running = true) (ho : e.op = .wbinv (some o)) :
    ∃ t g', EntryDone s core e t ∧ t.wg e.w.wg = some g' ∧ tabGet g'.panels o = none ∧ g'.acc = g.acc ∧ g'.spad = g.spad := by
  have ho1 : e.op.oneStep = true := by rw [ho]; rfl
  obtain ⟨t, v, hd, hv, hacc, hspad, -, -, hpanels⟩ := entryDone_of_modWg (F := fun v => { v with panels := tabErase v.panels o }) (se := false)
    (bad := false) h hr (oneStep_steps ho1) (oneStep_not_ttest ho1) (oneStep_not_accld ho1) (fun _ => rfl) (fun _ => rfl)
    (by rw [State.runEntry, ho, h.ctx_g, h.g_id])
  exact ⟨t, v, hd, hv, by rw [hpanels, tabGet_erase_same], hacc, hspad⟩

/-! ### Results to registers -/

/-- The pending table of a warp whose one result is complete. -/
theorem pend_complete {x : Warp} {p : Pend} {id : Nat} (hp : x.pend = [p]) (ho : p.op = id) (hd : p.due = none) (hv : p.ovw = false) : (x.complete id).pend = [] := by
  simp [Warp.complete, hp, settle, ho, hd, hv]

theorem deliver_pend (x : Warp) (id : Nat) (r : PendReg) (m : LaneMask) (vals : Lanes) : (x.deliver id r m vals).pend = x.pend := by
  unfold Warp.deliver
  split
  · rfl
  · cases r with
    | v n => dsimp only; split <;> rfl
    | s n => dsimp only; split <;> rfl
    | p n => rfl
    | k n => dsimp only; split <;> rfl

/-- An entry that delivers its result to a register of its warp. -/
theorem entryDone_of_deliver {x : Warp} {p : Pend} {r : PendReg} {m : LaneMask} {vals : Lanes} (h : Heads s core e g c rest) (hr : e.running = true)
    (hn : s.entrySteps c e.op ≤ e.next) (ht : ∀ d, e.op = .ttest d → e.test.isSome = true) (hfix : ∀ rm sat tt m, e.op ≠ .accld rm sat tt m)
    (hrun : s.runEntry c e = (s.modWarp e.w (fun x => x.deliver e.id r m vals), false, false)) (hx : s.warp e.w = some x) (hp : x.pend = [p])
    (hid : p.op = e.id) (hdue : p.due = none) (hovw : p.ovw = false) :
    ∃ t g' y, EntryDone s core e t ∧ t.wg e.w.wg = some g' ∧ g'.acc = g.acc ∧ g'.spad = g.spad ∧ t.warp e.w = some y ∧ y.pend = [] ∧
      y.v = (x.deliver e.id r m vals).v ∧ y.s = (x.deliver e.id r m vals).s := by
  have hpend : (x.deliver e.id r m vals).pend = [p] := (deliver_pend x e.id r m vals).trans hp
  obtain ⟨t, hd, hst, hw⟩ := entryDone_of_run h hr hn ht (fun rm sat tt m hop => absurd hop (hfix rm sat tt m)) hrun rfl rfl
    (fun y hy => ⟨_, warp_modWarp _ hy⟩)
  obtain ⟨f, hy⟩ := hw _ (warp_modWarp _ hx)
  obtain ⟨v, hv, hacc, hspad, -⟩ := stored_of_map (hst e.w.wg) (wg_modWarp_same _ h.wg)
  exact ⟨t, v, _, hd, hv, hacc, hspad, hy, pend_complete hpend hid hdue hovw, rfl, rfl⟩

theorem accrd_done {col : Bool} {tt n d : Nat} {lanes : LaneMask} {x : Warp} {p : Pend} (h : Heads s core e g c rest) (hr : e.running = true)
    (ho : e.op = .accrd col tt n d lanes) (hx : s.warp e.w = some x) (hm : x.mapped d = true) (hp : x.pend = [p]) (hreg : p.reg = .v d) (hid : p.op = e.id)
    (hdue : p.due = none) (hovw : p.ovw = false) :
    ∃ t g' y, EntryDone s core e t ∧ t.wg e.w.wg = some g' ∧ g'.acc = g.acc ∧ g'.spad = g.spad ∧ t.warp e.w = some y ∧ y.pend = [] ∧ SameRegs x y [] [d] [] ∧
      ∀ l, l < 64 → (y.readV d).getD l 0 = if (lanes &&& p.lanes).getLsbD l then (if col then g.accAt tt l n else g.accAt tt n l) else (x.readV d).getD l 0 := by
  let vals : Lanes := (List.range 64).map (fun l => let (i, j) := accAxis col l n; g.accAt tt i j)
  have hval : ∀ l, l < 64 → vals.getD l 0 = if col then g.accAt tt l n else g.accAt tt n l := by
    intro l hl
    cases col <;> simp [vals, List.getD_eq_getElem?_getD, hl, accAxis]
  have hdel : x.deliver e.id (.v d) lanes vals = { x with v := tabSet x.v d (mergeLanes (lanes &&& p.lanes) vals (x.readV d)) } := by
    simp [Warp.deliver, hp, hreg, hid, hdue, hm]
  obtain ⟨t, v, y, hd, hv, hacc, hspad, hy, hpend, hyv, hys⟩ := entryDone_of_deliver (r := .v d) (m := lanes) (vals := vals) h hr
    (by rw [ho]; exact Nat.zero_le _) (fun d hd => by rw [ho] at hd; cases hd) (fun _ _ _ _ hd => by rw [ho] at hd; cases hd)
    (by rw [State.runEntry, ho, h.ctx_g]) hx hp hid hdue hovw
  rw [hdel] at hyv hys
  refine ⟨t, v, y, hd, hv, hacc, hspad, hy, hpend, ⟨fun r hr => ?_, fun r _ => by rw [Warp.readS, hys]; rfl⟩, fun l hl => ?_⟩
  · have hne : d ≠ r := fun he => hr (by rw [he]; exact List.mem_singleton_self r)
    rw [Warp.readV, hyv, unmap_nil, tabGetD_set_other _ _ _ hne]
    rfl
  · rw [Warp.readV, hyv, tabGetD_set_same, mergeLanes_getD _ _ _ _ hl, hval l hl]

theorem ttest_done {d v : Nat} {x : Warp} {p : Pend} (h : Heads s core e g c rest) (hr : e.running = true) (ho : e.op = .ttest d) (ht : e.test = some v)
    (hx : s.warp e.w = some x) (hp : x.pend = [p]) (hreg : p.reg = .s d) (hid : p.op = e.id) (hdue : p.due = none) (hovw : p.ovw = false) (hlanes : p.lanes ≠ 0) :
    ∃ t y, EntryDone s core e t ∧ t.warp e.w = some y ∧ y.pend = [] ∧ SameRegs x y [] [] [d] ∧ y.readS d = BitVec.ofNat 32 v := by
  have hdel : x.deliver e.id (.s d) allLanes [BitVec.ofNat 32 v] = { x with s := tabSet x.s d (BitVec.ofNat 32 v) } := by
    have hm : allLanes &&& p.lanes ≠ 0 := by rwa [allLanes, BitVec.allOnes_and]
    simp only [Warp.deliver, hp, hreg, hid, hdue, List.find?_cons, decide_true, Bool.and_self, Option.isNone_none, if_neg hm]
    rfl
  obtain ⟨t, -, y, hd, -, -, -, hy, hpend, hyv, hys⟩ := entryDone_of_deliver (r := .s d) (m := allLanes) (vals := [BitVec.ofNat 32 v]) h hr
    (by rw [ho]; exact Nat.zero_le _) (fun _ _ => by rw [ht]; rfl) (fun _ _ _ _ hd => by rw [ho] at hd; cases hd)
    (by rw [State.runEntry, ho, ht]; rfl) hx hp hid hdue hovw
  rw [hdel] at hyv hys
  refine ⟨t, y, hd, hy, hpend, ⟨fun r _ => by rw [Warp.readV, hyv, unmap_nil]; rfl, fun r hr => ?_⟩, by rw [Warp.readS, hys, tabGetD_set_same]⟩
  have hne : d ≠ r := fun he => hr (by rw [he]; exact List.mem_singleton_self r)
  rw [Warp.readS, hys, tabGetD_set_other _ _ _ hne]
  rfl

end

end Sys2Proof.Machine
end

section
/-! O46, sixth part. ACCST: the 4,096 elements of a tile stand at places that do not overlap, each with its block's header (R160, R161, R174). -/

namespace Sys2Proof.Machine

/-! ### Stores of elements -/

theorem memRead_congr {m m' : Mem} (n : Nat) : ∀ a, (∀ i, a ≤ i → i < a + n → memGet m' i = memGet m i) → memRead m' a n = memRead m a n := by
  induction n with
  | zero => intro a _; rfl
  | succ n ih =>
    intro a h
    rw [memRead, memRead, h a (Nat.le_refl a) (by omega), ih (a + 1) (fun i hi hi' => h i (by omega) (by omega))]

/-- An element of `n` bytes written with its block's header. -/
def Wg.storeElem (v : Wg) (a n code : Nat) (typed : Bool) (hdr : Word) : Wg :=
  { v.spadWrite a n code with hdrs := if typed then tabSet v.hdrs (a / 64) hdr else tabErase v.hdrs (a / 64) }

/-- The header of a block that elements have been written to. -/
def blockHdr (typed : Bool) (hdr : Word) : Word := if typed then hdr else 0

theorem storeElem_hdr (v : Wg) (a n code : Nat) (typed : Bool) (hdr : Word) (b : Nat) :
    tabGetD (v.storeElem a n code typed hdr).hdrs b 0 = if b = a / 64 then blockHdr typed hdr else tabGetD v.hdrs b 0 := by
  by_cases hb : b = a / 64
  · subst hb
    cases typed <;> simp [Wg.storeElem, blockHdr, tabGetD]
  · have hne : a / 64 ≠ b := fun h => hb h.symm
    cases typed
    · simp [Wg.storeElem, hb, tabGetD, tabGet_erase_other _ hne]
    · simp [Wg.storeElem, hb, tabGetD_set_other _ _ _ hne]

/-- The elements of a list of indices written one after another. -/
def Wg.storeElems (v : Wg) (A C : Nat → Nat) (n : Nat) (typed : Bool) (hdr : Word) (l : List Nat) : Wg :=
  l.foldl (fun v k => v.storeElem (A k) n (C k) typed hdr) v

section
variable {A C : Nat → Nat} {n : Nat} {typed : Bool} {hdr : Word}

theorem storeElems_other (l : List Nat) (v : Wg) : (v.storeElems A C n typed hdr l).id = v.id ∧ (v.storeElems A C n typed hdr l).warps = v.warps ∧
    (v.storeElems A C n typed hdr l).acc = v.acc := by
  induction l generalizing v with
  | nil => exact ⟨rfl, rfl, rfl⟩
  | cons k l ih => exact ih (v.storeElem (A k) n (C k) typed hdr)

theorem storeElems_frame (l : List Nat) (v : Wg) (a : Nat) (h : ∀ k ∈ l, a < A k ∨ A k + n ≤ a) :
    memGet (v.storeElems A C n typed hdr l).spad a = memGet v.spad a := by
  induction l generalizing v with
  | nil => rfl
  | cons k l ih =>
    exact (ih _ fun j hj => h j (List.mem_cons_of_mem _ hj)).trans (memGet_memWrite_other _ _ _ _ _ (h k List.mem_cons_self))

theorem storeElems_hdr (l : List Nat) (v : Wg) (b : Nat) (h : (∃ k ∈ l, b = A k / 64) ∨ tabGetD v.hdrs b 0 = blockHdr typed hdr) :
    tabGetD (v.storeElems A C n typed hdr l).hdrs b 0 = blockHdr typed hdr := by
  induction l generalizing v with
  | nil => exact h.resolve_left fun ⟨k, hk, _⟩ => List.not_mem_nil hk
  | cons k l ih =>
    refine ih _ ?_
    rw [storeElem_hdr]
    by_cases hb : b = A k / 64
    · exact .inr (if_pos hb)
    · rw [if_neg hb]
      exact h.imp_left fun ⟨j, hj, hbj⟩ => ⟨j, (List.mem_cons.mp hj).resolve_left fun h => hb (h ▸ hbj), hbj⟩

/-- Elements at places that do not overlap are all read back. -/
theorem storeElems_read (l : List Nat) (hl : l.Nodup) (v : Wg) (hwf : Memory.wf v.spad = true)
    (hdisj : ∀ j ∈ l, ∀ k ∈ l, j ≠ k → A j + n ≤ A k ∨ A k + n ≤ A j) :
    ∀ k ∈ l, memRead (v.storeElems A C n typed hdr l).spad (A k) n = C k % 256 ^ n := by
  induction l generalizing v with
  | nil => exact fun k hk => absurd hk List.not_mem_nil
  | cons j l ih =>
    obtain ⟨hj, hl⟩ := List.nodup_cons.mp hl
    intro k hk
    rcases List.mem_cons.mp hk with rfl | hk
    · rw [← memRead_memWrite v.spad (A k) n (C k) hwf]
      refine memRead_congr n _ fun i hi hi' => storeElems_frame l (v.storeElem (A k) n (C k) typed hdr) i fun j' hj' => ?_
      have := hdisj k List.mem_cons_self j' (List.mem_cons_of_mem _ hj') fun h => hj (h ▸ hj')
      omega
    · exact ih hl (v.storeElem (A j) n (C j) typed hdr) (wf_memWrite _ _ _ _ hwf)
        (fun a ha b hb => hdisj a (List.mem_cons_of_mem _ ha) b (List.mem_cons_of_mem _ hb)) k hk

end

/-! ### The places of a tile's elements -/

/-- The place of an element in its row: in 64-byte blocks that the swizzle permutes by `m`. -/
def runPlace (n m x : Nat) : Nat := 64 * (x * n / 64 ^^^ m) + x * n % 64

/-- Elements of a row of 64 stand in it without overlap. -/
theorem runPlace_disjoint {n m x y : Nat} (hn : n = 1 ∨ n = 2 ∨ n = 4) (hm : m < n) (hx : x < 64) (hy : y < 64) :
    runPlace n m x + n ≤ 64 * n ∧ (x ≠ y → runPlace n m x + n ≤ runPlace n m y ∨ runPlace n m y + n ≤ runPlace n m x) := by
  have hlt : ∀ z, z < 64 → (z * n / 64 ^^^ m) < n := by
    intro z hz
    obtain ⟨k, rfl⟩ : ∃ k, n = 2 ^ k := by
      rcases hn with rfl | rfl | rfl
      · exact ⟨0, rfl⟩
      · exact ⟨1, rfl⟩
      · exact ⟨2, rfl⟩
    exact Nat.xor_lt_two_pow (Nat.div_lt_of_lt_mul (Nat.mul_lt_mul_of_pos_right hz (Nat.two_pow_pos k))) hm
  have hinj : (x * n / 64 ^^^ m) = (y * n / 64 ^^^ m) → x * n / 64 = y * n / 64 := Nat.xor_left_inj.mp
  have h1 := hlt x hx
  have h2 := hlt y hy
  simp only [runPlace]
  generalize hp : (x * n / 64 ^^^ m) = p at *
  generalize hq : (y * n / 64 ^^^ m) = q at *
  rcases hn with rfl | rfl | rfl <;> exact ⟨by omega, fun hxy => by omega⟩

/-- A format that ACCST stores has elements of 1, 2 or 4 bytes. -/
theorem storeFmt_bytes {code : Nat} {f : Fmt} (hf : Fmt.ofCode code = some f) (hs : isStoreFmt code = true) :
    f.width = 8 * elemBytes f.width ∧ (elemBytes f.width = 1 ∨ elemBytes f.width = 2 ∨ elemBytes f.width = 4) := by
  have hcode : 1 ≤ code ∧ code ≤ 6 := by simpa [isStoreFmt] using hs
  obtain ⟨h1, h6⟩ := hcode
  interval_cases code <;> obtain rfl := Option.some.inj hf <;> decide

/-- The swizzle of a map that stores tiles permutes the blocks of a row. -/
def swizzleOf (ws : MapWords) (r : Nat) : Nat := if mapSwz ws then r % 2 ^ mapP ws else 0

theorem mapAddr_eq {ws : MapWords} {n : Nat} (hw : mapW ws = 8 * n) (r x : Nat) : (mapAddr ws r x).1 = r * mapPitch ws + runPlace n (swizzleOf ws r) x := by
  have ho : x * mapW ws / 8 = x * n := by rw [hw, Nat.mul_left_comm, Nat.mul_div_cancel_left _ (by decide)]
  simp only [mapAddr, ho, runPlace, swizzleOf]
  split
  · rfl
  · rw [Nat.xor_zero, Nat.div_add_mod]

/-- The elements of a tile stand apart under a map that passes its check (R161). -/
theorem mapAddr_disjoint {ws : MapWords} {n r x r' x' : Nat} (hn : n = 1 ∨ n = 2 ∨ n = 4) (hw : mapW ws = 8 * n) (hpitch : mapRowBytes ws true ≤ mapPitch ws)
    (hswz : mapSwz ws = true → mapRowBytes ws true % (64 * 2 ^ mapP ws) = 0) (hx : x < 64) (hx' : x' < 64) (hne : r ≠ r' ∨ x ≠ x') :
    (mapAddr ws r x).1 + n ≤ (mapAddr ws r' x').1 ∨ (mapAddr ws r' x').1 + n ≤ (mapAddr ws r x).1 := by
  have hrow : mapRowBytes ws true = 64 * n := by
    simp only [mapRowBytes, mapShape, if_true, hw]; omega
  have hm : ∀ r, swizzleOf ws r < n := by
    intro r
    rw [swizzleOf]
    split
    · next h =>
      have hdvd : 2 ^ mapP ws ∣ n := by
        have := Nat.dvd_of_mod_eq_zero (hswz h)
        rw [hrow] at this
        exact Nat.dvd_of_mul_dvd_mul_left (by decide) this
      exact (Nat.mod_lt _ (Nat.two_pow_pos _)).trans_le (Nat.le_of_dvd (by omega) hdvd)
    · omega
  rw [mapAddr_eq hw, mapAddr_eq hw]
  rw [hrow] at hpitch
  have h1 := (runPlace_disjoint hn (hm r) hx hx').1
  have h2 := (runPlace_disjoint hn (hm r') hx' hx).1
  rcases Nat.lt_trichotomy r r' with h | h | h
  · have := Nat.mul_le_mul_right (mapPitch ws) h
    rw [Nat.succ_mul] at this
    omega
  · subst h
    have := (runPlace_disjoint hn (hm r) hx hx').2 (hne.resolve_left fun h => h rfl)
    omega
  · have := Nat.mul_le_mul_right (mapPitch ws) h
    rw [Nat.succ_mul] at this
    omega

/-! ### ACCST -/

/-- The place of element k of a tile under a map, rows first. -/
def MapUse.tileAt (u : MapUse) (i j : Nat) : Nat := u.off + (mapAddr u.words (if mapMn u.words then j else i) (if mapMn u.words then i else j)).1

/-- The value that ACCST stores of an element. -/
def accstValue (scale : Option Nat) (w : Word) : Xreal := match scale.bind sc16Value with | some sc => (decodeFp32 w).div sc | none => decodeFp32 w

theorem storeTile_eq {u : MapUse} {f : Fmt} (hf : Fmt.ofCode (mapFmt u.words) = some f) (rm : Rm) (sat : Bool) (scale : Option Nat) (tile : Nat → Nat → Word) (v : Wg) :
    u.storeTile rm sat scale tile v = v.storeElems (fun k => u.tileAt (k / 64) (k % 64)) (fun k => roundTo f (accstValue scale (tile (k / 64) (k % 64))) rm sat)
      (elemBytes f.width) (mapTyped u.words) (mkHdr (scale.getD 0x7F00) 0 f.code) (List.range 4096) := by
  rw [MapUse.storeTile, hf]
  refine congrArg (fun F => (List.range 4096).foldl F v) ?_
  funext v k
  simp only [MapUse.tileAt, accstValue, Wg.storeElem]
  cases mapMn u.words <;> rfl

theorem useErr_none {e : UseErr} (h : e.trap = none) : e.unbacked = none ∧ e.format = false := by
  unfold UseErr.trap at h
  split at h
  · cases h
  · next hu =>
    split at h
    · cases h
    · next hf => exact ⟨hu, by simpa using hf⟩

/-- What the checks of a tile's map say of it. -/
theorem accst_checked {s : State} {c : Ctx} {rm : Rm} {sat : Bool} {scale : Option Nat} {tt m : Nat} {u : MapUse} (hu : s.mapUse c m true = some u)
    (h : (s.entryErr c (.accst rm sat scale tt m)).trap = none) :
    isStoreFmt (mapFmt u.words) = true ∧ mapRowBytes u.words true ≤ mapPitch u.words ∧
      (mapSwz u.words = true → mapRowBytes u.words true % (64 * 2 ^ mapP u.words) = 0) := by
  obtain ⟨-, hfmt⟩ := useErr_none h
  rw [State.mapUse] at hu
  cases hm : tabGet c.g.maps m with
  | none => simp [hm] at hu
  | some r =>
    obtain ⟨p, -, rfl⟩ := Option.map_eq_some_iff.mp (by simpa only [hm] using hu)
    simp only [State.entryErr, State.mapErr, hm, UseErr.join, Option.map_some, Bool.or_eq_false_iff, decide_eq_false_iff_not, Nat.not_lt] at hfmt
    obtain ⟨⟨hpitch, hswz⟩, hstore, -⟩ := hfmt
    exact ⟨by simpa using hstore, hpitch, fun hs => by simpa [hs] using hswz⟩

section
variable {s : State} {core : Nat} {e : MEntry} {g : Wg} {c : Ctx} {rest : List MEntry}

theorem accst_done {rm : Rm} {sat : Bool} {scale : Option Nat} {tt m : Nat} {u : MapUse} {v : Wg} {f : Fmt} (h : Heads s core e g c rest) (hr : e.running = true)
    (ho : e.op = .accst rm sat scale tt m) (ht : (s.entryErr c e.op).trap = none) (hu : s.mapUse c m true = some u) (hg : s.wg u.g = some v)
    (hf : Fmt.ofCode (mapFmt u.words) = some f) (hwf : Memory.wf v.spad = true) :
    let n := elemBytes f.width
    ∃ t v', EntryDone s core e t ∧ t.wg u.g = some v' ∧ v'.acc = v.acc ∧
      (∀ i j, i < 64 → j < 64 → memRead v'.spad (u.tileAt i j) n = roundTo f (accstValue scale (g.accAt tt i j)) rm sat % 256 ^ n ∧
        tabGetD v'.hdrs (u.tileAt i j / 64) 0 = if mapTyped u.words then mkHdr (scale.getD 0x7F00) 0 f.code else 0) ∧
      ∀ a, (∀ i j, i < 64 → j < 64 → a < u.tileAt i j ∨ u.tileAt i j + n ≤ a) → memGet v'.spad a = memGet v.spad a := by
  intro n
  rw [ho] at ht
  obtain ⟨hstore, hpitch, hswz⟩ := accst_checked hu ht
  obtain ⟨hwidth, hn⟩ := storeFmt_bytes hf hstore
  have hw : mapW u.words = 8 * n := by rw [mapW, widthOf, hf]; exact hwidth
  have ho1 : e.op.oneStep = true := by rw [ho]; rfl
  let A : Nat → Nat := fun k => u.tileAt (k / 64) (k % 64)
  let C : Nat → Nat := fun k => roundTo f (accstValue scale (g.accAt tt (k / 64) (k % 64))) rm sat
  let F : Wg → Wg := fun w => w.storeElems A C n (mapTyped u.words) (mkHdr (scale.getD 0x7F00) 0 f.code) (List.range 4096)
  have hrun : s.runEntry c e = (s.modWg u.g F, false, false) := by
    have hF : u.storeTile rm sat scale (g.accAt tt) = F := funext (storeTile_eq hf rm sat scale (g.accAt tt))
    rw [State.runEntry, ho]
    simp only [hu, h.ctx_g, hF]
  obtain ⟨t, hd, hst, -⟩ := entryDone_of_run h hr (oneStep_steps ho1) (fun d hd => absurd hd (oneStep_not_ttest ho1 d)) (oneStep_not_accld ho1) hrun rfl rfl
    (fun x hx => ⟨x, (warp_modWg s (fun w => (storeElems_other _ w).1) (fun w => (storeElems_other _ w).2.1) _ _).trans hx⟩)
  obtain ⟨v', hv', hacc, hspad, hhdrs, -⟩ := stored_of_map (hst u.g) (wg_modWg_same (fun w => (storeElems_other _ w).1) hg)
  have hindex : ∀ i j, i < 64 → j < 64 → 64 * i + j ∈ List.range 4096 ∧ A (64 * i + j) = u.tileAt i j ∧
      C (64 * i + j) = roundTo f (accstValue scale (g.accAt tt i j)) rm sat := by
    intro i j hi hj
    have hdiv : (64 * i + j) / 64 = i := by omega
    have hmod : (64 * i + j) % 64 = j := by omega
    exact ⟨List.mem_range.mpr (by omega), by simp only [A, hdiv, hmod], by simp only [C, hdiv, hmod]⟩
  have hdisj : ∀ j ∈ List.range 4096, ∀ k ∈ List.range 4096, j ≠ k → A j + n ≤ A k ∨ A k + n ≤ A j := by
    intro j hj k hk hjk
    have hj' := List.mem_range.mp hj
    have hk' := List.mem_range.mp hk
    have := mapAddr_disjoint (ws := u.words) (r := if mapMn u.words then j % 64 else j / 64) (x := if mapMn u.words then j / 64 else j % 64)
      (r' := if mapMn u.words then k % 64 else k / 64) (x' := if mapMn u.words then k / 64 else k % 64) hn hw hpitch hswz
      (by split <;> omega) (by split <;> omega) (by split <;> omega)
    simp only [A, MapUse.tileAt]
    omega
  refine ⟨t, v', hd, hv', hacc.trans (storeElems_other _ v).2.2, fun i j hi hj => ?_, fun a ha => ?_⟩
  · obtain ⟨hmem, hA, hC⟩ := hindex i j hi hj
    rw [hspad, hhdrs, ← hA, ← hC]
    exact ⟨storeElems_read _ List.nodup_range v hwf hdisj _ hmem, storeElems_hdr _ v _ (.inl ⟨_, hmem, rfl⟩)⟩
  · rw [hspad]
    refine storeElems_frame _ v a fun k hk => ha (k / 64) (k % 64) ?_ ?_
    · have := List.mem_range.mp hk
      omega
    · omega

/-- Settles O46: a lemma for each event of the head of a queue. -/
theorem matrixEvents : Obligations.MatrixEvents := by
  unfold Obligations.MatrixEvents
  intro s core e g c rest hmq hwg hctx hstops hstall
  have h : Heads s core e g c rest := ⟨hmq, hwg, hctx, hstops, hstall⟩
  refine ⟨?_, ?_, ?_, ?_, fun failing d => touchstone_ttest h, fun failing => touchstone_tmma h⟩
  · exact fun hr hb hc hf hk => ⟨_, entryStart_runs h hr hb hc hf hk, head_modEntry _ hmq, rfl, rfl⟩
  · intro mode src sp tt ma alpha a ha ho hr hd hn ha' hag hae ht
    refine ⟨fun mb b hb hsrc hb' hbg hbe => ?_, fun off p f hsrc hp hh hl hf hs => ?_⟩
    · subst hsrc
      exact tmmaStep_map h ho hr hd hn ha' hag hae ht hb' hbg hbe
    · subst hsrc
      exact tmmaStep_panel h ho hr hd hn ha' hag hae ht hp hh hl hf hs
  · exact fun sp fmt m off src n f chunks recs ho hr hn hrec hfits => wbldStep_appends h ho hr hn hrec hfits
  · intro hr _ _
    exact ⟨fun tt => accz_done h hr, fun rm tt lanes v => accsc_done h hr, fun tt n lanes v => accwr_row_done h hr, fun tt n lanes v => accwr_col_done h hr,
      fun rm row tt lanes v => accadd_done h hr, fun rm sat tt m u v f ho hu hg he hf => accld_done h hr ho hu hg he hf,
      fun rm sat scale tt m u v f ho ht hu hg hf hwf => accst_done h hr ho ht hu hg hf hwf,
      fun col tt n d lanes x p ho hx hm hp hreg hid hdue hovw => accrd_done h hr ho hx hm hp hreg hid hdue hovw,
      fun d v x p ho ht hx hp hreg hid hdue hovw hl => ttest_done h hr ho ht hx hp hreg hid hdue hovw hl,
      fun m ws b => mapdef_done h hr, wbinv_all_done h hr, fun o => wbinv_one_done h hr⟩

end

end Sys2Proof.Machine
end

section
/-! SUPPORT. What a write at a home in one instant leaves behind: the workgroups, and event sequence numbers that never fall. -/

namespace Sys2Proof.Machine

variable {s t u : State}

/-! ### Workgroups as they were, events only more -/

/-- A later state with the same workgroups: no die has taken back an event. -/
def Later (s t : State) : Prop := t.wgs = s.wgs ∧ ∀ a, (s.die a).evSeq ≤ (t.die a).evSeq

theorem Later.refl (s : State) : Later s s := ⟨rfl, fun _ => le_rfl⟩

theorem Later.trans (h1 : Later s t) (h2 : Later t u) : Later s u := ⟨h2.1.trans h1.1, fun a => (h1.2 a).trans (h2.2 a)⟩

theorem Later.ite {c : Prop} [Decidable c] (ht : Later s t) (hu : Later s u) : Later s (if c then t else u) := by
  split
  exacts [ht, hu]

/-- A change of fields beside workgroups and dies. -/
theorem Later.frame (h : Later s t) (e : (u.wgs, u.dies) = (t.wgs, t.dies) := by rfl) : Later s u := by
  obtain ⟨hw, hd⟩ := Prod.mk.inj e
  exact ⟨hw.trans h.1, fun a => by simpa [State.die, hd] using h.2 a⟩

theorem Later.foldl {α : Type} {f : State → α → State} {l : List α} (h : Later s t) (hf : ∀ u x, Later s u → Later s (f u x)) :
    Later s (l.foldl f t) := by
  induction l generalizing t with
  | nil => exact h
  | cons x l ih => exact ih (hf t x h)

theorem Later.modDie (h : Later s t) {a : Nat} {f : Die → Die} (hf : ∀ x, x.evSeq ≤ (f x).evSeq) : Later s (t.modDie a f) := by
  refine ⟨h.1, fun b => (h.2 b).trans ?_⟩
  by_cases hb : a = b
  · subst hb; simpa using hf _
  · rw [die_modDie_other _ f hb]

/-- A change of the dies that keeps each one's count of events. -/
theorem Later.sameSeqs (h : Later s t) (hw : u.wgs = t.wgs) (hd : u.dies.map (fun e => (e.1, e.2.evSeq)) = t.dies.map (fun e => (e.1, e.2.evSeq))) :
    Later s u := by
  refine ⟨hw.trans h.1, fun a => (h.2 a).trans (le_of_eq ?_)⟩
  have ha : (tabGet t.dies a).map Die.evSeq = (tabGet u.dies a).map Die.evSeq := by rw [← tabGet_map_snd, ← tabGet_map_snd, hd]
  simp only [State.die, tabGetD]
  cases ht : tabGet t.dies a <;> cases hu : tabGet u.dies a <;> simp_all

theorem Later.raiseEvent {d q die named ty pay} (h : Later s t) : Later s (t.raiseEvent d q die named ty pay) := by
  obtain ⟨devs, host, evqs, e, -⟩ := raiseEvent_eq t d q die named ty pay
  rw [e]
  exact (h.modDie (a := 4 * d + die) (f := fun x => { x with evSeq := x.evSeq + 1 }) fun _ => Nat.le_succ _).frame

/-! ### Home slices -/

theorem Later.setErr {b e} (h : Later s t) : Later s (t.setErr b e) := h.frame
theorem Later.clearErr {b} (h : Later s t) : Later s (t.clearErr b) := h.frame
theorem Later.setBytes {b x mask} (h : Later s t) : Later s (t.setBytes b x mask) := h.frame
theorem Later.setBlock {b v} (h : Later s t) : Later s (t.setBlock b v) := h.frame
theorem Later.debit {agent ctx n} (h : Later s t) : Later s (t.debit agent ctx n) := h.modDie fun _ => le_rfl
theorem Later.setRep {agent b r} (h : Later s t) : Later s (t.setRep agent b r) := h.frame
theorem Later.await {x} (h : Later s t) : Later s (t.await x) := .ite h h.frame

theorem Later.setHall {b x} (h : Later s t) : Later s (t.setHall b x) := by
  unfold State.setHall
  refine Later.setBlock ?_
  split
  exacts [h, h.setErr]

theorem Later.dropRep {agent b} (h : Later s t) : Later s (t.dropRep agent b) := by
  unfold State.dropRep State.l2Drop
  split <;> exact h.frame

theorem Later.useL2 {agent b write} (h : Later s t) : Later s (t.useL2 agent b write) := by
  unfold State.useL2
  split <;> exact h.frame

theorem Later.touch {b} (h : Later s t) : Later s (t.touch b) := by
  unfold State.touch
  split
  exacts [.ite h.setHall h, .ite h.setHall h, .ite h.setHall h, .ite h.setHall h, h]

theorem Later.fire {b mask} (h : Later s t) : Later s (t.fire b mask) := by
  unfold State.fire
  extract_lets a reach hit t1
  have h1 : Later s t1 := .ite h.frame h
  exact (h1.foldl fun _ _ hu => hu.frame).modDie fun _ => le_rfl


theorem Later.corrected {b} (h : Later s t) : Later s (t.corrected b) := .ite h.frame.raiseEvent h.frame
theorem Later.touched {b w} (h : Later s t) : Later s (t.touched b w) := .ite h.frame.raiseEvent h

theorem Later.tagLost {b} (h : Later s t) : Later s (t.tagLost b) := by
  unfold State.tagLost
  dsimp only
  split
  · exact (h.foldl fun _ _ hu => hu.dropRep).setHall.raiseEvent
  · exact (h.foldl fun _ _ hu => hu.dropRep).setHall.foldl fun _ _ hu => hu.raiseEvent

theorem Later.tagRead {b} (h : Later s t) : Later s (t.tagRead b) := by
  unfold State.tagRead
  split
  · exact h
  · split
    · exact h
    · dsimp only
      split
      exacts [h.tagLost, .ite h (.ite h.setBlock.setErr.corrected h.setBlock.setErr)]

theorem Later.takeDirty {o b pay} (h : Later s t) : Later s (t.takeDirty o b pay) := by
  unfold State.takeDirty
  split
  exacts [.ite (Later.ite h.useL2 h.debit).clearErr.setBytes.setBlock.fire h, h]

theorem Later.answer {b a pay x} (h : Later s t) : Later s (t.answer b a pay x) := by
  unfold State.answer
  split
  · exact h.dropRep
  · exact h.takeDirty.dropRep
  · dsimp only
    split
    exacts [h.takeDirty.setRep, h.takeDirty]
  · split
    exacts [h.setRep, h]

theorem Later.clearFor {b k w} (h : Later s t) : Later s (t.clearFor b k w) := by
  unfold State.clearFor
  split
  · exact h.await
  · extract_lets t0
    split
    extract_lets t1 t2
    have h1 : Later s t1 := h.tagRead.touch.foldl fun _ _ hu => hu.answer
    have h2 : Later s t2 := .ite (h1.foldl fun _ _ hu => hu.answer) h1
    exact h2.setHall

theorem Later.mergeHome {b x mask hdr w restore} (h : Later s t) : Later s (t.mergeHome b x mask hdr w restore) := by
  unfold State.mergeHome
  extract_lets t0 a blk whole put place
  have h0 : Later s t0 := h.tagRead
  have hput : ∀ {u : State} {hd}, Later s u → Later s (put u hd) := fun hu => hu.clearErr.setBytes.setBlock.fire
  have hplace : ∀ {u : State}, Later s u → Later s (place u) := fun hu => .ite hu.useL2 hu.debit
  split
  · exact .ite (hput (hplace h0.touched)) h0.touched
  · split
    · exact hput (hplace h0)
    · dsimp only
      split
      · exact h0.debit.setHall.raiseEvent
      · exact hput (Later.ite h0.debit.corrected h0.debit).setBytes

theorem Later.hwrNow {b x mask hdr w restore} (h : Later s t) : Later s (t.hwrNow b x mask hdr w restore) := h.clearFor.mergeHome

theorem Later.recount {d ctx keys} (h : Later s t) : Later s (t.recount d ctx keys) := h.foldl fun _ _ hu => hu.hwrNow

end Sys2Proof.Machine
end

section
/-! SUPPORT. What the kill of a context's work, and the record of a pre-emption, leave behind (R358, R363, R368). -/

namespace Sys2Proof.Machine

variable {s t u : State}

/-! ### Changes beside memory, workgroups and the move's wait -/

/-- A later state with the same bytes in HBM, the same workgroups and the same wait. -/
def Aside (s t : State) : Prop := SameStore s t ∧ Later s t

theorem Aside.refl (s : State) : Aside s s := ⟨.refl s, .refl s⟩

theorem Aside.trans (h1 : Aside s t) (h2 : Aside t u) : Aside s u := ⟨h1.1.trans h2.1, h1.2.trans h2.2⟩

theorem Aside.ite {c : Prop} [Decidable c] (ht : Aside s t) (hu : Aside s u) : Aside s (if c then t else u) := ⟨.ite ht.1 hu.1, .ite ht.2 hu.2⟩

theorem Aside.frame (h : Aside s t) (e : (u.hbm, u.wgs, u.hold, u.dies) = (t.hbm, t.wgs, t.hold, t.dies) := by rfl) : Aside s u := by
  obtain ⟨hm, hw, hh, hd⟩ : u.hbm = t.hbm ∧ u.wgs = t.wgs ∧ u.hold = t.hold ∧ u.dies = t.dies := by simpa using e
  exact ⟨h.1.trans ⟨hm, hw, hh⟩, h.2.frame (by rw [hw, hd])⟩

theorem Aside.foldl {α : Type} {f : State → α → State} {l : List α} (h : Aside s t) (hf : ∀ u x, Aside s u → Aside s (f u x)) :
    Aside s (l.foldl f t) := by
  induction l generalizing t with
  | nil => exact h
  | cons x l ih => exact ih (hf t x h)

theorem Aside.sameSeqs (h : Aside s t) (hd : u.dies.map (fun e => (e.1, e.2.evSeq)) = t.dies.map (fun e => (e.1, e.2.evSeq)))
    (e : (u.hbm, u.wgs, u.hold) = (t.hbm, t.wgs, t.hold) := by rfl) : Aside s u := by
  obtain ⟨hm, hw, hh⟩ : u.hbm = t.hbm ∧ u.wgs = t.wgs ∧ u.hold = t.hold := by simpa using e
  exact ⟨h.1.trans ⟨hm, hw, hh⟩, h.2.sameSeqs hw hd⟩

theorem Aside.raiseEvent {d q die named ty pay} (h : Aside s t) : Aside s (t.raiseEvent d q die named ty pay) := by
  refine ⟨h.1.trans ?_, h.2.raiseEvent⟩
  obtain ⟨devs, host, evqs, e, -⟩ := raiseEvent_eq t d q die named ty pay
  rw [e]
  exact ⟨rfl, rfl, rfl⟩

theorem Aside.setPg {g st} (h : Aside s t) : Aside s (t.setPg g st) := h.frame
theorem Aside.settlePre {d} (h : Aside s t) : Aside s (t.settlePre d) := Aside.foldl h.frame fun _ _ hu => hu.raiseEvent
theorem Aside.repoint {d} (h : Aside s t) : Aside s (t.repoint d) := h.frame
theorem Aside.dropTickets {d e} (h : Aside s t) : Aside s (t.dropTickets d e) := h.sameSeqs (by rw [State.dropTickets, List.map_map]; rfl)
theorem Aside.dropLaunch {d e} (h : Aside s t) : Aside s (t.dropLaunch d e) := h.dropTickets.frame.repoint

theorem Aside.endLaunch {d e} (h : Aside s t) : Aside s (t.endLaunch d e) := by
  unfold State.endLaunch
  split
  exacts [.ite h.dropLaunch h, h]

/-! ### Kill -/

/-- Images that are freed change the clusters' use of their swap ways; nothing else. -/
theorem foldl_freeImage_eq (l : List Wg) (t : State) : ∃ cs, l.foldl (fun (t : State) g => t.freeImage g) t = { t with clusters := cs } := by
  refine List.foldlRecOn (motive := fun v : State => ∃ cs, v = { t with clusters := cs }) l _ ⟨t.clusters, rfl⟩ fun v hv x _ => ?_
  obtain ⟨cs, rfl⟩ := hv
  unfold State.freeImage
  split
  · split
    exacts [⟨_, rfl⟩, ⟨_, rfl⟩]
  · exact ⟨_, rfl⟩

/-- A workgroup that a kill of a context's work on some clusters reaches. -/
def Wg.killedBy (g : Wg) (d ctx : Nat) (all : Bool) (on : Nat → Bool) : Bool := g.id.dev = d && g.ctx = ctx && (all || on (clusterOfCore g.core))

/-- The state without the workgroups that a kill reaches. -/
def State.spared (s : State) (d ctx : Nat) (all : Bool) (on : Nat → Bool) : State :=
  { s with wgs := s.wgs.filter (fun g => !g.killedBy d ctx all on) }

/-- With no channel operation under way, no channel descriptor is counted again. -/
theorem countedDescs_none (h : Claims.NoChannelWork s) (d ctx : Nat) (sel : WarpId → Bool) : s.countedDescs d ctx sel = [] := by
  obtain ⟨hc, hd⟩ := h
  have hf : s.dies.flatMap (fun (e : Nat × Die) => (e.2.ovf.filter (fun o => o.dev = d && o.ctx = ctx)).map (·.desc)) = [] := by
    rw [List.flatMap_eq_nil_iff]
    intro e he
    simp [hd e he]
  simp only [State.countedDescs, hc, hf]
  rfl

/-- A kill takes the workgroups that it reaches and raises its event; it writes HBM only where a channel's counts change. -/
theorem kill_leaves (s : State) (d ctx : Nat) (all : Bool) (on : Nat → Bool) (cause : Nat) :
    Later (s.spared d ctx all on) (s.kill d ctx all on cause) ∧ (s.die (4 * d)).evSeq < ((s.kill d ctx all on cause).die (4 * d)).evSeq ∧
    (Claims.NoChannelWork s → SameStore (s.spared d ctx all on) (s.kill d ctx all on cause)) := by
  unfold State.kill
  extract_lets hit dead s1 entries unplaced stuck ends s2 s2' s3 s4 s4' s5 s6
  have h2 : Aside (s.spared d ctx all on) s2 := (Aside.refl (s.spared d ctx all on)).sameSeqs (List.map_map ..)
  obtain ⟨cs, hcs⟩ : ∃ cs, s2' = { s2 with clusters := cs } := foldl_freeImage_eq ..
  have h3 : Aside (s.spared d ctx all on) s3 := h2.frame (by simp only [s3, hcs]; rfl)
  have h4 : Aside (s.spared d ctx all on) s4 := .ite (h3.sameSeqs (List.map_map ..)) h3
  have h4' : Later (s.spared d ctx all on) s4' := h4.2.recount
  have h5 : Aside s4' s5 := ((Aside.refl s4').foldl fun _ _ hu => hu.dropTickets).foldl (fun _ _ hu => hu.endLaunch) |>.repoint
  have h6 : Aside s6 _ := ((Aside.refl s6).foldl (l := dead) fun _ g hu => hu.setPg (g := { dev := d, launch := g.id.launch, cg := g.cg }) (st := .killed))
    |>.settlePre (d := d)
  refine ⟨h4'.trans (h5.2.raiseEvent.trans h6.2), ?_, fun hn => ?_⟩
  · have hs := (h4'.trans h5.2).2 (4 * d)
    have he : (s6.die (4 * d)).evSeq = (s5.die (4 * d)).evSeq + 1 := raiseEvent_die s5 d ctx 0 0 0x0A [cause]
    have hf := h6.2.2 (4 * d)
    exact lt_of_le_of_lt hs (lt_of_lt_of_le (he ▸ Nat.lt_succ_self _) hf)
  · have hr : s4' = s4 := by simp only [s4', countedDescs_none hn]; rfl
    exact h4.1.trans (hr ▸ h5.raiseEvent.1.trans h6.1)

end Sys2Proof.Machine
end

section
/-! O52, first part. The deadlines of a pre-emption, the errors that kill, and the start of a save (R166, R358, R359, R385). -/

namespace Sys2Proof.Machine

variable {s t : State} {g : CgId} {h : Wg}

/-! ### The workgroups of a cluster group -/

theorem mem_cgWgs : h ∈ s.cgWgs g ↔ h ∈ s.wgs ∧ h.id.dev = g.dev ∧ h.id.launch = g.launch ∧ h.cg = g.cg := by
  simp [State.cgWgs, and_assoc]

/-- A workgroup of a cluster group after a change of the whole group. -/
theorem wg_setCg_mem {f : Wg → Wg} (hf : ∀ x, (f x).id = x.id) {i : WgId} (hi : s.wg i = some h) (hm : h ∈ s.cgWgs g) :
    (s.setCg g f).wg i = some (f h) := wg_setCg s hf hi (mem_cgWgs.mp hm).2

theorem cgWgs_setCg {f : Wg → Wg} (hid : ∀ x, (f x).id = x.id) (hcg : ∀ x, (f x).cg = x.cg) : (s.setCg g f).cgWgs g = (s.cgWgs g).map f := by
  simp only [State.cgWgs, State.setCg, List.filter_map]
  have hp : ((fun h : Wg => decide (h.id.dev = g.dev) && decide (h.id.launch = g.launch) && decide (h.cg = g.cg)) ∘
      fun h => if h.id.dev = g.dev && h.id.launch = g.launch && h.cg = g.cg then f h else h) =
      fun h => decide (h.id.dev = g.dev) && decide (h.id.launch = g.launch) && decide (h.cg = g.cg) := by
    funext x
    simp only [Function.comp_apply]
    split <;> simp [hid, hcg]
  rw [hp]
  exact List.map_congr_left fun x hx => if_pos (List.mem_filter.mp hx).2

/-! ### Deadlines -/

/-- DRAIN_DEADLINE: an overdue drain stops its group. -/
theorem drainDeadline_stops (hd : s.overdue g (· == .draining) (·.drainNs) ≠ []) : ∃ t, exec (.drainDeadline g) s = .next t ∧ t.hbm = s.hbm ∧
    ∀ i h, s.wg i = some h → h ∈ s.cgWgs g → (h.st = .running ∨ h.st = .draining) →
      ∃ h', t.wg i = some h' ∧ h'.st = .stopping ∧ h'.spad = h.spad ∧ h'.acc = h.acc := by
  have hne : (s.overdue g (· == .draining) (·.drainNs)).isEmpty = false := by simpa using hd
  refine ⟨s.stopCg g, by rw [dispatch_drainDeadline, execDrainDeadline, hne]; rfl, rfl, fun i h hi hm hst => ?_⟩
  have hc : (h.st == .running || h.st == .draining) = true := by simpa using hst
  refine ⟨_, wg_setCg_mem (fun x => by split <;> rfl) hi hm, ?_⟩
  simp only [hc, if_true, and_self]

/-- A kill leaves none of the workgroups that it reaches. -/
theorem kill_none {d ctx : Nat} {all : Bool} {on : Nat → Bool} {cause : Nat} {x : Wg} (hx : x ∈ (s.kill d ctx all on cause).wgs) :
    x.killedBy d ctx all on = false := by
  rw [(kill_leaves s d ctx all on cause).1.1] at hx
  simpa using (List.mem_filter.mp hx).2

/-- SWAP_DEADLINE: an overdue swap kills the context on the clusters of its pre-emption. -/
theorem swapDeadline_kills {p : Preempt} {rest : List Preempt} (ho : s.overdue g (fun st => st == .stopping || st == .saving) (·.swapNs) = p :: rest) :
    ∃ t, exec (.swapDeadline g) s = .next t ∧ (Claims.NoChannelWork s → t.hbm = s.hbm) ∧
      (∀ h ∈ t.wgs, h.id.dev = g.dev → h.ctx = p.ctx → clusterOfCore h.core ∉ p.clusters) ∧ (s.die (4 * g.dev)).evSeq < (t.die (4 * g.dev)).evSeq := by
  obtain ⟨-, hev, hkeep⟩ := kill_leaves s g.dev p.ctx false (fun k => p.clusters.contains k) 3
  refine ⟨_, by rw [dispatch_swapDeadline, execSwapDeadline, ho], fun hn => (hkeep hn).1, fun h hh hd hc => ?_, hev⟩
  simpa [Wg.killedBy, hd, hc] using kill_none hh

/-! ### Errors of an image (R385) -/

/-- The kill of a context's work on every cluster, in a move that waits for nothing. -/
theorem orWait_kill (hs : s.stall = false) (hn : Claims.NoChannelWork s) (d ctx cause : Nat) :
    s.orWait (s.kill d ctx true (fun _ => true) cause) = s.kill d ctx true (fun _ => true) cause ∧
    ∀ x ∈ (s.kill d ctx true (fun _ => true) cause).wgs, x.id.dev = d → x.ctx ≠ ctx := by
  obtain ⟨-, -, hkeep⟩ := kill_leaves s d ctx true (fun _ => true) cause
  exact ⟨orWait_of_hold (hkeep hn).2.2 hs, fun x hx hd => by simpa [Wg.killedBy, hd] using kill_none hx⟩

theorem saveComplete_bad (hf : (s.cgWgs g).find? (fun h => h.st == .saving) = some h) (hs : s.stall = false) (hn : Claims.NoChannelWork s) :
    ∃ t, exec (.saveComplete g true) s = .next t ∧ ∀ x ∈ t.wgs, x.id.dev = g.dev → x.ctx ≠ h.ctx := by
  obtain ⟨hw, hx⟩ := orWait_kill hs hn g.dev h.ctx 5
  refine ⟨_, ?_, hx⟩
  rw [dispatch_saveComplete, execSaveComplete]
  simp only [hf, if_true, hw]

theorem restoreComplete_bad (hf : (s.cgWgs g).find? (fun h => h.st == .restoring) = some h) {bad : Bool}
    (hb : bad = true ∨ ∃ x ∈ s.cgWgs g, ∃ i, x.img = some i ∧ i.bad = true) (hs : s.stall = false) (hn : Claims.NoChannelWork s) :
    ∃ t, exec (.restoreComplete g bad) s = .next t ∧ ∀ x ∈ t.wgs, x.id.dev = g.dev → x.ctx ≠ h.ctx := by
  obtain ⟨hw, hx⟩ := orWait_kill hs hn g.dev h.ctx 5
  have hbad : (bad || (s.cgWgs g).any (fun x => x.img.any (·.bad))) = true := by
    rcases hb with rfl | ⟨x, hx, i, hi, hib⟩
    · rfl
    · exact Bool.or_eq_true_iff.mpr (.inr (List.any_eq_true.mpr ⟨x, hx, by simp [hi, hib]⟩))
  refine ⟨_, ?_, hx⟩
  rw [dispatch_restoreComplete, execRestoreComplete]
  simp only [hf, hbad, if_true, hw]

/-! ### The start of a save -/

/-- A matrix entry as it stands in an image: it does not run; one that ran goes on later. -/
def MEntry.parked (e : MEntry) : MEntry := { e with running := false, resumed := e.running || e.resumed }

/-- A workgroup that has taken its entries from its core's queue, with its sequencer state word. -/
def Wg.withQueue (x : Wg) (mine : List MEntry) : Wg :=
  { x with mq := mine.map MEntry.parked, seqw := BitVec.ofNat 64 { x with mq := mine }.sequencerWord }

/-- The entries of one workgroup leave their core's queue. -/
def State.unqueueOne (s : State) (h : Wg) : State :=
  (s.modCore h.core (fun c => { c with mq := c.mq.filter (fun e => e.w.wg != h.id) })).modWg h.id
    (fun x => x.withQueue ((s.coreAt h.core).mq.filter (fun e => e.w.wg = h.id)))

theorem unqueue_eq (s : State) (g : CgId) : s.unqueue g = (s.cgWgs g).foldl State.unqueueOne s := rfl

/-- What one workgroup's entries leave of every core's queue. -/
theorem unqueueOne_mq (s : State) (h : Wg) (k : Nat) : ((s.unqueueOne h).coreAt k).mq =
    if k = h.core then (s.coreAt k).mq.filter (fun e => e.w.wg != h.id) else (s.coreAt k).mq := by
  simp only [State.unqueueOne, coreAt_modWg]
  split
  case isTrue hk => subst hk; rw [coreAt_modCore]
  case isFalse hk => rw [coreAt_modCore_other _ _ hk]

theorem unqueueOne_mq_sub (s : State) (h : Wg) (k : Nat) : ((s.unqueueOne h).coreAt k).mq ⊆ (s.coreAt k).mq := by
  rw [unqueueOne_mq]
  split
  exacts [List.filter_subset_self _, List.Subset.refl _]

theorem unqueueAll_mq_sub (l : List Wg) (s : State) (k : Nat) : ((l.foldl State.unqueueOne s).coreAt k).mq ⊆ (s.coreAt k).mq := by
  induction l generalizing s with
  | nil => exact List.Subset.refl _
  | cons h l ih => exact List.Subset.trans (ih _) (unqueueOne_mq_sub s h k)

/-- No entry of a workgroup that has left stays in its core's queue. -/
theorem unqueueAll_none (l : List Wg) (s : State) : ∀ h ∈ l, ∀ e ∈ ((l.foldl State.unqueueOne s).coreAt h.core).mq, e.w.wg ≠ h.id := by
  induction l generalizing s with
  | nil => simp
  | cons a l ih =>
    intro h hh e he
    rcases List.mem_cons.mp hh with rfl | hl
    · have hin := unqueueAll_mq_sub l _ _ he
      rw [unqueueOne_mq, if_pos rfl] at hin
      simpa using (List.mem_filter.mp hin).2
    · exact ih _ h hl e he

/-- What the entries' leaving keeps of memory and of every workgroup. -/
theorem unqueueAll_keeps {α : Type} {p : Wg → α} (hp : ∀ x l, p (x.withQueue l) = p x) (l : List Wg) (s : State) :
    (l.foldl State.unqueueOne s).hbm = s.hbm ∧ ∀ i, ((l.foldl State.unqueueOne s).wg i).map p = (s.wg i).map p := by
  induction l generalizing s with
  | nil => exact ⟨rfl, fun _ => rfl⟩
  | cons h l ih =>
    obtain ⟨hm, hw⟩ := ih (s.unqueueOne h)
    exact ⟨hm, fun i => (hw i).trans (map_wg_modWg _ (f := fun x => x.withQueue _) (fun _ => rfl) (fun x => hp x _) _ _)⟩

/-- A workgroup whose image begins to be written. -/
def Wg.toSave (h : Wg) (now : Nat) : Wg :=
  { h with st := .saving, warps := h.warps.map (fun x => if x.done then x else (x.writeBack now).freeze now) }

/-- The state in which the image of a cluster group begins to be written. -/
def State.frozen (s : State) (g : CgId) : State := s.setCg g (fun h => h.toSave (s.cycle g.dev))

theorem cgWgs_frozen (s : State) (g : CgId) : (s.frozen g).cgWgs g = (s.cgWgs g).map (fun h => h.toSave (s.cycle g.dev)) :=
  cgWgs_setCg (fun _ => rfl) (fun _ => rfl)

theorem wg_frozen {i : WgId} (hi : s.wg i = some h) (hm : h ∈ s.cgWgs g) : (s.frozen g).wg i = some (h.toSave (s.cycle g.dev)) :=
  wg_setCg_mem (f := fun h => h.toSave (s.cycle g.dev)) (fun _ => rfl) hi hm

theorem seqw_withQueue (x : Wg) (mine : List MEntry) : (x.withQueue mine).seqw.toNat =
    (match mine with
      | [] => 0
      | e :: rest => if e.running then e.next % 65536 + 65536 + rest.length % 32 * 2 ^ 17 else (rest.length + 1) % 32 * 2 ^ 17) := by
  cases mine with
  | nil => rfl
  | cons e rest =>
    simp only [Wg.withQueue, Wg.sequencerWord, BitVec.toNat_ofNat, List.length_cons]
    split <;> exact Nat.mod_eq_of_lt (by omega)

/-- SAVE_START: the workgroups begin to save, and their matrix entries leave their queues with the sequencer state word. -/
theorem saveStart_saves (ha : (s.cgWgs g).any (fun h => h.st != .retired) = true)
    (hl : ∀ h ∈ s.cgWgs g, h.st = .retired ∨ (h.st = .stopping ∧ ∀ x ∈ h.warps, s.mayLeave h x (s.cycle g.dev) = true)) :
    ∃ t, exec (.saveStart g) s = .next t ∧ t.hbm = s.hbm ∧ (∀ h ∈ s.cgWgs g, ∀ e ∈ (t.coreAt h.core).mq, e.w.wg ≠ h.id) ∧
      (∀ i h, s.wg i = some h → h ∈ s.cgWgs g → ∃ h', t.wg i = some h' ∧ h'.st = .saving ∧ h'.spad = h.spad ∧ h'.acc = h.acc ∧ h'.maps = h.maps) ∧
      ∀ h, s.cgWgs g = [h] → s.wg h.id = some h → let mine := (s.coreAt h.core).mq.filter (fun e => e.w.wg = h.id)
        ∃ h', t.wg h.id = some h' ∧ h'.mq = mine.map (fun e => { e with running := false, resumed := e.running || e.resumed }) ∧
          h'.seqw.toNat = (match mine with
            | [] => 0
            | e :: rest => if e.running then e.next % 65536 + 65536 + rest.length % 32 * 2 ^ 17 else (rest.length + 1) % 32 * 2 ^ 17) := by
  have hgo : (((s.cgWgs g).filter (fun h => h.st != .retired)).isEmpty ||
      !((s.cgWgs g).filter (fun h => h.st != .retired)).all (fun h => h.st == .stopping && h.warps.all (fun x => s.mayLeave h x (s.cycle g.dev)))) = false := by
    rw [Bool.or_eq_false_iff, Bool.not_eq_false']
    constructor
    · obtain ⟨h, hh, hr⟩ := List.any_eq_true.mp ha
      exact List.isEmpty_eq_false_iff_exists_mem.mpr ⟨h, List.mem_filter.mpr ⟨hh, hr⟩⟩
    · refine List.all_eq_true.mpr fun h hh => ?_
      obtain ⟨hm, hr⟩ := List.mem_filter.mp hh
      obtain ⟨hst, hx⟩ := (hl h hm).resolve_left (by simpa using hr)
      simpa [hst] using hx
  obtain ⟨hm, hw⟩ := unqueueAll_keeps (p := fun x => (x.st, x.spad, x.acc, x.maps)) (fun _ _ => rfl) ((s.frozen g).cgWgs g) (s.frozen g)
  refine ⟨((s.frozen g).unqueue g).modDev g.dev _, by rw [dispatch_saveStart, execSaveStart]; simp only [hgo, Bool.false_eq_true, if_false]; rfl, hm, ?_, ?_, ?_⟩
  · intro h hh
    have hmem : h.toSave (s.cycle g.dev) ∈ (s.frozen g).cgWgs g := cgWgs_frozen s g ▸ List.mem_map_of_mem hh
    exact unqueueAll_none _ (s.frozen g) (h.toSave (s.cycle g.dev)) hmem
  · intro i h hi hh
    have hi' := hw i
    rw [wg_frozen hi hh, Option.map_some, Option.map_eq_some_iff] at hi'
    obtain ⟨h', ht, he⟩ := hi'
    obtain ⟨h1, h2, h3, h4⟩ : h'.st = .saving ∧ h'.spad = h.spad ∧ h'.acc = h.acc ∧ h'.maps = h.maps := by simpa [Wg.toSave] using he
    exact ⟨h', ht, h1, h2, h3, h4⟩
  · intro h hone hi mine
    refine ⟨(h.toSave (s.cycle g.dev)).withQueue mine, ?_, rfl, seqw_withQueue _ _⟩
    have hu : (s.frozen g).unqueue g = (s.frozen g).unqueueOne (h.toSave (s.cycle g.dev)) := by rw [unqueue_eq, cgWgs_frozen, hone]; rfl
    rw [hu]
    exact wg_modWg_same (f := fun x => x.withQueue mine) (fun _ => rfl) (wg_frozen hi (by simp [hone]))

end Sys2Proof.Machine
end

section
/-! O52, second part. The end of a save (R352, R360, R361). -/

namespace Sys2Proof.Machine

variable {s t v : State} {g : CgId} {h : Wg}

/-! ### A flush of cores with nothing to write -/

theorem startWbs_none {core : Nat} (hd : s.dirtyBlocks core = []) (sel : Nat → Bool) : s.startWbs core sel = s := by
  rw [State.startWbs, hd]
  rfl

/-- A state with no write-back under way and no replica, and as many dirty blocks as before. -/
def Flushed (s t : State) : Prop := SameStore s t ∧ t.wbs = [] ∧ t.replicas = [] ∧ ∀ core, t.dirtyBlocks core = s.dirtyBlocks core

/-- The epochs of a core change none of its blocks. -/
theorem dirtyBlocks_settleEpochs (s : State) (core k : Nat) : (s.settleEpochs core).dirtyBlocks k = s.dirtyBlocks k := by
  by_cases hk : k = core
  · subst hk
    simp only [State.dirtyBlocks, State.settleEpochs, coreAt_modCore]
  · simp only [State.dirtyBlocks, State.settleEpochs, coreAt_modCore_other _ _ hk]

/-- A core with no dirty block, and no write-back of it under way, has nothing to write. -/
theorem flushNow_clean {core : Nat} (hw : s.wbs = []) (hr : s.replicas = []) (hd : s.dirtyBlocks core = []) :
    s.flushNow core = ({ s with txns := s.txns.filter (fun _ => true) }).settleEpochs core := by
  simp only [State.flushNow, startWbs_none hd, hw, State.dirtyReps, hr, List.filter_nil, List.any_nil, List.foldl_nil, List.map_nil,
    Bool.false_eq_true, if_false, Bool.not_false]

theorem Flushed.flushNow {core : Nat} (f : Flushed s t) (hd : s.dirtyBlocks core = []) : Flushed s (t.flushNow core) := by
  obtain ⟨hs, hw, hr, hb⟩ := f
  rw [flushNow_clean hw hr (hb core ▸ hd)]
  exact ⟨hs.trans ⟨rfl, rfl, rfl⟩, hw, hr, fun k => (dirtyBlocks_settleEpochs _ core k).trans (hb k)⟩

/-- Where the cores of a group have nothing to write, their flush changes no byte and no workgroup. -/
theorem flushAll_clean (gs : List Wg) (hw : s.wbs = []) (hr : s.replicas = []) (hd : ∀ x ∈ gs, s.dirtyBlocks x.core = []) :
    Flushed s (gs.foldl (fun (t : State) x => t.flushNow x.core) s) :=
  List.foldlRecOn (motive := Flushed s) gs _ ⟨.refl s, hw, hr, fun _ => rfl⟩ fun _ hf x hx => hf.flushNow (hd x hx)

/-! ### The group is swapped -/

/-- The end of a pre-emption changes the records of devices and dies, and host memory, by its event; nothing else. -/
theorem settlePre_eq (s : State) (d : Nat) : ∃ devs dies host, s.settlePre d = { s with devs := devs, dies := dies, host := host } := by
  unfold State.settlePre
  refine List.foldlRecOn (motive := fun v : State => ∃ devs dies host, v = { s with devs := devs, dies := dies, host := host }) _ _
    ⟨_, _, s.host, rfl⟩ fun v hv p _ => ?_
  obtain ⟨devs, dies, host, rfl⟩ := hv
  obtain ⟨devs', host', evqs, he, -⟩ := raiseEvent_eq { s with devs := devs, dies := dies, host := host } d p.ctx 0 0 0x09 [p.mode, p.outcome, p.groups.length]
  exact ⟨_, _, _, he⟩

theorem freeAll_eq (gs : List Wg) (s : State) : ∃ cores, gs.foldl (fun (t : State) x => t.freeSlots x (fun w => w.wg = x.id)) s = { s with cores := cores } :=
  foldl_cores s (fun _ _ => ⟨_, rfl⟩) gs

theorem orWait_of_go (ht : t.stall = false) : s.orWait t = t := by simp [State.orWait, ht]

/-- A workgroup whose image of a slice or of the HBM swap area has been written. -/
def Wg.toImage (x : Wg) (k : Nat) (area : Bool) : Wg :=
  { x with st := .swapped, img := some { slice := k, bytes := x.imageBytes, area := area }, redir := some x.core, warps := x.warps.map Warp.saved }

/-- The state once a group is swapped, from the one in which its image stands. -/
def State.swapOut (v : State) (g : CgId) (gs : List Wg) (k ctx n : Nat) (fits : Bool) : State :=
  let s2 := gs.foldl (fun (t : State) x => t.freeSlots x (fun w => w.wg = x.id)) v
  let s3 := if fits then s2.modCluster k (fun c => { c with swapUse := tabSet c.swapUse ctx (tabGetD c.swapUse ctx 0 + n) }) else s2
  ((s3.setCg g (fun x => x.toImage k (!fits))).setPg g .swapped).settlePre g.dev

/-- What a swapped group leaves: memory, and the room that its image takes. -/
theorem swapOut_leaves (v : State) (g : CgId) (gs : List Wg) (k ctx n : Nat) (fits : Bool) :
    (v.swapOut g gs k ctx n fits).hbm = v.hbm ∧ (v.swapOut g gs k ctx n fits).stall = v.stall ∧
    (v.swapOut g gs k ctx n fits).wgs = (v.setCg g (fun x => x.toImage k (!fits))).wgs ∧
    tabGetD ((v.swapOut g gs k ctx n fits).cluster k).swapUse ctx 0 = tabGetD (v.cluster k).swapUse ctx 0 + (if fits then n else 0) := by
  unfold State.swapOut
  extract_lets s2 s3
  obtain ⟨cores, hs2⟩ : ∃ cores, s2 = { v with cores := cores } := freeAll_eq gs v
  obtain ⟨devs, dies, host, he⟩ := settlePre_eq ((s3.setCg g (fun x => x.toImage k (!fits))).setPg g .swapped) g.dev
  rw [he]
  cases fits with
  | false =>
    simp only [s3, hs2, Bool.false_eq_true, if_false]
    exact ⟨rfl, rfl, rfl, rfl⟩
  | true =>
    simp only [s3, hs2, if_true]
    refine ⟨rfl, rfl, rfl, ?_⟩
    have hc := cluster_modCluster { v with cores := cores } k (fun c => { c with swapUse := tabSet c.swapUse ctx (tabGetD c.swapUse ctx 0 + n) })
    refine (congrArg (fun c : Cluster => tabGetD c.swapUse ctx 0) hc).trans ?_
    exact tabGetD_set_same ..

/-- SAVE_COMPLETE of an image that was written. -/
theorem saveComplete_exec (hf : (s.cgWgs g).find? (fun h => h.st == .saving) = some h) {n : Nat} {fits : Bool} {u : State}
    (hn : n = (s.cgWgs g).foldl (fun n x => n + x.imageBytes) 0) (hfit : fits = s.swapFits (clusterOfCore h.core) h.ctx n)
    (hu : u = (s.cgWgs g).foldl (fun (t : State) x => t.flushNow x.core) s) (hv : v = if fits then u else u.spill (clusterOfCore h.core) h.ctx n)
    (hgo : v.stall = false) (hne : v.cgWgs g ≠ []) :
    exec (.saveComplete g false) s = .next (v.swapOut g (s.cgWgs g) (clusterOfCore h.core) h.ctx n fits) := by
  subst hn hfit hu hv
  have he := (List.isEmpty_eq_false_iff).mpr hne
  rw [dispatch_saveComplete, execSaveComplete]
  simp only [hf, Bool.false_eq_true, if_false, he]
  exact congrArg _ (orWait_of_go ((swapOut_leaves _ _ _ _ _ _ _).2.1.trans hgo))

theorem saved_eq (y : Warp) : y.saved =
    if y.done = false ∧ y.park.any (fun p => match p with | .cnt .. => true | _ => false) = true then { y with pc := y.pc - 1, behind := true } else y := by
  simp only [Warp.saved, Bool.and_eq_true, Bool.not_eq_true'] <;> rfl

/-- SAVE_COMPLETE: the group is swapped, with its image in the swap ways or in the HBM swap area. -/
theorem saveComplete_swaps (hf : (s.cgWgs g).find? (fun h => h.st == .saving) = some h) {n : Nat} {fits : Bool} {u : State}
    (hn : n = (s.cgWgs g).foldl (fun n x => n + x.imageBytes) 0) (hfit : fits = s.swapFits (clusterOfCore h.core) h.ctx n)
    (hu : u = (s.cgWgs g).foldl (fun (t : State) x => t.flushNow x.core) s) (hv : v = if fits then u else u.spill (clusterOfCore h.core) h.ctx n)
    (hgo : v.stall = false) (hne : v.cgWgs g ≠ []) : ∃ t, exec (.saveComplete g false) s = .next t ∧ t.hbm = v.hbm ∧
      tabGetD (t.cluster (clusterOfCore h.core)).swapUse h.ctx 0 = tabGetD (v.cluster (clusterOfCore h.core)).swapUse h.ctx 0 + (if fits then n else 0) ∧
      ∀ i x, v.wg i = some x → x ∈ v.cgWgs g → t.wg i = some { x with
        st := .swapped, img := some { slice := clusterOfCore h.core, bytes := x.imageBytes, area := !fits }, redir := some x.core,
        warps := x.warps.map (fun y => if y.done = false ∧ y.park.any (fun p => match p with | .cnt .. => true | _ => false) = true then { y with pc := y.pc - 1, behind := true } else y) } := by
  obtain ⟨hm, -, hwgs, huse⟩ := swapOut_leaves v g (s.cgWgs g) (clusterOfCore h.core) h.ctx n fits
  refine ⟨_, saveComplete_exec hf hn hfit hu hv hgo hne, hm, huse, fun i x hi hx => ?_⟩
  have hw := wg_setCg_mem (f := fun x => x.toImage (clusterOfCore h.core) (!fits)) (fun _ => rfl) hi hx
  simp only [State.wg, hwgs] at hw ⊢
  rw [hw, Wg.toImage, List.map_congr_left (fun y _ => saved_eq y)]

end Sys2Proof.Machine
end

section
/-! O52, third part. The restore of a group (R166, R352, R362). -/

namespace Sys2Proof.Machine

variable {s t v : State} {g : CgId} {h x : Wg}

/-! ### A workgroup after restore -/

/-- No trap waits on a warp of a workgroup. -/
def Wg.untrapped (x : Wg) : Prop := ∀ y ∈ x.warps, y.dq = [] ∧ y.ptrap = none

/-- What a restore keeps of a warp, or sets right: its registers, its PC and its waiting traps. -/
def Warp.restoredTo (y z : Warp) : Prop :=
  z.v = y.v ∧ z.pc = (if y.behind then y.pc + 1 else y.pc) ∧ z.dq = y.dq ∧ z.ptrap = y.ptrap

theorem restored_to (s : State) (x : Wg) (i now : Nat) (y : Warp) : y.restoredTo (s.restored x i now y) := by
  have hu : y.restoredTo y.unsaved := by
    unfold Warp.unsaved Warp.restoredTo
    split <;> exact ⟨rfl, rfl, rfl, rfl⟩
  unfold State.restored
  dsimp only
  split <;> exact hu

theorem forall₂_restored (s : State) (x : Wg) (now : Nat) :
    List.Forall₂ Warp.restoredTo x.warps (x.warps.zipIdx.map (fun yi => s.restored x yi.2 now yi.1)) := by
  rw [List.forall₂_map_right_iff]
  have hz : List.Forall₂ (fun y (yi : Warp × Nat) => y = yi.1) x.warps x.warps.zipIdx := by
    rw [← List.forall₂_map_right_iff (f := Prod.fst), List.zipIdx_map_fst]
    exact List.forall₂_refl _
  exact hz.imp fun y yi he => he ▸ restored_to s x yi.2 now yi.1

/-- Each element of the second of two lists stands beside one of the first. -/
theorem forall₂_partner {α β : Type} {R : α → β → Prop} {l : List α} {m : List β} (hr : List.Forall₂ R l m) {z : β} (hz : z ∈ m) : ∃ y ∈ l, R y z := by
  induction hr with
  | nil => simp at hz
  | cons hab _ ih =>
    rcases List.mem_cons.mp hz with rfl | hz
    · exact ⟨_, List.mem_cons_self, hab⟩
    · obtain ⟨y, hy, hyz⟩ := ih hz
      exact ⟨y, List.mem_cons_of_mem _ hy, hyz⟩

/-- Elements that stand beside each other read the same. -/
theorem map_eq_of_forall₂ {α β γ : Type} {f : α → γ} {k : β → γ} {l : List α} {m : List β} (hr : List.Forall₂ (fun a b => k b = f a) l m) : l.map f = m.map k := by
  rw [← List.forall₂_eq_eq_eq, List.forall₂_map_left_iff, List.forall₂_map_right_iff]
  exact hr.imp fun _ _ h => h.symm

/-- A restore gives no warp a trap. -/
theorem untrapped_restored {ws : List Warp} (hq : x.untrapped) (hw : List.Forall₂ Warp.restoredTo x.warps ws) : ∀ z ∈ ws, z.dq = [] ∧ z.ptrap = none := by
  intro z hz
  obtain ⟨y, hy, -, -, hdq, hpt⟩ := forall₂_partner hw hz
  exact ⟨hdq.trans (hq y hy).1, hpt.trans (hq y hy).2⟩

/-- A workgroup that runs again, with its warps, tile entries and panels as they are then. -/
def Wg.resumed (x : Wg) (ws : List Warp) (tiles : Tab Tile) (panels : Tab Panel) : Wg :=
  { x with st := if x.left = 0 then .retired else .running, mq := [], img := none, redir := none, warps := ws, tiles := tiles, panels := panels }

theorem restoredWg_id (s : State) (now : Nat) (x : Wg) : (s.restoredWg now x).id = x.id := by
  unfold State.restoredWg
  extract_lets pinned h1 h2
  split <;> rfl

/-- Where no trap waits, a restore puts the warps back as they stand in the image. -/
theorem restoredWg_eq (s : State) (now : Nat) (hq : x.untrapped) :
    ∃ ws tiles panels, s.restoredWg now x = x.resumed ws tiles panels ∧ List.Forall₂ Warp.restoredTo x.warps ws := by
  unfold State.restoredWg
  extract_lets pinned h1 h2
  have hw : List.Forall₂ Warp.restoredTo x.warps h2.warps := by
    simp only [h2, Wg.dropPanels, Wg.withTiles, List.forall₂_map_right_iff]
    exact forall₂_restored s x now
  have hnone : (h2.warps.any (fun y => !y.done && y.dq != [])) = false := by
    refine List.any_eq_false.mpr fun z hz => ?_
    simp [(untrapped_restored hq hw z hz).1]
  rw [hnone]
  exact ⟨h2.warps, h2.tiles, h2.panels, rfl, hw⟩

/-- Where no trap waits, none is entered. -/
theorem pump_untrapped {i : WgId} {x : Wg} (hi : s.wg i = some x) (hq : x.untrapped) : s.pump i = s := by
  unfold State.pump
  rw [hi]
  have hn : x.warps.zipIdx.find? (fun xi => !xi.1.done && (xi.1.dq != [] || xi.1.ptrap.isSome)) = none := by
    refine List.find?_eq_none.mpr fun yi hy => ?_
    obtain ⟨hdq, hpt⟩ := hq yi.1 (List.fst_mem_of_mem_zipIdx hy)
    simp [hdq, hpt]
  simp only [hn, ite_self]

/-! ### The group is loaded -/

/-- An image in the HBM swap area is read there. -/
def State.readArea (s : State) (ctx : Nat) (x : Wg) : State :=
  match x.img with
  | some i => if i.area then s.unspill i.slice ctx i.bytes else s
  | none => s

/-- A group whose images lie in the swap ways reads nothing of the HBM swap area. -/
theorem readArea_none {ctx : Nat} (gs : List Wg) (ha : ∀ x ∈ gs, ∀ i, x.img = some i → i.area = false) :
    gs.foldl (fun (t : State) x => t.readArea ctx x) s = s := by
  refine List.foldlRecOn (motive := (· = s)) gs _ rfl fun t ht x hx => ?_
  subst ht
  unfold State.readArea
  split
  case h_1 i hi => simp [ha x hx i hi]
  case h_2 => rfl

/-- The matrix entries of a group join the tail of their cores' queues, and the clean blocks that these cores hold are dropped. -/
def State.requeue (s : State) (gs : List Wg) : State :=
  gs.foldl (fun (t : State) x => (t.modCore x.core (fun c => { c with mq := c.mq ++ x.mq })).dropClean x.core (fun _ => true)) s

theorem requeue_eq (s : State) (gs : List Wg) : ∃ cores, s.requeue gs = { s with cores := cores } := foldl_cores s (fun _ _ => ⟨_, rfl⟩) gs

/-- The state in which a group's warps run again, before any takes a trap, from the one that holds its images. -/
def State.reload (v : State) (g : CgId) (gs : List Wg) (now : Nat) : State :=
  gs.foldl (fun (t : State) x => t.freeImage x) ((v.requeue gs).setCg g ((v.requeue gs).restoredWg now))

/-- What the loading of a group leaves beside its workgroups. -/
theorem reload_leaves (v : State) (g : CgId) (gs : List Wg) (now : Nat) :
    (v.reload g gs now).hbm = v.hbm ∧ (v.reload g gs now).stall = v.stall ∧
    (∀ i, (v.reload g gs now).wg i = ((v.requeue gs).setCg g ((v.requeue gs).restoredWg now)).wg i) ∧
    ∀ h i, gs = [h] → h.img = some i → i.area = false →
      tabGetD ((v.reload g gs now).cluster i.slice).swapUse h.ctx 0 = tabGetD (v.cluster i.slice).swapUse h.ctx 0 - i.bytes := by
  obtain ⟨cores, hc⟩ := requeue_eq v gs
  obtain ⟨cs, he⟩ := foldl_freeImage_eq gs ((v.requeue gs).setCg g ((v.requeue gs).restoredWg now))
  refine ⟨?_, ?_, ?_, ?_⟩
  · rw [State.reload, he, hc]; rfl
  · rw [State.reload, he, hc]; rfl
  · intro i; rw [State.reload, he]; rfl
  · rintro h i rfl hi ha
    rw [State.reload, hc]
    simp only [List.foldl_cons, List.foldl_nil, State.freeImage, hi, ha, Bool.false_eq_true, if_false]
    have hcl := cluster_modCluster ({ v with cores := cores }.setCg g ({ v with cores := cores }.restoredWg now)) i.slice
      (fun c => { c with swapUse := tabSet c.swapUse h.ctx (tabGetD c.swapUse h.ctx 0 - i.bytes) })
    refine (congrArg (fun c : Cluster => tabGetD c.swapUse h.ctx 0) hcl).trans ?_
    exact tabGetD_set_same ..

/-- A workgroup of the group once it is loaded. -/
theorem wg_reload {gs : List Wg} {now : Nat} {i : WgId} (hi : v.wg i = some x) (hx : x ∈ v.cgWgs g) (hq : x.untrapped) :
    ∃ ws tiles panels, (v.reload g gs now).wg i = some (x.resumed ws tiles panels) ∧ List.Forall₂ Warp.restoredTo x.warps ws := by
  obtain ⟨cores, hc⟩ := requeue_eq v gs
  obtain ⟨ws, tiles, panels, he, hw⟩ := restoredWg_eq (v.requeue gs) now hq
  refine ⟨ws, tiles, panels, ?_, hw⟩
  have hi' : (v.requeue gs).wg i = some x := by rw [hc]; exact hi
  have hx' : x ∈ (v.requeue gs).cgWgs g := by rw [hc]; exact hx
  rw [(reload_leaves v g gs now).2.2.1 i, wg_setCg_mem (restoredWg_id _ now) hi' hx', he]

/-- Where no trap waits, a loaded group enters none. -/
theorem pumpAll_untrapped {gs : List Wg} {now : Nat} (hl : ∀ x ∈ gs, v.wg x.id = some x ∧ x ∈ v.cgWgs g ∧ x.untrapped) :
    gs.foldl (fun (t : State) x => t.pump x.id) (v.reload g gs now) = v.reload g gs now := by
  refine List.foldlRecOn (motive := (· = v.reload g gs now)) gs _ rfl fun t ht x hx => ?_
  obtain ⟨hi, hm, hq⟩ := hl x hx
  obtain ⟨ws, tiles, panels, hw, hr⟩ := wg_reload (gs := gs) (now := now) hi hm hq
  rw [ht]
  exact pump_untrapped hw (untrapped_restored hq hr)

/-- RESTORE_COMPLETE of a sound image, with room in the queues and no trap waiting. -/
theorem restoreComplete_exec (hf : (s.cgWgs g).find? (fun h => h.st == .restoring) = some h)
    (hv : v = (s.cgWgs g).foldl (fun (t : State) x => t.readArea h.ctx x) s) (hw : v.wgs = s.wgs) (hgo : v.stall = false)
    (hbad : ∀ x ∈ s.cgWgs g, ∀ i, x.img = some i → i.bad = false) (hroom : ∀ x ∈ s.cgWgs g, (s.coreAt x.core).mq.length + x.mq.length ≤ 16)
    (hl : ∀ x ∈ s.cgWgs g, s.wg x.id = some x ∧ x.untrapped) :
    exec (.restoreComplete g false) s = .next (v.reload g (s.cgWgs g) (s.cycle g.dev)) := by
  have hcg : v.cgWgs g = s.cgWgs g := by rw [State.cgWgs, hw]; rfl
  have hwg : ∀ i, v.wg i = s.wg i := fun i => by rw [State.wg, hw]; rfl
  have hb : (s.cgWgs g).any (fun x => x.img.any (·.bad)) = false := by
    refine List.any_eq_false.mpr fun x hx => ?_
    cases hi : x.img with
    | none => simp
    | some i => simp [hbad x hx i hi]
  have hr : (s.cgWgs g).any (fun x => 16 < (s.coreAt x.core).mq.length + x.mq.length) = false := by
    refine List.any_eq_false.mpr fun x hx => ?_
    simpa using hroom x hx
  have hne : (v.cgWgs g).isEmpty = false := hcg ▸ List.isEmpty_eq_false_iff_exists_mem.mpr ⟨h, List.mem_of_find?_eq_some hf⟩
  have hp := pumpAll_untrapped (v := v) (g := g) (gs := s.cgWgs g) (now := s.cycle g.dev) fun x hx =>
    ⟨(hwg _).trans (hl x hx).1, hcg ▸ hx, (hl x hx).2⟩
  rw [dispatch_restoreComplete, execRestoreComplete]
  simp only [hf, hb, hr, Bool.or_self, Bool.false_eq_true, if_false]
  have hgo' := orWait_of_go (s := s) (t := v.reload g (s.cgWgs g) (s.cycle g.dev)) ((reload_leaves v g _ _).2.1.trans hgo)
  subst hv
  refine congrArg Host.Outcome.next (Eq.trans (congrArg s.orWait ?_) hgo')
  exact (if_neg (by rw [Bool.not_eq_true]; exact hne)).trans hp

/-- RESTORE_COMPLETE: the group runs again, with its storage as it was saved, and its image's room is free. -/
theorem restoreComplete_runs (hf : (s.cgWgs g).find? (fun h => h.st == .restoring) = some h)
    (hv : v = (s.cgWgs g).foldl (fun (t : State) x => t.readArea h.ctx x) s) (hw : v.wgs = s.wgs) (hgo : v.stall = false)
    (hbad : ∀ x ∈ s.cgWgs g, ∀ i, x.img = some i → i.bad = false) (hroom : ∀ x ∈ s.cgWgs g, (s.coreAt x.core).mq.length + x.mq.length ≤ 16)
    (hl : ∀ x ∈ s.cgWgs g, s.wg x.id = some x ∧ ∀ y ∈ x.warps, y.dq = [] ∧ y.ptrap = none) :
    ((∀ x ∈ s.cgWgs g, ∀ i, x.img = some i → i.area = false) → v = s) ∧
    ∃ t, exec (.restoreComplete g false) s = .next t ∧ t.hbm = v.hbm ∧
      (∀ i, s.cgWgs g = [h] → h.img = some i → i.area = false → tabGetD (t.cluster i.slice).swapUse h.ctx 0 = tabGetD (s.cluster i.slice).swapUse h.ctx 0 - i.bytes) ∧
      ∀ i x, s.wg i = some x → x ∈ s.cgWgs g → ∃ x', t.wg i = some x' ∧
        x'.st = (if x.left = 0 then .retired else .running) ∧ x'.mq = [] ∧ x'.img = none ∧ x'.redir = none ∧ x'.spad = x.spad ∧ x'.acc = x.acc ∧ x'.maps = x.maps ∧
        x'.warps.map (·.v) = x.warps.map (·.v) ∧ x'.warps.map (·.pc) = x.warps.map (fun y => if y.behind then y.pc + 1 else y.pc) := by
  have hnone : (∀ x ∈ s.cgWgs g, ∀ i, x.img = some i → i.area = false) → v = s := fun ha => hv.trans (readArea_none _ ha)
  obtain ⟨hm, -, -, huse⟩ := reload_leaves v g (s.cgWgs g) (s.cycle g.dev)
  refine ⟨hnone, _, restoreComplete_exec hf hv hw hgo hbad hroom hl, hm, fun i hone hi ha => ?_, fun i x hi hx => ?_⟩
  · have hvs : v = s := hnone fun x hx j hj => by
      rw [hone, List.mem_singleton] at hx
      subst hx
      rw [hi, Option.some.injEq] at hj
      exact hj ▸ ha
    rw [huse h i hone hi ha, hvs]
  · have hi' : v.wg i = some x := by rw [State.wg, hw]; exact hi
    have hx' : x ∈ v.cgWgs g := by rw [State.cgWgs, hw]; exact hx
    obtain ⟨ws, tiles, panels, he, hr⟩ := wg_reload (gs := s.cgWgs g) (now := s.cycle g.dev) hi' hx' (hl x hx).2
    refine ⟨_, he, rfl, rfl, rfl, rfl, rfl, rfl, rfl, ?_, ?_⟩
    · exact (map_eq_of_forall₂ (hr.imp fun y z hz => hz.1)).symm
    · exact (map_eq_of_forall₂ (hr.imp fun y z hz => hz.2.1)).symm

/-- Settles O52, by a lemma for each event of a pre-emption. -/
theorem preemption : Obligations.Preemption := by
  unfold Obligations.Preemption
  intro s g
  refine ⟨drainDeadline_stops, fun p rest => swapDeadline_kills, saveStart_saves, fun h hf => ⟨saveComplete_bad hf, ?_⟩,
    fun h hf => ⟨fun bad => restoreComplete_bad hf, ?_⟩⟩
  · intro n fits u v hn hfit hu hv
    refine ⟨fun hw hr hd => ?_, saveComplete_swaps hf hn hfit hu hv⟩
    obtain ⟨⟨hm, hwgs, hhold⟩, -, -, -⟩ := hu ▸ flushAll_clean (s.cgWgs g) hw hr hd
    exact ⟨hm, hwgs, by rw [State.stall, hhold, State.stall]⟩
  · exact fun v hv hw hgo hbad hroom hl => restoreComplete_runs hf hv hw hgo hbad hroom hl

end Sys2Proof.Machine
end
